-- ==== Sys2Proof/Word.lean ====
section
/-! DEFINITION. The word types of the Denuz (R2, R61) and the finite maps its sparse state is held in. -/

namespace Sys2Proof

abbrev Byte := BitVec 8
abbrev W16 := BitVec 16
abbrev W32 := BitVec 32
abbrev W64 := BitVec 64
/-- Lane masks: bit L stands for lane L (R37). -/
abbrev Mask := BitVec 64
/-- Program counters and virtual addresses (R37, R335). -/
abbrev Pc := BitVec 56

end Sys2Proof
end

