-- ==== Sys2Proof/Syntax.lean ====
section
/-! DEFINITION. The instructions of the Denuz: the fields of an instruction word as names (R95, R30, R105 to R118), and `Instr`, the ONE inductive
with a constructor for every row of the opcode table: the Jothal instructions, and after them the machine events, the steps the part takes of its own
accord or for the world outside. -/

namespace Sys2Proof

/-- The special registers (R48). -/
inductive SpReg where
  | lane | gwidth | group | team | clid | core | quarter | die | clx | cly | path | cycle | cycleh | gstep | asid | prio | fmt | gang
  deriving DecidableEq, Repr

/-- A 9-bit operand selector that is not reserved (R30). `v 255` is the zero register, 0x0FF, which also stands in every unused field (R96). -/
inductive Sel where
  | v (n : BitVec 8)
  | s (n : BitVec 6)
  | a (n : BitVec 4)
  | q (n : BitVec 2)
  | p (n : BitVec 3)
  | sp (r : SpReg)
  deriving DecidableEq, Repr

/-- The zero register and the neutral selector 0x0FF (R31, R96). -/
def Sel.zero : Sel := .v 255

/-- The fields every base word has beside its operands (R95). -/
structure Hdr where
  pg : BitVec 3
  pn : Bool
  u : Bool
  ch : Bool
  nwb : Bool
  le : Bool
  lq : BitVec 2
  deriving DecidableEq, Repr

/-- Field C of the base word: a selector, or nine raw bits (an immediate of class I with IMC = 1, R101, or the access sets of a FENCE, R115). -/
inductive CField where
  | sel (s : Sel)
  | raw (v : BitVec 9)
  deriving DecidableEq, Repr

/-- What follows the base word, which also says the length: nothing (64 bits), IMM32 (96) or the 64-bit extension (128) (R92, R103). -/
inductive Imm where
  | none
  | i32 (v : W32)
  | i64 (v : W64)
  deriving DecidableEq, Repr

/-- The operand fields of an instruction word (R95). -/
structure Ops where
  hdr : Hdr
  d : Sel
  a : Sel
  b : Sel
  c : CField
  imm : Imm
  deriving DecidableEq, Repr

/-- The four integer types of class I arithmetic (R105, R106). -/
inductive ITy where
  | i32 | n32 | i64 | n64
  deriving DecidableEq, Repr

/-- The signed types of IABS and INEG (R106). -/
inductive SITy where
  | i32 | i64
  deriving DecidableEq, Repr

/-- The bit-string types of the logic instructions (R106). -/
inductive BTy where
  | b32 | b64
  deriving DecidableEq, Repr

/-- The types of MOV (R106). -/
inductive MTy where
  | b32 | b64 | b128
  deriving DecidableEq, Repr

/-- The relations of ICMP (R106, R150). -/
inductive Cmp where
  | eq | ne | lt | le | gt | ge
  deriving DecidableEq, Repr

/-- The relations of FCMP (R109, R160). -/
inductive FCmp where
  | eq | ne | lt | le | gt | ge | un | ord
  deriving DecidableEq, Repr

/-- The mode FRND takes: the path's own RND or a named one (R109, R161). -/
inductive FRMode where
  | fmt | rne | rdn | rup | rtz
  deriving DecidableEq, Repr

/-- The formats of class V (R110). -/
inductive VFmt where
  | f32 | f16 | bf16 | e4m3 | e5m2 | ni | e8m0 | i8 | n8 | i16 | n16 | i32 | n32 | i64 | n64
  deriving DecidableEq, Repr

/-- The two 8-bit targets of CVTB (R168). -/
inductive B8 where
  | e4m3 | e5m2
  deriving DecidableEq, Repr

/-- The sources of CVTX (R171). -/
inductive XFmt where
  | e4m3 | e5m2 | ni
  deriving DecidableEq, Repr

/-- The types of REDT and SCAN (R112). -/
inductive RTy where
  | f32 | i32 | n32
  deriving DecidableEq, Repr

/-- The types of RNGU (R112). -/
inductive UTy where
  | f32 | n32
  deriving DecidableEq, Repr

/-- The form of a distribution operand (R41, R113). -/
inductive Form where
  | m | t
  deriving DecidableEq, Repr

/-- The narrow targets of DCVT (R113). -/
inductive NFmt where
  | f16 | bf16 | e4m3 | e5m2
  deriving DecidableEq, Repr

/-- Scopes, narrow to wide (R114). -/
inductive Scope where
  | grp | tm | cl | die | dev | sys
  deriving DecidableEq, Repr

/-- Retention hints (R114, R189). -/
inductive Retain where
  | df | sl | ll | by
  deriving DecidableEq, Repr

/-- Access sizes (R114). -/
inductive Sz where
  | n8 | i8 | n16 | i16 | b32 | b64 | b128
  deriving DecidableEq, Repr

/-- Atomic operations (R116, R197). -/
inductive Aop where
  | add | smin | smax | umin | umax | and | or | xor | exch | cas | fadd | fmin | fmax
  deriving DecidableEq, Repr

/-- What AMAT and AGET select (R108). -/
inductive AHalf where
  | lo | hi
  deriving DecidableEq, Repr

inductive APart where
  | lo | hi | stride
  deriving DecidableEq, Repr

/-- How a resolved or executed command of the outside world names a partition, a queue, a core: plain numbers. Keys: a core is 96 × die + logical index (R15),
a quarter is 4 × core + %quarter, a group is 16 × quarter + slot. -/
abbrev Key := Nat

/-- Where an error strikes (R448): a poisoned line, named by the storage address of a byte of it, or a word that an instruction of a path reads. -/
inductive EccSite where
  | line (loc : Nat)
  | register (group path : Nat)
  deriving DecidableEq, Repr

/-- What an inbound peer access does at the target (R342). -/
inductive PeerDo where
  | load
  | store (data : List Byte)
  | atomic (op : Aop) (w64 : Bool) (b c : W64)
  | radd (u : W32)
  | rmerge (w : W64)
  | ldrg
  deriving DecidableEq, Repr

/-- An inbound peer access (R342): the partition behind the aperture, the initiating package, the aperture frame, the offset in its 64 KiB page, the length
in bytes and what to do. -/
structure PeerReq where
  part : Nat
  pkg : Nat
  frame : Nat
  ofs : Nat
  len : Nat
  what : PeerDo
  deriving DecidableEq, Repr

/-- A write of control space (R431): by Mboel to the package's (`part` none), by a control core to a partition's. `first` is the first partition, S, that a
partition command names: the map of PCMD (R436) gives it no bits. -/
structure CsWrite where
  part : Option Nat
  addr : Nat
  val : W64
  first : Nat
  deriving DecidableEq, Repr

/-- One constructor per row of the opcode table. `o` holds the operand fields; the other arguments of an instruction are its MOD fields. The events take
the number of the thing they act on (log 85, DESIGN CHOICE). -/
inductive Instr where
  -- control (R118)
  | nop (o : Ops)
  | bra (o : Ops)
  | brp (o : Ops)
  | brx (o : Ops)
  | call (o : Ops)
  | ret (o : Ops)
  | jarm (k : BitVec 3) (o : Ops)
  | join (k : BitVec 3) (o : Ops)
  | jdrop (k : BitVec 3) (o : Ops)
  | loop (o : Ops)
  | loopx (o : Ops)
  | yield (o : Ops)
  | exit (o : Ops)
  | tileb (o : Ops)
  | trap (n : Byte) (o : Ops)
  | eret (o : Ops)
  | bkpt (n : Byte) (o : Ops)
  | voteAll (o : Ops)
  | voteAny (o : Ops)
  | voteBallot (o : Ops)
  | fuse (o : Ops)
  | split (o : Ops)
  | grow (n : BitVec 5) (o : Ops)
  | growNb (n : BitVec 5) (o : Ops)
  | shrink (n : BitVec 5) (o : Ops)
  | gang (o : Ops)
  | pathqLive (o : Ops)
  | pathqMlo (o : Ops)
  | pathqMhi (o : Ops)
  -- integer, logic and moves (R147)
  | iadd (t : ITy) (o : Ops)
  | isub (t : ITy) (o : Ops)
  | imul (t : ITy) (o : Ops)
  | imulh (t : ITy) (o : Ops)
  | imad (t : ITy) (o : Ops)
  | idiv (t : ITy) (o : Ops)
  | irem (t : ITy) (o : Ops)
  | imin (t : ITy) (o : Ops)
  | imax (t : ITy) (o : Ops)
  | iabs (t : SITy) (o : Ops)
  | ineg (t : SITy) (o : Ops)
  | shadd (t : ITy) (sh : BitVec 3) (o : Ops)
  | and (t : BTy) (o : Ops)
  | or (t : BTy) (o : Ops)
  | xor (t : BTy) (o : Ops)
  | not (t : BTy) (o : Ops)
  | shl (t : ITy) (o : Ops)
  | shr (t : ITy) (o : Ops)
  | sar (t : ITy) (o : Ops)
  | popc (t : BTy) (o : Ops)
  | clz (t : BTy) (o : Ops)
  | brev (t : BTy) (o : Ops)
  | bfx (t : BTy) (o : Ops)
  | bfi (t : BTy) (o : Ops)
  | icmp (t : ITy) (r : Cmp) (o : Ops)
  | sel (t : BTy) (o : Ops)
  | mov (t : MTy) (o : Ops)
  | movi (t : BTy) (o : Ops)
  | plop (tt : BitVec 4) (o : Ops)
  | shflIdx (t : BTy) (o : Ops)
  | shflUp (t : BTy) (o : Ops)
  | shflDown (t : BTy) (o : Ops)
  | shflXor (t : BTy) (o : Ops)
  | bcst (t : BTy) (o : Ops)
  | rdln (t : BTy) (o : Ops)
  | rdsp (o : Ops)
  | wrsp (o : Ops)
  -- affine (R153)
  | aset (o : Ops)
  | aadd (o : Ops)
  | ascl (o : Ops)
  | amat (h : AHalf) (o : Ops)
  | aget (h : APart) (o : Ops)
  -- floating point (R157)
  | fadd (o : Ops)
  | fsub (o : Ops)
  | fmul (o : Ops)
  | ffma (o : Ops)
  | fmin (o : Ops)
  | fmax (o : Ops)
  | fabs (o : Ops)
  | fneg (o : Ops)
  | fcmp (r : FCmp) (o : Ops)
  | frcp (o : Ops)
  | frsq (o : Ops)
  | fsqrt (o : Ops)
  | fdiv (o : Ops)
  | fexp2 (o : Ops)
  | flog2 (o : Ops)
  | fsin (o : Ops)
  | fcos (o : Ops)
  | ftanh (o : Ops)
  | fsigm (o : Ops)
  | frnd (r : FRMode) (o : Ops)
  | fclass (o : Ops)
  | fscl (o : Ops)
  -- conversions (R110)
  | cvt (src dst : VFmt) (o : Ops)
  | cvtb (dst : B8) (o : Ops)
  | cvtn (o : Ops)
  | cvtx (src : XFmt) (o : Ops)
  -- reductions, sampling, streams, masks (R228)
  | redtAdd (t : RTy) (o : Ops)
  | redtMax (t : RTy) (o : Ops)
  | redtMin (t : RTy) (o : Ops)
  | scan (t : RTy) (o : Ops)
  | sample (o : Ops)
  | rngk (o : Ops)
  | rngu (t : UTy) (o : Ops)
  | rngn (o : Ops)
  | vmask (o : Ops)
  -- distributions (R172)
  | dorg (i : BitVec 2) (o : Ops)
  | dset (f : Form) (o : Ops)
  | dadd (f : Form) (o : Ops)
  | dsub (f : Form) (o : Ops)
  | dmul (f : Form) (o : Ops)
  | dfma (f : Form) (o : Ops)
  | ddiv (f : Form) (o : Ops)
  | drcp (f : Form) (o : Ops)
  | dsqrt (f : Form) (o : Ops)
  | dexp (f : Form) (o : Ops)
  | dlog (f : Form) (o : Ops)
  | dtanh (f : Form) (o : Ops)
  | dsigm (f : Form) (o : Ops)
  | dmax (f : Form) (o : Ops)
  | dmin (f : Form) (o : Ops)
  | dscl (f : Form) (o : Ops)
  | dvar (f : Form) (o : Ops)
  | dstd (f : Form) (o : Ops)
  | dsens (i : BitVec 2) (o : Ops)
  | dindep (o : Ops)
  | dtrk (o : Ops)
  | dcvt (n : NFmt) (f : Form) (o : Ops)
  | dred (f : Form) (o : Ops)
  -- memory (R114)
  | ld (sc : Scope) (rh : Retain) (sz : Sz) (o : Ops)
  | st (sc : Scope) (rh : Retain) (sz : Sz) (o : Ops)
  | lds (sz : Sz) (o : Ops)
  | sts (sz : Sz) (o : Ops)
  | ldv (sz : Sz) (o : Ops)
  | stv (sz : Sz) (o : Ops)
  | pref (sc : Scope) (rh : Retain) (o : Ops)
  | cctlWb (sc : Scope) (o : Ops)
  | cctlInv (sc : Scope) (o : Ops)
  | cctlWbinv (sc : Scope) (o : Ops)
  | ldrg (sc : Scope) (rh : Retain) (o : Ops)
  | fence (sc : Scope) (o : Ops)
  | fenceSc (sc : Scope) (o : Ops)
  -- atomics (R116)
  | atom (sc : Scope) (w64 : Bool) (op : Aop) (o : Ops)
  | atoms (sc : Scope) (w64 : Bool) (op : Aop) (o : Ops)
  | datom (sc : Scope) (o : Ops)
  | dflush (sc : Scope) (o : Ops)
  | dstat (sc : Scope) (o : Ops)
  | radd (sc : Scope) (o : Ops)
  | rmerge (sc : Scope) (o : Ops)
  -- barriers and channels (R117)
  | binit (sc : Scope) (o : Ops)
  | barr (o : Ops)
  | barrBytes (o : Ops)
  | bexp (o : Ops)
  | bwait (o : Ops)
  | btry (o : Ops)
  | watch (i : BitVec 2) (o : Ops)
  | send (ch : BitVec 6) (o : Ops)
  | recv (ch : BitVec 6) (o : Ops)
  | recvTry (ch : BitVec 6) (o : Ops)
  | sendr (ch : BitVec 6) (o : Ops)
  | mcst (ch : BitVec 6) (o : Ops)
  | chqFree (ch : BitVec 6) (o : Ops)
  | chqFilled (ch : BitVec 6) (o : Ops)
  -- matrix (R217)
  | mld (m : BitVec 3) (o : Ops)
  | tld (m : BitVec 3) (o : Ops)
  | tldTrn (m : BitVec 3) (o : Ops)
  | tst (m : BitVec 3) (o : Ops)
  | mma (acc : Bool) (mb ma : BitVec 3) (o : Ops)
  | mzero (acc : Bool) (o : Ops)
  | mrd (acc : Bool) (o : Ops)
  | mwr (acc : Bool) (o : Ops)
  | mperm (m : BitVec 3) (o : Ops)
  | mqry (o : Ops)
  -- jobs, launches, grove (R233)
  | job (o : Ops)
  | jqry (o : Ops)
  | launch (o : Ops)
  | gsig (o : Ops)
  | taskget (o : Ops)
  | taskgetNb (o : Ops)
  | taskdone (o : Ops)
  | taskadd (o : Ops)
  -- coil (R239)
  | cbind (o : Ops)
  | cmaskS (o : Ops)
  | cmaskV (o : Ops)
  | cmaskM (o : Ops)
  | cfeed (o : Ops)
  | cfork (o : Ops)
  | croll (o : Ops)
  | cdrop (o : Ops)
  | csave (o : Ops)
  | cload (o : Ops)
  | cstat (o : Ops)
  -- system (R246)
  | sysr (o : Ops)
  | sysw (o : Ops)
  | step (o : Ops)
  | evt (o : Ops)
  | clock (o : Ops)
  -- machine events: what the part does of its own accord, and what the outside does to it
  /-- The oldest ready spilled path is moved into a free or exchanged path-table entry. (R256) -/
  | pathFill (g : Key)
  /-- A waiting GROW is granted, oldest first, when freed lane-blocks suffice. (R144) -/
  | growGrant (q : Key)
  /-- A queued MMA starts when the matrix unit frees. (R225) -/
  | mmaStart (q : Key)
  /-- A started MMA writes its accumulator result and completes. (R225) -/
  | mmaComplete (q : Key)
  /-- The mould engine finishes a TLD's TOB image or a TST's stores. (R220) -/
  | mouldTransferDone (id : Key)
  /-- Returned load data is written and the register stops being pending. (R255) -/
  | loadReturn (iid : Key)
  /-- An access, atomic or ring operation reaches its performing point and is performed. (R181) -/
  | accessPerform (id : Key)
  /-- A replica slice drops a sector on invalidation and acknowledges the home. (R293) -/
  | replicaInvalidate (die sector : Key)
  /-- A slice finishes re-forming or refetching a sector in a new orientation. (R276) -/
  | sectorConvert (sector : Key) (cols wide : Bool)
  /-- A DATOM addend arrives at the saggar unit and is held, spilled or added by fallback. (R199) -/
  | datomArrival (id : Key)
  /-- After earlier DATOMs are performed, held addends of the range are added in key order. (R200) -/
  | dflushPerform (id : Key)
  /-- A barrier instruction reaches the object's barrier unit and is performed there. (R205) -/
  | barrierUnitOp (rid : Key)
  /-- Engine bytes visible at the landing scope are counted on the landing object. (R207) -/
  | engineBytesLand (job n : Key)
  /-- A write to a watched word disarms the watch and makes an arrival. (R210) -/
  | watchFire (core i : Key)
  /-- A waiting fence's predecessors are performed and its successors may start. (R194) -/
  | fenceComplete (g p : Key)
  /-- A send that has all its allowances takes them and injects its packet. (R213) -/
  | sendInject (id : Key)
  /-- A channel packet reaches a consumer's channel unit and fills a slot. (R213) -/
  | channelPacketArrive (id : Key)
  /-- A freed slot returns one allowance to the producer. (R214) -/
  | allowanceReturn (id : Key)
  /-- A unit writes a fault record and advances the fault queue's TAIL once there is room. (R345) -/
  | faultRecordPost (id : Key)
  /-- RESOLVE with action 0 tries the access again. (R346) -/
  | resolveReplay (p die id : Key)
  /-- RESOLVE with action 1 raises PROT or fails the job with cause 2. (R346) -/
  | resolveProtection (p die id : Key)
  /-- RESOLVE with action 2 raises MCHK or fails the job with cause 3. (R346) -/
  | resolveMchk (p die id : Key)
  /-- A handler past 1,000,000 cycles posts a record of kind 11. (R351) -/
  | longHandler (g : Key)
  /-- At a watchdog count check, a group starving another raises WATCHDOG. (R263) -/
  | watchdog (g : Key)
  /-- A path ready for 4,096 cycles without issuing is boosted. (R260) -/
  | pathBoost (g p : Key)
  /-- A chain whose next member is not ready for 4,096 cycles is interrupted. (R261) -/
  | chainInterrupt (q : Key)
  /-- At each sample period a quarter makes a stall-sample record. (R421) -/
  | stallSample (q : Key)
  /-- The trace core takes a record, runs the filter, steps the sequencer and writes it to the ring. (R425) -/
  | traceRecord (die src : Key)
  /-- Writing GO moves the sequencer out of IDLE, or back to IDLE from CAPTURE. (R424) -/
  | traceGo (die : Key)
  /-- Writing LOAD reads and checks a filter program. (R426) -/
  | filterLoad (die : Key) (v : W32)
  /-- Holds one named path at its next instruction boundary. (R429) -/
  | tholdSet (die : Key) (v : W32)
  /-- Releases a held path. (R429) -/
  | tholdClr (die : Key) (v : W32)
  /-- Mboel writes TOWN to assign trace ownership of each die, resetting the trace registers. (R439) -/
  | traceOwner (v : W64)
  /-- A control core advances a hardware queue's TAIL, making entries available. (R316) -/
  | queueTailWrite (p die q : Key) (tail : W16)
  /-- The dispatcher starts a queue entry as a graph instance. (R318) -/
  | dispatchEntry (p die q : Key)
  /-- After the group's accesses are performed at .dev, the dispatcher writes a LAUNCH entry at TAIL. (R236) -/
  | launchEnqueue (id : Key)
  /-- A ready KERNEL node's descriptor is checked and its grid placed. (R321) -/
  | kernelNodeStart (inst node : Key)
  /-- The distributor places a cluster on a free rectangle and starts its groups. (R329) -/
  | clusterPlace (launch : Key)
  /-- The distributor places a whole co-scheduled grid at once. (R330) -/
  | coschedPlace (launch : Key)
  /-- A JOBSET node submits its cards to a die's job scheduler. (R321) -/
  | jobsetNode (inst node : Key)
  /-- A COND node reads its word and decrements one chosen successor. (R324) -/
  | condNode (inst node : Key)
  /-- A LOOP node rereads its word and runs its body again, or completes. (R324) -/
  | loopNodeIteration (inst node : Key)
  /-- A GRAPH node runs its subgraph as a nested instance. (R321) -/
  | graphNode (inst node : Key)
  /-- An EVENT node completes when ready with FLAG set, clearing FLAG. (R325) -/
  | eventNode (inst node : Key)
  /-- A HOST node posts its record to a control core's HOST queue once it has room. (R326) -/
  | hostNodePost (inst node : Key)
  /-- A nonzero write to a HOST node's DONE completes the node. (R326) -/
  | hostDone (inst node : Key) (v : W32)
  /-- A completing node releases and decrements each successor once. (R322) -/
  | nodeComplete (inst node : Key)
  /-- A job starts when no earlier overlapping job is incomplete. (R287) -/
  | jobStart (job : Key)
  /-- A job finishes and later overlapping jobs may start. (R287) -/
  | jobComplete (job : Key)
  /-- A job that cannot finish reports STATE 4 with a cause. (R333) -/
  | jobFail (job cause : Key)
  /-- A running job stops for pre-emption at a 4,096-byte offset of W. (R332) -/
  | jobStop (job : Key)
  /-- A write of GEN + 1 sends a generation raise to every translating unit. (R338) -/
  | genRaise (p asid : Key)
  /-- BUSY clears when every translating unit has taken the new generation. (R338) -/
  | genRaiseDone (p asid : Key)
  /-- A package receiving a shoot-down raises GEN locally and forwards it to its children. (R340) -/
  | shootdownReceive (p asid depth : Key) (children : List Key)
  /-- A parent receives a child's acknowledgement count. (R340) -/
  | shootdownAck (p asid child count : Key) (silent : List Key)
  /-- A package at depth d stops waiting and acknowledges, naming silent children. (R340) -/
  | shootdownChildTimeout (p asid : Key)
  /-- At the initiator's timeout, unaccounted packages are fenced and BUSY clears. (R341) -/
  | shootdownTimeout (p asid : Key)
  /-- A target package translates and performs a peer access and replies. (R342) -/
  | peerInbound (r : PeerReq)
  /-- A peer reply completes the access or raises REMOTE_FAULT. (R342) -/
  | peerReply (id cause : Key) (data : W64) (data2 : W64)
  /-- A peer access unanswered for 2,000,000 cycles raises REMOTE_TIMEOUT. (R182) -/
  | remoteTimeout (id : Key)
  /-- MIGCMD OP MOVE starts moving a page to another stack. (R349) -/
  | migrateMove (p die asid : Key)
  /-- MIGCMD OP RELEASE ends a redirect. (R349) -/
  | migrateRelease (p die : Key)
  /-- A migration copy finishes and installs the redirect, or fails. (R349) -/
  | migrateCopyDone (p die : Key) (failed : Bool)
  /-- A pinned page's 2^32-cycle pin ends. (R348) -/
  | pinExpire (stack asid vpage : Key)
  /-- Writing GO to PREEMPT starts pre-empting named teams. (R353) -/
  | preemptGo (p die : Key) (all : Bool)
  /-- A group of a pre-empted team stops at a stop point. (R354) -/
  | preemptStop (g : Key)
  /-- After 100,000 cycles a group stops at the next instruction boundary. (R354) -/
  | preemptStopBound (g : Key)
  /-- Banks are saved once jobs end and DONE is set when every team is saved. (R355) -/
  | preemptDone (p die : Key)
  /-- Writing a grid's descriptor to RESUMEA queues its saved teams for restore. (R353) -/
  | resumeaWrite (p die : Key) (v : W64)
  /-- A saved team is placed and its banks, state and jobs restored before its groups resume. (R356) -/
  | teamRestore (i core : Key)
  /-- Writing CRESET resets a cluster, failing its jobs and breaking its channels. (R358) -/
  | creset (p die desc clid : Key)
  /-- A successor's counter is decremented and the task becomes READY at zero. (R397) -/
  | groveDecrement (id : Key)
  /-- A free walker takes the oldest queued CMASK and walks the trie. (R375) -/
  | coilMaskWalk (die : Key)
  /-- A free walker takes a queued CFEED and steps its bytes. (R374) -/
  | coilFeedWalk (die : Key)
  /-- A mask unit becomes visible and is counted on the barrier object. (R375) -/
  | maskUnitLand (id unit : Key)
  /-- The step keeper checks the sweep condition, writes GSTEP and propagates it. (R381) -/
  | stepPerform (p : Key)
  /-- The keeper starts a sweep round of a ring region. (R388) -/
  | sweepRoundStart (p asid k : Key)
  /-- A saggar unit rebases the ring words of one 64-byte block. (R388) -/
  | sweepBeat (stack : Key)
  /-- A round ends, writing SWSTEP or posting a fault record. (R388) -/
  | sweepRoundEnd (p asid k : Key)
  /-- Writing GO to DECAYW starts computing a decay-table entry. (R384) -/
  | decaywGo (p : Key) (v : W64)
  /-- The decay entry is written whole and BUSY clears. (R384) -/
  | decaywDone (p : Key)
  /-- A 65,536-cycle budget period ends and the grant renews. (R452) -/
  | budgetPeriod (p a : Key)
  /-- Creates a partition over free regions. (R436) -/
  | pcmdCreate (t regions : Key)
  /-- Quiesces two partitions and merges one into the other. (R437) -/
  | pcmdMerge (s t : Key)
  /-- Quiesces a partition and gives regions to a free partition. (R436) -/
  | pcmdSplit (s t regions : Key)
  /-- Quiesces a partition and frees its regions. (R436) -/
  | pcmdStop (s : Key)
  /-- Loads a staged memory-interleave range after draining it. (R436) -/
  | pcmdRerange (rng : Key)
  /-- Every queue of the partitions is idle and the command continues. (R437) -/
  | quiesceDrained
  /-- QBOUND expires and the merge refuses QUEUE_BUSY. (R437) -/
  | quiesceTimeout
  /-- A STARTING partition becomes RUNNING when its control cores report boot. (R436) -/
  | partitionBoot (p : Key)
  /-- A reset runs the start phases from fuses to attestation. (R443) -/
  | coldStart
  /-- Mboel's WARM command writes back the LLC and starts warm. (R443) -/
  | warm (recordsValid : Bool)
  /-- The management START command clears safe mode and begins a cold start. (R444) -/
  | start
  /-- A start phase exceeds its bound and the start fails. (R443) -/
  | startPhaseTimeout
  /-- Writing GO starts an attestation report. (R447) -/
  | attestGo (p : Key)
  /-- The signed report is written and the busy bit clears. (R447) -/
  | attestDone (p : Key)
  /-- Retires a core site onto a spare after saving its partition's teams. (R457) -/
  | retireCore (die idx : Key)
  /-- Post-package repair of one HBM4 row. (R455) -/
  | hbmRow (pa : Key)
  /-- Copies an HBM4 channel to the stack's spare channel. (R455) -/
  | hbmChannel (pa : Key)
  /-- Replaces a vault, slice or bank row with a spare. (R455) -/
  | sramRow (die str row : Key)
  /-- Spares a Finas bridge lane group and retrains. (R456) -/
  | lane (dir grp : Key)
  /-- Moves a failed port's transport contexts to its partner. (R460) -/
  | port (n : Key)
  /-- Removes a control core from service. (R458) -/
  | ccore (n : Key)
  /-- A copying repair moves one 64-byte block indivisibly to the spare. (R456) -/
  | repairBlockMove
  /-- A repair finishes and records its mapping in the repair map. (R455) -/
  | repairDone (ok : Bool)
  /-- A correctable error is corrected on read and counted. (R448) -/
  | eccCorrected (e : EccSite)
  /-- An uncorrectable error poisons the line or raises MCHK. (R448) -/
  | eccUncorrectable (e : EccSite)
  /-- A flit failing its CRC is resent, sparing the lane after 8 failures. (R448) -/
  | flitCrcError (dir grp : Key)
  /-- A patrol visits one 64-byte block, correcting or poisoning it. (R450) -/
  | scrubBeat (unit : Key)
  /-- A package sends a heartbeat to its tree neighbours every 10,000,000 cycles. (R464) -/
  | heartbeat
  /-- A neighbour missing five heartbeats is declared failed. (R464) -/
  | heartbeatMiss (pkg : Key)
  /-- The buddy's acknowledgement makes a shadow write performed at .sys. (R463) -/
  | shadowAck (p i : Key)
  /-- The buddy maps its shadow copies in place of a failed package's apertures. (R464) -/
  | buddyMap (pkg p i frame asid vpage : Key)
  /-- Writes and checks firmware in the inactive slot and switches on success. (R462) -/
  | firmwareUpdate (kind : Key) (image : List Byte) (sigOk : Bool)
  /-- A unit finishes its operation in hand and loads new microcode. (R462) -/
  | microcodeLoad (unit : Key)
  /-- The power controller lowers island frequencies to stay within 2,400 W. (R27) -/
  | powerThrottle (island freq : Key)
  /-- A write to a control-space or system register with no row of its own takes effect by its access type. (R5) -/
  | registerWrite (w : CsWrite)
  /-- The buddy package takes a mirrored shadow-region write in order into its copy and acknowledges it. (R463) -/
  | shadowMirrorReceive (pkg p i pa : Key) (data : List Byte)
  /-- A package takes a heartbeat from a tree neighbour, which restarts its count of missed heartbeats. (R464) -/
  | heartbeatReceive (pkg : Key)
  /-- The package loses power, stopping all units, leaving the active firmware slot in force if a write was under way, and losing BOOTSTAT with Mboel. (R462) -/
  | powerFail
  deriving DecidableEq, Repr

end Sys2Proof
end

