-- ==== Sys2Proof/Machine/Encoding.lean ====
section
/-! DEFINITION. The encoding tables of the instruction words (R92 to R120): codes of the fields, and one row per opcode with the forms of its operand
fields, its lengths and the modifier values it takes. The decoder, the encoder and the checks of R121 all read these rows. -/

namespace Sys2Proof

/-- Why a word is not an instruction, in the order of R121. -/
inductive Reject where
  | len11
  | opcode
  | length
  | modifier
  | selector
  | neutral
  | guard
  | latchField
  | distForm
  | chain
  | mouldSlot
  | value
  deriving DecidableEq, Repr

/-- The detail code an ILL records (R121). -/
def Reject.detail : Reject → Nat
  | .len11 => 1
  | .opcode => 2
  | .length => 2
  | .modifier => 3
  | .selector => 4
  | .neutral => 5
  | .guard => 5
  | .latchField => 6
  | .distForm => 7
  | .chain => 8
  | .mouldSlot => 9
  | .value => 10

/-- The three lengths (R92). -/
inductive Len where
  | l64 | l96 | l128
  deriving DecidableEq, Repr

def Len.bytes : Len → Nat
  | .l64 => 8
  | .l96 => 12
  | .l128 => 16

def Len.code : Len → Nat
  | .l64 => 0
  | .l96 => 1
  | .l128 => 2

def Len.ofCode : Nat → Option Len
  | 0 => some .l64
  | 1 => some .l96
  | 2 => some .l128
  | _ => none

/-- The length an extension says (R92). -/
def immLen : Imm → Len
  | .none => .l64
  | .i32 _ => .l96
  | .i64 _ => .l128

/-! ### Selectors (R30, R48) -/

def SpReg.code : SpReg → Nat
  | .lane => 0 | .gwidth => 1 | .group => 2 | .team => 3 | .clid => 4 | .core => 5 | .quarter => 6 | .die => 7 | .clx => 8 | .cly => 9
  | .path => 10 | .cycle => 11 | .cycleh => 12 | .gstep => 13 | .asid => 14 | .prio => 15 | .fmt => 16 | .gang => 17

def SpReg.ofCode : Nat → Option SpReg
  | 0 => some .lane | 1 => some .gwidth | 2 => some .group | 3 => some .team | 4 => some .clid | 5 => some .core | 6 => some .quarter
  | 7 => some .die | 8 => some .clx | 9 => some .cly | 10 => some .path | 11 => some .cycle | 12 => some .cycleh | 13 => some .gstep
  | 14 => some .asid | 15 => some .prio | 16 => some .fmt | 17 => some .gang | _ => none

/-- The 9-bit value of a selector (R30). -/
def selCode : Sel → Nat
  | .v n => n.toNat
  | .s n => 0x100 + n.toNat
  | .a n => 0x140 + n.toNat
  | .q n => 0x150 + n.toNat
  | .p n => 0x154 + n.toNat
  | .sp r => 0x160 + SpReg.code r

/-- The selector a 9-bit value names; none for the reserved values 0x15C to 0x15F and 0x172 up (R30, R48). -/
def selOfCode (c : Nat) : Option Sel :=
  if c < 0x100 then some (.v (BitVec.ofNat 8 c))
  else if c < 0x140 then some (.s (BitVec.ofNat 6 (c - 0x100)))
  else if c < 0x150 then some (.a (BitVec.ofNat 4 (c - 0x140)))
  else if c < 0x154 then some (.q (BitVec.ofNat 2 (c - 0x150)))
  else if c < 0x15C then some (.p (BitVec.ofNat 3 (c - 0x154)))
  else if c < 0x160 then none
  else (SpReg.ofCode (c - 0x160)).map .sp

/-! ### Codes of the modifier fields -/

def ITy.code : ITy → Nat
  | .i32 => 0x2 | .i64 => 0x3 | .n32 => 0x6 | .n64 => 0x7
def ITy.ofCode : Nat → Option ITy
  | 0x2 => some .i32 | 0x3 => some .i64 | 0x6 => some .n32 | 0x7 => some .n64 | _ => none
def SITy.code : SITy → Nat
  | .i32 => 0x2 | .i64 => 0x3
def SITy.ofCode : Nat → Option SITy
  | 0x2 => some .i32 | 0x3 => some .i64 | _ => none
def BTy.code : BTy → Nat
  | .b32 => 0xA | .b64 => 0xB
def BTy.ofCode : Nat → Option BTy
  | 0xA => some .b32 | 0xB => some .b64 | _ => none
def MTy.code : MTy → Nat
  | .b32 => 0xA | .b64 => 0xB | .b128 => 0xC
def MTy.ofCode : Nat → Option MTy
  | 0xA => some .b32 | 0xB => some .b64 | 0xC => some .b128 | _ => none
def Cmp.code : Cmp → Nat
  | .eq => 0 | .ne => 1 | .lt => 2 | .le => 3 | .gt => 4 | .ge => 5
def Cmp.ofCode : Nat → Option Cmp
  | 0 => some .eq | 1 => some .ne | 2 => some .lt | 3 => some .le | 4 => some .gt | 5 => some .ge | _ => none
def FCmp.code : FCmp → Nat
  | .eq => 0 | .ne => 1 | .lt => 2 | .le => 3 | .gt => 4 | .ge => 5 | .un => 6 | .ord => 7
def FCmp.ofCode : Nat → Option FCmp
  | 0 => some .eq | 1 => some .ne | 2 => some .lt | 3 => some .le | 4 => some .gt | 5 => some .ge | 6 => some .un | 7 => some .ord | _ => none
def FRMode.code : FRMode → Nat
  | .fmt => 0 | .rne => 1 | .rdn => 2 | .rup => 3 | .rtz => 4
def FRMode.ofCode : Nat → Option FRMode
  | 0 => some .fmt | 1 => some .rne | 2 => some .rdn | 3 => some .rup | 4 => some .rtz | _ => none
def VFmt.code : VFmt → Nat
  | .f32 => 0 | .f16 => 1 | .bf16 => 2 | .e4m3 => 3 | .e5m2 => 4 | .ni => 5 | .e8m0 => 6 | .i8 => 7 | .n8 => 8 | .i16 => 9 | .n16 => 10
  | .i32 => 11 | .n32 => 12 | .i64 => 13 | .n64 => 14
def VFmt.ofCode : Nat → Option VFmt
  | 0 => some .f32 | 1 => some .f16 | 2 => some .bf16 | 3 => some .e4m3 | 4 => some .e5m2 | 5 => some .ni | 6 => some .e8m0 | 7 => some .i8
  | 8 => some .n8 | 9 => some .i16 | 10 => some .n16 | 11 => some .i32 | 12 => some .n32 | 13 => some .i64 | 14 => some .n64 | _ => none
def RTy.code : RTy → Nat
  | .f32 => 0xD | .i32 => 0x2 | .n32 => 0x6
def RTy.ofCode : Nat → Option RTy
  | 0xD => some .f32 | 0x2 => some .i32 | 0x6 => some .n32 | _ => none
def UTy.code : UTy → Nat
  | .f32 => 0xD | .n32 => 0x6
def UTy.ofCode : Nat → Option UTy
  | 0xD => some .f32 | 0x6 => some .n32 | _ => none
def Form.code : Form → Nat
  | .m => 0 | .t => 1
def Form.ofCode : Nat → Option Form
  | 0 => some .m | 1 => some .t | _ => none
def NFmt.code : NFmt → Nat
  | .f16 => 0 | .bf16 => 1 | .e4m3 => 2 | .e5m2 => 3
def NFmt.ofCode : Nat → Option NFmt
  | 0 => some .f16 | 1 => some .bf16 | 2 => some .e4m3 | 3 => some .e5m2 | _ => none
def Scope.code : Scope → Nat
  | .grp => 0 | .tm => 1 | .cl => 2 | .die => 3 | .dev => 4 | .sys => 5
def Scope.ofCode : Nat → Option Scope
  | 0 => some .grp | 1 => some .tm | 2 => some .cl | 3 => some .die | 4 => some .dev | 5 => some .sys | _ => none
def Retain.code : Retain → Nat
  | .df => 0 | .sl => 1 | .ll => 2 | .by => 3
def Retain.ofCode : Nat → Option Retain
  | 0 => some .df | 1 => some .sl | 2 => some .ll | 3 => some .by | _ => none
def Sz.code : Sz → Nat
  | .n8 => 0 | .i8 => 1 | .n16 => 2 | .i16 => 3 | .b32 => 4 | .b64 => 5 | .b128 => 6
def Sz.ofCode : Nat → Option Sz
  | 0 => some .n8 | 1 => some .i8 | 2 => some .n16 | 3 => some .i16 | 4 => some .b32 | 5 => some .b64 | 6 => some .b128 | _ => none
def Sz.bytes : Sz → Nat
  | .n8 => 1 | .i8 => 1 | .n16 => 2 | .i16 => 2 | .b32 => 4 | .b64 => 8 | .b128 => 16
/-- How many 32-bit registers an access of this size names (R184). -/
def Sz.words : Sz → Nat
  | .b64 => 2 | .b128 => 4 | _ => 1
def Aop.code : Aop → Nat
  | .add => 0 | .smin => 1 | .smax => 2 | .umin => 3 | .umax => 4 | .and => 5 | .or => 6 | .xor => 7 | .exch => 8 | .cas => 9 | .fadd => 10
  | .fmin => 11 | .fmax => 12
def Aop.ofCode : Nat → Option Aop
  | 0 => some .add | 1 => some .smin | 2 => some .smax | 3 => some .umin | 4 => some .umax | 5 => some .and | 6 => some .or | 7 => some .xor
  | 8 => some .exch | 9 => some .cas | 10 => some .fadd | 11 => some .fmin | 12 => some .fmax | _ => none
def AHalf.code : AHalf → Nat
  | .lo => 0 | .hi => 1
def AHalf.ofCode : Nat → Option AHalf
  | 0 => some .lo | 1 => some .hi | _ => none
def APart.code : APart → Nat
  | .lo => 0 | .hi => 1 | .stride => 2
def APart.ofCode : Nat → Option APart
  | 0 => some .lo | 1 => some .hi | 2 => some .stride | _ => none

/-- Registers of 32 bits that a value of a type takes (R61, R99). -/
def ITy.words : ITy → Nat
  | .i32 => 1 | .n32 => 1 | .i64 => 2 | .n64 => 2
def SITy.words : SITy → Nat
  | .i32 => 1 | .i64 => 2
def BTy.words : BTy → Nat
  | .b32 => 1 | .b64 => 2
def MTy.words : MTy → Nat
  | .b32 => 1 | .b64 => 2 | .b128 => 4
def Form.words : Form → Nat
  | .m => 2 | .t => 4
def VFmt.words : VFmt → Nat
  | .i64 => 2 | .n64 => 2 | _ => 1

/-! ### Operand roles -/

/-- What an operand field of a form may name (R30, R99, R100, R111, R172). -/
inductive Role where
  /-- The neutral value (R96). -/
  | unused
  /-- The destination: `w` vector registers, uniform ones when U = 1 (R30). -/
  | dst (w : Nat)
  /-- As `dst`, or 0x0FF to discard whatever the width (R196). -/
  | dstOpt (w : Nat)
  /-- `w` uniform registers to be written. -/
  | sdst (w : Nat)
  /-- A predicate to be written. -/
  | pdst
  /-- A value of `w` registers (R30, R99). -/
  | src (w : Nat)
  /-- A uniform register to be read, or zero. -/
  | usrc
  /-- An even uniform pair to be read. -/
  | upair
  /-- As `upair`, or 0x0FF (JARM, R134). -/
  | upairOpt
  /-- Thirteen uniform registers, s51 or lower (R237). -/
  | ublock
  /-- A vector register whose width the access word says (MRD, MWR). -/
  | vecIn
  | vecOut
  /-- A predicate to be read. -/
  | psrc
  /-- An address (R100). -/
  | addr
  /-- As `addr`, or 0x0FF (WATCH, R210). -/
  | addrOpt
  /-- An affine register, read or written (R153). -/
  | affine
  /-- The source of RDSP (R107). -/
  | special
  /-- The destination of WRSP: %fmt or %prio (R48). -/
  | specialW
  /-- A distribution form of `w` vector registers (R41): read, or the destination. -/
  | form (w : Nat)
  | formD (w : Nat)
  /-- A dither selector (R111, R154). -/
  | dither
  /-- Nine raw bits. -/
  | raw
  deriving DecidableEq, Repr

/-- What the 64-bit extension of a 128-bit form holds (R103). -/
inductive Ext where
  | none | zero | imm64 | turn | tidx | dsel | cvtb
  deriving DecidableEq, Repr

/-- The shape of one form of an instruction: what each field names, and what U, the latch fields and CH may be (R97, R98, R42). -/
structure Shape where
  d : Role := .unused
  a : Role := .unused
  b : Role := .unused
  c : Role := .unused
  ext : Ext := .none
  uOk : Bool := false
  latchOk : Bool := false
  /-- IMM32 stands for the last value source (R102). -/
  lastImm : Bool := false
  /-- The form has to be unguarded (R96). -/
  unguarded : Bool := false
  /-- CH = 1 raises ILL (R42). -/
  noChain : Bool := false
  /-- IMM32 has to be zero, or has zero upper half (R117, R118). -/
  immZero : Bool := false
  immHigh0 : Bool := false
  deriving DecidableEq, Repr

/-- One opcode (R119, R120). `build` reads the MOD byte (with IMC cleared where `imc` allows it), `lens` gives the lengths a MOD value allows. -/
structure OpRow where
  op : Nat
  lens : Nat → List Len
  imc : Bool := false
  rawC : Bool := false
  build : Nat → Option (Ops → Instr)
  shape : Nat → Len → Shape

/-- MOD has to be exactly `m0`. -/
def only (m0 : Nat) (f : Ops → Instr) (m : Nat) : Option (Ops → Instr) := if m = m0 then some f else none

def ls64 (_ : Nat) : List Len := [.l64]
def ls96 (_ : Nat) : List Len := [.l96]
def ls6496 (_ : Nat) : List Len := [.l64, .l96]
def ls128 (_ : Nat) : List Len := [.l128]

/-! ### Control opcodes (R118) -/

/-- The shape of a control opcode: unguarded, never in a chain. -/
def ctl (d a : Role) : Nat → Len → Shape := fun _ _ => { d := d, a := a, unguarded := true, noChain := true }

def rowsControl : List OpRow :=
  [ { op := 0x00, lens := fun _ => [.l64, .l96, .l128], build := only 0 .nop,
      shape := fun _ _ => { unguarded := true, ext := .zero, immZero := true } },
    { op := 0x01, lens := ls96, build := only 0 .bra, shape := ctl .unused .unused },
    { op := 0x02, lens := ls96, build := only 0 .brp, shape := fun _ _ => { noChain := true } },
    { op := 0x03, lens := ls64, build := only 0 .brx, shape := ctl .unused .upair },
    { op := 0x04, lens := ls96, build := only 0 .call, shape := ctl (.sdst 2) .unused },
    { op := 0x05, lens := ls64, build := only 0 .ret, shape := ctl .unused .upair },
    { op := 0x06, lens := ls96, build := fun m => if m < 8 then some (.jarm (BitVec.ofNat 3 m)) else none, shape := ctl .unused .upairOpt },
    { op := 0x07, lens := ls64, build := fun m => if m < 8 then some (.join (BitVec.ofNat 3 m)) else none, shape := ctl .unused .unused },
    { op := 0x08, lens := ls64, build := fun m => if m < 8 then some (.jdrop (BitVec.ofNat 3 m)) else none, shape := ctl .unused .unused },
    { op := 0x09, lens := ls96, build := only 0 .loop, shape := ctl .unused .usrc },
    { op := 0x0A, lens := ls64, build := only 0 .loopx, shape := ctl .unused .unused },
    { op := 0x0B, lens := ls64, build := only 0 .yield, shape := ctl .unused .unused },
    { op := 0x0C, lens := ls64, build := only 0 .exit, shape := ctl .unused .unused },
    { op := 0x0D, lens := ls64, build := only 0 .tileb, shape := ctl .unused .unused },
    { op := 0x0E, lens := ls64, build := fun m => some (.trap (BitVec.ofNat 8 m)), shape := ctl .unused .unused },
    { op := 0x0F, lens := ls64, build := only 0 .eret, shape := ctl .unused .unused } ] ++
  [ { op := 0x10, lens := ls64, build := fun m => some (.bkpt (BitVec.ofNat 8 m)), shape := ctl .unused .unused },
    { op := 0x11, lens := ls64, build := fun m => if m = 0 then some .voteAll else if m = 1 then some .voteAny else if m = 2 then some .voteBallot else none,
      shape := fun m l => ctl (if m = 2 then .sdst 1 else .pdst) .psrc m l },
    { op := 0x12, lens := ls64, build := only 0 .fuse, shape := ctl .unused .usrc },
    { op := 0x13, lens := ls64, build := only 0 .split, shape := ctl .unused .unused },
    { op := 0x14, lens := ls64,
      build := fun m => if m < 32 then some (.grow (BitVec.ofNat 5 m)) else if m < 64 then some (.growNb (BitVec.ofNat 5 m)) else none,
      shape := fun m l => ctl (if m < 32 then .unused else .pdst) .unused m l },
    { op := 0x15, lens := ls64, build := fun m => if m < 32 then some (.shrink (BitVec.ofNat 5 m)) else none, shape := ctl .unused .unused },
    { op := 0x16, lens := ls96, build := only 0 .gang, shape := ctl .unused .unused },
    { op := 0x17, lens := ls64, build := fun m => if m = 0 then some .pathqLive else if m = 1 then some .pathqMlo else if m = 2 then some .pathqMhi else none,
      shape := ctl (.sdst 1) .unused } ]

/-! ### Class I (R106, R147), affine (R108, R153) -/

/-- Registers a class I type code takes. -/
def tyWords (m : Nat) : Nat := if m % 16 = 0x3 ∨ m % 16 = 0x7 ∨ m % 16 = 0xB then 2 else if m % 16 = 0xC then 4 else 1

/-- A class I row whose SUB is 000. -/
def rowI {T : Type} (op : Nat) (dec : Nat → Option T) (c : T → Ops → Instr) (imc : Bool) (shape : Nat → Shape) : OpRow :=
  { op := op, lens := ls6496, imc := imc, build := fun m => (dec m).map c, shape := fun m _ => { shape (tyWords m) with lastImm := true } }

def shDab (w : Nat) : Shape := { d := .dst w, a := .src w, b := .src w, uOk := true, latchOk := w = 1 }
def shDa (w : Nat) : Shape := { d := .dst w, a := .src w, uOk := true, latchOk := w = 1 }
def shD1a (w : Nat) : Shape := { d := .dst 1, a := .src w, uOk := true, latchOk := true }
def shDabc (w : Nat) : Shape := { d := .dst w, a := .src w, b := .src w, c := .src w, uOk := true, latchOk := w = 1 }
def shShift (w : Nat) : Shape := { d := .dst w, a := .src w, b := .src 1, uOk := true, latchOk := w = 1 }
def shBfi (w : Nat) : Shape := { d := .dst w, a := .src w, b := .src 1, c := .src w, uOk := true, latchOk := w = 1 }
def shShfl (w : Nat) : Shape := { d := .dst w, a := .src w, b := .src 1, latchOk := w = 1 }

def rowsInt1 : List OpRow :=
  [ rowI 0x20 ITy.ofCode .iadd true shDab, rowI 0x21 ITy.ofCode .isub true shDab, rowI 0x22 ITy.ofCode .imul true shDab,
    rowI 0x23 ITy.ofCode .imulh true shDab, rowI 0x24 ITy.ofCode .imad true shDabc, rowI 0x25 ITy.ofCode .idiv true shDab,
    rowI 0x26 ITy.ofCode .irem true shDab, rowI 0x27 ITy.ofCode .imin true shDab, rowI 0x28 ITy.ofCode .imax true shDab,
    rowI 0x29 SITy.ofCode .iabs false shDa, rowI 0x2A SITy.ofCode .ineg false shDa,
    { op := 0x2B, lens := ls6496, imc := true, build := fun m => (ITy.ofCode (m % 16 + m / 16 % 2 * 16)).map (fun t => .shadd t (BitVec.ofNat 3 (m / 32))),
      shape := fun m _ => { shDab (tyWords m) with lastImm := true } },
    rowI 0x2C BTy.ofCode .and true shDab, rowI 0x2D BTy.ofCode .or true shDab, rowI 0x2E BTy.ofCode .xor true shDab,
    rowI 0x2F BTy.ofCode .not false shDa ]

def rowsInt2 : List OpRow :=
  [ rowI 0x30 ITy.ofCode .shl true shShift, rowI 0x31 ITy.ofCode .shr true shShift, rowI 0x32 ITy.ofCode .sar true shShift,
    rowI 0x33 BTy.ofCode .popc false shD1a, rowI 0x34 BTy.ofCode .clz false shD1a, rowI 0x35 BTy.ofCode .brev false shDa,
    rowI 0x36 BTy.ofCode .bfx true shShift, rowI 0x37 BTy.ofCode .bfi true shBfi,
    { op := 0x38, lens := ls6496, imc := true,
      build := fun m => (ITy.ofCode (m % 16 + m / 16 % 2 * 16)).bind (fun t => (Cmp.ofCode (m / 32)).map (fun r => .icmp t r)),
      shape := fun m _ => { d := .pdst, a := .src (tyWords m), b := .src (tyWords m), lastImm := true } },
    rowI 0x39 BTy.ofCode .sel false (fun w => { shDab w with c := .psrc }),
    rowI 0x3A MTy.ofCode .mov true shDa,
    { op := 0x3B, lens := fun _ => [.l96, .l128],
      build := fun m => (BTy.ofCode m).map .movi,
      shape := fun m _ => { d := .dst (tyWords m), uOk := true, latchOk := tyWords m = 1, ext := .imm64 } },
    { op := 0x3C, lens := ls64, build := fun m => if m < 16 then some (.plop (BitVec.ofNat 4 m)) else none,
      shape := fun _ _ => { d := .pdst, a := .psrc, b := .psrc } },
    { op := 0x3D, lens := ls6496, imc := true,
      build := fun m => (BTy.ofCode (m % 16 + m / 16 % 2 * 16)).bind (fun t =>
        if m / 32 = 0 then some (.shflIdx t) else if m / 32 = 1 then some (.shflUp t) else if m / 32 = 2 then some (.shflDown t)
        else if m / 32 = 3 then some (.shflXor t) else none),
      shape := fun m _ => { shShfl (tyWords m) with lastImm := true } },
    rowI 0x3E BTy.ofCode .bcst true (fun w => { d := .dst w, a := .src w, b := .usrc, latchOk := w = 1 }),
    rowI 0x3F BTy.ofCode .rdln true (fun w => { d := .sdst w, a := .src w, b := .usrc, latchOk := w = 1 }) ]

def rowsSpecial : List OpRow :=
  [ { op := 0x40, lens := ls64, build := only 0x0A .rdsp, shape := fun _ _ => { d := .dst 1, a := .special, uOk := true, latchOk := true } },
    { op := 0x41, lens := ls6496, build := only 0x0A .wrsp, shape := fun _ _ => { d := .specialW, a := .usrc, uOk := true, lastImm := true, noChain := true } },
    { op := 0x48, lens := fun _ => [.l64, .l96, .l128], build := only 0 .aset,
      shape := fun _ l => { d := .affine, a := if l = .l128 then .unused else .upair, b := .usrc, lastImm := true, ext := .imm64 } },
    { op := 0x49, lens := ls6496, build := only 0 .aadd, shape := fun _ _ => { d := .affine, a := .affine, b := .usrc, lastImm := true } },
    { op := 0x4A, lens := ls6496, build := only 0 .ascl, shape := fun _ _ => { d := .affine, a := .affine, b := .usrc, lastImm := true } },
    { op := 0x4B, lens := ls64, build := fun m => (AHalf.ofCode m).map .amat, shape := fun _ _ => { d := .dst 1, a := .affine, latchOk := true } },
    { op := 0x4C, lens := ls64, build := fun m => (APart.ofCode m).map .aget, shape := fun _ _ => { d := .sdst 1, a := .affine } } ]

/-! ### Classes F and V (R109, R110, R157, R167) -/

def rowF (op : Nat) (c : Ops → Instr) (b cc : Role) : OpRow :=
  { op := op, lens := ls6496, build := only 0x0D c,
    shape := fun _ _ => { d := .dst 1, a := .src 1, b := b, c := cc, uOk := true, latchOk := true, lastImm := true } }

def rowsFloat : List OpRow :=
  [ rowF 0x50 .fadd (.src 1) .dither, rowF 0x51 .fsub (.src 1) .dither, rowF 0x52 .fmul (.src 1) .dither,
    { op := 0x53, lens := fun _ => [.l64, .l96, .l128], build := only 0x0D .ffma,
      shape := fun _ _ => { d := .dst 1, a := .src 1, b := .src 1, c := .src 1, uOk := true, latchOk := true, lastImm := true, ext := .dsel } },
    rowF 0x54 .fmin (.src 1) .unused, rowF 0x55 .fmax (.src 1) .unused, rowF 0x56 .fabs .unused .unused, rowF 0x57 .fneg .unused .unused,
    { op := 0x58, lens := ls6496, build := fun m => if m % 32 = 0x0D then (FCmp.ofCode (m / 32)).map .fcmp else none,
      shape := fun _ _ => { d := .pdst, a := .src 1, b := .src 1, lastImm := true } },
    rowF 0x59 .frcp .unused .dither, rowF 0x5A .frsq .unused .dither, rowF 0x5B .fsqrt .unused .dither, rowF 0x5C .fdiv (.src 1) .dither ] ++
  [ rowF 0x5D .fexp2 .unused .dither, rowF 0x5E .flog2 .unused .dither, rowF 0x5F .fsin .unused .dither, rowF 0x60 .fcos .unused .dither,
    rowF 0x61 .ftanh .unused .dither, rowF 0x62 .fsigm .unused .dither,
    { op := 0x63, lens := ls6496, build := fun m => if m % 32 = 0x0D then (FRMode.ofCode (m / 32)).map .frnd else none,
      shape := fun m _ => { d := .dst 1, a := .src 1, c := if m / 32 = 0 then .dither else .unused, uOk := true, latchOk := true, lastImm := true } },
    rowF 0x64 .fclass .unused .unused, rowF 0x65 .fscl (.src 1) .dither ]

/-- The pairs CVT takes (R110). -/
def cvtPairOk (src dst : VFmt) : Bool :=
  match src, dst with
  | .ni, _ => false
  | _, .ni => false
  | _, .e8m0 => false
  | .f32, .f32 => false
  | _, .f32 => true
  | .f32, _ => true
  | .f16, .bf16 => true | .f16, .e4m3 => true | .f16, .e5m2 => true
  | .bf16, .f16 => true | .bf16, .e4m3 => true | .bf16, .e5m2 => true
  | .e4m3, .f16 => true | .e4m3, .bf16 => true | .e4m3, .e5m2 => true
  | .e5m2, .f16 => true | .e5m2, .bf16 => true | .e5m2, .e4m3 => true
  | _, _ => false

/-- The pairs R70 marks as exact: they read no dither (R167). -/
def cvtExact (src dst : VFmt) : Bool :=
  match dst, src with
  | .f32, .f16 => true | .f32, .bf16 => true | .f32, .e4m3 => true | .f32, .e5m2 => true | .f32, .e8m0 => true
  | _, _ => false

def vfmtWords (c : Nat) : Nat := match VFmt.ofCode c with | some f => f.words | none => 1

def rowsConv : List OpRow :=
  [ { op := 0x70, lens := ls64,
      build := fun m => (VFmt.ofCode (m / 16)).bind (fun s => (VFmt.ofCode (m % 16)).bind (fun d => if cvtPairOk s d then some (.cvt s d) else none)),
      shape := fun m _ =>
        { d := .dst (vfmtWords (m % 16)), a := .src (vfmtWords (m / 16)), uOk := true, latchOk := vfmtWords (m % 16) = 1,
          c := match VFmt.ofCode (m / 16), VFmt.ofCode (m % 16) with
            | some s, some d => if cvtExact s d then .unused else .dither
            | _, _ => .dither } },
    { op := 0x71, lens := ls128, build := fun m => if m = 0x03 then some (.cvtb .e4m3) else if m = 0x04 then some (.cvtb .e5m2) else none,
      shape := fun _ _ => { d := .dst 1, a := .src 1, b := .sdst 1, c := .dither, ext := .cvtb } },
    { op := 0x72, lens := ls64, build := only 0x05 .cvtn, shape := fun _ _ => { d := .dst 1, a := .src 1, b := .sdst 1, c := .dither } },
    { op := 0x73, lens := ls64,
      build := fun m => if m = 0x30 then some (.cvtx .e4m3) else if m = 0x40 then some (.cvtx .e5m2) else if m = 0x50 then some (.cvtx .ni) else none,
      shape := fun _ _ => { d := .dst 1, a := .src 1, b := .usrc, latchOk := true } } ]

/-! ### Class R (R112, R228) -/

def rowsReduce : List OpRow :=
  [ { op := 0x78, lens := ls64,
      build := fun m => (RTy.ofCode (m % 16)).bind (fun t =>
        if m / 16 = 0 then some (.redtAdd t) else if m / 16 = 1 then some (.redtMax t) else if m / 16 = 2 then some (.redtMin t) else none),
      shape := fun _ _ => { d := .dst 1, a := .src 1, latchOk := true } },
    { op := 0x79, lens := ls64, build := fun m => (RTy.ofCode m).map .scan, shape := fun _ _ => { d := .dst 1, a := .src 1, latchOk := true } },
    { op := 0x7A, lens := ls6496, build := only 0x0D .sample, shape := fun _ _ => { d := .dst 1, a := .src 1, b := .usrc, lastImm := true } },
    { op := 0x7B, lens := ls6496, build := only 0x0A .rngk, shape := fun _ _ => { a := .upair, b := .usrc, lastImm := true } },
    { op := 0x7C, lens := ls64, build := fun m => (UTy.ofCode m).map .rngu, shape := fun _ _ => { d := .dst 1, latchOk := true } },
    { op := 0x7D, lens := ls64, build := only 0x0D .rngn, shape := fun _ _ => { d := .dst 1, latchOk := true } },
    { op := 0x7E, lens := ls6496, build := only 0x0D .vmask, shape := fun _ _ => { d := .dst 1, a := .src 1, b := .usrc, c := .usrc, lastImm := true } } ]

/-! ### Class D (R113, R172) -/

/-- Registers of the form named by MOD[0]. -/
def fw (m : Nat) : Nat := if m % 2 = 1 then 4 else 2

def rowD (op : Nat) (c : Form → Ops → Instr) (sh : Nat → Shape) : OpRow :=
  { op := op, lens := ls64, build := fun m => (Form.ofCode m).map c, shape := fun m _ => sh (fw m) }

def shD3 (w : Nat) : Shape := { d := .formD w, a := .form w, b := .form w, c := .dither }
def shD2 (w : Nat) : Shape := { d := .formD w, a := .form w, c := .dither }

def rowsDist1 : List OpRow :=
  [ { op := 0x80, lens := ls64, build := fun m => if m % 2 = 0 ∧ m < 8 then some (.dorg (BitVec.ofNat 2 (m / 2))) else none,
      shape := fun _ _ => { d := .formD 4, a := .form 2 } },
    rowD 0x81 .dset (fun w => { d := .formD w, a := .src 1, b := .src 1 }),
    rowD 0x82 .dadd shD3, rowD 0x83 .dsub shD3, rowD 0x84 .dmul shD3,
    { op := 0x85, lens := fun _ => [.l64, .l128], build := fun m => (Form.ofCode m).map .dfma,
      shape := fun m _ => { d := .formD (fw m), a := .form (fw m), b := .form (fw m), c := .form (fw m), ext := .dsel } },
    rowD 0x86 .ddiv shD3, rowD 0x87 .drcp shD2, rowD 0x88 .dsqrt shD2, rowD 0x89 .dexp shD2, rowD 0x8A .dlog shD2, rowD 0x8B .dtanh shD2,
    rowD 0x8C .dsigm shD2 ]

def rowsDist2 : List OpRow :=
  [ rowD 0x8D .dmax (fun w => { d := .formD w, a := .form w, b := .form w }), rowD 0x8E .dmin (fun w => { d := .formD w, a := .form w, b := .form w }),
    { op := 0x8F, lens := ls6496, build := fun m => (Form.ofCode m).map .dscl,
      shape := fun m _ => { d := .formD (fw m), a := .form (fw m), b := .usrc, c := .dither, lastImm := true } },
    rowD 0x90 .dvar (fun w => { d := .dst 1, a := .form w, latchOk := true }), rowD 0x91 .dstd (fun w => { d := .dst 1, a := .form w, latchOk := true }),
    { op := 0x92, lens := ls64, build := fun m => if m % 2 = 1 ∧ m < 8 then some (.dsens (BitVec.ofNat 2 (m / 2))) else none,
      shape := fun _ _ => { d := .dst 1, a := .form 4, latchOk := true } },
    { op := 0x93, lens := ls64, build := only 0x01 .dindep, shape := fun _ _ => { d := .formD 2, a := .form 4 } },
    { op := 0x94, lens := ls64, build := only 0x00 .dtrk, shape := fun _ _ => { d := .formD 4, a := .form 2 } },
    { op := 0x95, lens := ls64,
      build := fun m => (NFmt.ofCode (m / 8)).bind (fun n => (Form.ofCode (m % 8)).map (fun f => .dcvt n f)), shape := fun m _ => shD2 (fw m) },
    rowD 0x96 .dred (fun w => { d := .formD w, a := .form w }) ]

/-! ### Classes M and A (R114 to R116, R184, R196) -/

/-- Registers of the size named by MOD[2:0]. -/
def szWords (m : Nat) : Nat := if m % 8 = 5 then 2 else if m % 8 = 6 then 4 else 1

def stSz (s : Sz) : Bool := match s with | .i8 => false | .i16 => false | _ => true

def mkM (m : Nat) (k : Scope → Retain → Sz → Option (Ops → Instr)) : Option (Ops → Instr) :=
  (Scope.ofCode (m / 32)).bind (fun sc => (Retain.ofCode (m / 8 % 4)).bind (fun rh => (Sz.ofCode (m % 8)).bind (k sc rh)))

def shLd (m : Nat) : Shape := { d := .dst (szWords m), a := .addr, uOk := true, latchOk := szWords m = 1 }
def shSt (m : Nat) : Shape := { a := .addr, b := .src (szWords m), uOk := true }

def rowsMem : List OpRow :=
  [ { op := 0xA0, lens := ls6496, build := fun m => mkM m (fun sc rh sz => some (.ld sc rh sz)), shape := fun m _ => shLd m },
    { op := 0xA1, lens := ls6496, build := fun m => mkM m (fun sc rh sz => if stSz sz then some (.st sc rh sz) else none), shape := fun m _ => shSt m },
    { op := 0xA2, lens := ls6496, build := fun m => (Sz.ofCode m).map .lds, shape := fun m _ => shLd m },
    { op := 0xA3, lens := ls6496, build := fun m => (Sz.ofCode m).bind (fun sz => if stSz sz then some (.sts sz) else none), shape := fun m _ => shSt m },
    { op := 0xA4, lens := ls6496, build := fun m => (Sz.ofCode m).map .ldv, shape := fun m _ => shLd m },
    { op := 0xA5, lens := ls6496, build := fun m => (Sz.ofCode m).bind (fun sz => if stSz sz then some (.stv sz) else none), shape := fun m _ => shSt m },
    { op := 0xA6, lens := ls6496, build := fun m => mkM m (fun sc rh sz => if sz = .n8 then some (.pref sc rh) else none), shape := fun _ _ => { a := .addr } },
    { op := 0xA7, lens := ls6496,
      build := fun m => (Scope.ofCode (m / 32)).bind (fun sc =>
        if m % 32 = 0 then some (.cctlWb sc) else if m % 32 = 1 then some (.cctlInv sc) else if m % 32 = 2 then some (.cctlWbinv sc) else none),
      shape := fun _ _ => { a := .addr } },
    { op := 0xA8, lens := ls6496, build := fun m => mkM m (fun sc rh sz => if sz = .b32 then some (.ldrg sc rh) else none), shape := fun _ _ => shLd 4 },
    { op := 0xA9, lens := ls64, rawC := true,
      build := fun m => (Scope.ofCode (m / 32)).bind (fun sc => if m % 32 = 0 then some (.fence sc) else if m % 32 = 1 then some (.fenceSc sc) else none),
      shape := fun _ _ => { c := .raw } } ]

def mkA (m : Nat) (k : Scope → Bool → Aop → Option (Ops → Instr)) : Option (Ops → Instr) :=
  (Scope.ofCode (m / 32)).bind (fun sc => (Aop.ofCode (m % 16)).bind (k sc (m / 16 % 2 = 1)))

/-- The FP32 operations of class A (R116). -/
def Aop.isF : Aop → Bool
  | .fadd => true | .fmin => true | .fmax => true | _ => false

def devSys (sc : Scope) : Bool := match sc with | .dev => true | .sys => true | _ => false

/-- Atomics name a pair with W64 = 1; C only with .cas (R196). -/
def shAtom (m : Nat) (uOk : Bool) : Shape :=
  { d := .dstOpt (m / 16 % 2 + 1), a := .addr, b := .src (m / 16 % 2 + 1), c := if m % 16 = 9 then .src (m / 16 % 2 + 1) else .unused, uOk := uOk,
    latchOk := m / 16 % 2 = 0 }

def rowsAtom : List OpRow :=
  [ { op := 0xB0, lens := ls6496, build := fun m => mkA m (fun sc w op => if op.isF && w then none else some (.atom sc w op)), shape := fun m _ => shAtom m true },
    { op := 0xB1, lens := ls6496,
      build := fun m => mkA m (fun sc w op => if (op.isF && w) || !(sc = .tm || sc = .cl) then none else some (.atoms sc w op)), shape := fun m _ => shAtom m true },
    { op := 0xB2, lens := ls6496, build := fun m => (Scope.ofCode (m / 32)).bind (fun sc => if m % 32 = 0x0A ∧ devSys sc then some (.datom sc) else none),
      shape := fun _ _ => { a := .addr, b := .src 1 } },
    { op := 0xB3, lens := ls6496, build := fun m => (Scope.ofCode (m / 32)).bind (fun sc => if m % 32 = 0 ∧ devSys sc then some (.dflush sc) else none),
      shape := fun _ _ => { a := .addr, b := .usrc } },
    { op := 0xB4, lens := ls6496, build := fun m => (Scope.ofCode (m / 32)).bind (fun sc => if m % 32 = 0 ∧ devSys sc then some (.dstat sc) else none),
      shape := fun _ _ => { d := .dst 1, a := .addr } },
    { op := 0xB5, lens := ls6496, build := fun m => (Scope.ofCode (m / 32)).bind (fun sc => if m % 32 = 16 then some (.radd sc) else none),
      shape := fun _ _ => { a := .addr, b := .src 1 } },
    { op := 0xB6, lens := ls64, build := fun m => (Scope.ofCode (m / 32)).bind (fun sc => if m % 32 = 16 then some (.rmerge sc) else none),
      shape := fun _ _ => { a := .addr, b := .src 2 } } ]

/-! ### Classes B and H (R117, R205, R212) -/

def rowsBar : List OpRow :=
  [ { op := 0xB8, lens := ls6496, build := fun m => if m % 32 = 0 then (Scope.ofCode (m / 32)).map .binit else none,
      shape := fun _ _ => { a := .addr, b := .src 1, c := .src 1, lastImm := true } },
    { op := 0xB9, lens := fun m => if m % 4 = 0 then [.l64] else [.l64, .l96],
      build := fun m => if m = 0 then some .barr else if m = 1 then some .barrBytes else none,
      shape := fun m _ => { a := .addr, b := if m % 4 = 0 then .unused else .src 1, lastImm := true } },
    { op := 0xBA, lens := ls6496, build := only 0 .bexp, shape := fun _ _ => { a := .addr, b := .src 1, lastImm := true } },
    { op := 0xBB, lens := ls6496, build := only 0 .bwait, shape := fun _ _ => { d := .sdst 1, a := .addr, b := .src 1, lastImm := true } },
    { op := 0xBC, lens := ls6496, build := only 0 .btry, shape := fun _ _ => { d := .sdst 1, a := .addr, b := .src 1, lastImm := true } },
    { op := 0xBD, lens := ls64, build := fun m => if m < 4 then some (.watch (BitVec.ofNat 2 m)) else none, shape := fun _ _ => { a := .addr, b := .addrOpt } } ]

def rowsChan : List OpRow :=
  [ { op := 0xC0, lens := ls64, build := fun m => if m < 64 then some (.send (BitVec.ofNat 6 m)) else none, shape := fun _ _ => { a := .addr, b := .usrc } },
    { op := 0xC1, lens := ls64,
      build := fun m => if m < 64 then some (.recv (BitVec.ofNat 6 m)) else if m < 128 then some (.recvTry (BitVec.ofNat 6 m)) else none,
      shape := fun _ _ => { d := .sdst 1, a := .addr } },
    { op := 0xC2, lens := ls128, build := fun m => if m < 64 then some (.sendr (BitVec.ofNat 6 m)) else none,
      shape := fun _ _ => { a := .addr, b := .usrc, ext := .turn } },
    { op := 0xC3, lens := ls128, build := fun m => if m < 64 then some (.mcst (BitVec.ofNat 6 m)) else none,
      shape := fun _ _ => { a := .addr, b := .usrc, ext := .turn } },
    { op := 0xC4, lens := ls64,
      build := fun m => if m < 64 then some (.chqFree (BitVec.ofNat 6 m)) else if m < 128 then some (.chqFilled (BitVec.ofNat 6 m)) else none,
      shape := fun _ _ => { d := .sdst 1 } } ]

/-! ### Classes X, J, E and Y (R117, R217, R233, R239, R246) -/

def rowsMatrix : List OpRow :=
  [ { op := 0xC8, lens := ls64, build := fun m => if m < 8 then some (.mld (BitVec.ofNat 3 m)) else none, shape := fun _ _ => { a := .addr } },
    { op := 0xC9, lens := ls128,
      build := fun m => if m < 8 then some (.tld (BitVec.ofNat 3 m)) else if 128 ≤ m ∧ m < 136 then some (.tldTrn (BitVec.ofNat 3 m)) else none,
      shape := fun _ _ => { d := .usrc, a := .usrc, b := .usrc, ext := .tidx } },
    { op := 0xCA, lens := ls128, build := fun m => if m < 8 then some (.tst (BitVec.ofNat 3 m)) else none,
      shape := fun _ _ => { d := .usrc, a := .usrc, b := .usrc, ext := .tidx } },
    { op := 0xCB, lens := ls64, build := fun m => if m < 128 then some (.mma (m / 64 = 1) (BitVec.ofNat 3 (m / 8)) (BitVec.ofNat 3 m)) else none,
      shape := fun _ _ => { a := .usrc, b := .usrc } },
    { op := 0xCC, lens := ls64, build := fun m => if m = 0 ∨ m = 64 then some (.mzero (m = 64)) else none, shape := fun _ _ => {} },
    { op := 0xCD, lens := ls64, build := fun m => if m = 0 ∨ m = 64 then some (.mrd (m = 64)) else none, shape := fun _ _ => { d := .vecOut, a := .usrc } },
    { op := 0xCE, lens := ls64, build := fun m => if m = 0 ∨ m = 64 then some (.mwr (m = 64)) else none, shape := fun _ _ => { a := .usrc, b := .vecIn } },
    { op := 0xCF, lens := ls64, build := fun m => if m < 8 then some (.mperm (BitVec.ofNat 3 m)) else none, shape := fun _ _ => {} },
    { op := 0xD0, lens := ls64, build := only 0 .mqry, shape := fun _ _ => { d := .sdst 1, a := .usrc } } ]

def rowsJob : List OpRow :=
  [ { op := 0xD8, lens := ls64, build := only 0 .job, shape := fun _ _ => { d := .sdst 1, a := .addr } },
    { op := 0xD9, lens := ls64, build := only 0 .jqry, shape := fun _ _ => { d := .sdst 1, a := .usrc } },
    { op := 0xDA, lens := ls6496, build := only 0 .launch, shape := fun _ _ => { d := .sdst 1, a := .addr, b := .usrc, lastImm := true } },
    { op := 0xDB, lens := ls64, build := only 0 .gsig, shape := fun _ _ => { a := .addr } },
    { op := 0xDC, lens := fun m => if m % 2 = 1 then [.l64] else [.l64, .l96],
      build := fun m => if m = 0 then some .taskget else if m = 1 then some .taskgetNb else none,
      shape := fun m _ => if m % 2 = 1 then { d := .pdst, a := .usrc, b := .ublock } else { d := .ublock, a := .usrc, lastImm := true } },
    { op := 0xDD, lens := ls6496, build := only 0 .taskdone, shape := fun _ _ => { a := .usrc, lastImm := true } },
    { op := 0xDE, lens := ls64, build := only 0 .taskadd, shape := fun _ _ => { d := .sdst 1, a := .addr } } ]

def rowsCoil : List OpRow :=
  [ { op := 0xE0, lens := ls64, build := only 0 .cbind, shape := fun _ _ => { d := .sdst 1, a := .addr } },
    { op := 0xE1, lens := ls64, build := fun m => if m = 0 then some .cmaskS else if m = 1 then some .cmaskV else if m = 2 then some .cmaskM else none,
      shape := fun _ _ => { a := .addr, b := .usrc, c := .usrc } },
    { op := 0xE2, lens := ls64, build := only 0 .cfeed, shape := fun _ _ => { d := .sdst 1, a := .usrc, b := .usrc } },
    { op := 0xE3, lens := ls64, build := only 0 .cfork, shape := fun _ _ => { d := .sdst 1, a := .usrc } },
    { op := 0xE4, lens := ls64, build := only 0 .croll, shape := fun _ _ => { a := .usrc, b := .usrc } },
    { op := 0xE5, lens := ls64, build := only 0 .cdrop, shape := fun _ _ => { a := .usrc, b := .usrc } },
    { op := 0xE6, lens := ls64, build := only 0 .csave, shape := fun _ _ => { a := .addr, b := .usrc } },
    { op := 0xE7, lens := ls64, build := only 0 .cload, shape := fun _ _ => { d := .sdst 1, a := .addr } },
    { op := 0xE8, lens := ls64, build := only 0 .cstat, shape := fun _ _ => { d := .sdst 1, a := .usrc } } ]

def rowsSys : List OpRow :=
  [ { op := 0xF0, lens := ls96, build := only 0 .sysr, shape := fun _ _ => { d := .sdst 1, immHigh0 := true } },
    { op := 0xF1, lens := ls96, build := only 0 .sysw, shape := fun _ _ => { a := .usrc, immHigh0 := true, noChain := true } },
    { op := 0xF2, lens := ls64, build := only 0 .step, shape := fun _ _ => { d := .pdst } },
    { op := 0xF3, lens := ls96, build := only 0 .evt, shape := fun _ _ => { a := .usrc, immHigh0 := true } },
    { op := 0xF4, lens := ls64, build := only 0 .clock, shape := fun _ _ => { d := .sdst 2 } } ]

/-- The opcode map (R119) (log 28, DEDUCED). -/
def opRows : List OpRow :=
  rowsControl ++ rowsInt1 ++ rowsInt2 ++ rowsSpecial ++ rowsFloat ++ rowsConv ++ rowsReduce ++ rowsDist1 ++ rowsDist2 ++ rowsMem ++ rowsAtom ++
    rowsBar ++ rowsChan ++ rowsMatrix ++ rowsJob ++ rowsCoil ++ rowsSys

/-- The row of an opcode; none for a reserved cell of R119. -/
def opRow (op : Nat) : Option OpRow := opRows.find? (fun r => r.op == op)

/-- The roles of a form once IMM32, or the 9-bit immediate of IMC = 1, has replaced the last source (R101, R102). -/
def Role.isSource : Role → Bool
  | .src _ => true
  | .usrc => true
  | .upair => true
  | .upairOpt => true
  | .vecIn => true
  | .form _ => true
  | _ => false

def replaceLast (sh : Shape) : Shape :=
  if sh.c.isSource then { sh with c := .unused }
  else if sh.b.isSource then { sh with b := .unused }
  else { sh with a := .unused }

/-- The shape of a word of row `r` with MOD byte `m` (IMC cleared), its C field raw or not, and its length. -/
def formShape (r : OpRow) (m : Nat) (raw : Bool) (l : Len) : Shape :=
  let sh := r.shape m l
  if raw && r.imc then { replaceLast sh with c := .raw }
  else if l == .l96 && sh.lastImm then replaceLast sh
  else sh

end Sys2Proof
end

