-- ==== Sys2Proof/Machine/Encode.lean ====
section
/-! DEFINITION. From an instruction to its opcode, its MOD byte and its operand fields (R105 to R119), and the checks of R121 on them that need nothing but the
word. -/

namespace Sys2Proof

/-- The parts of an instruction's word: opcode, MOD byte without the IMC bit, operand fields. -/
structure Enc where
  op : Nat
  m : Nat
  o : Ops
  deriving DecidableEq, Repr

def memMod (sc : Scope) (rh : Retain) (sz : Sz) : Nat := 32 * sc.code + 8 * rh.code + sz.code
def atomMod (sc : Scope) (w64 : Bool) (op : Aop) : Nat := 32 * sc.code + 16 * w64.toNat + op.code

/-- The encoding of an instruction; a machine event has none. -/
def Instr.enc : Instr → Option Enc
  | .nop o => some ⟨0x00, 0, o⟩
  | .bra o => some ⟨0x01, 0, o⟩
  | .brp o => some ⟨0x02, 0, o⟩
  | .brx o => some ⟨0x03, 0, o⟩
  | .call o => some ⟨0x04, 0, o⟩
  | .ret o => some ⟨0x05, 0, o⟩
  | .jarm k o => some ⟨0x06, k.toNat, o⟩
  | .join k o => some ⟨0x07, k.toNat, o⟩
  | .jdrop k o => some ⟨0x08, k.toNat, o⟩
  | .loop o => some ⟨0x09, 0, o⟩
  | .loopx o => some ⟨0x0A, 0, o⟩
  | .yield o => some ⟨0x0B, 0, o⟩
  | .exit o => some ⟨0x0C, 0, o⟩
  | .tileb o => some ⟨0x0D, 0, o⟩
  | .trap n o => some ⟨0x0E, n.toNat, o⟩
  | .eret o => some ⟨0x0F, 0, o⟩
  | .bkpt n o => some ⟨0x10, n.toNat, o⟩
  | .voteAll o => some ⟨0x11, 0, o⟩
  | .voteAny o => some ⟨0x11, 1, o⟩
  | .voteBallot o => some ⟨0x11, 2, o⟩
  | .fuse o => some ⟨0x12, 0, o⟩
  | .split o => some ⟨0x13, 0, o⟩
  | .grow n o => some ⟨0x14, n.toNat, o⟩
  | .growNb n o => some ⟨0x14, 32 + n.toNat, o⟩
  | .shrink n o => some ⟨0x15, n.toNat, o⟩
  | .gang o => some ⟨0x16, 0, o⟩
  | .pathqLive o => some ⟨0x17, 0, o⟩
  | .pathqMlo o => some ⟨0x17, 1, o⟩
  | .pathqMhi o => some ⟨0x17, 2, o⟩
  | .iadd t o => some ⟨0x20, t.code, o⟩
  | .isub t o => some ⟨0x21, t.code, o⟩
  | .imul t o => some ⟨0x22, t.code, o⟩
  | .imulh t o => some ⟨0x23, t.code, o⟩
  | .imad t o => some ⟨0x24, t.code, o⟩
  | .idiv t o => some ⟨0x25, t.code, o⟩
  | .irem t o => some ⟨0x26, t.code, o⟩
  | .imin t o => some ⟨0x27, t.code, o⟩
  | .imax t o => some ⟨0x28, t.code, o⟩
  | .iabs t o => some ⟨0x29, t.code, o⟩
  | .ineg t o => some ⟨0x2A, t.code, o⟩
  | .shadd t sh o => some ⟨0x2B, 32 * sh.toNat + t.code, o⟩
  | .and t o => some ⟨0x2C, t.code, o⟩
  | .or t o => some ⟨0x2D, t.code, o⟩
  | .xor t o => some ⟨0x2E, t.code, o⟩
  | .not t o => some ⟨0x2F, t.code, o⟩
  | .shl t o => some ⟨0x30, t.code, o⟩
  | .shr t o => some ⟨0x31, t.code, o⟩
  | .sar t o => some ⟨0x32, t.code, o⟩
  | .popc t o => some ⟨0x33, t.code, o⟩
  | .clz t o => some ⟨0x34, t.code, o⟩
  | .brev t o => some ⟨0x35, t.code, o⟩
  | .bfx t o => some ⟨0x36, t.code, o⟩
  | .bfi t o => some ⟨0x37, t.code, o⟩
  | .icmp t r o => some ⟨0x38, 32 * r.code + t.code, o⟩
  | .sel t o => some ⟨0x39, t.code, o⟩
  | .mov t o => some ⟨0x3A, t.code, o⟩
  | .movi t o => some ⟨0x3B, t.code, o⟩
  | .plop tt o => some ⟨0x3C, tt.toNat, o⟩
  | .shflIdx t o => some ⟨0x3D, t.code, o⟩
  | .shflUp t o => some ⟨0x3D, 32 + t.code, o⟩
  | .shflDown t o => some ⟨0x3D, 64 + t.code, o⟩
  | .shflXor t o => some ⟨0x3D, 96 + t.code, o⟩
  | .bcst t o => some ⟨0x3E, t.code, o⟩
  | .rdln t o => some ⟨0x3F, t.code, o⟩
  | .rdsp o => some ⟨0x40, 0x0A, o⟩
  | .wrsp o => some ⟨0x41, 0x0A, o⟩
  | .aset o => some ⟨0x48, 0, o⟩
  | .aadd o => some ⟨0x49, 0, o⟩
  | .ascl o => some ⟨0x4A, 0, o⟩
  | .amat h o => some ⟨0x4B, h.code, o⟩
  | .aget h o => some ⟨0x4C, h.code, o⟩
  | .fadd o => some ⟨0x50, 0x0D, o⟩
  | .fsub o => some ⟨0x51, 0x0D, o⟩
  | .fmul o => some ⟨0x52, 0x0D, o⟩
  | .ffma o => some ⟨0x53, 0x0D, o⟩
  | .fmin o => some ⟨0x54, 0x0D, o⟩
  | .fmax o => some ⟨0x55, 0x0D, o⟩
  | .fabs o => some ⟨0x56, 0x0D, o⟩
  | .fneg o => some ⟨0x57, 0x0D, o⟩
  | .fcmp r o => some ⟨0x58, 32 * r.code + 0x0D, o⟩
  | .frcp o => some ⟨0x59, 0x0D, o⟩
  | .frsq o => some ⟨0x5A, 0x0D, o⟩
  | .fsqrt o => some ⟨0x5B, 0x0D, o⟩
  | .fdiv o => some ⟨0x5C, 0x0D, o⟩
  | .fexp2 o => some ⟨0x5D, 0x0D, o⟩
  | .flog2 o => some ⟨0x5E, 0x0D, o⟩
  | .fsin o => some ⟨0x5F, 0x0D, o⟩
  | .fcos o => some ⟨0x60, 0x0D, o⟩
  | .ftanh o => some ⟨0x61, 0x0D, o⟩
  | .fsigm o => some ⟨0x62, 0x0D, o⟩
  | .frnd r o => some ⟨0x63, 32 * r.code + 0x0D, o⟩
  | .fclass o => some ⟨0x64, 0x0D, o⟩
  | .fscl o => some ⟨0x65, 0x0D, o⟩
  | .cvt s d o => some ⟨0x70, 16 * s.code + d.code, o⟩
  | .cvtb d o => some ⟨0x71, (match d with | .e4m3 => 3 | .e5m2 => 4), o⟩
  | .cvtn o => some ⟨0x72, 5, o⟩
  | .cvtx s o => some ⟨0x73, (match s with | .e4m3 => 0x30 | .e5m2 => 0x40 | .ni => 0x50), o⟩
  | .redtAdd t o => some ⟨0x78, t.code, o⟩
  | .redtMax t o => some ⟨0x78, 16 + t.code, o⟩
  | .redtMin t o => some ⟨0x78, 32 + t.code, o⟩
  | .scan t o => some ⟨0x79, t.code, o⟩
  | .sample o => some ⟨0x7A, 0x0D, o⟩
  | .rngk o => some ⟨0x7B, 0x0A, o⟩
  | .rngu t o => some ⟨0x7C, t.code, o⟩
  | .rngn o => some ⟨0x7D, 0x0D, o⟩
  | .vmask o => some ⟨0x7E, 0x0D, o⟩
  | .dorg i o => some ⟨0x80, 2 * i.toNat, o⟩
  | .dset f o => some ⟨0x81, f.code, o⟩
  | .dadd f o => some ⟨0x82, f.code, o⟩
  | .dsub f o => some ⟨0x83, f.code, o⟩
  | .dmul f o => some ⟨0x84, f.code, o⟩
  | .dfma f o => some ⟨0x85, f.code, o⟩
  | .ddiv f o => some ⟨0x86, f.code, o⟩
  | .drcp f o => some ⟨0x87, f.code, o⟩
  | .dsqrt f o => some ⟨0x88, f.code, o⟩
  | .dexp f o => some ⟨0x89, f.code, o⟩
  | .dlog f o => some ⟨0x8A, f.code, o⟩
  | .dtanh f o => some ⟨0x8B, f.code, o⟩
  | .dsigm f o => some ⟨0x8C, f.code, o⟩
  | .dmax f o => some ⟨0x8D, f.code, o⟩
  | .dmin f o => some ⟨0x8E, f.code, o⟩
  | .dscl f o => some ⟨0x8F, f.code, o⟩
  | .dvar f o => some ⟨0x90, f.code, o⟩
  | .dstd f o => some ⟨0x91, f.code, o⟩
  | .dsens i o => some ⟨0x92, 2 * i.toNat + 1, o⟩
  | .dindep o => some ⟨0x93, 1, o⟩
  | .dtrk o => some ⟨0x94, 0, o⟩
  | .dcvt n f o => some ⟨0x95, 8 * n.code + f.code, o⟩
  | .dred f o => some ⟨0x96, f.code, o⟩
  | .ld sc rh sz o => some ⟨0xA0, memMod sc rh sz, o⟩
  | .st sc rh sz o => some ⟨0xA1, memMod sc rh sz, o⟩
  | .lds sz o => some ⟨0xA2, sz.code, o⟩
  | .sts sz o => some ⟨0xA3, sz.code, o⟩
  | .ldv sz o => some ⟨0xA4, sz.code, o⟩
  | .stv sz o => some ⟨0xA5, sz.code, o⟩
  | .pref sc rh o => some ⟨0xA6, memMod sc rh .n8, o⟩
  | .cctlWb sc o => some ⟨0xA7, 32 * sc.code, o⟩
  | .cctlInv sc o => some ⟨0xA7, 32 * sc.code + 1, o⟩
  | .cctlWbinv sc o => some ⟨0xA7, 32 * sc.code + 2, o⟩
  | .ldrg sc rh o => some ⟨0xA8, memMod sc rh .b32, o⟩
  | .fence sc o => some ⟨0xA9, 32 * sc.code, o⟩
  | .fenceSc sc o => some ⟨0xA9, 32 * sc.code + 1, o⟩
  | .atom sc w op o => some ⟨0xB0, atomMod sc w op, o⟩
  | .atoms sc w op o => some ⟨0xB1, atomMod sc w op, o⟩
  | .datom sc o => some ⟨0xB2, 32 * sc.code + 0x0A, o⟩
  | .dflush sc o => some ⟨0xB3, 32 * sc.code, o⟩
  | .dstat sc o => some ⟨0xB4, 32 * sc.code, o⟩
  | .radd sc o => some ⟨0xB5, 32 * sc.code + 16, o⟩
  | .rmerge sc o => some ⟨0xB6, 32 * sc.code + 16, o⟩
  | .binit sc o => some ⟨0xB8, 32 * sc.code, o⟩
  | .barr o => some ⟨0xB9, 0, o⟩
  | .barrBytes o => some ⟨0xB9, 1, o⟩
  | .bexp o => some ⟨0xBA, 0, o⟩
  | .bwait o => some ⟨0xBB, 0, o⟩
  | .btry o => some ⟨0xBC, 0, o⟩
  | .watch i o => some ⟨0xBD, i.toNat, o⟩
  | .send c o => some ⟨0xC0, c.toNat, o⟩
  | .recv c o => some ⟨0xC1, c.toNat, o⟩
  | .recvTry c o => some ⟨0xC1, 64 + c.toNat, o⟩
  | .sendr c o => some ⟨0xC2, c.toNat, o⟩
  | .mcst c o => some ⟨0xC3, c.toNat, o⟩
  | .chqFree c o => some ⟨0xC4, c.toNat, o⟩
  | .chqFilled c o => some ⟨0xC4, 64 + c.toNat, o⟩
  | .mld m o => some ⟨0xC8, m.toNat, o⟩
  | .tld m o => some ⟨0xC9, m.toNat, o⟩
  | .tldTrn m o => some ⟨0xC9, 128 + m.toNat, o⟩
  | .tst m o => some ⟨0xCA, m.toNat, o⟩
  | .mma acc mb ma o => some ⟨0xCB, 64 * acc.toNat + 8 * mb.toNat + ma.toNat, o⟩
  | .mzero acc o => some ⟨0xCC, 64 * acc.toNat, o⟩
  | .mrd acc o => some ⟨0xCD, 64 * acc.toNat, o⟩
  | .mwr acc o => some ⟨0xCE, 64 * acc.toNat, o⟩
  | .mperm m o => some ⟨0xCF, m.toNat, o⟩
  | .mqry o => some ⟨0xD0, 0, o⟩
  | .job o => some ⟨0xD8, 0, o⟩
  | .jqry o => some ⟨0xD9, 0, o⟩
  | .launch o => some ⟨0xDA, 0, o⟩
  | .gsig o => some ⟨0xDB, 0, o⟩
  | .taskget o => some ⟨0xDC, 0, o⟩
  | .taskgetNb o => some ⟨0xDC, 1, o⟩
  | .taskdone o => some ⟨0xDD, 0, o⟩
  | .taskadd o => some ⟨0xDE, 0, o⟩
  | .cbind o => some ⟨0xE0, 0, o⟩
  | .cmaskS o => some ⟨0xE1, 0, o⟩
  | .cmaskV o => some ⟨0xE1, 1, o⟩
  | .cmaskM o => some ⟨0xE1, 2, o⟩
  | .cfeed o => some ⟨0xE2, 0, o⟩
  | .cfork o => some ⟨0xE3, 0, o⟩
  | .croll o => some ⟨0xE4, 0, o⟩
  | .cdrop o => some ⟨0xE5, 0, o⟩
  | .csave o => some ⟨0xE6, 0, o⟩
  | .cload o => some ⟨0xE7, 0, o⟩
  | .cstat o => some ⟨0xE8, 0, o⟩
  | .sysr o => some ⟨0xF0, 0, o⟩
  | .sysw o => some ⟨0xF1, 0, o⟩
  | .step o => some ⟨0xF2, 0, o⟩
  | .evt o => some ⟨0xF3, 0, o⟩
  | .clock o => some ⟨0xF4, 0, o⟩
  | .pathFill _ => none
  | .growGrant _ => none
  | .mmaStart _ => none
  | .mmaComplete _ => none
  | .mouldTransferDone _ => none
  | .loadReturn _ => none
  | .accessPerform _ => none
  | .replicaInvalidate _ _ => none
  | .sectorConvert _ _ _ => none
  | .datomArrival _ => none
  | .dflushPerform _ => none
  | .barrierUnitOp _ => none
  | .engineBytesLand _ _ => none
  | .watchFire _ _ => none
  | .fenceComplete _ _ => none
  | .sendInject _ => none
  | .channelPacketArrive _ => none
  | .allowanceReturn _ => none
  | .faultRecordPost _ => none
  | .resolveReplay _ _ _ => none
  | .resolveProtection _ _ _ => none
  | .resolveMchk _ _ _ => none
  | .longHandler _ => none
  | .watchdog _ => none
  | .pathBoost _ _ => none
  | .chainInterrupt _ => none
  | .stallSample _ => none
  | .traceRecord _ _ => none
  | .traceGo _ => none
  | .filterLoad _ _ => none
  | .tholdSet _ _ => none
  | .tholdClr _ _ => none
  | .traceOwner _ => none
  | .queueTailWrite _ _ _ _ => none
  | .dispatchEntry _ _ _ => none
  | .launchEnqueue _ => none
  | .kernelNodeStart _ _ => none
  | .clusterPlace _ => none
  | .coschedPlace _ => none
  | .jobsetNode _ _ => none
  | .condNode _ _ => none
  | .loopNodeIteration _ _ => none
  | .graphNode _ _ => none
  | .eventNode _ _ => none
  | .hostNodePost _ _ => none
  | .hostDone _ _ _ => none
  | .nodeComplete _ _ => none
  | .jobStart _ => none
  | .jobComplete _ => none
  | .jobFail _ _ => none
  | .jobStop _ => none
  | .genRaise _ _ => none
  | .genRaiseDone _ _ => none
  | .shootdownReceive _ _ _ _ => none
  | .shootdownAck _ _ _ _ _ => none
  | .shootdownChildTimeout _ _ => none
  | .shootdownTimeout _ _ => none
  | .peerInbound _ => none
  | .peerReply _ _ _ _ => none
  | .remoteTimeout _ => none
  | .migrateMove _ _ _ => none
  | .migrateRelease _ _ => none
  | .migrateCopyDone _ _ _ => none
  | .pinExpire _ _ _ => none
  | .preemptGo _ _ _ => none
  | .preemptStop _ => none
  | .preemptStopBound _ => none
  | .preemptDone _ _ => none
  | .resumeaWrite _ _ _ => none
  | .teamRestore _ _ => none
  | .creset _ _ _ _ => none
  | .groveDecrement _ => none
  | .coilMaskWalk _ => none
  | .coilFeedWalk _ => none
  | .maskUnitLand _ _ => none
  | .stepPerform _ => none
  | .sweepRoundStart _ _ _ => none
  | .sweepBeat _ => none
  | .sweepRoundEnd _ _ _ => none
  | .decaywGo _ _ => none
  | .decaywDone _ => none
  | .budgetPeriod _ _ => none
  | .pcmdCreate _ _ => none
  | .pcmdMerge _ _ => none
  | .pcmdSplit _ _ _ => none
  | .pcmdStop _ => none
  | .pcmdRerange _ => none
  | .quiesceDrained => none
  | .quiesceTimeout => none
  | .partitionBoot _ => none
  | .coldStart => none
  | .warm _ => none
  | .start => none
  | .startPhaseTimeout => none
  | .attestGo _ => none
  | .attestDone _ => none
  | .retireCore _ _ => none
  | .hbmRow _ => none
  | .hbmChannel _ => none
  | .sramRow _ _ _ => none
  | .lane _ _ => none
  | .port _ => none
  | .ccore _ => none
  | .repairBlockMove => none
  | .repairDone _ => none
  | .eccCorrected _ => none
  | .eccUncorrectable _ => none
  | .flitCrcError _ _ => none
  | .scrubBeat _ => none
  | .heartbeat => none
  | .heartbeatMiss _ => none
  | .shadowAck _ _ => none
  | .buddyMap _ _ _ _ _ _ => none
  | .firmwareUpdate _ _ _ => none
  | .microcodeLoad _ => none
  | .powerThrottle _ _ => none
  | .registerWrite _ => none
  | .shadowMirrorReceive _ _ _ _ _ => none
  | .heartbeatReceive _ => none
  | .powerFail => none


/-- C holds raw bits (IMC = 1, or the sets of a FENCE). -/
def CField.isRaw : CField → Bool
  | .raw _ => true
  | .sel _ => false

/-- The selector field C names; the neutral value where it holds raw bits. -/
def CField.asSel : CField → Sel
  | .sel s => s
  | .raw _ => .zero

/-! ### The selector rules (R30, R99, R100): detail 4 -/

def alignedV (n : BitVec 8) (w : Nat) : Bool := n.toNat % w == 0 && n.toNat + w ≤ 255
def alignedS (n : BitVec 6) (w : Nat) : Bool := n.toNat % w == 0 && n.toNat + w ≤ 64

/-- A vector or, with U = 1, a uniform destination; 0x0FF discards one 32-bit result. -/
def dstOk (uni : Bool) (w : Nat) : Sel → Bool
  | .v n => (n == 255 && w == 1) || (!uni && alignedV n w)
  | .s n => uni && alignedS n w
  | _ => false

def sdstOk (w : Nat) : Sel → Bool
  | .s n => alignedS n w
  | .v n => n == 255 && w == 1
  | _ => false

/-- A value of `w` registers: any readable register for one word, an aligned vector or uniform tuple for more (R99). -/
def srcOk (w : Nat) : Sel → Bool
  | .v n => w == 1 || alignedV n w
  | .s n => w == 1 || alignedS n w
  | .a _ => w == 1
  | .q _ => w == 1
  | .sp _ => w == 1
  | .p _ => false

def addrOk : Sel → Bool
  | .a _ => true
  | .s n => alignedS n 2
  | .v n => alignedV n 2
  | _ => false

def Sel.isZero (s : Sel) : Bool := s == Sel.zero

/-- Whether a selector may stand in a field of a role; the neutral-value rule of an unused field and the alignment of a form come later in R121 (log 28, DEDUCED). -/
def roleOk (uni : Bool) : Role → Sel → Bool
  | .unused, _ => true
  | .dst w, s => dstOk uni w s
  | .dstOpt w, s => s.isZero || dstOk uni w s
  | .sdst w, s => sdstOk w s
  | .pdst, s => match s with | .p _ => true | _ => false
  | .src w, s => srcOk w s
  | .usrc, s => sdstOk 1 s
  | .upair, s => sdstOk 2 s
  | .upairOpt, s => s.isZero || sdstOk 2 s
  | .ublock, s => match s with | .s n => n.toNat ≤ 51 | _ => false
  | .vecIn, s => match s with | .v _ => true | _ => false
  | .vecOut, s => match s with | .v _ => true | _ => false
  | .psrc, s => match s with | .p _ => true | _ => false
  | .addr, s => addrOk s
  | .addrOpt, s => s.isZero || addrOk s
  | .affine, s => match s with | .a _ => true | _ => false
  | .special, s => match s with | .sp _ => true | _ => false
  | .specialW, s => match s with | .sp r => r == .fmt || r == .prio | _ => false
  | .form _, s => match s with | .v _ => true | _ => false
  | .formD _, s => match s with | .v _ => true | _ => false
  | .dither, s => match s with | .p _ => false | _ => true
  | .raw, _ => true

/-- The alignment of a distribution form, and its freedom from v255 (R41): detail 7. -/
def formOk : Role → Sel → Bool
  | .form w, .v n => alignedV n w
  | .formD w, .v n => alignedV n w
  | _, _ => true

/-- The neutral value of an unused field (R96): detail 5 (log 80, DEDUCED). -/
def neutralOk : Role → Sel → Bool
  | .unused, s => s.isZero
  | _, _ => true

/-- The selector an extension holds beside the four fields: DSEL (R103). -/
def extSel (sh : Shape) (i : Imm) : Option Sel :=
  match sh.ext, i with
  | .dsel, .i64 v => selOfCode (v.toNat % 512)
  | _, _ => some .zero

/-- Extension and IMM32 bits that have to be zero (R103, R117, R118, R168): detail 5. -/
def extOk (sh : Shape) : Imm → Bool
  | .none => true
  | .i32 v => (!sh.immZero || v.toNat == 0) && (!sh.immHigh0 || v.toNat < 65536)
  | .i64 v =>
    match sh.ext with
    | .none => true
    | .zero => v.toNat == 0
    | .imm64 => true
    | .turn => v.toNat < 2 ^ 24
    | .tidx => v.toNat < 2 ^ 60
    | .dsel => v.toNat < 512
    | .cvtb => v.toNat < 16 && (v.toNat ≥ 8 || v.toNat == 0)

/-! ### Value constraints of the word itself (R102, R104, R115, R118, R249): detail 10 -/

/-- Turn `i` of a turn string (R103). -/
def turn (t : Nat) (i : Nat) : Nat := t / 4 ^ i % 4

/-- The index of the last eject of a turn string. -/
def lastEject (t : Nat) : Option Nat := ((List.range 12).filter (fun i => turn t i == 3)).getLast?

/-- R104: at least one eject, no turn after the route's end; a SENDR route ends at its first eject. -/
def turnOk (one : Bool) (t : Nat) : Bool :=
  match lastEject t with
  | none => false
  | some n => t / 4 ^ (n + 1) == 0 && (!one || ((List.range n).all (fun i => turn t i != 3)))

def imm32 : Imm → Nat
  | .i32 v => v.toNat
  | _ => 0

def imm64 : Imm → Nat
  | .i64 v => v.toNat
  | _ => 0

def fenceBits : CField → Nat
  | .raw v => v.toNat
  | .sel _ => 0

/-- The value rules a word breaks by itself. -/
def valueOk : Instr → Bool
  | .bra o => imm32 o.imm % 4 == 0
  | .brp o => imm32 o.imm % 4 == 0
  | .call o => imm32 o.imm % 4 == 0
  | .jarm _ o => imm32 o.imm % 4 == 0
  | .grow n _ => n != 0
  | .growNb n _ => n != 0
  | .shrink n _ => n != 0
  | .fence _ o => fenceBits o.c < 256 && fenceBits o.c % 16 != 0 && fenceBits o.c / 16 != 0
  | .fenceSc _ o => fenceBits o.c == 0xFF
  | .sendr _ o => turnOk true (imm64 o.imm)
  | .mcst _ o => turnOk false (imm64 o.imm)
  | .evt o => imm32 o.imm < 0x8000
  | _ => true

/-! ### The checks in order (R51, R121) -/

/-- The shape of a word's form. -/
def Enc.shape (e : Enc) : Shape :=
  match opRow e.op with
  | some r => formShape r e.m e.o.c.isRaw (immLen e.o.imm)
  | none => {}

def Enc.uni (e : Enc) : Bool := e.o.hdr.u && e.shape.uOk

/-- Operand B of DSCL is a uniform register, or 0x0FF with IMM32; a vector register there raises detail 4 (R172). -/
def dsclOk (e : Enc) : Bool :=
  match e.op, e.o.b with
  | 0x8F, .v n => n == 255 && immLen e.o.imm == .l96
  | _, _ => true

/-- The first of the details 4 to 8 that the operand fields break (log 27, DEDUCED) (log 80, DEDUCED). -/
def fieldReject (e : Enc) : Option Reject :=
  let sh := e.shape
  let o := e.o
  let h := o.hdr
  let c := o.c.asSel
  if (extSel sh o.imm).isNone || !(roleOk e.uni sh.d o.d && roleOk e.uni sh.a o.a && roleOk e.uni sh.b o.b && roleOk e.uni sh.c c
      && roleOk e.uni .dither ((extSel sh o.imm).getD .zero) && dsclOk e) then some .selector
  else if !(neutralOk sh.d o.d && neutralOk sh.a o.a && neutralOk sh.b o.b && neutralOk sh.c c && extOk sh o.imm) then some .neutral
  else if (h.pg == 7 && h.pn) || (sh.unguarded && !(h.pg == 7)) then some .guard
  else if (h.u && !sh.uOk) || ((h.le || h.nwb) && !sh.latchOk) || (!h.le && h.lq != 0) then some .latchField
  else if !(formOk sh.d o.d && formOk sh.a o.a && formOk sh.b o.b && formOk sh.c c) then some .distForm
  else if h.ch && sh.noChain then some .chain
  else none

/-- The first of the details 2 and 3 that opcode, MOD and length break: what a constructor's own fields could still get wrong. -/
def formReject (e : Enc) : Option Reject :=
  match opRow e.op with
  | none => some .opcode
  | some r =>
    if !(r.lens e.m).contains (immLen e.o.imm) then some .length
    else if (r.build e.m).isNone || (e.o.c.isRaw && !(r.rawC || (r.imc && immLen e.o.imm == .l64))) || (r.rawC && !e.o.c.isRaw)
        || (e.op == 0x3B && e.m == 0x0A && immLen e.o.imm == .l128) then some .modifier
    else none

/-- The first encoding fault of an instruction word, in the order of R121; none for a well-formed instruction. An event is no word. -/
def Instr.check (i : Instr) : Option Reject :=
  match i.enc with
  | none => some .opcode
  | some e => ((formReject e).or (fieldReject e)).or (if valueOk i then none else some .value)

end Sys2Proof
end

