-- ==== Sys2Proof/Config.lean ====
section
/-! DEFINITION. What the manual leaves to the implementation, to the die's fuses or to the passage of time: free values, without a body,
so that no proof can use a value of one. -/

namespace Sys2Proof

/-- Cycles beyond one that unit `u` counts during step `t` of the model (R8: no machine-wide time base; log 3, DESIGN CHOICE). -/
opaque Config.extraCycles (u t : Nat) : Nat

/-- The cycle counter of unit `u` after `t` steps: it starts at zero and rises by at least one a step (R8, R49, R250; log 3, DESIGN CHOICE). -/
def Config.unitCycle (u : Nat) : Nat → Nat
  | 0 => 0
  | t + 1 => Config.unitCycle u t + 1 + Config.extraCycles u t

/-- Which cached translation a full TLB of unit `u` replaces at step `t` (R338 gives no policy; log 9, DESIGN CHOICE). -/
opaque Config.tlbVictim (u t : Nat) : Nat

/-- Whether the walk cache of unit `u` still holds at step `t` the table of a level for the addresses with a prefix (R338 gives neither size nor policy; log 98,
DESIGN CHOICE). -/
opaque Config.walkKept (u t level pre : Nat) : Bool

/-- Which of several units is the next where nothing orders them, at step `t` (R381; log 21, DESIGN CHOICE). -/
opaque Config.unitChoice (t : Nat) : Nat

/-- Byte `i` of the internal parts of a save record written at step `t` (R357: "the layout is internal"; log 7, DESIGN CHOICE). -/
opaque Config.internalByte (t i : Nat) : Byte

/-- The physical site, 0 to 99 of its die, that the fuses give logical core `c`, and that of spare `i` of a region (R14, R15; log 10, DESIGN CHOICE). -/
opaque Config.fuseSite (c : Nat) : Nat
opaque Config.spareSite (region i : Nat) : Nat

/-- The heading with which a packet of a core enters its turn string, and the sense in which a left turn changes a heading (R104; log 10, DESIGN CHOICE). -/
opaque Config.routeHeading (c : Nat) : Nat
opaque Config.leftTurn : Bool

/-- Word `k` of the nonce of a report asked for through a management port at step `t` (R447; log 108, DESIGN CHOICE). -/
opaque Config.portNonce (t k : Nat) : BitVec 64

/-- This package's parent in the tree of an address space (R340, R464; log 107, DESIGN CHOICE). -/
opaque Config.treeParent (p asid : Nat) : Nat

/-- The frequency an island starts at, and its voltage at a frequency (R26, R27; log 15, DESIGN CHOICE). -/
opaque Config.islandFreq (n : Nat) : Nat
opaque Config.islandVolt (n freq : Nat) : Nat

/-- The 256-bit fuse secret UDS (R445; log 8, DESIGN CHOICE). -/
opaque Config.uds : Nat

/-- The bytes of the package serial number (R445; log 8, DESIGN CHOICE). -/
opaque Config.serial : List Byte

/-- The digest of fuse block `n` as phase 6 measures it (R446, MEAS3; log 8, DESIGN CHOICE). -/
opaque Config.fuseImage (n : Nat) : List Byte

/-- The repair map as phase 6 measures it, from the repairs recorded in it (R446, MEAS3; log 8, DESIGN CHOICE). -/
opaque Config.repairImage (repairs : List (Nat × Nat)) : List Byte

/-- The firmware image of a kind in a slot of Mboel's flash before any update (R462; log 8, DESIGN CHOICE). -/
opaque Config.firmwareImage (kind slot : Nat) : List Byte

/-- The channel that holds a physical address, numbered over all stacks: the manual gives rows and channels no place in an address (R455; log 15, DESIGN CHOICE). -/
opaque Config.hbmChannel (pa : Nat) : Nat

/-- The row, in its structure, that holds byte `loc` of a vault or bank (R455; log 15, DESIGN CHOICE). -/
opaque Config.sramRow (loc : Nat) : Nat

/-- Rows of each SRAM structure (R455; log 15, DESIGN CHOICE). -/
opaque Config.sramRows : Nat

/-- 64-byte blocks that a copying repair of a target moves (R456; log 15, DESIGN CHOICE). -/
opaque Config.repairBlocks (op target : Nat) : Nat

/-- What the vault of a site brought into service at step `t` holds: "the old vault's contents are lost" (R19, R457; log 15, DESIGN CHOICE). -/
opaque Config.newVault (t : Nat) : List Byte

/-- What the PEER record of partition `p` holds: the aperture table, its entries, and the fence table (R441; log 16, DESIGN CHOICE). -/
opaque Config.aperTable (p : Nat) : BitVec 64
opaque Config.aperEntries (p : Nat) : Nat
opaque Config.fenceTable (p : Nat) : BitVec 64

/-- Which of the values an image entry may be read with a walk takes (R379; log 11, DESIGN CHOICE). -/
opaque Config.imageChoice (n : Nat) : Nat

/-- Where the control complex puts the region of die `d`'s coil engine (R373; log 99, DESIGN CHOICE). -/
opaque Config.coilRegion (d : Nat) : Nat

/-- The payload of the spill event of a path that is spilled as it is created, before it has an index (R256, R420; log 14, DESIGN CHOICE). -/
opaque Config.newPathIndex (t : Nat) : Nat

end Sys2Proof
end

