-- ==== Sys2Proof/Machine/Map.lean ====
section
/-! DEFINITION. Finite maps as sorted lists of key and value pairs, the form the sparse parts of the state are held in. -/

namespace Sys2Proof

/-- A finite map: keys strictly rising in what `mset` makes. -/
abbrev Map (α : Type) := List (Nat × α)

/-- The value at a key. -/
def mget? {α : Type} : Map α → Nat → Option α
  | [], _ => none
  | (k, a) :: m, n => if k = n then some a else mget? m n

/-- The value at a key, or a default. -/
def mgetD {α : Type} (m : Map α) (n : Nat) (d : α) : α := (mget? m n).getD d

/-- The map with the key's value replaced or added, in key order. -/
def mset {α : Type} : Map α → Nat → α → Map α
  | [], n, v => [(n, v)]
  | (k, a) :: m, n, v => if n < k then (n, v) :: (k, a) :: m else if n = k then (n, v) :: m else (k, a) :: mset m n v

/-- The map without the key. -/
def merase {α : Type} (m : Map α) (n : Nat) : Map α := m.filter (fun x => x.1 != n)

/-- The map with the key's value changed, when it has one. -/
def mmodify {α : Type} (m : Map α) (n : Nat) (f : α → α) : Map α :=
  match mget? m n with
  | some a => mset m n (f a)
  | none => m

/-- The least key not below `n` that the map does not hold, tried `fuel` times. -/
def mfree {α : Type} (m : Map α) : Nat → Nat → Option Nat
  | 0, _ => none
  | fuel + 1, n => if (mget? m n).isNone then some n else mfree m fuel (n + 1)

/-- Set a word of a map whose unlisted keys read as zero. -/
def zset {n : Nat} (m : Map (BitVec n)) (k : Nat) (v : BitVec n) : Map (BitVec n) := if v = 0 then merase m k else mset m k v

/-- Read a word of such a map. -/
def zget {n : Nat} (m : Map (BitVec n)) (k : Nat) : BitVec n := mgetD m k 0

/-- The keys of the entries that meet a test, in key order. -/
def mkeys {α : Type} (m : Map α) (p : Nat → α → Bool) : List Nat := (m.filter (fun x => p x.1 x.2)).map (·.1)

def listGet {α : Type} (d : α) : List α → Nat → α
  | [], _ => d
  | a :: _, 0 => a
  | _ :: l, n + 1 => listGet d l n

def listSet {α : Type} : List α → Nat → α → List α
  | [], _, _ => []
  | _ :: l, 0, v => v :: l
  | a :: l, n + 1, v => a :: listSet l n v

/-- The first element that is least by a measure. -/
def minBy? {α : Type} (f : α → Nat) : List α → Option α
  | [] => none
  | a :: l =>
    match minBy? f l with
    | none => some a
    | some b => if f a ≤ f b then some a else some b

/-- Bits [lo + n − 1 : lo] of a number. -/
def bits (w lo n : Nat) : Nat := w / 2 ^ lo % 2 ^ n

/-- One bit of a number. -/
def bit (w i : Nat) : Bool := w / 2 ^ i % 2 == 1

/-- A signed reading of the low `n` bits. -/
def sext (w n : Nat) : Int := if bit w (n - 1) then (w % 2 ^ n : Int) - 2 ^ n else (w % 2 ^ n : Nat)

/-- An integer modulo 2^n. -/
def wrap (n : Nat) (i : Int) : Nat := (i % (2 ^ n : Int)).toNat

/-- The number whose bytes, least significant first, are these (R2). -/
def leNat : List Byte → Nat
  | [] => 0
  | b :: l => b.toNat + 256 * leNat l

/-- The `k` bytes of a number, least significant first (R2). -/
def natLe : Nat → Nat → List Byte
  | 0, _ => []
  | k + 1, n => BitVec.ofNat 8 n :: natLe k (n / 256)

/-- Lanes of a mask, ascending. -/
def lanes (m : Mask) : List Nat := (List.range 64).filter (fun i => m.getLsbD i)

/-- The mask of lanes that meet a test, among the lanes of `m`. -/
def maskFilter (m : Mask) (p : Nat → Bool) : Mask :=
  (lanes m).foldl (fun acc i => if p i then acc ||| (1#64 <<< i) else acc) 0

/-- The mask of all lanes below `w`. -/
def fullMask (w : Nat) : Mask := BitVec.ofNat 64 (2 ^ w - 1)

end Sys2Proof
end

