-- ==== Sys2Proof/Machine/State.lean ====
section
/-! DEFINITION. The state of the package as plain data: what each chapter of the manual gives a group, a quarter, a core, a die, a partition and the
package, what is in flight between them, and the state after reset. Keys: core = 96 × die + logical index; quarter = 4 × core + %quarter; group =
16 × quarter + slot. -/

namespace Sys2Proof.Machine

/-- The machine stops. No instruction and no event of the manual stops the part (R7); only a meaning called without an issuing path does. Safe: no run of
`step` calls one so. -/
inductive Fault where
  /-- An instruction's meaning was asked for while no path is issuing (`State.cur` names none). Raised by the meanings themselves; safe. -/
  | noIssuer
  deriving DecidableEq, Repr

/-- No meaning. -/
inductive Refusal where
  /-- The instruction has no meaning yet; raised by `exec`'s arms only. Safe. -/
  | notModelled (mnemonic : String)
  deriving DecidableEq, Repr

/-! ### Traps (R350) -/

inductive Cause where
  | ill | alignFetch | regRange | priv | prot | remoteFault | remoteTimeout | barOver | watchdog | pathOverflow | growFail | mchk | bkpt | swtrap
  | chanBroken | coilErr
  deriving DecidableEq, Repr

def Cause.code : Cause → Nat
  | .ill => 1 | .alignFetch => 2 | .regRange => 3 | .priv => 4 | .prot => 5 | .remoteFault => 6 | .remoteTimeout => 7 | .barOver => 8 | .watchdog => 9
  | .pathOverflow => 10 | .growFail => 11 | .mchk => 12 | .bkpt => 13 | .swtrap => 14 | .chanBroken => 15 | .coilErr => 16

/-- A trap: its cause and the value of the frame's ADDR field. -/
structure Trap where
  cause : Cause
  addr : Nat
  deriving DecidableEq, Repr

/-! ### A path (R38, R39, R254) -/

/-- A loop stack entry (R38). -/
structure Loop where
  start : Pc
  endofs : W32
  count : BitVec 24
  deriving DecidableEq, Repr

/-- A rejoin register (R37): its saved stack is listed from the bottom entry up. -/
structure Rejoin where
  jpc : Pc
  armed : Bool
  lost : Bool
  expected : Mask
  arrived : Mask
  fmt : W32
  stack : List Loop
  deriving DecidableEq, Repr

/-- Where a chain runs again: its head, and the stream counter when the head issued (R44, R68). -/
structure Restart where
  head : Pc
  ctr : W32
  deriving DecidableEq, Repr

/-- What a path that cannot go on waits for: but for a send, whose packet leaves when the wait is over, the instruction then issues anew. -/
inductive WaitFor where
  /-- Registers with an outstanding write (R255): keys as in `Group.pending`. -/
  | regs (ks : List Nat)
  /-- Accesses that have to be performed first (R183, R186, R295, R232). -/
  | accesses (ids : List Nat)
  /-- A fence of another path holds an access of these sets (R194). -/
  | fenced (sets : Nat)
  /-- The quarter's queue of four MMAs is full (R225). -/
  | mmaRoom
  /-- Tile transfers that have to end first (R222). -/
  | transfers (ids : List Nat)
  /-- The die's job scheduler holds 1,024 incomplete jobs (R287). -/
  | jobRoom
  /-- Operations of the coil engine on a slot that are not yet taken (R240), or that have not yet landed (R241). -/
  | coil (slot : Nat)
  | coilDone (slot : Nat)
  /-- A latch that a load has still to write. -/
  | load (iid : Nat)
  /-- The group's open round of a rendezvous has to execute (R265). -/
  | round
  /-- Accesses and jobs that a release has to find performed (R238). -/
  | released (accs jobs : List Nat)
  /-- The allowances of a send, by the send's number (R213). -/
  | send (sid : Nat)
  deriving DecidableEq, Repr

/-- What a blocked path waits for (R254). -/
inductive Block where
  /-- A wait after which the instruction issues anew, with a fresh ready stamp. -/
  | again (w : WaitFor)
  /-- FENCE: the items its predecessor set names, and its scope and successor set (R194). -/
  | fence (scope : Scope) (accs xfers jobs masks : List Nat) (succ : Nat)
  /-- A barrier operation on its way to its unit, or a BWAIT whose phase has not completed: the request's number (R205, R209). -/
  | barrier (rid : Nat)
  | grow (n : Nat)
  | fuse (slot : Nat)
  /-- RECV with its number, which orders it among the receives of its team and which a fence waits for (R193, R214). -/
  | recv (id ch : Nat) (dst : Sel) (ofs : Nat)
  /-- TASKGET: the mask, the block's first register, and its place in the order of arrival (R237). -/
  | taskget (mask dst seq : Nat)
  /-- TASKDONE of an entry, releasing first (R238). -/
  | taskdone (entry : Nat) (accs jobs : List Nat)
  /-- LAUNCH and GSIG, releasing and then waiting for room (R236). -/
  | launch (lid : Nat)
  | dflush (fid : Nat)
  /-- STEP: what it releases first, and its predicate (R248). -/
  | step (accs jobs : List Nat) (dst : Sel)
  /-- An MMA or MZERO held at the rendezvous latch (R265). -/
  | rendezvous
  /-- An MMA or MZERO whose gang has ended while another path's trap handler runs: it raises ILL once that handler returns (R266, R351). -/
  | gangLost
  /-- A peer access without its reply (R342). -/
  | peer (id : Nat)
  /-- CLOCK: loads, MMAs and tile loads, and paths with an instruction to be completed, that were issued earlier, and the register it writes (R250). -/
  | clock (items paths : List Nat) (dst : Sel)
  deriving DecidableEq, Repr

/-- The states of R254; an exited path is removed, and fault-parking is the group's. -/
inductive PState where
  | ready
  | waiting (w : WaitFor)
  | blocked (b : Block)
  | parked (j : Nat)
  | held
  deriving DecidableEq, Repr

/-- A path. `entry` is its path-table index, none while it is spilled (R256). `loops` lists the loop stack from the bottom up. -/
structure Path where
  entry : Option Nat
  mask : Mask
  pc : Pc
  fmt : W32
  loops : List Loop
  st : PState
  /-- The ready stamp (R259), and for R260 and R263 the cycle of its last issue or entry into the ready state with the ready cycles counted before that. -/
  stamp : Nat
  since : Nat
  idle : Nat
  boosted : Bool
  /-- Bytes of the instruction it last issued, which a blocked path completes past, and that instruction's PC. -/
  ilen : Nat
  ipc : Pc
  /-- The chain that the instruction the path is blocked or waits at stands in, once that chain has ended at it (R44). -/
  back : Option Restart
  /-- The last instruction had CH = 1, so a further one with CH = 1 continues its chain (R42). -/
  lastCh : Bool
  /-- The head of a chain whose run R261 has interrupted: it is not interrupted so again. -/
  noCut : Option Pc
  /-- To be held at its next instruction boundary (R429). -/
  hold : Bool
  deriving DecidableEq, Repr

/-! ### A group (R29, R35) -/

/-- An affine register (R36). -/
structure Affine where
  base : W64
  stride : W32
  deriving DecidableEq, Repr

/-- A register with an outstanding write: a vector register is its number, a uniform register 256 + its number, a predicate 512 + its number. -/
structure Pending where
  reg : Nat
  pc : Pc
  iid : Nat
  deriving DecidableEq, Repr

/-- The trap handler a group runs (R351): the path in it and the count of its core's cycles at entry. -/
structure Handler where
  pid : Nat
  since : Nat
  reported : Bool
  deriving DecidableEq, Repr

/-- A fault park (R182, R344): the parked path, its unfinished lanes, the records posted for it that are not yet resolved, the worst action so far, and the
lowest faulting lane with its address and the instruction's PC among the records that action resolved. -/
structure Park where
  pid : Nat
  mask : Mask
  recs : List Nat
  worst : Nat
  lane : Nat
  va : Nat
  pc : Nat
  deriving DecidableEq, Repr

/-- An instruction performed in part: its PC, the lanes already performed, and the SEQ its lanes carry (R198). -/
structure Unfinished where
  pc : Pc
  /-- Where its path resumes: the head of its chain, or the PC itself. -/
  resume : Pc
  done : Mask
  seq : Option Byte
  deriving DecidableEq, Repr

/-- A group resident in a slot. -/
structure Group where
  launch : Nat
  rank : Nat
  width : Nat
  base : Nat
  blocks : Nat
  /-- Vector registers: register × 64 + lane, zero where unlisted (R32, R35). -/
  v : Map W32
  s : Map W32
  a : Map Affine
  /-- Predicates p0 to p6 as lane masks (R31). -/
  p : Map Mask
  rejoin : Map Rejoin
  paths : Map Path
  nextPid : Nat
  /-- Lanes that have not exited. -/
  live : Mask
  /-- Spill entries, 64 bytes each (R130). -/
  spill : Nat
  prio : Nat
  pending : List Pending
  /-- Stream state (R230). -/
  key : W64
  ctr : W32
  ofs : W32
  /-- DZ of the group status word (R148). -/
  dz : Bool
  /-- The %cycle capture of R49. -/
  cycap : W64
  /-- DATOM count modulo 256 (R198), and the offset of the group's lanes before any SPLIT. -/
  seq : Byte
  watchdog : Nat
  /-- The check of R263 has found for WATCHDOG while no path could take the trap: the first path to be chosen takes it. -/
  wdDue : Bool
  handler : Option Handler
  park : Option Park
  /-- By path: an instruction that a page fault has parked with some lanes performed, kept until it completes in all its lanes (R44, R182, R347). -/
  unfinished : Map Unfinished
  /-- Stopped for good (R351). -/
  dead : Bool
  /-- Stopped for pre-emption, waiting to be saved (R354). -/
  stopped : Bool
  /-- Tasks the group holds (R238), as entries of its die's grove. -/
  tasks : List Nat
  /-- Cycle of the group's last issue, its path and its PC, for the watchdog check (R263). -/
  lastIssue : Nat
  lastPid : Nat
  lastPc : Pc
  deriving DecidableEq, Repr

/-! ### A quarter (R29, R45 to R47) -/

/-- A mould slot: the 64-byte mould, its valid bit and the permutation store, none for the identity (R46, R219). -/
structure MouldSlot where
  mould : BitVec 512
  valid : Bool
  perm : Option (List Nat)
  deriving DecidableEq, Repr

/-- An accumulator: mean and variance planes, element 64 × row + column, +0.0 where unlisted (R45). -/
structure Accum where
  mean : Map W32
  var : Map W32
  deriving DecidableEq, Repr

/-- An MRD or MWR that the unit has still to perform (R225, R226): the results it is to give, or the values it holds by lane, with its access word. -/
inductive AccMove where
  | read (iid word : Nat) (mask : Mask)
  | write (word : Nat) (vals : Map Nat)
  deriving DecidableEq, Repr

/-- An operation of the matrix unit on an accumulator, with copies of what it reads (R218, R223). -/
structure MmaOp where
  id : Nat
  acc : Bool
  /-- MZERO, which clears both planes. -/
  zero : Bool
  gk : Nat
  a : MouldSlot
  b : MouldSlot
  aOfs : Nat
  bOfs : Nat
  fmt : W32
  running : Bool
  /-- An MRD or MWR. -/
  move : Option AccMove := none
  deriving DecidableEq, Repr

/-- What the members of a round have to agree in (R265). -/
structure RoundKey where
  zero : Bool
  acc : Bool
  ma : Nat
  mb : Nat
  aOfs : Nat
  bOfs : Nat
  fmt : W32
  deriving DecidableEq, Repr

/-- The open round of the rendezvous latch: its first arrival's instruction, and the members held. -/
structure Round where
  key : RoundKey
  members : List (Nat × Nat)
  deriving DecidableEq, Repr

/-- A chain in progress (R42, R43): its path, its head, the members issued, the latches written, and what a restart needs. -/
structure Chain where
  gk : Nat
  pid : Nat
  head : Pc
  count : Nat
  /-- Which of q0 to q3 are written, and by which load a latch is still awaited. -/
  written : List Bool
  waitLoad : Map Nat
  /-- The stream counter when the head issued (R68). -/
  ctr : W32
  /-- Cycle at which its next member was last found not ready (R261). -/
  since : Nat
  deriving DecidableEq, Repr

structure GrowReq where
  gk : Nat
  pid : Nat
  n : Nat
  deriving DecidableEq, Repr

structure Quarter where
  gang : W32
  acc : Map Accum
  slots : Map MouldSlot
  mmaq : List MmaOp
  round : Option Round
  chain : Option Chain
  /-- Latches: 64 × latch + lane (R43). -/
  latch : Map W32
  growq : List GrowReq
  /-- The lost-reconvergence count (R136). -/
  lost : W32
  /-- The core's cycle up to which stall samples are taken (R421). -/
  sampled : Nat
  deriving DecidableEq, Repr

def Quarter.idle : Quarter :=
  { gang := 0, acc := [], slots := [], mmaq := [], round := none, chain := none, latch := [], growq := [], lost := 0, sampled := 0 }

/-! ### A core -/

/-- A frame of the core cache (R269): the superblock's number PA / 512, its valid lines with their bytes and retention hint, and the last use. -/
structure Frame where
  tag : Nat
  lines : Map (List Byte × Nat)
  used : Nat
  deriving DecidableEq, Repr

/-- A watch of the core's barrier unit (R210): the object (storage address), its index, the watched 8-byte word (storage address), and whether a write has
been performed that it has still to fire on. -/
structure Watch where
  obj : Nat
  idx : Nat
  word : Nat
  /-- The watched address as WATCH gave it, and its address space, for the save record. -/
  va : Nat
  hit : Bool
  deriving DecidableEq, Repr

/-- The team on a core (R252, R268): its launch, cluster and team index, its ranks' group keys, and the scratch it holds. -/
structure Team where
  launch : Nat
  clid : Nat
  idx : Nat
  /-- Pre-emption under way: the request's number (R353). -/
  preempt : Option Nat
  /-- Cycle of the die's counter at the request (R354). -/
  since : Nat
  /-- Beats of its save record that the SAVE budget has paid (R453). -/
  paid : Nat := 0
  deriving DecidableEq, Repr

structure Core where
  team : Option Team
  frames : List Frame
  watches : Map Watch
  /-- A retired core site's position has no core behind it (R12, R457). -/
  gone : Bool
  deriving DecidableEq, Repr

def Core.idle : Core := { team := none, frames := [], watches := [], gone := false }

/-! ### Translation (R334 to R349) -/

/-- What a leaf gives (R336): the page's first physical address or peer frame, its size, and its bits [7:2]. -/
structure Leaf where
  frame : Nat
  size : Nat
  flags : Nat
  deriving DecidableEq, Repr

/-- A cached translation (R338). -/
structure TlbEntry where
  part : Nat
  asid : Nat
  gen : W16
  page : Nat
  leaf : Leaf
  deriving DecidableEq, Repr

/-- An entry of a walk cache (R338): the next table of a walk, found above a level for the addresses that share a prefix. -/
structure WalkEntry where
  part : Nat
  asid : Nat
  gen : W16
  level : Nat
  pre : Nat
  table : Nat
  deriving DecidableEq, Repr

/-- Kinds of an access for permission and for the fault record (R337, R345). -/
inductive AccKind where
  | load | store | atomic | fetch | engRead | engWrite
  deriving DecidableEq, Repr

/-- A fault record, from its making until it is resolved (R345, R346). -/
structure FRec where
  id : Nat
  part : Nat
  die : Nat
  kind : Nat
  cause : Nat
  asid : Nat
  gk : Option Nat
  mask : Mask
  pc : Nat
  va : Nat
  posted : Bool
  deriving DecidableEq, Repr

/-! ### Accesses in flight -/

/-- What an access does at its performing point. -/
inductive Op where
  | load (sz : Sz)
  | store (bytes : List Byte)
  /-- Bytes of an engine, counted before they are performed on the other die (R303). -/
  | land (bytes : List Byte)
  | atomic (op : Aop) (w64 : Bool) (b c : Nat)
  | ldrg
  | radd (u : W32)
  | rmerge (o : W64)
  | datom (key : Nat) (u : W32)
  | dstat
  /-- CCTL at scope .cl or wider: write back, and drop when set (R191). -/
  | cctl (drop : Bool)
  /-- DFLUSH over storage ranges on memory-side pages (R200). -/
  | dflush (ls : List (Nat × Nat))
  deriving DecidableEq, Repr

/-- One lane's access of an instruction, from its issue until it is performed. -/
structure Access where
  /-- The instruction it belongs to. -/
  iid : Nat
  gk : Nat
  /-- Group identity that outlives the slot's reuse. -/
  launch : Nat
  part : Nat
  asid : Nat
  die : Nat
  core : Nat
  lane : Nat
  op : Op
  scope : Scope
  rh : Retain
  /-- Storage address and length. -/
  loc : Nat
  len : Nat
  va : Nat
  /-- Cacheable device memory rather than a memory-side page, a vault or scratch (R181). -/
  cacheable : Bool
  /-- Crossing or in-die (R294), and the die on which it is performed. -/
  crossing : Bool
  home : Nat
  /-- Which 8-byte word of a 16-byte access to a memory-side page this is (R280). -/
  word : Nat
  /-- Performed as far as its issuing die can tell: the number of the fence or arrival of a narrow scope that has gone on without it (R290, R303). -/
  relied : Option Nat
  /-- A write at its home that has sent an invalidation and holds the reads of its sector (R293). -/
  claimed : Bool
  /-- The package of a peer access. -/
  peer : Option Nat
  deriving DecidableEq, Repr

/-- A load, atomic or status read whose result is still to come back to registers (R255). -/
structure LoadI where
  gk : Nat
  pid : Nat
  pc : Pc
  mask : Mask
  dst : Sel
  words : Nat
  uni : Bool
  nwb : Bool
  latch : Option Nat
  /-- The chain it was issued in, where a poisoned result resumes (R44, R350). -/
  back : Option Restart
  /-- Lanes not yet performed, and the values of the others. -/
  left : Mask
  /-- Lanes whose upper 8 bytes are still to come from a memory-side page (R280). -/
  upper : Mask
  got : Map Nat
  /-- Address of poisoned bytes met. -/
  poison : Option Nat
  deriving DecidableEq, Repr

/-- A piece of a tile (R284, R285): byte of the image, storage address, length, and whether it lies in cacheable memory. -/
structure Run where
  img : Nat
  loc : Nat
  len : Nat
  cached : Bool
  deriving DecidableEq, Repr

/-- A tile transfer of a mould engine, checked and translated at issue (R220, R221): its image in the TOB, its pieces in memory, and the image bytes that
read 0x7F. -/
structure Xfer where
  gk : Nat
  launch : Nat
  core : Nat
  q : Nat
  /-- TST rather than TLD. -/
  out : Bool
  /-- Byte offset and size of the image in the TOB. -/
  tob : Nat
  size : Nat
  runs : List Run
  pads : List Nat
  /-- Columns of 1-byte or, when set, 2-byte elements (R275, R284). -/
  cols : Option Bool
  /-- The mould's hint writes its stores on to HBM (R189, R282). -/
  past : Bool
  /-- Addresses on the pages of the next tile (R286). -/
  ahead : List Nat
  deriving DecidableEq, Repr

/-- A barrier operation on its way to the unit that performs it (R205). -/
inductive BarOp where
  | init (scope : Scope) (exp tgt : Nat)
  | arrive (bytes : Option Nat)
  | bexp (bytes : Nat)
  | wait (n : Nat) (dst : Sel)
  | tryit (n : Nat) (dst : Sel)
  | watch (i : Nat) (word : Option Nat) (va : Nat)
  deriving DecidableEq, Repr

structure BarReq where
  gk : Nat
  pid : Nat
  core : Nat
  /-- Storage address of the object, and the address operand for the trap frame. -/
  obj : Nat
  ea : Nat
  op : BarOp
  /-- For an arrival: accesses to be performed at the object's scope first (R207). -/
  after : List Nat
  /-- A BWAIT that its unit has taken and whose phase has not completed (R209). -/
  parked : Bool
  deriving DecidableEq, Repr

/-! ### Channels (R211 to R215, R315) -/

structure ChanRec where
  id : Nat
  slots : Nat
  size : Nat
  pcl : Nat
  pteam : Nat
  cons : List (Nat × Nat)
  deriving DecidableEq, Repr

/-- A packet's data, with the 32-byte lines of it that are poisoned (R288). -/
structure Data where
  bytes : List Byte
  bad : List Nat
  deriving DecidableEq, Repr

/-- A channel's running state: per consumer the allowances its producer holds, the filled slots oldest first, and whether it is broken. -/
structure Chan where
  allow : List Nat
  filled : List (List Data)
  broken : Bool
  deriving DecidableEq, Repr

/-- A send waiting for its allowances (R213). -/
structure SendReq where
  gk : Nat
  pid : Nat
  launch : Nat
  ch : Nat
  /-- Its data's place in the team's scratch. -/
  ofs : Nat
  len : Nat
  /-- Indices of the consumers it reaches. -/
  cons : List Nat
  deriving DecidableEq, Repr

/-- A packet under way on a channel, with the number of its send and the sending group. -/
structure Packet where
  send : Nat
  gk : Nat
  launch : Nat
  ch : Nat
  con : Nat
  data : Data
  deriving DecidableEq, Repr

/-! ### Launches and graphs (R312 to R330) -/

/-- A grid in run: the fields of its descriptor that its groups need, and what is placed. -/
structure Launch where
  part : Nat
  desc : Nat
  entry : Pc
  args : Nat
  banks : W64
  fmt : W32
  scratch : Nat
  regs : Nat
  width : Nat
  ngroups : Nat
  clw : Nat
  clh : Nat
  grid : Nat
  prio : Nat
  dies : Nat
  asid : Nat
  step : Bool
  sys : Bool
  cosched : Bool
  epoch : Nat
  handler : Nat
  qrights : W64
  save : Nat
  chans : List ChanRec
  chan : Map Chan
  /-- The graph node it runs for. -/
  inst : Nat
  node : Nat
  /-- Cycle order of its start (R329). -/
  seq : Nat
  /-- Clusters not yet placed, from this %clid up; clusters of saved teams wait as `saved`. -/
  nextCl : Nat
  /-- Live teams, saved ones included. -/
  teams : Nat
  failed : Bool
  deriving DecidableEq, Repr

/-- A hardware queue's block (R316), with the dispatcher's place in it. -/
structure HwQueue where
  base : W64
  head : W16
  tail : W16
  log2n : BitVec 4
  en : Bool
  serial : Bool
  dev : Bool
  /-- Live instances from this queue. -/
  live : Nat
  /-- Rights of the entries that LAUNCH has made, by index (R314): system class, step privilege, queue rights. -/
  rights : Map (Bool × Bool × W64)
  deriving DecidableEq, Repr

def HwQueue.reset : HwQueue := { base := 0, head := 0, tail := 0, log2n := 0, en := false, serial := false, dev := false, live := 0, rights := [] }

/-- A LAUNCH or GSIG on its way to the dispatcher (R236): what it waits for, the queue, and the status register. -/
structure LaunchReq where
  gk : Nat
  pid : Nat
  /-- Storage address of the node or of the FLAG to be written, and whether it lies in cacheable memory. -/
  node : Nat
  cached : Bool
  va : Nat
  gsig : Bool
  queue : Nat
  dst : Option Sel
  accs : List Nat
  jobs : List Nat
  deriving DecidableEq, Repr

/-- A node of an instance (R322): one whose bytes wait for a fault record to be resolved, one that counts decrements, and so on to a completed one, whose
successors have still to be decremented while it is completing. -/
inductive NState where
  | unread
  | counting (left : Nat)
  | ready
  | running
  | completing
  | done
  deriving DecidableEq, Repr

structure GNode where
  addr : Nat
  /-- The node as it was read whole. -/
  bytes : BitVec 512
  st : NState
  /-- Successors decremented, of a completing node; cards submitted by a JOBSET; iterations of a LOOP. -/
  prog : Nat
  /-- Jobs of a JOBSET. -/
  jobs : List Nat
  /-- The nested instance it runs. -/
  sub : Option Nat
  /-- The only successor a COND decrements. -/
  chosen : Option Nat
  /-- A fault record for which the dispatcher waits at this node (R344). -/
  frec : Option Nat
  /-- Storage address of a posted HOST node's DONE, and whether a nonzero DONE has been written (R326). -/
  watch : Option (Nat × Bool)
  hit : Bool
  deriving DecidableEq, Repr

/-- A graph instance (R319); a nested one names its parent and that node. -/
structure GInst where
  part : Nat
  die : Nat
  queue : Nat
  asid : Nat
  tag : W32
  status : Nat
  nodes : Map GNode
  /-- The rights of the launching group; none stated for an entry of a control core (R314). -/
  rights : Option (Bool × Bool × W64)
  parent : Option (Nat × Nat)
  depth : Nat
  fnode : Nat
  code : Nat
  capHit : Bool
  ran : Nat
  /-- A fault record for which its status record waits. -/
  frec : Option Nat
  deriving DecidableEq, Repr

/-! ### Jobs (R331 to R333) -/

inductive JState where
  | waiting | running | complete | stopped | failed
  deriving DecidableEq, Repr

structure Job where
  handle : Nat
  /-- Its place in the order of submission (R287, R356). -/
  seq : Nat
  part : Nat
  asid : Nat
  die : Nat
  /-- The issuing group's key, launch and PC; none for a JOBSET card. -/
  gk : Option Nat
  launch : Option Nat
  core : Option Nat
  pc : Nat
  card : BitVec 512
  /-- Storage address of the landing object. -/
  bar : Option Nat
  st : JState
  cause : Nat
  /-- Bytes of W written, from its start. -/
  pos : Nat
  /-- A fault record it waits for (R344). -/
  frec : Option Nat
  /-- It may reach pages of the system class (R337). -/
  sys : Bool
  /-- Source bytes of its next piece that a peer has sent, by virtual address. -/
  got : List (Nat × List Byte)
  /-- Bytes of W in the piece that peers are to acknowledge. -/
  wrote : Nat
  /-- The translating unit of its engine (R17, R338). -/
  eng : Nat
  /-- An UPDATE whose pages are looked at (R332). -/
  checked : Bool
  /-- Moulds A and B of a MOULD card, as read with it. -/
  moulds : List (BitVec 512)
  deriving DecidableEq, Repr

/-! ### The coil engine (R372 to R379) -/

/-- A configuration with its DEAD bit; the stack from the bottom up (R368). -/
structure CoilCfg where
  state : W16
  stack : List W16
  dead : Bool
  deriving DecidableEq, Repr

/-- A bound slot: its partition, the address space and image of its binding (R367, R372), its configuration and live snapshots. -/
structure CoilSlot where
  part : Nat
  asid : Nat
  image : Nat
  /-- The image's header as it was checked, and the step of the model at which it was (R379). -/
  hdr : BitVec 512
  bound : Nat
  cfg : CoilCfg
  snaps : Map CoilCfg
  /-- The class of the binding group may reach pages of the system class (R337). -/
  sys : Bool
  deriving DecidableEq, Repr

/-- A CMASK or CFEED in its die's queue, or a CMASK whose mask lands (R374, R375); or a CSTAT that waits for a fault record. -/
structure CoilReq where
  slot : Nat
  part : Nat
  gk : Nat
  launch : Nat
  /-- The status register of a CFEED or CSTAT, and a CFEED's token; none for a CMASK. -/
  feed : Option (Option Nat × Sel)
  /-- Storage addresses of the units of the mask's destination, and of the landing object. -/
  dst : List Nat
  bar : Nat
  /-- The configuration a taken CMASK has copied. -/
  cfg : Option CoilCfg
  /-- The mask, once walked, and the units that have still to land. -/
  mask : List Byte
  units : List Nat
  /-- A fault record the walk waits for (R344), and items resolved as malformed (R346). -/
  frec : Option Nat
  bad : List Nat
  deriving DecidableEq, Repr

/-! ### The grove (R392 to R399) -/

inductive GroveSt where
  | waiting | ready | running
  deriving DecidableEq, Repr

/-- An entry that is not FREE. -/
structure Task where
  st : GroveSt
  type : Nat
  cnt : Nat
  succ : List Nat
  arg : BitVec 384
  part : Nat
  asid : Nat
  stamp : Nat
  deriving DecidableEq, Repr

/-- A decrement on its way to its successor (R397), as die × 8,192 + entry, with the number of the TASKDONE it comes from. -/
structure Decrement where
  id : Nat
  src : Nat
  entry : Nat
  part : Nat
  deriving DecidableEq, Repr

/-! ### The saggar units (R199 to R202, R348, R349, R388) -/

/-- A word tracked for deterministic atomics: its epoch, held addends with their keys, its flags, and when it was last used (R199) (log 83, DEDUCED). -/
structure DWord where
  epoch : Nat
  held : List (Nat × W32)
  tie : Bool
  ovf : Bool
  fl : Bool
  spill : Nat
  used : Nat
  deriving DecidableEq, Repr

/-- A page in a unit's thrash table (R348). -/
structure Thrash where
  asid : Nat
  vpage : Nat
  count : Nat
  /-- Unit cycle of the first migration of the window, and of the pin. -/
  start : Nat
  pinned : Option Nat
  deriving DecidableEq, Repr

structure Saggar where
  /-- Tracked words, keyed epoch × 2^40 + storage address (R199). -/
  words : Map DWord
  /-- Sticky tracking-fallback flags by epoch. -/
  fell : List Nat
  thrash : List Thrash
  rstale : W32
  /-- The region served last, for the round robin of R389: 16 × identifier + entry. -/
  swept : Nat
  deriving DecidableEq, Repr

def Saggar.idle : Saggar := { words := [], fell := [], thrash := [], rstale := 0, swept := 0 }

/-- A redirect of a migrated page (R349): source and destination frames, the page's size, and the page as the command named it. -/
structure Redirect where
  src : Nat
  dst : Nat
  size : Nat
  asid : Nat
  vpage : Nat
  deriving DecidableEq, Repr

/-- The migrate registers of a partition on a die (R349) and the command in progress. -/
structure Migrate where
  va : W64
  dst : W64
  asid : Nat
  op : Nat
  status : Nat
  busy : Bool
  thr : Byte
  copying : Option Redirect
  /-- Beats of the copy that the MIGRATE budget has still to pay (R453). -/
  left : Nat := 0
  deriving DecidableEq, Repr

def Migrate.reset : Migrate := { va := 0, dst := 0, asid := 0, op := 0, status := 0, busy := false, thr := 4, copying := none }

/-- A sweep round of a ring region in progress (R388): its first step, the region, and the next block to visit. -/
structure SweepRound where
  s0 : BitVec 24
  base : Nat
  len : Nat
  pos : Nat
  /-- Physical address of the region's entry. -/
  ent : Nat
  deriving DecidableEq, Repr

/-- What the keeper knows of a region between rounds: the step of its last round, and an unresolved record. -/
structure SweepLast where
  s0 : BitVec 24
  frec : Option Nat
  deriving DecidableEq, Repr

/-! ### Address-space records (R334, R382) and shoot-downs (R340, R341) -/

structure Shoot where
  /-- 0 at the initiator. -/
  depth : Nat
  /-- When it began or came in, by the counter of the management controller. -/
  since : Nat
  /-- Positions or packages of the direct children and, of those that answered, the counts. -/
  children : List Nat
  acks : Map Nat
  /-- Packages named silent by children that answered. -/
  silent : List Nat
  here : Bool
  deriving DecidableEq, Repr

/-- A STEP whose new value has not reached every unit (R381): stacks whose units hold the old one, then quarters that show it, and the path to be answered. -/
structure StepFlight where
  units : List Nat
  quarters : List Nat
  gk : Nat
  pid : Nat
  deriving DecidableEq, Repr

structure AsidRec where
  root : W64
  sladdr : W64
  nshare : Nat
  en : Bool
  fenced : Bool
  shared : Bool
  busy : Bool
  gen : W16
  /-- A raise on its way: the value the units are to take (R338). -/
  next : Option W16
  shoot : Option Shoot
  gstep : BitVec 24
  flight : Option StepFlight
  dtab : W64
  nreg : Nat
  rrtab : W64
  rounds : Map SweepRound
  last : Map SweepLast
  deriving DecidableEq, Repr

def AsidRec.reset : AsidRec :=
  { root := 0, sladdr := 0, nshare := 0, en := false, fenced := false, shared := false, busy := false, gen := 0, next := none, shoot := none, gstep := 0,
    flight := none, dtab := 0, nreg := 0, rrtab := 0, rounds := [], last := [] }

/-! ### Fault queues, HOST queues, pre-emption (R327, R345, R353) -/

/-- A fault queue's or HOST queue's register block. -/
structure Ring where
  base : W64
  head : W16
  tail : W16
  log2n : BitVec 4
  drop : W16
  deriving DecidableEq, Repr

def Ring.reset : Ring := { base := 0, head := 0, tail := 0, log2n := 0, drop := 0 }

/-- PREEMPT, PREEMPTA and the request under way: its number, whether it names every team, and the descriptor it names else (R353). -/
structure Preempt where
  teams : W32
  fail : Bool
  done : Bool
  all : Bool
  a : W64
  run : Option Nat
  runAll : Bool
  runA : W64
  deriving DecidableEq, Repr

def Preempt.reset : Preempt := { teams := 0, fail := false, done := false, all := false, a := 0, run := none, runAll := false, runA := 0 }

/-- A pre-empted team: what the internal parts of its save record hold (R357), its core and die's partition, the numbers of its withdrawn and stopped jobs in
submission order, and whether a RESUMEA asks for it. Its banks and cards are in the record itself. Groups by key modulo 64, quarters by %quarter. -/
structure Saved where
  launch : Nat
  clid : Nat
  idx : Nat
  core : Nat
  groups : Map Group
  quarters : Map Quarter
  watches : Map Watch
  cards : List Nat
  resume : Bool
  move : Bool
  deriving DecidableEq, Repr

/-! ### A partition (R432 to R442) -/

inductive PartSt where
  | free | starting | running | quiescing | stopped
  deriving DecidableEq, Repr

/-- DECAYW (R384): its fields, and the request that is computed, as identifier, class and λ. -/
structure Decayw where
  run : Option (Nat × Byte × W32)
  err : Bool
  asid : Nat
  cls : Byte
  lambda : W32
  deriving DecidableEq, Repr

/-- The attestation block (R447), with the nonce and the output address of the request that runs. -/
structure Attn where
  nonce : List W64
  out : W64
  run : Option (List W64 × W64)
  deriving DecidableEq, Repr

/-- What a partition holds on one die: its control page and its dispatcher's place (R316, R318, R345, R353, R349, R359). -/
structure PDie where
  queues : Map HwQueue
  /-- The queue served last, for the round robin of each class (R318). -/
  rr : Map Nat
  fq : Ring
  pre : Preempt
  mig : Migrate
  bkhold : Bool
  deriving DecidableEq, Repr

def PDie.reset : PDie := { queues := [], rr := [], fq := Ring.reset, pre := Preempt.reset, mig := Migrate.reset, bkhold := false }

structure Part where
  st : PartSt
  regions : Nat
  dies : Map PDie
  asids : Map AsidRec
  decayw : Decayw
  attn : Attn
  /-- PEER record: aperture table, NAPER, fence table (R343, R441). -/
  aper : W64
  naper : Nat
  fence : W64
  /-- Vaults whose contents a retirement has lost, as reported to the partition (R19) (log 96, DESIGN CHOICE). -/
  vaultsLost : List Nat
  /-- Word 1 of the PACKAGE record of its capability list, as the last command that named the partition left it (R441, R442). -/
  cap : Nat := 0
  deriving DecidableEq, Repr

def Part.reset : Part :=
  { st := .free, regions := 0, dies := [], asids := [], decayw := { run := none, err := false, asid := 0, cls := 0, lambda := 0 },
    attn := { nonce := [0, 0, 0, 0], out := 0, run := none }, aper := 0, naper := 0, fence := 0, vaultsLost := [] }

/-! ### A trace core (R415 to R430) -/

inductive SeqSt where
  | idle | armed | count | capture
  deriving DecidableEq, Repr

def SeqSt.code : SeqSt → Nat
  | .idle => 0 | .armed => 1 | .count => 2 | .capture => 3

/-- A trace record on its way, with its source (R418): the key of a quarter, or 10,000 and up for the units of a die. -/
structure TraceRec where
  word : BitVec 512
  /-- The path it names, for a hold. -/
  path : Option (Nat × Nat)
  deriving DecidableEq, Repr

structure TraceCore where
  tctl : W32
  /-- TSEQ's read-write fields, its state and FROZEN. -/
  tseq : W32
  st : SeqSt
  frozen : Bool
  tseqn : W32
  tbase : W64
  log2n : BitVec 4
  tail : W16
  head : W16
  drop : W32
  /-- Comparators: 5 registers each (R422). -/
  tcmp : Map W32
  /-- Counters: control and value each (R423). -/
  tcnt : Map W32
  tfp : W64
  len : Nat
  on : Bool
  bad : Bool
  prog : List Byte
  tfc : Map W32
  tferr : W32
  /-- P of the capture state (R425). -/
  p : Nat
  /-- Records of each source, oldest first (R419, R430). -/
  queues : Map (List TraceRec)
  deriving DecidableEq, Repr

def TraceCore.reset : TraceCore :=
  { tctl := 0, tseq := 0, st := .idle, frozen := false, tseqn := 0, tbase := 0, log2n := 0, tail := 0, head := 0, drop := 0, tcmp := [], tcnt := [],
    tfp := 0, len := 0, on := false, bad := false, prog := [], tfc := [], tferr := 0, p := 0, queues := [] }

/-! ### The package (R431 to R465) -/

/-- PCMD (R436). -/
structure Pcmd where
  busy : Bool
  status : Nat
  rng : Nat
  regions : Nat
  t : Nat
  op : Nat
  /-- A quiescing command: its first partition, and the EN bits to be restored (partition, die and queue as one key). -/
  first : Nat
  saved : List Nat
  /-- When the command began, by the management controller's counter (R437). -/
  since : Nat := 0
  deriving DecidableEq, Repr

/-- RCMD (R454) and the blocks that a copying repair has still to move. -/
structure Rcmd where
  busy : Bool
  status : Nat
  target : Nat
  op : Nat
  left : Nat
  deriving DecidableEq, Repr

/-- An error-log record (R451). -/
structure ErrRec where
  pa : Nat
  count : Nat
  kind : Nat
  unit : Nat
  cycle : Nat
  deriving DecidableEq, Repr

/-- What an enforcing unit has spent of a budget (R452): the number of its period of 65,536 cycles, the units spent in it, and in the period before. -/
structure Spent where
  period : Nat
  n : Nat
  last : Nat
  deriving DecidableEq, Repr

/-- A budget register (R452) with what its enforcing units have spent. -/
structure Budget where
  grant : Nat
  spent : Map Spent
  deriving DecidableEq, Repr

/-- A shadow region (R463): base, length in 64 KiB units, buddy, V, and its writes that the buddy has not acknowledged, oldest first. -/
structure Shadow where
  base : Nat
  len : Nat
  buddy : Nat
  v : Bool
  queue : List (Nat × List Byte)
  deriving DecidableEq, Repr

/-- Firmware slots (R462): which slot is active, and the two images. -/
structure Firmware where
  active : Bool
  a : List Byte
  b : List Byte
  deriving DecidableEq, Repr

/-- A frequency and voltage island (R26, R27): its frequency and voltage as the power controller set them, and whether it has power. -/
structure Island where
  freq : Nat
  volt : Nat
  on : Bool
  deriving DecidableEq, Repr

structure Package where
  bndctl : Nat
  /-- MIR0 to MIR15 and MIRSTG (R435), 16 the staged value. -/
  mir : Map (BitVec 128)
  /-- LSL(p, d), key 2p + d. -/
  lsl : Map (BitVec 48)
  pcmd : Pcmd
  qbound : W32
  /-- TOWN: the owners of die 0 and die 1 (R439). -/
  town : List (Option Nat)
  phase : Nat
  cause : Nat
  safe : Bool
  cfail : Nat
  wfail : Nat
  warm : Bool
  /-- A start is in progress (R443), and when its phase began by the management controller's counter. -/
  starting : Bool
  phaseAt : Nat
  /-- The repair map as it was when the training records were made (R443). -/
  trained : List (Nat × Nat)
  budgets : Map Budget
  rcmd : Rcmd
  errlog : Map ErrRec
  errHead : Byte
  errTail : Byte
  /-- Corrected errors of each unit, and the 4 KiB blocks that have met an error. -/
  errCounts : Map Nat
  errBlocks : List Nat
  /-- Live lane groups of the bridge, from die 0 and from die 1, spares left in each direction, and resends of each group. -/
  lanes : List Nat
  laneSpares : List Nat
  laneFails : Map Nat
  bridgeDown : Bool
  /-- Spare core sites left in each region (R455), and the core positions marked for retirement at the next cold start (R457). -/
  coreSpares : List Nat
  retire : List Nat
  /-- Spares used: HBM rows by channel, channels by stack, SRAM rows by structure. -/
  rowSpares : Map Nat
  chanSpares : Map Nat
  sramSpares : Map Nat
  /-- Error counts of SRAM rows (R454). -/
  rowErrs : Map Nat
  /-- The repair map: repairs in the order they were recorded, as operation and target (R455). -/
  repairs : List (Nat × Nat)
  portsDown : List Nat
  ccoresDown : List Nat
  host : Map Ring
  /-- Control cores whose external interrupt line is raised (R327). -/
  hostIrq : List Nat
  shadows : Map Shadow
  /-- MEAS0 to MEAS3 (R446), as 32 bytes each. -/
  meas : List (List Byte)
  firmware : Map Firmware
  /-- Units that have still to load new microcode (R462). -/
  microcode : List Nat
  /-- Missed heartbeats by neighbour, and packages declared failed (R464). -/
  missed : Map Nat
  failed : List Nat
  /-- Heartbeats sent, when the last was, and when each neighbour was last heard or missed, by the management controller's counter. -/
  beats : Nat
  beatAt : Nat
  heard : Map Nat
  /-- The nonce of a report that a management port has asked for (R447). -/
  portAttn : Option (List W64)
  /-- The islands that differ from how the fuses leave them, by number (R26, R27, R465). -/
  islands : Map Island
  /-- Physical sites of logical cores that a repair has moved to a spare site (R12, R15, R457). -/
  sites : Map Nat
  /-- First address of each die's region for the coil engine, once a cold start has assigned it (R373). -/
  coilAt : List Nat
  powered : Bool
  /-- Physical position of each unit's patrol (R450). -/
  patrol : Map Nat
  deriving DecidableEq, Repr

/-! ### What runs next (log 2, log 4, DESIGN CHOICE) -/

/-- What a control core does to device memory (R22), an access or a fence of its earlier accesses; and an access of its partition's control space, with what it
writes, if it writes (R431). -/
inductive CcOp where
  | access (op : Op) (scope : Scope) (asid va len : Nat)
  | fence (scope : Scope)
  | control (addr : Nat) (val : Option W64)
  deriving DecidableEq, Repr

/-- A control core as far as memory sees it: what it has still to issue, in program order, and the values its loads and atomics gave back, oldest first. -/
structure Ccore where
  ops : List CcOp
  vals : List Nat
  deriving DecidableEq, Repr

/-- A move of the model's agenda: a quarter's issue, a machine event, or an operation of a control core of a partition. -/
inductive Move where
  | issue (q : Nat)
  | event (e : Instr)
  | ccore (c : Nat) (x : CcOp)
  deriving DecidableEq, Repr

/-- A message to the outside: to another package a shoot-down, the acknowledgement of one to a parent, the answer to a peer access (R340, R342), a heartbeat
(R464) and the acknowledgement of a mirrored write (R463); to a management port a report (R447). -/
inductive PkgMsg where
  | shoot (p asid child depth : Nat)
  | ack (p asid count : Nat) (silent : List Nat)
  | reply (pkg cause data : Nat)
  | beat (pkg : Nat)
  | mirrored (pkg p i : Nat)
  | report (bytes : List Byte)
  deriving DecidableEq, Repr

/-- The path whose instruction is being executed. -/
structure Cur where
  gk : Nat
  pid : Nat
  deriving DecidableEq, Repr

/-- A peer access sent out (R342): the group and path, or the job, and what its reply is for. -/
structure PeerOut where
  gk : Nat
  pid : Nat
  job : Option Nat
  pkg : Nat
  acc : Access
  /-- When it went out, by its initiator's counter, and the trap that its answer or the lack of one asks for (R342). -/
  since : Nat
  fail : Option Trap
  deriving DecidableEq, Repr

/-- The whole package. -/
structure State where
  /-- Steps made since reset (log 3, DESIGN CHOICE). -/
  tick : Nat
  agenda : List Move
  cur : Option Cur
  /-- The quarter that issued last: quarters take turns. -/
  lastQ : Nat
  /-- The next unused number of an access, request, job or launch. -/
  nextId : Nat
  /-- HBM, vaults and core banks (log 6, DESIGN CHOICE): listed bytes are nonzero, addresses rise. -/
  mem : List Host.Cell
  /-- Poisoned 32-byte lines, by storage address / 32, rising. -/
  poison : List Nat
  /-- What writes have replaced while a coil slot is bound, by 16-byte block: the step of each write and the bytes before it, newest first (R379). -/
  images : Map (List (Nat × List Byte))
  groups : Map Group
  quarters : Map Quarter
  cores : Map Core
  tlbs : Map (List TlbEntry)
  /-- Walk caches by unit (R338). -/
  walks : Map (List WalkEntry)
  /-- Replicas of LLC sectors by die × 2^40 + sector, with the slice that holds each (R278). -/
  replicas : Map Nat
  /-- LLC sectors held in column orientation: wide or narrow elements, and dirty sectors (R275, R276; log 78, DESIGN CHOICE). -/
  columns : Map Bool
  dirty : List Nat
  accesses : Map Access
  loads : Map LoadI
  xfers : Map Xfer
  barReqs : Map BarReq
  sends : Map SendReq
  packets : Map Packet
  /-- Allowances on their way back (R214): launch, channel, consumer. -/
  returns : Map (Nat × Nat × Nat)
  peers : Map PeerOut
  launchReqs : Map LaunchReq
  launches : Map Launch
  insts : Map GInst
  jobs : Map Job
  frecs : Map FRec
  coil : Map CoilSlot
  coilq : Map CoilReq
  grove : Map Task
  decs : Map Decrement
  saggars : Map Saggar
  redirects : Map Redirect
  saved : Map Saved
  parts : Map Part
  traces : Map TraceCore
  ccores : Map Ccore
  /-- Messages sent to the outside, oldest first. -/
  outbox : List PkgMsg
  pkg : Package
  deriving DecidableEq, Repr

/-- See log 1, DESIGN CHOICE. -/
def Package.reset : Package :=
  { bndctl := 0, mir := [], lsl := [],
    pcmd := { busy := false, status := 0, rng := 0, regions := 0, t := 0, op := 0, first := 0, saved := [] },
    qbound := 0x40000000, town := [none, none], phase := 0, cause := 0, safe := false, cfail := 0, wfail := 0, warm := false, starting := false, phaseAt := 0, trained := [],
    budgets := [], rcmd := { busy := false, status := 0, target := 0, op := 0, left := 0 }, errlog := [], errHead := 0, errTail := 0, errCounts := [], errBlocks := [],
    lanes := [64, 64], laneSpares := [4, 4], laneFails := [], bridgeDown := false, coreSpares := [2, 2, 2, 2], retire := [],
    rowSpares := [], chanSpares := [], sramSpares := [], rowErrs := [], repairs := [], portsDown := [], ccoresDown := [], host := [], hostIrq := [], shadows := [],
    meas := List.replicate 4 (List.replicate 32 0), firmware := [], microcode := [], missed := [], failed := [], beats := 0, beatAt := 0, heard := [], portAttn := none, islands := [],
    sites := [], coilAt := [], powered := true, patrol := [] }

/-- The package right after reset: every register at its Reset column, nothing running, no partition (R443), memory zero (log 1, DESIGN CHOICE). -/
def State.reset : State :=
  { tick := 0, agenda := [], cur := none, lastQ := 0, nextId := 0, mem := [], poison := [], images := [], groups := [], quarters := [], cores := [], tlbs := [], walks := [], replicas := [],
    columns := [], dirty := [], accesses := [], loads := [], xfers := [], barReqs := [], sends := [], packets := [], returns := [], peers := [],
    launchReqs := [], launches := [], insts := [], jobs := [], frecs := [], coil := [], coilq := [], grove := [], decs := [], saggars := [],
    redirects := [], saved := [], parts := [], traces := [], ccores := [], outbox := [], pkg := Package.reset }

end Sys2Proof.Machine
end

