-- ==== Sys2Proof/Machine/Mem.lean ====
section
/-! DEFINITION. Storage by bytes (log 6, DESIGN CHOICE): HBM at its physical addresses, vaults from 2^40, core banks from 2^41; poison by 32-byte lines (R449); what a
performed write sets off (R210, R463); redirects of migrated pages (R349); the parts of the state by their keys, and the cycle counters (R8). -/

namespace Sys2Proof.Machine

/-! ### Parts of the state by key -/

def State.quarter (s : State) (q : Nat) : Quarter := mgetD s.quarters q Quarter.idle
def State.setQuarter (s : State) (q : Nat) (x : Quarter) : State := { s with quarters := mset s.quarters q x }
def State.core (s : State) (c : Nat) : Core := mgetD s.cores c Core.idle
def State.setCore (s : State) (c : Nat) (x : Core) : State := { s with cores := mset s.cores c x }
def State.part (s : State) (p : Nat) : Part := mgetD s.parts p Part.reset
def State.setPart (s : State) (p : Nat) (x : Part) : State := { s with parts := mset s.parts p x }
def Part.die (p : Part) (d : Nat) : PDie := mgetD p.dies d PDie.reset
def Part.setDie (p : Part) (d : Nat) (x : PDie) : Part := { p with dies := mset p.dies d x }
def State.pdie (s : State) (p d : Nat) : PDie := (s.part p).die d
def State.setPdie (s : State) (p d : Nat) (x : PDie) : State := s.setPart p ((s.part p).setDie d x)
def State.asidRec (s : State) (p a : Nat) : AsidRec := mgetD (s.part p).asids a AsidRec.reset
def State.setAsidRec (s : State) (p a : Nat) (r : AsidRec) : State :=
  let x := s.part p
  s.setPart p { x with asids := mset x.asids a r }
def State.modGroup (s : State) (gk : Nat) (f : Group → Group) : State := { s with groups := mmodify s.groups gk f }
def Group.modPath (g : Group) (pid : Nat) (f : Path → Path) : Group := { g with paths := mmodify g.paths pid f }
def State.modPath (s : State) (gk pid : Nat) (f : Path → Path) : State := s.modGroup gk (fun g => g.modPath pid f)
def State.saggar (s : State) (k : Nat) : Saggar := mgetD s.saggars k Saggar.idle
def State.setSaggar (s : State) (k : Nat) (x : Saggar) : State := { s with saggars := mset s.saggars k x }
def State.trace (s : State) (d : Nat) : TraceCore := mgetD s.traces d TraceCore.reset
def State.setTrace (s : State) (d : Nat) (x : TraceCore) : State := { s with traces := mset s.traces d x }
def State.modLaunch (s : State) (l : Nat) (f : Launch → Launch) : State := { s with launches := mmodify s.launches l f }
def State.hostRing (s : State) (c : Nat) : Ring := mgetD s.pkg.host c Ring.reset

/-- A fresh number. -/
def State.fresh (s : State) : Nat × State := (s.nextId, { s with nextId := s.nextId + 1 })

/-- The step that a unit or quarter holds: the old one while a STEP has still to reach it (R381). -/
def AsidRec.stepOf (r : AsidRec) (waits : StepFlight → Bool) : BitVec 24 :=
  match r.flight with
  | some f => if waits f then r.gstep - 1 else r.gstep
  | none => r.gstep

/-! ### Places (R15, R25) -/

def quarterOf (gk : Nat) : Nat := gk / 16
def coreOf (gk : Nat) : Nat := gk / 64
def dieOfCore (c : Nat) : Nat := c / 96
def dieOf (gk : Nat) : Nat := dieOfCore (coreOf gk)
/-- The region of a core: 2 × die, and 1 more for its east half. -/
def regionOfCore (c : Nat) : Nat := 2 * dieOfCore c + (if c % 96 % 12 < 6 then 0 else 1)

/-- The partition that holds a region (R433). -/
def State.partOfRegion (s : State) (r : Nat) : Option Nat :=
  (s.parts.find? (fun x => decide (x.2.st ≠ .free) && bit x.2.regions r)).map (·.1)
def State.partOfCore (s : State) (c : Nat) : Option Nat := s.partOfRegion (regionOfCore c)
/-- The partition that holds a stack: two stacks a region (R25). -/
def State.partOfStack (s : State) (k : Nat) : Option Nat := s.partOfRegion (k / 2)
/-- A partition holds cores on a die. -/
def State.partOnDie (s : State) (p d : Nat) : Bool := bits (s.part p).regions (2 * d) 2 != 0

/-! ### Cycle counters (R8, R49; log 3, DESIGN CHOICE) -/

def State.coreCycle (s : State) (c : Nat) : Nat := Config.unitCycle c s.tick
/-- Counters of the units of a die, of a stack and of Mboel. -/
def State.dieCycle (s : State) (d : Nat) : Nat := Config.unitCycle (1000 + d) s.tick
def State.stackCycle (s : State) (k : Nat) : Nat := Config.unitCycle (1010 + k) s.tick
def State.mboelCycle (s : State) : Nat := Config.unitCycle 1020 s.tick

/-! ### Bytes -/

def vaultBase : Nat := 2 ^ 40
def bankBase : Nat := 2 ^ 41
/-- Storage address of a vault byte (R187). -/
def vaultLoc (die v ofs : Nat) : Nat := vaultBase + die * 2 ^ 28 + v * 2 ^ 21 + ofs
/-- Storage address of a byte of a core's bank. -/
def bankLoc (core bank ofs : Nat) : Nat := bankBase + core * 2 ^ 20 + bank * 32768 + ofs
def isHbm (loc : Nat) : Bool := loc < 2 ^ 39
/-- The stack that holds a physical address (R20, R435). -/
def stackOf (pa : Nat) : Nat := pa / 2 ^ 36

def State.byte (s : State) (a : Nat) : Byte := zget s.mem a
def State.bytes (s : State) (a n : Nat) : List Byte := (List.range n).map (fun i => s.byte (a + i))
/-- The little-endian number of the `n` bytes at an address (R2). -/
def State.word (s : State) (a n : Nat) : Nat := leNat (s.bytes a n)

/-- Memory with bytes written from an address on. -/
def putBytes (m : List Host.Cell) (a : Nat) : List Byte → List Host.Cell
  | [] => m
  | b :: bs => putBytes (zset (n := 8) m a b) (a + 1) bs

/-- Strictly rising addresses above `lo`, and no zero byte listed. -/
def cellsOk : Option Nat → List Host.Cell → Bool
  | _, [] => true
  | lo, (a, b) :: m => (match lo with | none => true | some l => decide (l < a)) && decide (b ≠ 0) && cellsOk (some a) m

/-- The canonical form of memory: addresses strictly rising, and no entry equal to what an unlisted address reads as, zero. -/
def Memory.wf (m : List Host.Cell) : Bool := cellsOk none m

/-- Memory with the bytes of a range zero. -/
def zeroRange (m : List Host.Cell) (a n : Nat) : List Host.Cell := m.filter (fun c => !(decide (a ≤ c.1) && decide (c.1 < a + n)))

/-! ### Poison (R449) -/

/-- The address of the first poisoned byte of a range (log 25, DEDUCED). -/
def State.poisoned (s : State) (a n : Nat) : Option Nat :=
  ((s.poison.filter (fun l => decide (l * 32 < a + n) && decide (a < l * 32 + 32))).map (fun l => max a (l * 32))).head?

/-- The lines with a line added, in rising order without repeats. -/
def insertLine (n : Nat) : List Nat → List Nat
  | [] => [n]
  | a :: l => if n < a then n :: a :: l else if n = a then a :: l else a :: insertLine n l

def State.poisonLine (s : State) (a : Nat) : State := { s with poison := insertLine (a / 32) s.poison }

/-! ### Writes -/

/-- The barrier units' watches on the written bytes are marked to fire (R210). -/
def markWatches (cs : Map Core) (a n : Nat) : Map Core :=
  cs.map (fun c => (c.1, { c.2 with watches := c.2.watches.map (fun w =>
    (w.1, if w.2.word < a + n && a < w.2.word + 8 then { w.2 with hit := true } else w.2)) }))

/-- A write in a shadow region joins the region's queue to its buddy (R463). -/
def mirrorWrite (m : Map Shadow) (a : Nat) (bs : List Byte) : Map Shadow :=
  m.map (fun r => (r.1, if r.2.v && r.2.base ≤ a && a < r.2.base + r.2.len * 65536 then { r.2 with queue := r.2.queue ++ [(a, bs)] } else r.2))

/-- A posted HOST node's DONE is written nonzero (R326): `m` is memory after the write of `n` bytes at `a`. -/
def markHosts (m : List Host.Cell) (is : Map GInst) (a n : Nat) : Map GInst :=
  is.map (fun i => (i.1, { i.2 with nodes := i.2.nodes.map (fun x =>
    (x.1, match x.2.watch with
      | some (d, _) =>
        if d < a + n && a < d + 4 && (List.range 4).any (fun k => zget (n := 8) m (d + k) != 0) then { x.2 with hit := true } else x.2
      | none => x.2)) }))

/-- What the 16-byte blocks of a range held before a write in step `t` joins their history (R379). -/
def noteOld (im : Map (List (Nat × List Byte))) (m : List Host.Cell) (t a n : Nat) : Map (List (Nat × List Byte)) :=
  (List.range ((a % 16 + n + 15) / 16)).foldl (fun im i =>
    let b := a / 16 + i
    mset im b ((t, (List.range 16).map (fun k => zget (n := 8) m (16 * b + k))) :: mgetD im b [])) im

/-- Bytes written at their performing point: a line written whole loses its poison (R449), watches and HOST nodes are marked, shadow regions
mirrored, and what a bound coil slot may still read is kept. -/
def State.write (s : State) (a : Nat) (bs : List Byte) : State :=
  if bs.isEmpty then s
  else
    { s with
      mem := putBytes s.mem a bs
      insts := markHosts (putBytes s.mem a bs) s.insts a bs.length
      poison := s.poison.filter (fun l => !(decide (a ≤ l * 32) && decide (l * 32 + 32 ≤ a + bs.length)))
      images := if s.coil.isEmpty then [] else noteOld s.images s.mem s.tick a bs.length
      cores := markWatches s.cores a bs.length
      pkg := { s.pkg with shadows := mirrorWrite s.pkg.shadows a bs } }

/-- A write that fires no watch: a sweep's rebase (R388). -/
def State.quietWrite (s : State) (a : Nat) (bs : List Byte) : State := { s.write a bs with cores := s.cores, insts := s.insts }

/-- The moving of bytes by repair or migration, which is no write and clears nothing of poison. -/
def State.rewrite (s : State) (a : Nat) (bs : List Byte) : State := { s with mem := putBytes s.mem a bs }

/-- A number written as `n` little-endian bytes. -/
def State.writeNat (s : State) (a n v : Nat) : State := s.write a (natLe n v)

/-- Every byte of a range zero, and free of poison. -/
def State.zeroBytes (s : State) (a n : Nat) : State :=
  { s with mem := zeroRange s.mem a n, poison := s.poison.filter (fun l => !(decide (a ≤ l * 32) && decide (l * 32 + 32 ≤ a + n))) }

/-! ### Physical memory (R349, R435) -/

/-- The storage address of a physical address, through the redirects of migrated pages (R349). -/
def State.phys (s : State) (pa : Nat) : Nat :=
  match s.redirects.find? (fun r => r.2.src ≤ pa && pa < r.2.src + r.2.size) with
  | some r => r.2.dst + (pa - r.2.src)
  | none => pa

/-- A read by physical address, as page tables, decay tables and the like are read (R335, R383). -/
def State.physWord (s : State) (pa n : Nat) : Nat := s.word (s.phys pa) n

/-- A memory-interleave range (R435). -/
def mirField (w : BitVec 128) (lo n : Nat) : Nat := bits w.toNat lo n
def mirV (w : BitVec 128) : Bool := bit w.toNat 56
def mirPart (w : BitVec 128) : Nat := mirField w 52 2
def mirDie (w : BitVec 128) : Nat := mirField w 48 1
def mirSlices (w : BitVec 128) : Nat := mirField w 0 48
def mirBase (w : BitVec 128) : Nat := mirField w 64 9
def mirLim (w : BitVec 128) : Nat := mirField w 80 9

/-- Bytes of the region in which a die's coil engine keeps its slots' stacks and snapshots (R373). -/
def coilBytes : Nat := 34078720

/-- An address of a coil engine's region, which software cannot reach (R373). -/
def State.inCoil (s : State) (pa : Nat) : Bool := s.pkg.coilAt.any (fun b => decide (b ≤ pa) && decide (pa < b + coilBytes))

/-- The valid range of partition `p` that holds a physical address (R435), where software may reach it (R373). -/
def State.rangeOf (s : State) (p pa : Nat) : Option (BitVec 128) :=
  if s.inCoil pa then none else
  ((s.pkg.mir.filter (fun x => x.1 < 16)).map (·.2)).find? (fun w => mirV w && mirPart w == p && mirBase w ≤ pa / 2 ^ 30 && pa / 2 ^ 30 ≤ mirLim w)

/-- The slice of a list of slices that the fold h of an address selects (R274). -/
def sliceOf (slices pa : Nat) : Nat :=
  let sl := (List.range 48).filter (fun i => bit slices i)
  let h := bits pa 10 12 ^^^ bits pa 22 12 ^^^ bits pa 34 5
  listGet 0 sl (h % sl.length)

/-- The home slice of a physical address in a range (R274). -/
def homeSlice (w : BitVec 128) (pa : Nat) : Nat := sliceOf (mirSlices w) pa

/-! ### Sectors in row and column orientation (R275, R276) -/

def sectorOf (loc : Nat) : Nat := loc / 1024

/-- Home slices perform accesses by rows only in row orientation (R276). -/
def State.inColumns (s : State) (sector : Nat) : Bool := (mget? s.columns sector).isSome

def State.clean (s : State) (sector : Nat) : State := { s with dirty := s.dirty.filter (fun k => k != sector) }

/-- The sectors of a range of storage. -/
def sectorsIn (loc len : Nat) : List Nat := (List.range ((loc % 1024 + len + 1023) / 1024)).map (fun i => loc / 1024 + i)

/-- Sectors of a storage range served by rows again: one held by columns is re-formed, a dirty one written back first (R276). -/
def State.toRows (s : State) (loc len : Nat) : State :=
  if isHbm loc then
    (sectorsIn loc len).foldl (fun s x => if s.inColumns x then { s.clean x with columns := merase s.columns x } else s) s
  else s

end Sys2Proof.Machine
end

