-- ==== Sys2Proof/Machine/Translate.lean ====
section
/-! DEFINITION. Translation (R334 to R338): the walk, the TLBs of the units, permissions, and where an address of an access lies (R180 to R187, R271, R294). -/

namespace Sys2Proof.Machine

/-! ### Page-table entries (R336) -/

def pteV (e : Nat) : Bool := bit e 0
def pteLeaf (e : Nat) : Bool := bit e 1
def ptePeer (e : Nat) : Bool := bit e 6

/-- A malformed entry at a level (R336); poison in a table is taken as malformed too (log 13, DEDUCED). -/
def pteBad (lvl e : Nat) : Bool :=
  bits e 56 8 != 0
  || (pteLeaf e && lvl ≥ 4) || (!pteLeaf e && lvl == 1)
  || (pteLeaf e && bits e 8 8 != 0)
  || (!pteLeaf e && lvl ≥ 3 && bits e 8 4 != 0)
  || (pteLeaf e && lvl == 2 && bits e 16 5 != 0)
  || (pteLeaf e && lvl == 3 && bits e 16 14 != 0)
  || (if pteLeaf e && ptePeer e then bit e 55 else bits e 39 17 != 0)
  || (!pteLeaf e && bits e 2 6 != 0)

/-- Bits of the virtual address below a level's index. -/
def levelShift : Nat → Nat
  | 5 => 48 | 4 => 39 | 3 => 30 | 2 => 21 | _ => 16

/-- Width of a level's index. -/
def levelBits : Nat → Nat
  | 5 => 8 | 4 => 9 | 3 => 9 | 2 => 9 | _ => 5

/-- The address of the entry that a walk reads in a table. -/
def pteAt (va lvl table : Nat) : Nat := table + 8 * bits va (levelShift lvl) (levelBits lvl)

/-- The walk from a table of level `lvl` (R335): a leaf with the address of its page, or the CAUSE of R345, 0 not present and 1 malformed. -/
def walk (s : State) (va : Nat) : Nat → Nat → Except Nat Leaf
  | 0, _ => .error 1
  | lvl + 1, table =>
    let l := lvl + 1
    let a := pteAt va l table
    let e := s.physWord a 8
    if (s.poisoned (s.phys a) 8).isSome then .error 1
    else if !pteV e then .error 0
    else if pteBad l e then .error 1
    else if pteLeaf e then .ok { frame := bits e 16 40 * 65536, size := 2 ^ levelShift l, flags := bits e 2 6 }
    else walk s va lvl (bits e 8 48 * 256)

/-- The tables that a walk from a table of level `lvl` comes to, each with its level. -/
def walkTables (s : State) (va : Nat) : Nat → Nat → List (Nat × Nat)
  | 0, _ => []
  | lvl + 1, table =>
    let e := s.physWord (pteAt va (lvl + 1) table) 8
    (lvl + 1, table) ::
      (if (s.poisoned (s.phys (pteAt va (lvl + 1) table)) 8).isSome || !pteV e || pteBad (lvl + 1) e || pteLeaf e then []
       else walkTables s va lvl (bits e 8 48 * 256))

/-! ### Leaves (R336, R337) -/

def Leaf.rd (l : Leaf) : Bool := bit l.flags 0
def Leaf.wr (l : Leaf) : Bool := bit l.flags 1
def Leaf.x (l : Leaf) : Bool := bit l.flags 2
def Leaf.ms (l : Leaf) : Bool := bit l.flags 3
def Leaf.peer (l : Leaf) : Bool := bit l.flags 4
def Leaf.syso (l : Leaf) : Bool := bit l.flags 5

/-- The permission an access needs (R337). -/
def Leaf.allows (l : Leaf) (k : AccKind) (sys : Bool) : Bool :=
  (sys || !l.syso) &&
  (match k with
   | .load => l.rd
   | .engRead => l.rd
   | .store => l.wr
   | .engWrite => l.wr
   | .atomic => l.rd && l.wr
   | .fetch => l.x)

/-- The KIND of a fault record for an access (R345). -/
def AccKind.code : AccKind → Nat
  | .load => 0 | .store => 1 | .atomic => 2 | .fetch => 3 | .engRead => 4 | .engWrite => 5

/-! ### TLBs (R338) -/

/-- Keys of the translating units beside the quarters. -/
def mouldUnit (core : Nat) : Nat := 1000 + core
def pourUnit (core : Nat) : Nat := 2000 + core
def gatherUnit (die : Nat) : Nat := 3000 + die
def collectiveUnit (die : Nat) : Nat := 3010 + die
def saggarUnit (stack : Nat) : Nat := 3100 + stack
def coilUnit (die : Nat) : Nat := 3200 + die
def dispatchUnit (die : Nat) : Nat := 3210 + die

/-- Entries of a unit's TLB: 128 for a quarter, 512 for the others (R17, R338). -/
def tlbSize (u : Nat) : Nat := if u < 768 then 128 else 512

/-- A lookup hits an entry of the present generation only (R338). -/
def tlbHit (es : List TlbEntry) (p asid : Nat) (gen : W16) (va : Nat) : Option TlbEntry :=
  es.find? (fun e => e.part == p && e.asid == asid && e.gen == gen && decide (e.page ≤ va) && decide (va < e.page + e.leaf.size))

/-- A filled entry joins the TLB, in place of another when it is full (log 9, DESIGN CHOICE). -/
def tlbFill (es : List TlbEntry) (size victim : Nat) (e : TlbEntry) : List TlbEntry :=
  if es.length < size then es ++ [e] else listSet es (victim % size) e

/-- Where a walk begins: at the lowest table that the unit's walk cache still holds for the address, else at the root (log 98, DESIGN CHOICE). -/
def walkStart (es : List WalkEntry) (u t p asid : Nat) (gen : W16) (va root : Nat) : Nat × Nat :=
  match minBy? (fun (e : WalkEntry) => e.level) (es.filter (fun e =>
      e.part == p && e.asid == asid && e.gen == gen && e.pre == va / 2 ^ levelShift (e.level + 1) && Config.walkKept u t e.level e.pre)) with
  | some e => (e.level, e.table)
  | none => (5, root)

/-- The tables of a walk below its first join the walk cache (R338). -/
def walkFill (es : List WalkEntry) (p asid : Nat) (gen : W16) (va : Nat) (ts : List (Nat × Nat)) : List WalkEntry :=
  (ts.filter (fun x => decide (x.1 < 5))).foldl (fun es x =>
    let e : WalkEntry := { part := p, asid := asid, gen := gen, level := x.1, pre := va / 2 ^ levelShift (x.1 + 1), table := x.2 }
    es.filter (fun y => !(y.part == p && y.asid == asid && y.level == e.level && y.pre == e.pre)) ++ [e]) es

/-- A virtual address translated by a unit: a hit needs no walk; a walk reads its entries by rows (R276), its tables join the unit's walk cache, and a leaf its
TLB. -/
def State.translate (s : State) (u p asid va : Nat) : Except Nat (Leaf × Nat) × State :=
  let r := s.asidRec p asid
  let es := mgetD s.tlbs u []
  match tlbHit es p asid r.gen va with
  | some e => (.ok (e.leaf, e.page), s)
  | none =>
    let ws := mgetD s.walks u []
    let (lvl, table) := walkStart ws u s.tick p asid r.gen va r.root.toNat
    let res := walk s va lvl table
    let ts := walkTables s va lvl table
    let s := ts.foldl (fun s x => s.toRows (s.phys (pteAt va x.1 x.2)) 8) s
    let s := { s with walks := mset s.walks u (walkFill ws p asid r.gen va ts) }
    match res with
    | .error c => (.error c, s)
    | .ok l =>
      let page := va / l.size * l.size
      (.ok (l, page),
        { s with tlbs := mset s.tlbs u (tlbFill es (tlbSize u) (Config.tlbVictim u s.tick) { part := p, asid := asid, gen := r.gen, page := page, leaf := l }) })

/-! ### Where an address lies -/

/-- Device memory's kind at an address (R181). -/
inductive Home where
  | cacheable | ms | vault | scratch
  deriving DecidableEq, Repr

/-- The place of an access: storage address, kind and die; a peer package's aperture; a translation fault with its CAUSE; or a refusal. -/
inductive Place where
  | at (loc : Nat) (h : Home) (die : Nat)
  | peer (pkg frame ofs : Nat)
  | fault (cause : Nat)
  | prot
  deriving DecidableEq, Repr

/-- A vault address's place (R187): a vault of the partition, or a refusal, as for the vault of a retired site that no spare has replaced (R19). -/
def vaultPlace (s : State) (p x : Nat) : Place :=
  let d := bits x 28 1
  let v := bits x 21 7
  if bits x 29 35 != 0 || v ≥ 96 then .prot
  else if s.partOfCore (d * 96 + v) != some p || (s.core (d * 96 + v)).gone then .prot
  else .at (vaultLoc d v (bits x 0 21)) .vault d

def windowBase : Nat := 0x00FFFFFFE0000000

/-- The place of a virtual address for an access of a kind (R181, R271, R335 to R337, R342, R435) (log 47, DEDUCED). -/
def State.place (s : State) (u p asid : Nat) (sys : Bool) (k : AccKind) (va : Nat) : Place × State :=
  if va ≥ 2 ^ 56 then (.prot, s)
  else if va ≥ windowBase then (if k = .fetch then .prot else vaultPlace s p (va - windowBase), s)
  else
    match s.translate u p asid va with
    | (.error c, s') => (.fault c, s')
    | (.ok (l, page), s') =>
      if !l.allows k sys then (.prot, s')
      else if l.peer then
        (.peer (bits l.frame 40 15) (bits l.frame 16 24 + (va - page) / 65536) (va % 65536), s')
      else
        let pa := l.frame + (va - page)
        match s'.rangeOf p pa with
        | none => (.prot, s')
        | some w => (.at (s'.phys pa) (if l.ms then .ms else .cacheable) (mirDie w), s')

/-- The scratch banks of a bank-role register, ascending (R267). -/
def banksOf (roles : W64) (role : Nat) : List Nat := (List.range 32).filter (fun b => bits roles.toNat (2 * b) 2 == role)

/-- The storage address of offset `o` among the banks of a role of a core (R267). -/
def roleLoc (roles : W64) (role core o : Nat) : Option Nat :=
  match (banksOf roles role)[o / 32768]? with
  | some b => some (bankLoc core b (o % 32768))
  | none => none

def roleBytes (roles : W64) (role : Nat) : Nat := 32768 * (banksOf roles role).length

end Sys2Proof.Machine
end

