-- ==== Sys2Proof/Machine/Ops.lean ====
section
/-! DEFINITION. The operations every instruction is made of: the issuing path and its group, the scoreboard's waits, chains (R42 to R44), completing an
instruction and the loop end (R132), trace events (R420), fault records (R345), taking a trap (R351) and returning from one (R140), gangs (R266) and the
retirement of groups and teams (R139, R252). -/

namespace Sys2Proof.Machine

/-- A launch that is not there. -/
def Launch.empty : Launch :=
  { part := 0, desc := 0, entry := 0, args := 0, banks := 0, fmt := 0, scratch := 0, regs := 0, width := 0, ngroups := 0, clw := 0, clh := 0, grid := 0,
    prio := 0, dies := 0, asid := 0, step := false, sys := false, cosched := false, epoch := 0, handler := 0, qrights := 0, save := 0, chans := [],
    chan := [], inst := 0, node := 0, seq := 0, nextCl := 0, teams := 0, failed := false }

def State.launch (s : State) (l : Nat) : Launch := mgetD s.launches l Launch.empty

/-! ### The issuing path -/

/-- An instruction being executed: the state, the path that issues it, and its operand fields. -/
structure Ctx where
  s : State
  /-- The state before the instruction was tried, to which a wait returns. -/
  pre : State
  gk : Nat
  pid : Nat
  g : Group
  p : Path
  i : Instr
  o : Ops

def Ctx.q (c : Ctx) : Nat := quarterOf c.gk
def Ctx.core (c : Ctx) : Nat := coreOf c.gk
def Ctx.die (c : Ctx) : Nat := dieOf c.gk
def Ctx.launch (c : Ctx) : Launch := c.s.launch c.g.launch
def Ctx.part (c : Ctx) : Nat := c.launch.part
def Ctx.asid (c : Ctx) : Nat := c.launch.asid
def Ctx.now (c : Ctx) : Nat := c.s.coreCycle c.core
def Ctx.quarter (c : Ctx) : Quarter := c.s.quarter c.q
/-- Group of the system class or running its trap handler (R247, R337). -/
def Ctx.sys (c : Ctx) : Bool := c.launch.sys || c.g.handler.isSome
def Ctx.len (c : Ctx) : Nat := (immLen c.o.imm).bytes
def Ctx.seqPc (c : Ctx) : Pc := c.p.pc + BitVec.ofNat 56 c.len
/-- The operand fields of an instruction word; an event has none. -/
def opsOf? (i : Instr) : Option Ops := i.enc.map (·.o)

/-- Lane L's predicate (R31): p7 is true everywhere. -/
def Group.pred (g : Group) (n lane : Nat) : Bool := n == 7 || (zget g.p n).getLsbD lane

/-- The guard in a lane (R125). -/
def Ctx.guard (c : Ctx) (lane : Nat) : Bool := xor (c.g.pred c.o.hdr.pg.toNat lane) c.o.hdr.pn

/-- The lanes a per-lane instruction acts in (R125). -/
def Ctx.acts (c : Ctx) : Mask := maskFilter c.p.mask c.guard

/-- The path's lowest-numbered active lane (R30). -/
def Ctx.lead (c : Ctx) : Nat := (lanes c.p.mask).headD 0

/-- Whether an instruction that acts once per path acts (R125). -/
def Ctx.actsOnce (c : Ctx) : Bool := c.guard c.lead

/-! ### Path states -/

/-- A path made ready, or held where a hold waits for it (R429); a fresh stamp where R259 gives one. -/
def Path.wake (p : Path) (now : Nat) (fresh : Bool) : Path :=
  { p with st := if p.hold then .held else .ready, hold := false, stamp := if fresh then now else p.stamp, since := now }

/-- A path that leaves the ready state keeps its count of ready cycles (R260). -/
def Path.leave (p : Path) (now : Nat) (st : PState) : Path := { p with st := st, idle := p.idle + (now - p.since) }

/-- The PC of a path. -/
def State.pcOf (s : State) (gk pid : Nat) : Pc :=
  match mget? s.groups gk with
  | none => 0
  | some g => match mget? g.paths pid with | some p => p.pc | none => 0

def State.wakePath (s : State) (gk pid : Nat) (fresh : Bool) : State :=
  s.modPath gk pid (fun p => p.wake (s.coreCycle (coreOf gk)) fresh)

/-- The lowest free path-table index of a group (R129). -/
def Group.freeEntry (g : Group) : Option Nat :=
  (List.range 8).find? (fun e => !(g.paths.any (fun x => x.2.entry == some e)))

/-! ### Trace events (R418, R420) -/

/-- The record of an event: its kind, code, source word, path fields and payload (R418). -/
def traceWord (kind code asid src payload cycle pc mask ppc addr : Nat) : BitVec 512 :=
  BitVec.ofNat 512 (kind + src * 2 ^ 4 + code * 2 ^ 32 + asid * 2 ^ 48 + payload % 2 ^ 32 * 2 ^ 64 + cycle % 2 ^ 64 * 2 ^ 96 + pc * 2 ^ 192
    + mask * 2 ^ 256 + ppc * 2 ^ 320 + addr % 2 ^ 64 * 2 ^ 384)

/-- Bits [20:4] of a record that a path of a group makes (R418), shifted down by 4. -/
def pathSource (gk entry : Nat) : Nat :=
  coreOf gk % 96 + dieOf gk * 2 ^ 7 + quarterOf gk % 4 * 2 ^ 8 + gk % 16 * 2 ^ 10 + entry * 2 ^ 14

/-- A record joins its source's queue of 16; a full queue loses it (R430). Tracing disabled, or a source outside the owning partition, makes none. -/
def State.postTrace (s : State) (die src part : Nat) (r : TraceRec) : State :=
  let t := s.trace die
  let q := mgetD t.queues src []
  if !t.tctl.getLsbD 0 || (listGet none s.pkg.town die) != some part then s
  else if q.length ≥ 16 then s.setTrace die { t with drop := if t.drop.toNat + 1 < 2 ^ 32 then t.drop + 1 else t.drop }
  else s.setTrace die { t with queues := mset t.queues src (q ++ [r]) }

/-- A hardware event of a path of a group at an instruction (R418, R420). -/
def State.pathEventAt (s : State) (gk pid code payload addr pc : Nat) : State :=
  match mget? s.groups gk with
  | none => s
  | some g =>
    let l := s.launch g.launch
    let p := mget? g.paths pid
    let entry := match p with | some x => x.entry.getD 0 | none => 0
    let mask : Mask := match p with | some x => x.mask | none => 0
    if !(s.trace (dieOf gk)).tctl.getLsbD 1 then s
    else s.postTrace (dieOf gk) (quarterOf gk) l.part
      { word := traceWord 0 code l.asid (pathSource gk entry) payload (s.coreCycle (coreOf gk)) pc mask.toNat 0 addr
        path := some (gk, pid) }

/-- And at the path's own PC. -/
def State.pathEvent (s : State) (gk pid code payload addr : Nat) : State := s.pathEventAt gk pid code payload addr (s.pcOf gk pid).toNat

/-- A hardware event of a saggar unit, the coil engine or the grove of a die (R420): NOPATH is set. -/
def State.unitEvent (s : State) (die src part asid code payload addr cycle : Nat) : State :=
  if !(s.trace die).tctl.getLsbD 1 then s
  else s.postTrace die src part { word := traceWord 0 code asid (2 ^ 17) payload cycle 0 0 0 addr, path := none }

/-! ### Fault records (R345) -/

/-- A record waits to be written to the fault queue of its partition and die (log 81, DESIGN CHOICE). -/
def State.postFault (s : State) (r : FRec) : Nat × State :=
  let (id, s) := s.fresh
  (id, { s with frecs := mset s.frecs id { r with id := id } })

/-- A record that names a group. -/
def State.groupFault (s : State) (gk kind cause : Nat) (mask : Mask) (pc : Pc) (va : Nat) : Nat × State :=
  match mget? s.groups gk with
  | none => (0, s)
  | some g =>
    let l := s.launch g.launch
    s.postFault
      { id := 0, part := l.part, die := dieOf gk, kind := kind, cause := cause, asid := l.asid, gk := some gk, mask := mask, pc := pc.toNat, va := va,
        posted := false }

/-! ### Addresses of a team's save record (R357) -/

/-- Index of the team among all of its grid: %clid × w × h + %team. -/
def State.teamIndex (s : State) (core : Nat) : Nat :=
  match (s.core core).team with
  | none => 0
  | some t =>
    let l := s.launch t.launch
    t.clid * (l.clw * l.clh) + t.idx

def State.saveBase (s : State) (core : Nat) : Nat :=
  match (s.core core).team with
  | none => 0
  | some t => (s.launch t.launch).save + 2 ^ 22 * s.teamIndex core

/-- A range of virtual addresses cut at 64 KiB boundaries. -/
def spans : Nat → Nat → Nat → List (Nat × Nat)
  | 0, _, _ => []
  | fuel + 1, va, n => if n = 0 then [] else
    let k := min n (65536 - va % 65536)
    (va, k) :: spans fuel (va + k) (n - k)

/-- The places of the pieces of a virtual range, for accesses of one kind, in ascending order. -/
def State.spanPlaces (s : State) (u p asid : Nat) (sys : Bool) (k : AccKind) : List (Nat × Nat) → List (Nat × Nat × Place) × State
  | [] => ([], s)
  | (va, n) :: l =>
    let (x, s) := s.place u p asid sys k va
    let (xs, s) := State.spanPlaces s u p asid sys k l
    ((va, n, x) :: xs, s)

/-- A range of storage, and whether it is cacheable memory (R181). -/
structure Spot where
  loc : Nat
  len : Nat
  cached : Bool
  deriving DecidableEq, Repr

/-- A piece that lies in this package. -/
def spanLoc (x : Nat × Nat × Place) : Option Spot :=
  match x.2.2 with
  | .at loc h _ => some ⟨loc, x.2.1, h == .cacheable⟩
  | _ => none

/-- A piece whose page has no translation, with its CAUSE. -/
def spanFault (x : Nat × Nat × Place) : Option (Nat × Nat) :=
  match x.2.2 with
  | .fault k => some (x.1, k)
  | _ => none

/-- The storage ranges of a virtual range for accesses of one kind, or the addresses and places that it has none for in this package: refusals first, since
they go before page faults (R182). -/
def State.rangeAll (s : State) (u p asid : Nat) (sys : Bool) (k : AccKind) (va n : Nat) : Except (List (Nat × Place)) (List Spot) × State :=
  let (xs, s) := s.spanPlaces u p asid sys k (spans (n / 65536 + 2) va n)
  let bad := xs.filter (fun x => (spanLoc x).isNone)
  if bad.isEmpty then (.ok (xs.filterMap spanLoc), s)
  else (.error ((bad.filter (fun x => (spanFault x).isNone) ++ bad.filter (fun x => (spanFault x).isSome)).map (fun x => (x.1, x.2.2))), s)

/-- And with the first of them only. -/
def State.range (s : State) (u p asid : Nat) (sys : Bool) (k : AccKind) (va n : Nat) : Except (Nat × Place) (List Spot) × State :=
  match s.rangeAll u p asid sys k va n with
  | (.ok ls, s) => (.ok ls, s)
  | (.error l, s) => (.error (l.headD (va, .prot)), s)

def State.readLocs (s : State) (ls : List Spot) : List Byte := ls.flatMap (fun x => s.bytes x.loc x.len)

def State.writeLocs (s : State) : List Spot → List Byte → State
  | [], _ => s
  | x :: l, bs => (s.write x.loc (bs.take x.len)).writeLocs l (bs.drop x.len)

def State.poisonedLocs (s : State) (ls : List Spot) : Bool := ls.any (fun x => (s.poisoned x.loc x.len).isSome)

/-! ### Images of loop stacks, rejoin registers and trap frames (R37, R38, R352) -/

def Loop.image (e : Loop) : Nat := e.start.toNat + e.count.toNat * 2 ^ 64 + e.endofs.toNat * 2 ^ 88

def stackImage : List Loop → Nat
  | [] => 0
  | e :: l => e.image + stackImage l * 2 ^ 128

def Rejoin.idle : Rejoin := { jpc := 0, armed := false, lost := false, expected := 0, arrived := 0, fmt := 0, stack := [] }
def Group.rej (g : Group) (k : Nat) : Rejoin := mgetD g.rejoin k Rejoin.idle

def Rejoin.image (j : Rejoin) : Nat :=
  j.jpc.toNat + j.armed.toNat * 2 ^ 56 + j.lost.toNat * 2 ^ 57 + j.expected.toNat * 2 ^ 64 + j.arrived.toNat * 2 ^ 128 + j.fmt.toNat * 2 ^ 192
    + j.stack.length * 2 ^ 229 + stackImage j.stack * 2 ^ 256

/-- A loop entry's image read back: none where a reserved field is nonzero or START is misaligned (R38). -/
def loopOf (w : Nat) : Option Loop :=
  if bits w 120 8 != 0 || bits w 56 8 != 0 || w % 4 != 0 then none
  else some { start := BitVec.ofNat 56 w, endofs := BitVec.ofNat 32 (bits w 88 32), count := BitVec.ofNat 24 (bits w 64 24) }

/-- `n` entries of a stack image. -/
def loopsOf (w : Nat) : Nat → Option (List Loop)
  | 0 => some []
  | n + 1 =>
    match loopOf (w % 2 ^ 128), loopsOf (w / 2 ^ 128) n with
    | some e, some l => some (e :: l)
    | _, _ => none

/-- Every entry of a four-entry stack image is free of reserved bits (R38), those above the depth included. -/
def stackOk (w : Nat) : Bool := (loopsOf w 4).isSome

/-- A saved %fmt without reserved codes and reserved bits (R39, R40): an idle register's image holds zeros. -/
def fmtCodesOk (n : Nat) : Bool := n < 2 ^ 22 && n % 8 < 6 && bits n 6 4 < 6 && bits n 10 4 < 6

/-- A rejoin image of a group of `width` lanes read back: none where R37 or R38 forbids it (log 86, DEDUCED). -/
def rejoinOf (width w : Nat) : Option Rejoin :=
  if bits w 232 24 != 0 || bits w 224 5 != 0 || bits w 58 6 != 0 || bits w 229 3 > 4 || w % 4 != 0 || !stackOk (bits w 256 512)
      || bits w 64 64 ≥ 2 ^ width || bits w 128 64 ≥ 2 ^ width || !fmtCodesOk (bits w 192 32) then none
  else
    (loopsOf (bits w 256 512) (bits w 229 3)).map (fun st =>
      { jpc := BitVec.ofNat 56 w, armed := bit w 56, lost := bit w 57, expected := BitVec.ofNat 64 (bits w 64 64), arrived := BitVec.ofNat 64 (bits w 128 64),
        fmt := BitVec.ofNat 32 (bits w 192 32), stack := st })

/-- The eight rejoin images, j0 lowest. -/
def rejImage (g : Group) : Nat → Nat
  | 0 => 0
  | n + 1 => (g.rej (7 - n)).image + rejImage g n * 2 ^ 768

def rejOf (width w : Nat) : Nat → Nat → Option (Map Rejoin)
  | _, 0 => some []
  | k, n + 1 =>
    match rejoinOf width (w % 2 ^ 768), rejOf width (w / 2 ^ 768) (k + 1) n with
    | some j, some l => some (if j = Rejoin.idle then l else (k, j) :: l)
    | _, _ => none

/-- A trap frame's bytes below HSCR (R352). -/
def frameImage (g : Group) (p : Path) (t : Trap) (fpc resume : Pc) : List Byte :=
  natLe 896 (resume.toNat + fpc.toNat * 2 ^ 64 + t.addr % 2 ^ 64 * 2 ^ 128 + p.mask.toNat * 2 ^ 192 + t.cause.code * 2 ^ 256 + p.entry.getD 0 * 2 ^ 264
    + p.loops.length * 2 ^ 267 + g.dz.toNat * 2 ^ 270 + p.fmt.toNat * 2 ^ 272 + stackImage p.loops * 2 ^ 320 + rejImage g 8 * 2 ^ 1024)

/-- A %fmt value that WRSP takes (R39, R40): no plane field is zero (log 44, DEDUCED). -/
def fmtOk (v : W32) : Bool :=
  fmtCodesOk v.toNat && bits v.toNat 14 3 != 0 && bits v.toNat 17 3 != 0

/-! ### Chains (R42 to R44, R261) -/

/-- Stores, atomics, SEND and JOB, which end a chain (R42). -/
def endsChain : Instr → Bool
  | .st _ _ _ _ => true
  | .sts _ _ => true
  | .stv _ _ => true
  | .atom _ _ _ _ => true
  | .atoms _ _ _ _ => true
  | .datom _ _ => true
  | .radd _ _ => true
  | .rmerge _ _ => true
  | .send _ _ => true
  | .sendr _ _ => true
  | .mcst _ _ => true
  | .job _ => true
  | .dflush _ _ => true
  | .dstat _ _ => true
  | _ => false

/-- The class of a group's unit accesses: it runs as the system does. -/
def State.isSys (s : State) (g : Group) : Bool := (s.launch g.launch).sys || g.handler.isSome

/-- The word at a path's PC stands in a chain; one that cannot be read counts as the chain's (log 87, DESIGN CHOICE). -/
def State.chAt (s : State) (gk : Nat) (g : Group) (pc : Pc) : Bool :=
  let l := s.launch g.launch
  match s.place (quarterOf gk) l.part l.asid (s.isSys g) .fetch pc.toNat with
  | (.at loc _ _, _) => bit (s.word loc 2) 15
  | _ => true

/-- The chain on a quarter is this path's. -/
def Chain.isOf (c : Chain) (gk pid : Nat) : Bool := c.gk == gk && c.pid == pid

/-- The path stands inside the chain: its last instruction was a member, and its next word is one (R42). -/
def State.inside (s : State) (c : Chain) (gk pid : Nat) : Bool :=
  c.isOf gk pid &&
  (match mget? s.groups gk with
   | none => false
   | some g => match mget? g.paths pid with | some p => p.lastCh && s.chAt gk g p.pc | none => false)

/-- Where the chain that a path stands in runs again: the one in progress, or the one that ended at the instruction the path waits at (R44, R68). -/
def State.restartOf (s : State) (gk pid : Nat) : Option Restart :=
  let back := (mget? s.groups gk).bind (fun g => (mget? g.paths pid).bind (fun p => p.back))
  match (s.quarter (quarterOf gk)).chain with
  | some c => if s.inside c gk pid then some { head := c.head, ctr := c.ctr } else back
  | none => back

/-- The chain of a path is over, its latches lost. -/
def State.endChain (s : State) (gk pid : Nat) : State :=
  let q := s.quarter (quarterOf gk)
  match q.chain with
  | none => s
  | some c => if c.isOf gk pid then s.setQuarter (quarterOf gk) { q with chain := none, latch := [] } else s

/-- A chain interrupted: the latches are lost, the path's PC returns to the head, and the stream counter with it (R44, R68). -/
def State.cutChain (s : State) (gk pid : Nat) : State :=
  let t := s.endChain gk pid
  match s.restartOf gk pid with
  | none => t
  | some k =>
    (t.modGroup gk (fun g => { g with ctr := k.ctr })).modPath gk pid (fun p => { p with pc := k.head, lastCh := false, ilen := 0, back := none })

/-- The chain of another path of the group is interrupted: every path of the group stops (R344, R351). -/
def State.cutOthers (s : State) (gk pid : Nat) : State :=
  match (s.quarter (quarterOf gk)).chain with
  | some c => if c.gk == gk && c.pid != pid then s.cutChain gk c.pid else s
  | none => s

/-- The resume PC of a path: the head of its chain, or the value given (R44, R350). -/
def State.resumePc (s : State) (gk pid : Nat) (pc : Pc) : Pc :=
  match s.restartOf gk pid with
  | some k => k.head
  | none => pc

/-! ### Groups that run and groups that stop (R254, R260, R351) -/

/-- The paths of the group run: it is not stopped, and no other path's trap handler runs. -/
def Group.runs (g : Group) (pid : Nat) : Bool :=
  !g.dead && !g.stopped && g.park.isNone && (match g.handler with | some h => h.pid == pid | none => true)

/-- Cycles a path has been ready without issuing (R260): those in which its group stands still do not count. -/
def Group.readyFor (g : Group) (pid now : Nat) (p : Path) : Nat := p.idle + (if g.runs pid then now - p.since else 0)

/-- The running group stops: its ready paths keep the cycles counted so far. -/
def Group.halt (g : Group) (now : Nat) : Group :=
  { g with paths := g.paths.map (fun x => (x.1, if x.2.st == .ready then { x.2 with idle := g.readyFor x.1 now x.2, since := now } else x.2)) }

/-- The stopped group runs again: its ready paths count on from now. -/
def Group.go (g : Group) (now : Nat) : Group :=
  { g with paths := g.paths.map (fun x => (x.1, if x.2.st == .ready then { x.2 with since := now } else x.2)) }

/-! ### Retirement (R139, R252, R266, R399) -/

/-- The group slots that %gang lists (R47). -/
def gangSlots (w : W32) : List Nat := (List.range (bits w.toNat 24 3)).map (fun i => bits w.toNat (4 * i) 4)

/-- A task returns to READY with a new stamp, and the grove says so (R399). -/
def State.returnTask (s : State) (e : Nat) : State :=
  match mget? s.grove e with
  | none => s
  | some t =>
    ({ s with grove := mset s.grove e { t with st := .ready, stamp := s.dieCycle (e / 8192) } }).unitEvent (e / 8192) (10200 + e / 8192)
      t.part t.asid 0x8301 (e % 8192) 0 (s.dieCycle (e / 8192))

def State.returnTasks (s : State) (gk : Nat) : State :=
  match mget? s.groups gk with
  | none => s
  | some g => g.tasks.foldl State.returnTask s

/-- The groups of the team on a core. -/
def State.teamGroups (s : State) (core : Nat) : List (Nat × Group) := s.groups.filter (fun x => coreOf x.1 == core)

/-- What a group that is gone still has in flight: it orders nothing against a later group of its slot. Loads go on, and keep the slot until they return
(R139). -/
def State.orphan (s : State) (gk : Nat) : State :=
  let (n, s) := s.fresh
  { s with
    accesses := s.accesses.map (fun a => (a.1, if a.2.gk = gk then { a.2 with gk := gk + 2 ^ 20 * (n + 1) } else a.2))
    barReqs := s.barReqs.filter (fun b => b.2.gk != gk) }

/-- The team on a core retires once none of its groups can issue any more and no tile transfer or MMA of its core is under way: its core is free, its
watches released (R252). -/
def State.teamCheck (s : State) (core : Nat) : State :=
  match (s.core core).team with
  | none => s
  | some t =>
    if (s.teamGroups core).all (fun x => x.2.dead) && !s.xfers.any (fun x => x.2.core == core)
        && (List.range 4).all (fun k => (s.quarter (core * 4 + k)).mmaq.isEmpty) then
      let s := (s.teamGroups core).foldl (fun s x => (s.returnTasks x.1).orphan x.1) s
      let s := { s with groups := s.groups.filter (fun x => !(coreOf x.1 == core)) }
      let s := s.setCore core { s.core core with team := none, watches := [] }
      s.modLaunch t.launch (fun l => { l with teams := l.teams - 1 })
    else s

/-! ### Taking a trap (R350 to R352) -/

/-- The group stops for good, with a record of kind 8, 9 or 10, or 7 for a frame that cannot be written (R351, R352, R357) (log 33, DEDUCED). -/
def State.stopGroup (s : State) (gk pid kind cause : Nat) (fpc : Pc) (va : Nat) : State :=
  let mask := match mget? s.groups gk with | some g => ((mget? g.paths pid).map (·.mask)).getD 0 | none => 0
  let (_, s) := s.groupFault gk kind cause mask fpc va
  let s := s.modGroup gk (fun g => { g with dead := true, handler := none })
  let s := match mget? s.groups gk with | some g => s.modLaunch g.launch (fun l => { l with failed := true }) | none => s
  let q := s.quarter (quarterOf gk)
  s.setQuarter (quarterOf gk) { q with growq := q.growq.filter (fun r => r.gk != gk) }

/-- The trap frame written through the group's address space: none when its pages refuse (R351, R357) (log 33, DEDUCED). -/
def State.writeFrame (s : State) (gk : Nat) (g : Group) (bs : List Byte) : Option State :=
  let l := s.launch g.launch
  match s.range (quarterOf gk) l.part l.asid true .store (s.saveBase (coreOf gk) + 0x1000 + 1024 * g.rank) bs.length with
  | (.ok ls, s) => some (s.writeLocs ls bs)
  | (.error _, _) => none

/-- A path that a trap strikes is ready, with a fresh stamp where it leaves a wait that R259 names; a held one stays held until its release (R429). -/
def Path.struck (p : Path) (now : Nat) : Path :=
  match p.st with
  | .ready => p
  | .held => p
  | .waiting _ => p.wake now false
  | _ => p.wake now true

/-- A trap taken by a path, before what its group's end does to a gang: the frame is written and the path enters the handler (R351). -/
def State.trapCore (s : State) (gk pid : Nat) (t : Trap) (fpc next : Pc) : State :=
  match mget? s.groups gk with
  | none => s
  | some g0 =>
    let resume := s.resumePc gk pid next
    let s := s.pathEventAt gk pid 0x8000 t.cause.code t.addr fpc.toNat
    let s := (s.cutOthers gk pid).cutChain gk pid
    let l := s.launch g0.launch
    match mget? s.groups gk with
    | none => s
    | some g =>
      match mget? g.paths pid with
      | none => s
      | some p =>
        if g.handler.isSome then s.stopGroup gk pid 9 0 fpc t.addr
        else if l.handler = 0 then s.stopGroup gk pid 10 0 fpc t.addr
        else
          match s.writeFrame gk g (frameImage g p t fpc resume) with
          | none => s.stopGroup gk pid 7 2 fpc (s.saveBase (coreOf gk) + 0x1000 + 1024 * g.rank)
          | some s =>
            let now := s.coreCycle (coreOf gk)
            let s := match p.st with | .waiting (.send k) => { s with sends := merase s.sends k } | _ => s
            (s.modGroup gk (fun g => g.halt now)).modGroup gk (fun g =>
              { g.modPath pid (fun p => { p.struck now with pc := BitVec.ofNat 56 l.handler, fmt := l.fmt, loops := [], lastCh := false, back := none }) with
                handler := some { pid := pid, since := now, reported := false } })

/-- The group stands still until its replay, or for another path's trap handler until ERET (R344, R351): no trap strikes this path meanwhile. -/
def State.trapHeld (s : State) (gk pid : Nat) : Bool :=
  match mget? s.groups gk with
  | some g => g.park.isSome || (match g.handler with | some h => h.pid != pid | none => false)
  | none => false

/-- The PC of the instruction that a path waits at, or comes to next. -/
def State.fpcOf (s : State) (gk pid : Nat) : Pc :=
  match (mget? s.groups gk).bind (fun g => mget? g.paths pid) with
  | some p => (match p.st with | .blocked (.again _) => p.pc | .blocked _ => p.ipc | _ => p.pc)
  | none => 0

/-- A listed group has ended: %gang is cleared and every MMA or MZERO held at the latch raises ILL in its own group (R266). -/
def State.gangEnd (s : State) (gk : Nat) : State :=
  let q := s.quarter (quarterOf gk)
  if (gangSlots q.gang).contains (gk % 16) then
    let held : List (Nat × Nat) := match q.round with | some r => r.members.filter (fun m => m.1 != gk) | none => []
    let s := s.setQuarter (quarterOf gk) { q with gang := 0, round := none }
    held.foldl (fun s m =>
      if s.trapHeld m.1 m.2 then s.modPath m.1 m.2 (fun p => { p with st := .blocked .gangLost })
      else s.trapCore m.1 m.2 ⟨.ill, 10⟩ (s.fpcOf m.1 m.2) (s.pcOf m.1 m.2)) s
  else s

/-- A trap taken: R351, and where the group stops for good, R266 and the end of its team. -/
def State.trapAt (s : State) (gk pid : Nat) (t : Trap) (fpc next : Pc) : State :=
  let s := s.trapCore gk pid t fpc next
  match mget? s.groups gk with
  | none => s
  | some g => if g.dead then (s.gangEnd gk).teamCheck (coreOf gk) else s

/-- A trap that strikes a path at the instruction it waits in; while its group stands still, the instruction issues anew afterwards instead. -/
def State.trapWait (s : State) (gk pid : Nat) (t : Trap) : State :=
  if s.trapHeld gk pid then (s.cutChain gk pid).wakePath gk pid true else s.trapAt gk pid t (s.fpcOf gk pid) (s.pcOf gk pid)

/-- The instruction raises a trap whose resume PC is its own (R350). -/
def Ctx.trap (c : Ctx) (t : Trap) : State := c.s.trapAt c.gk c.pid t c.p.pc c.p.pc

def Ctx.ill (c : Ctx) (detail : Nat) : State := c.trap ⟨.ill, detail⟩

/-! ### Return from a trap (R140, R352) -/

/-- A frame's layout: reserved fields are zero, the PC is aligned, and the loop stack is one of R38. -/
def frameLaidOut (w : Nat) : Bool :=
  bits w 56 8 == 0 && bits w 120 8 == 0 && bits w 271 1 == 0 && bits w 304 16 == 0 && bits w 832 192 == 0 && w % 4 == 0 && bits w 267 3 ≤ 4
    && stackOk (bits w 320 512)

/-- A trap frame read back: what ERET restores, or none where the frame is refused (R352). -/
def frameOf (width w : Nat) (h : Path) : Option (Path × Map Rejoin × Bool) :=
  if !frameLaidOut w || bits w 192 64 == 0 || (BitVec.ofNat 64 (bits w 192 64) &&& ~~~h.mask) != 0 || !fmtOk (BitVec.ofNat 32 (bits w 272 32)) then none
  else
    match loopsOf (bits w 320 512) (bits w 267 3), rejOf width (bits w 1024 6144) 0 8 with
    | some st, some rj =>
      some ({ h with pc := BitVec.ofNat 56 w, mask := BitVec.ofNat 64 (bits w 192 64), fmt := BitVec.ofNat 32 (bits w 272 32), loops := st, lastCh := false,
                     back := none }, rj, bit w 270)
    | _, _ => none

/-! ### Completing an instruction -/

/-- The issuing path: its counts return to zero (R260). -/
def Path.issued (p : Path) (now len : Nat) (pc : Pc) (ch : Bool) : Path :=
  { p with idle := 0, since := now, boosted := false, lastCh := ch, ilen := len, ipc := pc, back := none, noCut := if ch then p.noCut else none }

/-- The quarter of an issue: a chain of the path goes on, or ends at an instruction that is none of its members or only stands last (R42). -/
def Quarter.issued (q : Quarter) (gk pid now : Nat) (ch : Bool) : Quarter :=
  match q.chain with
  | some k => if k.isOf gk pid then { q with chain := if ch then some { k with count := k.count + 1, since := now } else none } else q
  | none => q

/-- The group of an issue: the watchdog counts outside a trap handler (R263). -/
def Group.issued (g : Group) (now pid : Nat) (pc : Pc) (handler : Bool) : Group :=
  { g with
    lastIssue := now
    lastPid := pid
    lastPc := pc
    watchdog := if handler then g.watchdog else g.watchdog + 1
    unfinished := g.unfinished.filter (fun u => !(u.1 == pid && u.2.pc == pc)) }

/-- The watchdog asks for its check at 2^20 and every 2^16 further (R263). -/
def Ctx.watched (c : Ctx) (s : State) : State :=
  if c.g.handler.isNone && c.g.watchdog + 1 ≥ 2 ^ 20 && (c.g.watchdog + 1) % 2 ^ 16 == 0 then { s with agenda := .event (.watchdog c.gk) :: s.agenda } else s

/-- And for an instruction that completes later than it began. -/
def State.watchdogDue (s : State) (gk : Nat) : State :=
  match mget? s.groups gk with
  | some g => if g.handler.isNone && g.watchdog ≥ 2 ^ 20 && g.watchdog % 2 ^ 16 == 0 then { s with agenda := .event (.watchdog gk) :: s.agenda } else s
  | none => s

/-- What every issue of an instruction does beside its effect. -/
def Ctx.issued (c : Ctx) (s : State) : State :=
  c.watched (((s.modPath c.gk c.pid (fun p => p.issued (s.coreCycle c.core) c.len c.p.pc c.o.hdr.ch)).setQuarter c.q
    ((s.quarter c.q).issued c.gk c.pid (s.coreCycle c.core) (c.o.hdr.ch && !endsChain c.i))).modGroup c.gk
      (fun g => g.issued (s.coreCycle c.core) c.pid c.p.pc c.g.handler.isSome))

/-- The path's PC after an instruction at `pc` that continues sequentially at `next` (R132): the end of the top entry's body returns to START or pops. -/
def loopStep (p : Path) (pc next : Pc) : Path :=
  match p.loops.getLast? with
  | none => { p with pc := next }
  | some e =>
    if e.start + e.endofs.setWidth 56 = pc then
      if e.count.toNat > 1 then { p with pc := e.start, loops := p.loops.dropLast ++ [{ e with count := e.count - 1 }], lastCh := false, noCut := none }
      else { p with pc := next, loops := p.loops.dropLast }
    else { p with pc := next }

/-- The instruction is complete and the path continues at the next one. -/
def Ctx.advance (c : Ctx) (s : State) : State := (c.issued s).modPath c.gk c.pid (fun p => loopStep p c.p.pc c.seqPc)

/-- The instruction is complete and the path continues at `t`. -/
def Ctx.jump (c : Ctx) (s : State) (t : Pc) : State := (c.issued s).modPath c.gk c.pid (fun p => { p with pc := t })

/-- The path is blocked at the instruction it has issued, without an end of its chain: its data is on the way from a peer. -/
def Ctx.hold (c : Ctx) (s : State) (b : Block) : State :=
  (c.issued s).modPath c.gk c.pid (fun p => p.leave (s.coreCycle c.core) (.blocked b))

/-- Where the chain that the instruction stands in runs again. -/
def Ctx.restart (c : Ctx) (s : State) : Option Restart :=
  if c.o.hdr.ch then (s.quarter c.q).chain.bind (fun k => if k.isOf c.gk c.pid then some { head := k.head, ctr := k.ctr } else none) else none

/-- The chain in progress of a path is interrupted under R261, with its event (R420). -/
def State.interrupt (s : State) (gk pid : Nat) : State :=
  match (s.quarter (quarterOf gk)).chain with
  | some c => if s.inside c gk pid then (s.pathEvent gk pid 0x8002 0 0).cutChain gk pid else s
  | none => s

/-- The instruction has issued, and its path is blocked at it until the wait is over (R254). A chain is interrupted at once (R261), unless the instruction is
one that only stands last in a chain, which is over with it (R42, R44). -/
def Ctx.block (c : Ctx) (s : State) (b : Block) : State :=
  let back := if endsChain c.i then c.restart s else none
  let s := (c.issued s).interrupt c.gk c.pid
  s.modPath c.gk c.pid (fun p => { p.leave (s.coreCycle c.core) (.blocked b) with back := back })

/-- The instruction cannot issue yet: its path waits and issues it anew (R254, R255). -/
def Ctx.wait (c : Ctx) (w : WaitFor) : State := c.pre.modPath c.gk c.pid (fun p => p.leave c.now (.waiting w))

/-- As `wait`, for the waits after which R259 gives a fresh stamp. -/
def Ctx.waitBlocked (c : Ctx) (w : WaitFor) : State :=
  (c.pre.interrupt c.gk c.pid).modPath c.gk c.pid (fun p => p.leave c.now (.blocked (.again w)))

/-- A path whose instruction is complete goes on after it, or stays at the head of a chain that was interrupted by it (R44, R261) (log 38, DESIGN CHOICE). -/
def Path.pass (p : Path) : Path := if p.ilen = 0 then p else { loopStep p p.pc (p.pc + BitVec.ofNat 56 p.ilen) with back := none }

/-- A blocked path's instruction is complete: it becomes ready with a fresh stamp at the following instruction (R132, R259). -/
def State.release (s : State) (gk pid : Nat) : State := s.modPath gk pid (fun p => p.pass.wake (s.coreCycle (coreOf gk)) true)

/-- As `release`, for the instructions that R254 counts as waiting: the stamp stays. -/
def State.releaseOld (s : State) (gk pid : Nat) : State := s.modPath gk pid (fun p => p.pass.wake (s.coreCycle (coreOf gk)) false)

/-! ### Holds (R429) -/

/-- A path is held at its next instruction boundary, or at the head of a chain in progress. -/
def State.holdPath (s : State) (gk pid : Nat) : State :=
  match mget? s.groups gk with
  | none => s
  | some g =>
    match mget? g.paths pid with
    | none => s
    | some p =>
      let flag := s.modPath gk pid (fun p => { p with hold := true })
      if (mget? g.unfinished pid).isSome || g.park.isSome then flag
      else
        match p.st with
        | .ready => (s.cutChain gk pid).modPath gk pid (fun p => ({ p with hold := false } : Path).leave (s.coreCycle (coreOf gk)) .held)
        | .waiting _ => (s.cutChain gk pid).modPath gk pid (fun p => ({ p with hold := false } : Path).leave (s.coreCycle (coreOf gk)) .held)
        | .held => s
        | _ => flag

/-! ### Page faults (R182, R344) -/

/-- The group parks at the path's instruction with the unfinished lanes, one record for each page in `faults` (address, lanes, CAUSE). -/
def State.park (s : State) (gk pid kind : Nat) (pc : Pc) (unfinished : Mask) (faults : List (Nat × Mask × Nat)) : State :=
  let s := (s.cutOthers gk pid).cutChain gk pid
  let (ids, s) := faults.foldl (fun (x : List Nat × State) f =>
    let (id, s) := x.2.groupFault gk kind f.2.2 f.2.1 pc f.1
    (x.1 ++ [id], s)) ([], s)
  (s.modGroup gk (fun g => g.halt (s.coreCycle (coreOf gk)))).modGroup gk (fun g => { g with park := some { pid := pid, mask := unfinished, recs := ids, worst := 0, lane := 64, va := 0, pc := 0 } })

/-- Faults met by an instruction that acts once per path: a record for each page, with the lowest active lane alone in its MASK (R125, R345) (log 110, DEDUCED). -/
def Ctx.parkAll (c : Ctx) (s : State) (kind : Nat) (faults : List (Nat × Nat)) : State :=
  let m : Mask := 1#64 <<< c.lead
  s.park c.gk c.pid kind c.p.pc m (faults.map (fun x => (x.1, m, x.2)))

def Ctx.parkOnce (c : Ctx) (s : State) (kind va cause : Nat) : State := c.parkAll s kind [(va, cause)]

/-- What a range that has no storage leads to: PROT at its start where a page refuses it, else a park for every page that faults (R182, R344). -/
def Ctx.rangeBad (c : Ctx) (s : State) (kind va : Nat) (l : List (Nat × Place)) : State :=
  match l with
  | (_, .fault _) :: _ => c.parkAll s kind (l.filterMap (fun x => match x.2 with | .fault k => some (x.1, k) | _ => none))
  | _ => { c with s := s }.trap ⟨.prot, va⟩

end Sys2Proof.Machine
end

