-- ==== Sys2Proof/Machine/Cache.lean ====
section
/-! DEFINITION. Copies: the core cache (R188, R189, R269, R279), replicas of LLC sectors (R278, R293) and the orientation and dirtiness of sectors
(R275, R276). -/

namespace Sys2Proof.Machine

/-! ### The core cache -/

/-- The cache banks, that is ways, of the core's present team (R269). -/
def State.ways (s : State) (core : Nat) : Nat :=
  match (s.core core).team with
  | none => 0
  | some t => (banksOf (s.launch t.launch).banks 0).length

def frameLine (loc : Nat) : Nat := loc / 128 % 4
def frameTag (loc : Nat) : Nat := loc / 512
def frameSet (tag : Nat) : Nat := tag % 64

/-- The core's copy of the line that holds an address. -/
def Core.copy (c : Core) (loc : Nat) : Option (List Byte) :=
  match c.frames.find? (fun f => f.tag == frameTag loc) with
  | none => none
  | some f => (mget? f.lines (frameLine loc)).map (fun (x : List Byte × Nat) => x.1)

/-- Frames of the superblock of an address changed. -/
def Core.modFrame (c : Core) (loc : Nat) (f : Frame → Frame) : Core :=
  { c with frames := c.frames.map (fun x => if x.tag == frameTag loc then f x else x) }

/-- Bytes replaced in a line from an offset on. -/
def patch : List Byte → Nat → List Byte → List Byte
  | l, _, [] => l
  | l, o, b :: bs => patch (listSet l o b) (o + 1) bs

/-- The copy, if present, takes the stored bytes (R188). -/
def Core.update (c : Core) (loc : Nat) (bs : List Byte) : Core :=
  c.modFrame loc (fun f => { f with lines := mmodify f.lines (frameLine loc) (fun x => (patch x.1 (loc % 128) bs, x.2)) })

/-- And bytes that reach over several lines. -/
def Core.updateAll (c : Core) (loc : Nat) (bs : List Byte) : Core :=
  (List.range ((loc % 128 + bs.length + 127) / 128)).foldl (fun c i =>
    let a := max loc ((loc / 128 + i) * 128)
    c.update a ((bs.drop (a - loc)).take (128 - a % 128))) c

/-- The line of an address is dropped. -/
def Core.drop (c : Core) (loc : Nat) : Core := c.modFrame loc (fun f => { f with lines := merase f.lines (frameLine loc) })

/-- Every line is invalid (R188, R268). -/
def Core.invalidate (c : Core) : Core := { c with frames := [] }

/-- How long a hint keeps a line: .sl, then .df, then .ll (R279). -/
def retainRank : Nat → Nat
  | 1 => 0
  | 2 => 2
  | _ => 1

def Frame.rank (f : Frame) : Nat := ((f.lines.map (fun l => retainRank l.2.2)).max?).getD 0

/-- The frame of an address has been used (R279). -/
def Core.touch (c : Core) (loc tick : Nat) : Core := c.modFrame loc (fun f => { f with used := tick })

/-- A line fills its superblock's frame, or a frame of its set: an invalid one, else that of least rank and then least recent use (R269, R279). A line that is
held already keeps the hint of the access that allocated it (R189). -/
def Core.fill (c : Core) (ways loc hint tick : Nat) (line : List Byte) : Core :=
  let tag := frameTag loc
  if c.frames.any (fun f => f.tag == tag) then
    c.modFrame loc (fun f =>
      let h := match mget? f.lines (frameLine loc) with | some (x : List Byte × Nat) => x.2 | none => hint
      { f with lines := mset f.lines (frameLine loc) (line, h), used := tick })
  else if ways = 0 then c
  else
    let new : Frame := { tag := tag, lines := [(frameLine loc, line, hint)], used := tick }
    let mine := c.frames.filter (fun f => frameSet f.tag == frameSet tag && !f.lines.isEmpty)
    let rest := c.frames.filter (fun f => !f.lines.isEmpty)
    if mine.length < ways then { c with frames := rest ++ [new] }
    else
      match minBy? (fun f => f.rank * 2 ^ 64 + f.used) mine with
      | none => { c with frames := rest ++ [new] }
      | some v => { c with frames := rest.filter (fun f => f.tag != v.tag) ++ [new] }

/-- The line of an address taken into the core's cache from memory (log 77, DEDUCED). -/
def State.fillLine (s : State) (core loc : Nat) (rh : Retain) : State :=
  s.setCore core ((s.core core).fill (s.ways core) loc rh.code s.tick (s.bytes (loc / 128 * 128) 128))

/-- A hit in the core's cache. -/
def State.touchLine (s : State) (core loc : Nat) : State := s.setCore core ((s.core core).touch loc s.tick)

/-- The core's lines are invalidated by an acquire (R188). -/
def State.acquire (s : State) (core : Nat) : State := s.setCore core (s.core core).invalidate

/-! ### Sectors (R275 to R278, R293) -/

def replicaKey (die sector : Nat) : Nat := die * 2 ^ 40 + sector

/-- A die holds a replica of a sector. -/
def State.replicaOn (s : State) (die sector : Nat) : Bool := (mget? s.replicas (replicaKey die sector)).isSome

def State.hasReplica (s : State) (sector : Nat) : Bool :=
  s.replicaOn 0 sector || s.replicaOn 1 sector

/-- A replica is allocated in the slice of a die that the local list of partition `p` selects for the sector; an empty list allocates none (R278, R435). -/
def State.addReplica (s : State) (p die sector : Nat) : State :=
  let sl := (mgetD s.pkg.lsl (2 * p + die) 0).toNat
  if sl = 0 then s else { s with replicas := mset s.replicas (replicaKey die sector) (sliceOf sl (sector * 1024)) }

/-- The replicas of a sector are invalid. -/
def State.dropReplicas (s : State) (sector : Nat) : State := { s with replicas := s.replicas.filter (fun x => x.1 % 2 ^ 40 != sector) }

def State.setDirty (s : State) (sector : Nat) : State := { s with dirty := insertLine sector s.dirty }
/-- Bytes performed at the home slice, in whatever orientation the sector is: replicas of the sectors are invalidated first (R293), and the sectors are dirty
unless the hint writes them on to HBM (R189); a memory-side page has neither (R280). -/
def State.putLines (s : State) (cacheable dirty : Bool) (loc : Nat) (bs : List Byte) : State :=
  let s := if cacheable && isHbm loc then (sectorsIn loc bs.length).foldl (fun s x => let s := s.dropReplicas x; if dirty then s.setDirty x else s) s else s
  s.write loc bs

/-- A write of bytes by rows that is performed in one event, by an engine, a peer or a control core. -/
def State.homeWrite (s : State) (cacheable dirty : Bool) (loc : Nat) (bs : List Byte) : State :=
  (if cacheable then s.toRows loc bs.length else s).putLines cacheable dirty loc bs

/-- An engine's write of bytes to cacheable memory. -/
def State.engineWrite (s : State) (loc : Nat) (bs : List Byte) : State := s.homeWrite true true loc bs

end Sys2Proof.Machine
end

