-- ==== Sys2Proof/Machine/Operands.lean ====
section
/-! DEFINITION. Reading operands (R30, R48, R99 to R103), writing results (R31, R98, R125), the random stream (R67, R230), and `perform`: the order of checks of
R51 that every instruction goes through before its own effect. -/

namespace Sys2Proof.Machine

/-! ### Special registers (R48) -/

def Ctx.team (c : Ctx) : Option Team := (c.s.core c.core).team
def Ctx.teamIdx (c : Ctx) : Nat := match c.team with | some t => t.idx | none => 0
def Ctx.clid (c : Ctx) : Nat := match c.team with | some t => t.clid | none => 0

/-- The value of a special register in a lane, 32 bits (R48, R49) (log 79, DEDUCED). -/
def Ctx.special (c : Ctx) (lane : Nat) : SpReg → Nat
  | .lane => lane
  | .gwidth => c.g.width
  | .group => c.gk % 64
  | .team => c.teamIdx
  | .clid => c.clid
  | .core => c.core % 96
  | .quarter => c.q % 4
  | .die => c.die
  | .clx => c.teamIdx % c.launch.clw
  | .cly => c.teamIdx / c.launch.clw
  | .path => c.p.entry.getD 0
  | .cycle => c.g.cycap.toNat % 2 ^ 32
  | .cycleh => c.g.cycap.toNat / 2 ^ 32
  | .gstep => ((c.s.asidRec c.part c.asid).stepOf (fun f => f.quarters.contains c.q)).toNat
  | .asid => c.asid
  | .prio => c.g.prio
  | .fmt => c.p.fmt.toNat
  | .gang => c.quarter.gang.toNat

/-! ### Reading operands -/

/-- The 64-bit value of an affine register in a lane (R36). -/
def Affine.at (a : Affine) (lane : Nat) : Nat := wrap 64 ((a.base.toNat : Int) + sext a.stride.toNat 32 * lane)

def Group.aff (g : Group) (n : Nat) : Affine := mgetD g.a n { base := 0, stride := 0 }

/-- Words n to n + w − 1 of a file, lowest first. -/
def wordsOf (f : Nat → W32) (n : Nat) : Nat → Nat
  | 0 => 0
  | w + 1 => (f n).toNat + 2 ^ 32 * wordsOf f (n + 1) w

/-- A lane's vector register; v255 reads as zero (R31). -/
def Group.vec (g : Group) (lane r : Nat) : W32 := if r == 255 then 0 else zget g.v (r * 64 + lane)
def Group.uni (g : Group) (r : Nat) : W32 := zget g.s r
def Quarter.latchAt (q : Quarter) (l lane : Nat) : W32 := zget q.latch (64 * l + lane)

/-- The value of `w` registers that a selector names, in a lane (R30). -/
def Ctx.val (c : Ctx) (x : Sel) (w lane : Nat) : Nat :=
  match x with
  | .v n => wordsOf (c.g.vec lane) n.toNat w
  | .s n => wordsOf c.g.uni n.toNat w
  | .a n => (c.g.aff n.toNat).at lane % 2 ^ (32 * w)
  | .q n => (c.quarter.latchAt n.toNat lane).toNat
  | .p n => (c.g.pred n.toNat lane).toNat
  | .sp r => c.special lane r % 2 ^ 32

/-- The immediate of a form for a value of `w` registers (R101, R102): sign-extended for signed types. -/
def immWords (n bitsN w : Nat) (signed : Bool) : Nat := if signed then wrap (32 * w) (sext n bitsN) else n

/-- A source: the immediate when it stands for this, the last, source, or the registers named. -/
def Ctx.src (c : Ctx) (x : Sel) (last signed : Bool) (w lane : Nat) : Nat :=
  match last, c.o.c, c.o.imm with
  | true, .raw v, _ => immWords v.toNat 9 w signed
  | true, .sel _, .i32 v => immWords v.toNat 32 w signed
  | _, _, _ => c.val x w lane

/-- Field C as a selector. -/
def Ctx.cSel (c : Ctx) : Sel := c.o.c.asSel

/-- A 64-bit address operand in a lane (R100). -/
def Ctx.addr (c : Ctx) (x : Sel) (lane : Nat) : Nat := c.val x 2 lane

/-- The effective address of classes M and A (R180). -/
def Ctx.ea (c : Ctx) (lane : Nat) : Nat :=
  match c.o.imm with
  | .i32 v => wrap 64 ((c.addr c.o.a lane : Int) + sext v.toNat 32)
  | _ => c.addr c.o.a lane

/-! ### The random stream (R230) -/

def streamMix : Nat → Nat → Nat
  | _, 0 => 0
  | z, n + 1 =>
    let i := 4 - (n + 1)
    let z := (z + (i + 1) * 0x9E3779B97F4A7C15) % 2 ^ 64
    let z := z ^^^ z / 2 ^ 31
    let z := z * 0xD6E8FEB86659FD93 % 2 ^ 64
    let z := z ^^^ z / 2 ^ 29
    if n = 0 then z else streamMix z n

/-- Word `lane` of a stream at counter `n`. -/
def streamWord (key : W64) (ofs n : W32) (lane : Nat) : Nat :=
  streamMix (((n.toNat * 2 ^ 32 + (lane + ofs.toNat) % 2 ^ 32) % 2 ^ 64) ^^^ key.toNat) 4 / 2 ^ 32

def Ctx.stream (c : Ctx) (k lane : Nat) : Nat := streamWord c.g.key c.g.ofs (c.g.ctr + BitVec.ofNat 32 k) lane

/-- The stream counter advanced by `k` (R67, R231). -/
def State.drawn (s : State) (gk k : Nat) : State := s.modGroup gk (fun g => { g with ctr := g.ctr + BitVec.ofNat 32 k })

/-! ### Writing results -/

/-- `w` vector registers of a lane written; v255 discards (R31). -/
def Group.setVec (g : Group) (lane r v : Nat) : Nat → Group
  | 0 => g
  | w + 1 => if r == 255 then g else Group.setVec { g with v := zset g.v (r * 64 + lane) (BitVec.ofNat 32 v) } lane (r + 1) (v / 2 ^ 32) w

/-- `w` uniform registers written. -/
def Group.setUni (g : Group) (r v : Nat) : Nat → Group
  | 0 => g
  | w + 1 => Group.setUni { g with s := zset g.s r (BitVec.ofNat 32 v) } (r + 1) (v / 2 ^ 32) w

/-- One lane's bit of a predicate; p7 discards (R31). -/
def Group.setPred (g : Group) (n lane : Nat) (b : Bool) : Group :=
  if n == 7 then g
  else
    let m := zget g.p n
    { g with p := zset g.p n (if b then m ||| (1#64 <<< lane) else m &&& ~~~(1#64 <<< lane)) }

/-- A vector or uniform destination written in a lane: a uniform register once. -/
def Group.setSel (g : Group) (x : Sel) (lane v w : Nat) : Group :=
  match x with
  | .v n => g.setVec lane n.toNat v w
  | .s n => g.setUni n.toNat v w
  | _ => g

/-- A latch written in some lanes, and marked written (R43, R98). -/
def Quarter.setLatch (q : Quarter) (l : Nat) (ls : List Nat) (f : Nat → Nat) : Quarter :=
  { q with
    latch := ls.foldl (fun m i => zset m (64 * l + i) (BitVec.ofNat 32 (f i))) q.latch
    chain := q.chain.map (fun k => { k with written := listSet k.written l true, waitLoad := merase k.waitLoad l }) }

/-- Results of a per-lane or uniform instruction: `f` gives the value of a lane's `w` registers; D is written unless NWB, the latch LQ when LE. -/
def Ctx.write (c : Ctx) (w : Nat) (f : Nat → Nat) : State :=
  let h := c.o.hdr
  if h.u then
    if c.actsOnce then
      let v := f c.lead
      let s := if h.nwb then c.s else c.s.modGroup c.gk (fun g => g.setSel c.o.d 0 v w)
      if h.le then s.setQuarter c.q ((s.quarter c.q).setLatch h.lq.toNat (lanes c.p.mask) (fun _ => v)) else s
    else c.s
  else
    let ls := lanes c.acts
    let s := if h.nwb then c.s else c.s.modGroup c.gk (fun g => ls.foldl (fun g i => g.setSel c.o.d i (f i) w) g)
    if h.le then s.setQuarter c.q ((s.quarter c.q).setLatch h.lq.toNat ls f) else s

/-- A complete instruction whose only effect is its results. -/
def Ctx.result (c : Ctx) (w : Nat) (f : Nat → Nat) : State := c.advance (c.write w f)

/-- A predicate written in every lane where the instruction acts. -/
def Ctx.writePred (c : Ctx) (x : Sel) (ls : List Nat) (f : Nat → Bool) : State :=
  match x with
  | .p n => c.s.modGroup c.gk (fun g => ls.foldl (fun g i => g.setPred n.toNat i (f i)) g)
  | _ => c.s

/-- A uniform result of an instruction that acts once per path. -/
def State.setUniform (s : State) (gk : Nat) (x : Sel) (w v : Nat) : State := s.modGroup gk (fun g => g.setSel x 0 v w)

/-- A complete instruction that acts once per path, with the state its action leaves. -/
def Ctx.once (c : Ctx) (f : Ctx → State) : State := if c.actsOnce then c.advance (f c) else c.advance c.s

/-- An instruction that acts once per path and completes in its own way. -/
def Ctx.once' (c : Ctx) (f : Ctx → State) : State := if c.actsOnce then f c else c.advance c.s

/-! ### What an instruction names -/

/-- The fields of an instruction's word with their roles. -/
def Ctx.fields (c : Ctx) : List (Role × Sel) :=
  match c.i.enc with
  | none => []
  | some e =>
    let sh := e.shape
    [(sh.d, c.o.d), (sh.a, c.o.a), (sh.b, c.o.b), (sh.c, c.o.c.asSel), (.dither, (extSel sh c.o.imm).getD .zero)]

/-- Registers a role takes from its selector on. -/
def roleWords (r : Role) (x : Sel) : Nat :=
  match r with
  | .unused => 0
  | .raw => 0
  | .dst w => w
  | .dstOpt w => w
  | .sdst w => w
  | .src w => w
  | .form w => w
  | .formD w => w
  | .upair => 2
  | .upairOpt => 2
  | .ublock => 13
  | .addr => (match x with | .v _ => 2 | .s _ => 2 | _ => 1)
  | .addrOpt => (match x with | .v _ => 2 | .s _ => 2 | _ => 1)
  | _ => 1

/-- The vector registers named, as first register and count; the zero register is none (R31). -/
def Ctx.vecs (c : Ctx) : List (Nat × Nat) :=
  c.fields.filterMap (fun f => match f.2 with
    | .v n => if n == 255 || roleWords f.1 f.2 == 0 then none else some (n.toNat, roleWords f.1 f.2)
    | _ => none)

/-- The highest vector register named, when it lies outside the allocation (R34, R350). -/
def Ctx.outside (c : Ctx) : Option Nat :=
  match ((c.vecs.map (fun x => x.1 + x.2 - 1)).filter (fun r => r ≥ 8 * c.g.blocks)).max? with
  | some r => some r
  | none => none

/-- Scoreboard keys of the registers read or written (R255). -/
def selKeys (x : Sel) (w : Nat) : List Nat :=
  match x with
  | .v n => if n == 255 then [] else (List.range w).map (· + n.toNat)
  | .s n => (List.range w).map (· + (256 + n.toNat))
  | .p n => if n == 7 || w == 0 then [] else [512 + n.toNat]
  | _ => []

def Ctx.keys (c : Ctx) : List Nat :=
  c.fields.flatMap (fun f => selKeys f.2 (roleWords f.1 f.2)) ++ (if c.o.hdr.pg == 7 then [] else [512 + c.o.hdr.pg.toNat])

/-- Keys of the registers with the result of a blocked instruction on its way; a BWAIT's is written at the end of its wait (log 109, DEDUCED). -/
def State.blockKeys (s : State) : Block → List Nat
  | .recv _ _ d _ => selKeys d 1
  | .taskget _ d _ => (List.range 13).map (· + (256 + d))
  | .step _ _ d => selKeys d 1
  | .clock _ _ d => selKeys d 2
  | .barrier rid =>
    (match mget? s.barReqs rid with
     | some r => (match r.op with | .tryit _ d => selKeys d 1 | _ => [])
     | none => [])
  | _ => []

/-- The registers of a group with an outstanding write (R255): those of results on their way, and those of instructions in which its paths are blocked. -/
def State.outstanding (s : State) (g : Group) : List Pending :=
  g.pending ++ g.paths.flatMap (fun x => match x.2.st with
    | .blocked b => (s.blockKeys b).map (fun k => { reg := k, pc := x.2.ipc, iid := 0 })
    | _ => [])

/-- Pending registers the instruction has to wait for (R255). -/
def Ctx.pendingKeys (c : Ctx) : List Nat := c.keys.filter (fun k => (c.s.outstanding c.g).any (fun p => p.reg == k))

/-- The latches read as sources. -/
def Ctx.latchReads (c : Ctx) : List Nat :=
  c.fields.filterMap (fun f => match f.2 with | .q n => if roleWords f.1 f.2 == 0 then none else some n.toNat | _ => none)

/-! ### Chains (R42, R43) -/

/-- The path returns to START of its top loop entry after this instruction (R132), which ends a chain. -/
def Ctx.loopsBack (c : Ctx) : Bool :=
  match c.p.loops.getLast? with
  | some e => e.start + e.endofs.setWidth 56 == c.p.pc && decide (e.count.toNat > 1)
  | none => false

/-- CH of the instruction that the path comes to next, where it follows in memory and can be fetched (R42). -/
def Ctx.nextCh (c : Ctx) : Bool :=
  !c.loopsBack &&
  match c.s.place c.q c.part c.asid c.sys .fetch c.seqPc.toNat with
  | (.at loc _ _, _) => bit (c.s.word loc 8) 15
  | _ => false

/-- The chain the instruction continues; none when it is a head or stands outside. -/
def Ctx.chain? (c : Ctx) : Option Chain :=
  if c.o.hdr.ch && c.p.lastCh then
    match c.quarter.chain with
    | some k => if k.isOf c.gk c.pid then some k else none
    | none => none
  else none

/-- The instruction with its chain begun, when it is the head of one: the latches are zero and unwritten (R43). -/
def Ctx.enter (c : Ctx) : Ctx :=
  if c.o.hdr.ch && c.chain?.isNone then
    let k : Chain :=
      { gk := c.gk, pid := c.pid, head := c.p.pc, count := 0, written := [false, false, false, false], waitLoad := [], ctr := c.g.ctr, since := c.now }
    { c with s := c.s.setQuarter c.q { c.quarter with latch := [], chain := some k } }
  else if !c.o.hdr.ch then
    match c.quarter.chain with
    | some k => if k.isOf c.gk c.pid then { c with s := c.s.setQuarter c.q { c.quarter with chain := none, latch := [] } } else c
    | none => c
  else c

/-- The chain and latch rules the instruction breaks (R42, R43): detail 8. -/
def Ctx.chainBad (c : Ctx) : Bool :=
  (match c.chain? with | some k => k.count ≥ 8 | none => false)
  || (c.o.hdr.ch && endsChain c.i && c.nextCh)
  || c.latchReads.any (fun l => !(match c.chain? with | some k => listGet false k.written l | none => false))

/-- A latch read whose load has still to return (log 29, DEDUCED). -/
def Ctx.latchWait (c : Ctx) : Option Nat :=
  match c.chain? with
  | none => none
  | some k => (c.latchReads.filterMap (fun l => mget? k.waitLoad l)).head?

/-! ### The order of checks (R51) -/

/-- The lower of two detail codes: R121 records the first that holds. -/
def firstDetail : Option Nat → Option Nat → Option Nat
  | some a, some b => some (min a b)
  | some a, none => some a
  | none, b => b

/-- The instruction the current path issues. -/
def State.ctx (s : State) (i : Instr) : Option Ctx :=
  match s.cur, opsOf? i with
  | some u, some o =>
    match mget? s.groups u.gk with
    | none => none
    | some g =>
      match mget? g.paths u.pid with
      | none => none
      | some p => some { s := s, pre := s, gk := u.gk, pid := u.pid, g := g, p := p, i := i, o := o }
  | _, _ => none

/-- An opcode whose instructions act once per path by their nature (R97, R125). -/
def onceOp (op : Nat) : Bool :=
  decide (op < 0x18) || op == 0x3F || op == 0x41 || (decide (0x48 ≤ op) && decide (op ≤ 0x4C) && op != 0x4B) || op == 0x7B || op == 0xA9 || op == 0xB3
    || (decide (0xB8 ≤ op) && op != 0xCD && op != 0xCE)

/-- The instruction acts: in some lane, or once for its path (R125). -/
def Ctx.acting (c : Ctx) : Bool :=
  match c.i.enc with
  | some e => if e.o.hdr.u || onceOp e.op then c.actsOnce else c.acts != 0
  | none => false

/-- A source of an instruction that acts is %cycle: the whole counter is captured for the group (R49, R125) (log 79, DEDUCED). -/
def Ctx.capture (c : Ctx) : Ctx :=
  if c.acting && c.fields.any (fun f => f.2 == .sp .cycle && roleWords f.1 f.2 != 0) then
    let w := BitVec.ofNat 64 c.now
    { c with s := c.s.modGroup c.gk (fun g => { g with cycap := w }), g := { c.g with cycap := w } }
  else c

/-- The last instruction of a loop body may not be a control instruction other than NOP or BRP (R132): detail 10. -/
def Ctx.loopEndBad (c : Ctx) : Bool :=
  match c.i.enc, c.p.loops.getLast? with
  | some e, some l => e.op != 0 && e.op != 2 && e.op ≤ 0x17 && l.start + l.endofs.setWidth 56 == c.p.pc
  | _, _ => false

/-- The encoding faults that depend on the state: `own` gives those of the instruction itself. -/
def Ctx.detail (c : Ctx) (own : Ctx → Option Nat) : Option Nat :=
  firstDetail (firstDetail (if c.chainBad then some 8 else none) (own c)) (if c.loopEndBad then some 10 else none)

/-- PREF raises no fault after the encoding checks (R190). -/
def neverFaults : Instr → Bool
  | .pref _ _ _ => true
  | _ => false

/-- What precedes an instruction's own effect (R51, R255): it waits for pending registers, then raises ILL for an encoding fault that depends on the state,
PRIV, or REG_RANGE; otherwise its effect follows (log 84, DESIGN CHOICE). -/
def perform (i : Instr) (own : Ctx → Option Nat) (priv : Ctx → Bool) (body : Ctx → State) (s : State) : Host.Outcome State Fault Refusal :=
  match s.ctx i with
  | none => .fault .noIssuer
  | some c0 =>
    let c := c0.enter
    .next
      (if !c.pendingKeys.isEmpty then c.wait (.regs c.pendingKeys)
       else
         match c.latchWait with
         | some l => c.wait (.load l)
         | none =>
           match c.detail own with
           | some d => c.ill d
           | none =>
             if priv c then c.trap ⟨.priv, 0⟩
             else
               match (if neverFaults i then none else c.outside) with
               | some r => c.trap ⟨.regRange, r⟩
               | none => body c.capture)

/-- No encoding fault of its own. -/
def noDetail : Ctx → Option Nat := fun _ => none
/-- No privilege asked for. -/
def noPriv : Ctx → Bool := fun _ => false

end Sys2Proof.Machine
end

