-- ==== Sys2Proof/Machine/Flags.lean ====
section
/-! DEFINITION. Flag and predicate computations: the relations of ICMP (R150), the sticky divide-by-zero flag (R148). -/

namespace Sys2Proof.Machine

def itySigned : ITy → Bool
  | .i32 => true
  | .i64 => true
  | _ => false

/-- A value of a type as an integer. -/
def readInt (signed : Bool) (bitsN v : Nat) : Int := if signed then sext v bitsN else (v : Int)

/-- A relation of ICMP on two integers (R150). -/
def cmpHolds (r : Cmp) (a b : Int) : Bool :=
  match r with
  | .eq => a == b
  | .ne => a != b
  | .lt => decide (a < b)
  | .le => decide (a ≤ b)
  | .gt => decide (b < a)
  | .ge => decide (b ≤ a)

/-- The group's sticky DZ flag set (R148). -/
def State.setDz (s : State) (gk : Nat) : State := s.modGroup gk (fun g => { g with dz := true })

/-- The lanes whose results an instruction computes: the lead lane of a uniform one, the acting lanes otherwise (R30, R125). -/
def Ctx.actLanes (c : Ctx) : List Nat := if c.o.hdr.u then (if c.actsOnce then [c.lead] else []) else lanes c.acts

end Sys2Proof.Machine
end

