-- ==== Sys2Proof/Machine/Exact.lean ====
section
/-! DEFINITION. Exact numbers (R9, R54): a signed rational with a power of two apart, signed zeros, infinities and NaN, and arithmetic on them
without any rounding. -/

namespace Sys2Proof

/-- The number (−1)^neg × num / den × 2^e. A zero `num` is a zero with its sign. `den` is never zero in what the operations make. -/
structure Q where
  neg : Bool
  num : Nat
  den : Nat
  e : Int
  deriving DecidableEq, Repr

/-- A value of floating-point arithmetic before rounding. -/
inductive Num where
  | nan
  | inf (neg : Bool)
  | fin (q : Q)
  deriving DecidableEq, Repr

def Num.zero (neg : Bool) : Num := .fin { neg := neg, num := 0, den := 1, e := 0 }

/-- The integer `i` times 2^e. -/
def Num.ofInt (i : Int) (e : Int := 0) : Num := .fin { neg := i < 0, num := i.natAbs, den := 1, e := e }

def Num.neg : Num → Num
  | .nan => .nan
  | .inf s => .inf (!s)
  | .fin q => .fin { q with neg := !q.neg }

def Num.abs : Num → Num
  | .nan => .nan
  | .inf _ => .inf false
  | .fin q => .fin { q with neg := false }

def Num.isNaN : Num → Bool
  | .nan => true
  | _ => false

def Num.isInf : Num → Bool
  | .inf _ => true
  | _ => false

def Num.isZero : Num → Bool
  | .fin q => q.num == 0
  | _ => false

def Num.isNeg : Num → Bool
  | .nan => false
  | .inf s => s
  | .fin q => q.neg

/-- A negative number other than a zero. -/
def Num.ltZero : Num → Bool
  | .nan => false
  | .inf s => s
  | .fin q => q.neg && q.num != 0

/-- `n × 2^s` over `d × 2^t` brought to whole numbers: the two sides scaled by a power of two `s`. -/
def scale2 (n : Nat) (s : Int) : Nat := n * 2 ^ s.toNat

/-- The signed numerator of `q` over `q.den` at exponent `e ≤ q.e`. -/
def Q.numAt (q : Q) (e : Int) : Int :=
  let n : Int := (scale2 q.num (q.e - e) : Nat)
  if q.neg then -n else n

/-- The exact sum of two finite numbers, neither of which is zero; the sign of a zero sum is negative exactly when `rdn` (R54). -/
def Q.add (rdn : Bool) (a b : Q) : Q :=
  let e := min a.e b.e
  let n := a.numAt e * b.den + b.numAt e * a.den
  { neg := if n = 0 then rdn else n < 0, num := n.natAbs, den := a.den * b.den, e := e }

/-- The exact sum (R54). -/
def Num.add (rdn : Bool) (a b : Num) : Num :=
  match a, b with
  | .nan, _ => .nan
  | _, .nan => .nan
  | .inf s, .inf t => if s == t then .inf s else .nan
  | .inf s, _ => .inf s
  | _, .inf t => .inf t
  | .fin x, .fin y =>
    if x.num = 0 then
      if y.num = 0 then (if x.neg == y.neg then .fin x else .zero rdn) else .fin y
    else if y.num = 0 then .fin x
    else .fin (Q.add rdn x y)

def Num.sub (rdn : Bool) (a b : Num) : Num := Num.add rdn a b.neg

/-- The exact product (R54). -/
def Num.mul (a b : Num) : Num :=
  match a, b with
  | .nan, _ => .nan
  | _, .nan => .nan
  | .inf s, y => if y.isZero then .nan else .inf (s != y.isNeg)
  | x, .inf t => if x.isZero then .nan else .inf (x.isNeg != t)
  | .fin x, .fin y => .fin { neg := x.neg != y.neg, num := x.num * y.num, den := x.den * y.den, e := x.e + y.e }

/-- The exact quotient (R54, R158). -/
def Num.div (a b : Num) : Num :=
  match a, b with
  | .nan, _ => .nan
  | _, .nan => .nan
  | .inf _, .inf _ => .nan
  | .inf s, .fin y => .inf (s != y.neg)
  | .fin x, .inf t => .zero (x.neg != t)
  | .fin x, .fin y =>
    if y.num = 0 then (if x.num = 0 then .nan else .inf (x.neg != y.neg))
    else if x.num = 0 then .zero (x.neg != y.neg)
    else .fin { neg := x.neg != y.neg, num := x.num * y.den, den := x.den * y.num, e := x.e - y.e }

/-- Multiplication by 2^k. -/
def Num.scale (k : Int) : Num → Num
  | .nan => .nan
  | .inf s => .inf s
  | .fin q => .fin { q with e := q.e + k }

/-- The integer square root of `x`, found bit by bit from bit `k − 1` down. -/
def isqrtFrom (x : Nat) : Nat → Nat → Nat
  | 0, r => r
  | k + 1, r => isqrtFrom x k (if (r + 2 ^ k) * (r + 2 ^ k) ≤ x then r + 2 ^ k else r)

def isqrt (x : Nat) : Nat := isqrtFrom x (Nat.log2 x / 2 + 1) 0

/-- Extra bits a square root is carried to before its sticky bit. Every rounding of a 24-bit operand's root is decided long before (log 30, DEDUCED). -/
def rootBits : Nat := 320

/-- The square root of a positive number to `rootBits` bits, with a sticky last bit where it is inexact. Any rounding of R64 to R69 of the result is that
of the exact root: a root of a number of at most 80 bits lies much farther from every rounding boundary than the last bit, or on it (log 30, DEDUCED). -/
def Q.sqrt (q : Q) : Q :=
  let odd := q.e % 2 != 0
  let n := if odd then q.num * 2 else q.num
  let e := if odd then q.e - 1 else q.e
  let big := n * 4 ^ rootBits
  let r := isqrt (big / q.den)
  if r * r * q.den = big then { neg := false, num := r, den := 1, e := e / 2 - rootBits }
  else { neg := false, num := 2 * r + 1, den := 1, e := e / 2 - rootBits - 1 }

/-- The square root (R158): zeros keep their sign, negative numbers give NaN. -/
def Num.sqrt (a : Num) : Num :=
  match a with
  | .nan => .nan
  | .inf s => if s then .nan else .inf false
  | .fin q => if q.num = 0 then .fin q else if q.neg then .nan else .fin q.sqrt

/-- Comparison of two numbers that are not NaN: less than, with −0 = +0. -/
def Q.lt (a b : Q) : Bool :=
  let e := min a.e b.e
  decide (a.numAt e * b.den < b.numAt e * a.den)

def Num.lt (a b : Num) : Bool :=
  match a, b with
  | .nan, _ => false
  | _, .nan => false
  | .inf s, .inf t => s && !t
  | .inf s, _ => s
  | _, .inf t => !t
  | .fin x, .fin y => x.lt y

def Num.eq (a b : Num) : Bool :=
  match a, b with
  | .nan, _ => false
  | _, .nan => false
  | .inf s, .inf t => s == t
  | .inf _, _ => false
  | _, .inf _ => false
  | .fin x, .fin y => !x.lt y && !y.lt x

/-- `num/den × 2^e / 2^g` as a fraction of whole numbers. -/
def Q.over (q : Q) (g : Int) : Nat × Nat := (scale2 q.num (q.e - g), scale2 q.den (g - q.e))

/-- The exponent of the leading bit of a positive number: floor(log2). -/
def Q.log2 (q : Q) : Int :=
  let k : Int := (Nat.log2 q.num : Int) - (Nat.log2 q.den : Int)
  let n := scale2 q.num (-k)
  let d := scale2 q.den k
  q.e + (if n < d then k - 1 else k)

/-- Ties to even of a fraction n/d. -/
def nearestEven (n d : Nat) : Nat :=
  let q := n / d
  let r := n % d
  if 2 * r > d || (2 * r == d && q % 2 == 1) then q + 1 else q

/-- The integer nearest a finite number, ties to even (R163, R164). -/
def Q.nearest (q : Q) : Int :=
  let (n, d) := q.over 0
  let m : Int := nearestEven n d
  if q.neg then -m else m

end Sys2Proof
end

