-- ==== Sys2Proof/Machine/Format.lean ====
section
/-! DEFINITION. The floating-point formats (R52 to R58) and rounding into them and into the integers (R63 to R66, R69). -/

namespace Sys2Proof

/-- The formats of R52 that results are rounded to. -/
inductive FF where
  | f32 | f16 | bf16 | e4m3 | e5m2
  deriving DecidableEq, Repr

/-- Mantissa bits. -/
def FF.mant : FF → Nat
  | .f32 => 23 | .f16 => 10 | .bf16 => 7 | .e4m3 => 3 | .e5m2 => 2

/-- Exponent bits. -/
def FF.expo : FF → Nat
  | .f32 => 8 | .f16 => 5 | .bf16 => 8 | .e4m3 => 4 | .e5m2 => 5

def FF.bias : FF → Nat
  | .f32 => 127 | .f16 => 15 | .bf16 => 127 | .e4m3 => 7 | .e5m2 => 15

/-- The exponent of the subnormal spacing. -/
def FF.minG (f : FF) : Int := 1 - (f.bias : Int) - f.mant

/-- The canonical NaN (R53). -/
def FF.nan : FF → Nat
  | .f32 => 0x7FC00000 | .f16 => 0x7E00 | .bf16 => 0x7FC0 | .e4m3 => 0x7F | .e5m2 => 0x7E

/-- The largest finite magnitude: its mantissa and the exponent of its spacing. -/
def FF.maxMag : FF → Nat × Int
  | .f32 => (2 ^ 24 - 1, 104)
  | .f16 => (2 ^ 11 - 1, 5)
  | .bf16 => (2 ^ 8 - 1, 120)
  | .e4m3 => (14, 5)
  | .e5m2 => (7, 13)

def FF.maxQ (f : FF) : Q := { neg := false, num := f.maxMag.1, den := 1, e := f.maxMag.2 }

def FF.width (f : FF) : Nat := 1 + f.expo + f.mant

def FF.signBit (f : FF) (neg : Bool) : Nat := if neg then 2 ^ (f.expo + f.mant) else 0

/-- The code of an infinity of a format that has one. -/
def FF.inf (f : FF) (neg : Bool) : Nat := f.signBit neg + (2 ^ f.expo - 1) * 2 ^ f.mant

/-- Whether FTZ acts on the format (R55). -/
def FF.flushes : FF → Bool
  | .f32 => true | .f16 => true | .bf16 => true | _ => false

/-- The value of a code (R52, R53, R56, R57). -/
def FF.val (f : FF) (w : Nat) : Num :=
  let m := w % 2 ^ f.mant
  let x := w / 2 ^ f.mant % 2 ^ f.expo
  let neg := w / 2 ^ (f.expo + f.mant) % 2 == 1
  if x = 2 ^ f.expo - 1 then
    match f with
    | .e4m3 => if m = 7 then .nan else .fin { neg := neg, num := 8 + m, den := 1, e := 5 }
    | _ => if m = 0 then .inf neg else .nan
  else if x = 0 then .fin { neg := neg, num := m, den := 1, e := f.minG }
  else .fin { neg := neg, num := 2 ^ f.mant + m, den := 1, e := f.minG + (x - 1) }

/-- Whether a code is a subnormal number. -/
def FF.isSub (f : FF) (w : Nat) : Bool := w / 2 ^ f.mant % 2 ^ f.expo == 0 && w % 2 ^ f.mant != 0

/-- The value as an operand is read under FTZ (R55). -/
def FF.read (f : FF) (ftz : Bool) (w : Nat) : Num :=
  if ftz && f.flushes && f.isSub w then .zero (w / 2 ^ (f.expo + f.mant) % 2 == 1) else f.val w

/-- The code of a magnitude mag × 2^g on the grid, at most one above the top of its binade. -/
def FF.code (f : FF) (neg : Bool) (mag : Nat) (g : Int) : Nat :=
  if mag < 2 ^ f.mant then f.signBit neg + mag
  else
    let (m, h) := if mag = 2 ^ (f.mant + 1) then (2 ^ f.mant, g + 1) else (mag, g)
    f.signBit neg + ((h - f.minG).toNat + 1) * 2 ^ f.mant + (m - 2 ^ f.mant)

/-- The rounding modes (R63). -/
inductive RMode where
  | rne | rtz | rdn | rup | sr | srd
  deriving DecidableEq, Repr

/-- What a rounding under %fmt depends on: mode, SAT, FTZ and the dither D (R63, R65, R66, R67). -/
structure RCtx where
  mode : RMode
  sat : Bool
  ftz : Bool
  dither : Nat
  deriving DecidableEq, Repr

/-- Plain round to nearest even: no FTZ, no SAT (R63). -/
def RCtx.rne : RCtx := { mode := .rne, sat := false, ftz := false, dither := 0 }

/-- Whether the magnitude rounds up: down + n/d of an ulp, the sign of x, the parity of down (R63, R66). -/
def roundsUp (c : RCtx) (neg : Bool) (down n d : Nat) : Bool :=
  if n = 0 then false
  else
    match c.mode with
    | .rne => 2 * n > d || (2 * n == d && down % 2 == 1)
    | .rtz => false
    | .rdn => neg
    | .rup => !neg
    | .sr => n * 65536 / d > c.dither
    | .srd => n * 65536 / d > c.dither

/-- The first overflow column of R65. -/
def RMode.towardZero (m : RMode) (neg : Bool) : Bool :=
  match m with
  | .rtz => true
  | .rdn => !neg
  | .rup => neg
  | _ => false

/-- What R69 needs to know of a rounding. -/
inductive RInfo where
  /-- Exact, or no rounding at all. -/
  | exact
  /-- Inexact: |x| between down × 2^g and (down + 1) × 2^g. -/
  | step (x : Q) (down : Nat) (g : Int)
  /-- Overflow to the largest finite value. -/
  | overFinite (x : Q)
  /-- Overflow to an infinity or a NaN. -/
  | overInf
  /-- A subnormal result y flushed by FTZ. -/
  | flushed (y : Q)
  deriving DecidableEq, Repr

/-- The result of an overflow (R65). -/
def FF.overflow (f : FF) (c : RCtx) (x : Q) : Nat × RInfo :=
  let big := f.code x.neg f.maxMag.1 f.maxMag.2
  if c.mode.towardZero x.neg then (big, .overFinite x)
  else
    match f with
    | .f32 => (f.inf x.neg, .overInf)
    | .e4m3 => if c.sat then (big, .overFinite x) else (f.nan, .overInf)
    | _ => if c.sat then (big, .overFinite x) else (f.inf x.neg, .overInf)

/-- The rounding of a finite nonzero number into a format (R64 to R66, R55). -/
def FF.roundQ (f : FF) (c : RCtx) (x : Q) : Nat × RInfo :=
  let g := max (x.log2 - f.mant) f.minG
  let (n, d) := x.over g
  let down := n / d
  let r := n % d
  let mag := if roundsUp c x.neg down r d then down + 1 else down
  let tooBig := f.maxQ.lt { neg := false, num := mag, den := 1, e := g }
  if tooBig then f.overflow c x
  else
    let w := f.code x.neg mag g
    if c.ftz && f.flushes && f.isSub w then (f.signBit x.neg, .flushed { neg := x.neg, num := mag, den := 1, e := g })
    else (w, if r = 0 then .exact else .step x down g)

/-- The rounding of any exact value into a format: NaN and infinities by R53 and R65. -/
def FF.round (f : FF) (c : RCtx) (x : Num) : Nat × RInfo :=
  match x with
  | .nan => (f.nan, .exact)
  | .inf s =>
    match f with
    | .f32 => (f.inf s, .exact)
    | .e4m3 => (if c.sat then f.code s f.maxMag.1 f.maxMag.2 else f.nan, .overInf)
    | _ => if c.sat then (f.code s f.maxMag.1 f.maxMag.2, .overInf) else (f.inf s, .exact)
  | .fin q => if q.num = 0 then (f.signBit q.neg, .exact) else f.roundQ c q

/-- The rounding of a number to a whole number with ulp 1 (R64, R161, R167): the signed integer. -/
def roundInt (c : RCtx) (q : Q) : Int :=
  let (n, d) := q.over 0
  let down := n / d
  let m : Int := (if roundsUp c q.neg down (n % d) d then down + 1 else down : Nat)
  if q.neg then -m else m

/-- An FP32 value of 32 bits. -/
def f32 (w : W32) : Num := FF.f32.val w.toNat

/-- As `f32`, with FTZ flushing a subnormal to zero (R55). -/
def f32z (ftz : Bool) (w : W32) : Num := FF.f32.read ftz w.toNat

/-- rne32 of R9. -/
def rne32 (x : Num) : W32 := BitVec.ofNat 32 (FF.f32.round .rne x).1

/-- rne32 as a number again. -/
def r32 (x : Num) : Num := f32 (rne32 x)

/-- bf16 of R9: rounded RNE, subnormals kept, overflow to an infinity (R71). -/
def bf16 (x : Num) : W16 := BitVec.ofNat 16 (FF.bf16.round .rne x).1

def bf16Val (w : W16) : Num := FF.bf16.val w.toNat

/-- The canonical NaN of FP32. -/
def nan32 : W32 := 0x7FC00000

/-- 2^g as a number. -/
def pow2 (g : Int) : Num := .fin { neg := false, num := 1, den := 1, e := g }

/-- The variance a rounding adds (R69) (log 35, DEDUCED). -/
def rvTerm (f : FF) (m : RMode) : RInfo → Num
  | .exact => .zero false
  | .step x down g =>
    let ulp := pow2 g
    let sq := r32 (ulp.mul ulp)
    match m with
    | .rne => r32 (sq.div (.ofInt 12))
    | .sr =>
      r32 ((r32 (Num.sub false (.ofInt (down + 1) g) (.fin { x with neg := false }))).mul (r32 (Num.sub false (.fin { x with neg := false }) (.ofInt down g))))
    | .srd =>
      r32 ((r32 (Num.sub false (.ofInt (down + 1) g) (.fin { x with neg := false }))).mul (r32 (Num.sub false (.fin { x with neg := false }) (.ofInt down g))))
    | _ => r32 (sq.div (.ofInt 3))
  | .overFinite x => let d := r32 (Num.sub false (.fin { x with neg := false }) (.fin f.maxQ)); r32 (d.mul d)
  | .overInf => .inf false
  | .flushed y => r32 ((Num.fin y).mul (.fin y))

/-- Which operand FMIN or FMAX selects (R159), the operands read under FTZ: none when either is NaN, else whether it is operand b; −0 is below +0, and
operand a is taken when they are equal. -/
def fPickB (ftz : Bool) (wantMax : Bool) (a b : W32) : Option Bool :=
  let x := f32z ftz a
  let y := f32z ftz b
  if x.isNaN || y.isNaN then none
  else
    let less (p q : Num) : Bool := p.lt q || (p.isZero && q.isZero && p.isNeg && !q.isNeg)
    some (if wantMax then less x y else less y x)

/-- A subnormal FP32 word flushed to zero of its sign where FTZ holds (R55). -/
def flush32 (ftz : Bool) (w : W32) : W32 := if ftz && FF.f32.isSub w.toNat then w &&& 0x80000000 else w

/-- The lesser or greater of two FP32 words (R159). -/
def fMinMax (ftz : Bool) (wantMax : Bool) (a b : W32) : W32 :=
  match fPickB ftz wantMax a b with
  | none => nan32
  | some true => flush32 ftz b
  | some false => flush32 ftz a

end Sys2Proof
end

