-- ==== Sys2Proof/Machine/Ring.lean ====
section
/-! DEFINITION. Ring words (R72): the decay of a class (R383, R385), decayed reads (R192), the adding and merging of R203, the rebase of a sweep (R388) and the
RING_STALE event (R390). -/

namespace Sys2Proof.Machine

/-! ### Fields of a ring word (R72) -/

def ringClass (w : Nat) : Nat := bits w 56 8
def ringStamp (w : Nat) : Nat := bits w 32 24
def ringVal (w : Nat) : W32 := BitVec.ofNat 32 w

/-- A word with a new stamp and value; its class stays. -/
def ringPut (w stamp : Nat) (v : W32) : Nat := ringClass w * 2 ^ 56 + stamp % 2 ^ 24 * 2 ^ 32 + v.toNat

/-- Difference of two steps (R380). -/
def stepDiff (a b : Nat) : Nat := (a + 2 ^ 24 - b % 2 ^ 24) % 2 ^ 24

/-- P(c, a) of R385 over an entry whose powers `pw` gives. -/
def decay (pw : Nat → W32) (age : Nat) : W32 :=
  (List.range 23).foldl (fun p i => if bit age i then rne32 ((f32 p).mul (f32 (pw i))) else p) 0x3F800000

/-- The powers of a class in an address space's decay table, read by physical address (R383). -/
def State.powers (s : State) (p asid cls i : Nat) : W32 := BitVec.ofNat 32 (s.physWord ((s.asidRec p asid).dtab.toNat + 128 * cls + 4 * i) 4)

/-- An FP32 value decayed by a class for an age. -/
def State.decayed (s : State) (p asid cls age : Nat) (v : W32) : W32 := rne32 ((f32 v).mul (f32 (decay (s.powers p asid cls) age)))

/-- RING_STALE: the event of R390 and the unit's counter. -/
def State.ringStale (s : State) (p asid stack va : Nat) : State :=
  let g := s.saggar stack
  (s.setSaggar stack { g with rstale := g.rstale + 1 }).unitEvent (stack / 4) (10000 + stack) p asid 0x8200 (va % 2 ^ 32) va (s.stackCycle stack)

def staleAge : Nat := 2 ^ 23

/-- The step that the saggar unit of a stack holds. -/
def State.unitStep (s : State) (stack p asid : Nat) : Nat := ((s.asidRec p asid).stepOf (fun f => f.units.contains stack)).toNat

/-- LDRG (R192): the decayed value, and whether the word is stale. -/
def State.ringRead (s : State) (stack p asid w : Nat) : W32 × Bool :=
  let age := stepDiff (s.unitStep stack p asid) (ringStamp w)
  (s.decayed p asid (ringClass w) (min age (staleAge - 1)) (ringVal w), age ≥ staleAge)

/-- RADD (R203): the word after adding `u`, and whether it was stale. -/
def State.ringAdd (s : State) (stack p asid w : Nat) (u : W32) : Nat × Bool :=
  let (v, stale) := s.ringRead stack p asid w
  (ringPut w (s.unitStep stack p asid) (rne32 (Num.add false (f32 v) (f32 u))), stale)

/-- RMERGE (R203): the word after merging the operand word `o`. -/
def State.ringMerge (s : State) (p asid w o : Nat) : Nat × Bool :=
  let t := if stepDiff (ringStamp o) (ringStamp w) < staleAge then ringStamp o else ringStamp w
  let ao := stepDiff t (ringStamp o)
  let a := s.decayed p asid (ringClass w) (stepDiff t (ringStamp w)) (ringVal w)
  let b := s.decayed p asid (ringClass o) (min ao (staleAge - 1)) (ringVal o)
  (ringPut w t (rne32 (Num.add false (f32 a) (f32 b))), ao ≥ staleAge)

/-- A sweep's treatment of a word (R388): its rebased value and staleness, or none when it is left alone. -/
def State.ringRebase (s : State) (stack p asid w : Nat) : Option (Nat × Bool) :=
  let g := s.unitStep stack p asid
  let age := stepDiff g (ringStamp w)
  if age ≥ 2 ^ 22 then some (ringPut w g (s.ringRead stack p asid w).1, age ≥ staleAge) else none

end Sys2Proof.Machine
end

