-- ==== Sys2Proof/Machine/Access.lean ====
section
/-! DEFINITION. Accesses to storage: where a lane's access lies (R180 to R187), what keeps it waiting (R183, R186, R194, R295), its issue with the checks of
R182, its performing (R181) and the return of its result (R255). -/

namespace Sys2Proof.Machine

/-! ### Scratch places (R186, R267) -/

/-- The core of team `t` of the cluster that the team on a core belongs to. -/
def State.teamCore (s : State) (core t : Nat) : Nat :=
  match (s.core core).team with
  | none => core
  | some m =>
    let w := max 1 (s.launch m.launch).clw
    let x := core % 96 % 12
    let y := core % 96 / 12
    dieOfCore core * 96 + (y + t / w - m.idx / w) * 12 + (x + t % w - m.idx % w)

/-- The core whose bank holds a storage address. -/
def bankCore (loc : Nat) : Nat := (loc - bankBase) / 2 ^ 20

/-- The place of an aligned scratch access of `n` bytes (R180, R186). -/
def Ctx.scratchPlace (c : Ctx) (ea n : Nat) : Place :=
  let l := c.launch
  let cl := bit ea 24
  let t := bits ea 20 4
  let o := bits ea 0 20
  if ea ≥ 2 ^ 32 || bits ea 25 7 != 0 || (!cl && t != 0) || (cl && t ≥ l.clw * l.clh) || o + n > l.scratch then .prot
  else
    let core := if cl then c.s.teamCore c.core t else c.core
    match roleLoc l.banks 1 core o with
    | some a => .at a .scratch (dieOfCore core)
    | none => .prot

/-! ### Order (R183, R294, R295) -/

/-- A pure load, and a pure store; an atomic is both and neither (R295). -/
def Op.isLoad : Op → Bool
  | .load _ => true
  | .ldrg => true
  | .dstat => true
  | _ => false

def Op.isStore : Op → Bool
  | .store _ => true
  | .land _ => true
  | _ => false

/-- Operations outside the orders of R183 and R295: CCTL (R191) and DFLUSH, which waits as R200 states. -/
def Op.loose : Op → Bool
  | .cctl _ => true
  | .dflush _ => true
  | _ => false

/-- Crossing accesses (R294). A load of scope .grp or .tm from memory homed on its die stands in the order of the in-die ones, which its own team can tell
(R299) (log 89, DEDUCED). -/
def crosses (die core : Nat) (loc : Nat) (h : Home) (hd : Nat) : Bool :=
  match h with
  | .scratch => bankCore loc != core
  | .vault => true
  | _ => hd != die

def rangesMeet (a n b k : Nat) : Bool := decide (a < b + k) && decide (b < a + n)

/-- Whether access X, issued first, has to be performed before Y. -/
def ordered (x y : Access) : Bool :=
  if x.op.loose || y.op.loose then false
  else if rangesMeet x.loc x.len y.loc y.len then true
  else if x.iid == y.iid then false
  else !x.crossing && !y.crossing && !(x.op.isStore && y.op.isLoad)

/-- A TST's pieces meet a range of storage. -/
def Xfer.meets (x : Xfer) (loc len : Nat) : Bool := x.out && x.runs.any (fun r => rangesMeet r.loc r.len loc len)

/-- Barrier operations of the group on its way to their unit that meet a range of scratch: each is an access to its object (R183, R205). -/
def State.barsMeeting (s : State) (gk id loc len : Nat) : List Nat :=
  (s.barReqs.filter (fun x => decide (x.1 < id) && x.2.gk == gk && !x.2.parked && rangesMeet x.2.obj 16 loc len)).map (·.1)

/-- The accesses, barrier operations and tile stores (R222) of the group that have to be performed before one that is numbered `id`. -/
def State.before (s : State) (id : Nat) (a : Access) : List Nat :=
  (s.accesses.filter (fun x => decide (x.1 < id) && x.2.gk == a.gk && ordered x.2 a)).map (·.1)
    ++ (s.xfers.filter (fun x => decide (x.1 < id) && x.2.gk == a.gk && x.2.meets a.loc a.len)).map (·.1)
    ++ (if a.op.loose then [] else s.barsMeeting a.gk id a.loc a.len)

/-- An access not yet performed: in this package, at a peer, a tile store, or a barrier operation that its unit has not taken. -/
def State.accPending (s : State) (id : Nat) : Bool :=
  (mget? s.accesses id).isSome || (mget? s.peers id).isSome || (mget? s.xfers id).isSome
    || (match mget? s.barReqs id with | some r => !r.parked | none => false)

/-! ### Narrow scopes (R194, R290) -/

/-- What is claimed at its home holds the reads of its sector there (R293); a replica of the reader's die still serves it. -/
def State.readHeld (s : State) (die sector : Nat) : Bool :=
  !s.replicaOn die sector && s.accesses.any (fun x => x.2.claimed && sectorOf x.2.loc == sector)

/-- A fence or arrival at a scope has to find the access performed: one at a narrower scope than .dev promises nothing to the other die, where a cacheable line
homed there is performed (R290). -/
def State.needs (s : State) (sc : Scope) (a : Access) : Bool :=
  decide (sc.code ≥ Scope.dev.code) || !a.cacheable || a.home == a.die || (a.op.isLoad && s.readHeld a.die (sectorOf a.loc))

/-- The items of a list that a fence or arrival of a scope waits for. -/
def State.awaited (s : State) (sc : Scope) (ids : List Nat) : List Nat :=
  ids.filter (fun i => match mget? s.accesses i with
    | some a => s.needs sc a
    | none => (match mget? s.peers i with | some _ => sc == .sys | none => s.accPending i))

/-- Accesses that a narrow scope goes on without, with those before them: on their own die every access to their bytes comes after them from now on. -/
def State.rely (s : State) (ids : List Nat) : State :=
  let open' := ids.filter (fun i => (mget? s.accesses i).isSome)
  if open'.isEmpty then s
  else
    let (n, s) := s.fresh
    let all := s.accesses.foldr (fun x (l : List (Nat × Access)) =>
      if open'.contains x.1 || l.any (fun y => (s.before y.1 y.2).contains x.1) then x :: l else l) []
    { s with accesses := s.accesses.map (fun x =>
        (x.1, if x.2.relied.isNone && all.any (fun y => y.1 == x.1) then { x.2 with relied := some n } else x.2)) }

/-- An access of the die that a fence or arrival relies on, numbered below `n`, to the bytes of a range: `reads` leaves pure loads aside. -/
def State.reliedOn (s : State) (die loc len : Nat) (reads : Bool) (skip : Nat × Access → Bool) (n : Option Nat) : Bool :=
  s.accesses.any (fun x => x.2.die == die && rangesMeet x.2.loc x.2.len loc len && !(reads && x.2.op.isLoad) && !skip x
    && (match x.2.relied, n with | some k, some n => decide (k < n) | some _, none => true | none, _ => false))

/-- A fence of a path of the group holds accesses of these sets (R194). -/
def Group.fenceHolds (g : Group) (sets : Nat) : Bool :=
  g.paths.any (fun x => match x.2.st with | .blocked (.fence _ _ _ _ _ succ) => succ &&& sets != 0 | _ => false)

/-! ### Values -/

/-- A loaded value as registers hold it (R185). -/
def extend (sz : Sz) (bs : List Byte) : Nat :=
  match sz with
  | .i8 => wrap 32 (sext (leNat bs) 8)
  | .i16 => wrap 32 (sext (leNat bs) 16)
  | _ => leNat bs

/-- The new value of an atomic (R197). -/
def atomNew (op : Aop) (w64 : Bool) (m b c : Nat) : Nat :=
  let n := if w64 then 64 else 32
  let sgn := fun (x : Nat) => sext x n
  match op with
  | .add => (m + b) % 2 ^ n
  | .smin => if sgn m ≤ sgn b then m else b
  | .smax => if sgn m ≤ sgn b then b else m
  | .umin => min m b
  | .umax => max m b
  | .and => m &&& b
  | .or => m ||| b
  | .xor => m ^^^ b
  | .exch => b
  | .cas => if m = b then c else m
  | .fadd => (rne32 (Num.add false (f32 (BitVec.ofNat 32 m)) (f32 (BitVec.ofNat 32 b)))).toNat
  | .fmin => (fMinMax false false (BitVec.ofNat 32 m) (BitVec.ofNat 32 b)).toNat
  | .fmax => (fMinMax false true (BitVec.ofNat 32 m) (BitVec.ofNat 32 b)).toNat

/-- rne32 of a word and an addend. -/
def fadd (m : Nat) (u : W32) : Nat := (rne32 (Num.add false (f32 (BitVec.ofNat 32 m)) (f32 u))).toNat

/-! ### Deterministic atomics at the saggar unit (R199 to R202) -/

def dkey (epoch loc : Nat) : Nat := epoch * 2 ^ 40 + loc

def DWord.fresh (epoch tick : Nat) : DWord := { epoch := epoch, held := [], tie := false, ovf := false, fl := false, spill := 0, used := tick }

/-- The tracked entry for an arriving addend, with the entries after room is made: none where every entry holds addends (R199, R201, R202) (log 83, DEDUCED). -/
def Saggar.track (g : Saggar) (k epoch tick : Nat) : Option (DWord × Map DWord) :=
  match mget? g.words k with
  | some t => some (if t.fl then DWord.fresh epoch tick else { t with used := tick }, g.words)
  | none =>
    if g.words.length < 1024 then some (DWord.fresh epoch tick, g.words)
    else
      match minBy? (fun x => x.2.used) (g.words.filter (fun x => x.2.held.isEmpty)) with
      | some v => some (DWord.fresh epoch tick, merase g.words v.1)
      | none => none

/-- An addend with its key arrives at the unit (R199). -/
def State.datomTake (s : State) (loc epoch key : Nat) (u : W32) : State :=
  let st := stackOf loc
  let g := s.saggar st
  let k := dkey epoch loc
  let added := fun (s : State) => s.write loc (natLe 4 (fadd (s.word loc 4) u))
  match g.track k epoch s.tick with
  | none => added (s.setSaggar st { g with fell := insertLine epoch g.fell })
  | some (t, ws) =>
    let t := { t with tie := t.tie || t.held.any (fun h => h.1 == key) }
    if t.held.length < 16 then s.setSaggar st { g with words := mset ws k { t with held := t.held ++ [(key, u)] } }
    else added (s.setSaggar st { g with words := mset ws k { t with spill := min (t.spill + 1) 255, ovf := true } })

/-- An addend placed among others in ascending key order, after equal keys. -/
def insertKey (x : Nat × W32) : List (Nat × W32) → List (Nat × W32)
  | [] => [x]
  | y :: l => if x.1 < y.1 then x :: y :: l else y :: insertKey x l

/-- A tracked word's held addends added in key order (R200). -/
def State.flushWord (s : State) (st k : Nat) : State :=
  let g := s.saggar st
  match mget? g.words k with
  | none => s
  | some t =>
    if t.held.isEmpty then s
    else
      let loc := k % 2 ^ 40
      let v := ((t.held.foldl (fun l x => insertKey x l) []).map (·.2)).foldl fadd (s.word loc 4)
      (s.write loc (natLe 4 v)).setSaggar st { g with words := mset g.words k { t with held := [], fl := true, used := s.tick } }

/-- The status word of DSTAT (R201). -/
def State.dstat (s : State) (loc epoch : Nat) : Nat :=
  let g := s.saggar (stackOf loc)
  let tf := if g.fell.contains epoch then 256 else 0
  match mget? g.words (dkey epoch loc) with
  | none => tf
  | some t => t.spill * 65536 + tf + t.tie.toNat * 128 + t.ovf.toNat * 64 + t.fl.toNat * 32 + t.held.length

/-- Every tracked word of an epoch that lies in the storage range is flushed. -/
def State.flushRange (s : State) (epoch : Nat) (r : Nat × Nat) : State :=
  let st := stackOf r.1
  (((s.saggar st).words.filter (fun x => x.2.epoch == epoch && decide (r.1 ≤ x.1 % 2 ^ 40) && decide (x.1 % 2 ^ 40 < r.1 + r.2))).map (·.1)).foldl
    (fun s k => s.flushWord st k) s


/-! ### Performing an access (R181) -/

/-- A cacheable write: the core's copy takes the bytes, and the sector is dirty unless the hint writes it on (R188, R189). -/
def State.writeThrough (s : State) (a : Access) (bs : List Byte) : State :=
  let s := s.write a.loc bs
  if a.cacheable then
    let s := s.setCore a.core ((s.core a.core).update a.loc bs)
    if a.rh = .by then s else s.setDirty (sectorOf a.loc)
  else s

/-- The bytes that a load of cacheable memory is served, and what it leaves in the caches (R188, R189, R278): in a core without cache banks every load goes to
the home (R269) (log 77, DEDUCED). -/
def State.serve (s : State) (a : Access) : List Byte × State :=
  let home := s.bytes a.loc a.len
  if !a.cacheable then (home, s)
  else
    let copy := (s.core a.core).copy a.loc
    if a.scope.code < 2 && s.ways a.core != 0 then
      match copy with
      | some l => ((l.drop (a.loc % 128)).take a.len, s.touchLine a.core a.loc)
      | none => (home, if a.rh = .by then s else s.fillLine a.core a.loc a.rh)
    else
      let s := if a.rh = .by && copy.isNone then s else s.fillLine a.core a.loc a.rh
      (home, if a.rh != .by && a.crossing then s.addReplica a.part a.die (sectorOf a.loc) else s)

/-- What a performing access gives back, and the state after it. -/
def State.doAccess (s : State) (a : Access) : Nat × State :=
  match a.op with
  | .load sz => let (bs, s) := s.serve a; (extend sz bs, s)
  | .store bs => (0, s.writeThrough a bs)
  | .land bs => (0, s.homeWrite a.cacheable true a.loc bs)
  | .atomic op w64 b c =>
    let m := s.word a.loc a.len
    (m, s.writeThrough a (natLe a.len (atomNew op w64 m b c)))
  | .ldrg =>
    let (v, stale) := s.ringRead (stackOf a.loc) a.part a.asid (s.word a.loc 8)
    (v.toNat, if stale then s.ringStale a.part a.asid (stackOf a.loc) a.va else s)
  | .radd u =>
    let (w, stale) := s.ringAdd (stackOf a.loc) a.part a.asid (s.word a.loc 8) u
    let s := s.write a.loc (natLe 8 w)
    (0, if stale then s.ringStale a.part a.asid (stackOf a.loc) a.va else s)
  | .rmerge o =>
    let (w, stale) := s.ringMerge a.part a.asid (s.word a.loc 8) o.toNat
    let s := s.write a.loc (natLe 8 w)
    (0, if stale then s.ringStale a.part a.asid (stackOf a.loc) a.va else s)
  | .datom key u => (0, s.datomTake a.loc (s.launch a.launch).epoch key u)
  | .dstat => (s.dstat a.loc (s.launch a.launch).epoch, s)
  | .cctl drop =>
    let x := sectorOf a.loc
    if !a.cacheable then (0, s)
    else if a.scope.code < 2 then (0, if drop then s.setCore a.core ((s.core a.core).drop a.loc) else s)
    else
      let s := s.clean x
      (0, if drop then { s.dropReplicas x with columns := merase s.columns x } else s)
  | .dflush ls => (0, ls.foldl (fun s r => s.flushRange (s.launch a.launch).epoch r) s)

/-- Whether the operation reads bytes that poison would reach (R449). -/
def Op.reads : Op → Bool
  | .store _ => false
  | .land _ => false
  | .dstat => false
  | .cctl _ => false
  | .dflush _ => false
  | _ => true

/-- A word of a lane's value, 8 bytes each where there are two (R280), joins the results of an instruction. -/
def LoadI.take (l : LoadI) (lane word v : Nat) (poison : Option Nat) : LoadI :=
  let rest := ~~~(1#64 <<< lane)
  { l with
    left := if word = 0 then l.left &&& rest else l.left
    upper := if word = 0 then l.upper else l.upper &&& rest
    got := mset l.got lane (mgetD l.got lane 0 + v * 2 ^ (64 * word))
    poison := l.poison.or poison }

def State.gotLane (s : State) (iid lane word v : Nat) (poison : Option Nat) : State :=
  { s with loads := mmodify s.loads iid (fun l => l.take lane word v poison) }

/-- An access is performed: a poisoned word is left as it is, and its instruction learns of it (R182, R449). -/
def State.performAccess (s : State) (id : Nat) (a : Access) : State :=
  let s := { s with accesses := merase s.accesses id }
  match (if a.op.reads then s.poisoned a.loc a.len else none) with
  | some _ => s.gotLane a.iid a.lane a.word 0 (some a.va)
  | none => let (v, s) := s.doAccess a; s.gotLane a.iid a.lane a.word v none

/-! ### The return of results (R255) -/

/-- Words written to a vector register file where the allocation still holds them. -/
def Group.setWithin (g : Group) (x : Sel) (lane v w : Nat) : Group :=
  match x with
  | .v n => (List.range w).foldl (fun g k => if n.toNat + k < 8 * g.blocks then g.setVec lane (n.toNat + k) (v / 2 ^ (32 * k)) 1 else g) g
  | _ => g.setSel x lane v w

/-- The latch that a load writes, in the chain that waits for it (R43, R98) (log 29, DEDUCED). -/
def State.loadLatch (s : State) (iid : Nat) (l : LoadI) : State :=
  match l.latch with
  | none => s
  | some n =>
    let q := s.quarter (quarterOf l.gk)
    match q.chain with
    | none => s
    | some k =>
      if mget? k.waitLoad n = some iid then
        let mask : Mask := if l.uni then (match mget? s.groups l.gk with | some g => (((mget? g.paths l.pid).map (·.mask)).getD 0) | none => 0) else l.mask
        let q := { q with chain := some { k with waitLoad := merase k.waitLoad n } }
        s.setQuarter (quarterOf l.gk) (q.setLatch n (lanes mask) (fun i => mgetD l.got (if l.uni then ((lanes l.mask).headD 0) else i) 0))
      else s

/-- The path that learns of a load's result: the one that issued it, or, where that is gone, one that holds lanes of it. -/
def Group.heir (g : Group) (l : LoadI) : Nat :=
  if (mget? g.paths l.pid).isSome then l.pid
  else
    match g.paths.find? (fun x => x.2.mask &&& l.mask != 0) with
    | some x => x.1
    | none => (g.paths.map (·.1)).headD l.pid

/-- A path that has issued an instruction which is not complete, or is parked at a JOIN. -/
def PState.busy : PState → Bool
  | .blocked (.again _) => false
  | .blocked _ => true
  | .parked _ => true
  | _ => false

/-- Poison that a load returns is held back while its path has stopped until another's handler returns (R351), or waits inside an instruction that cannot be
undone (log 90, DESIGN CHOICE). -/
def State.heldBack (s : State) (l : LoadI) : Bool :=
  l.poison.isSome &&
  (match mget? s.groups l.gk with
   | none => false
   | some g => s.trapHeld l.gk (g.heir l) || (match mget? g.paths (g.heir l) with | some p => p.st.busy | none => false))

/-- A load or atomic of a control core, whose keys begin at 2^21 and are no group's, gives its value (R22). -/
def State.ccoreValue (s : State) (l : LoadI) : State :=
  if l.gk < 2 ^ 21 || (mget? s.groups l.gk).isSome then s
  else
    let x := mgetD s.ccores (l.gk - 2 ^ 21) { ops := [], vals := [] }
    { s with ccores := mset s.ccores (l.gk - 2 ^ 21) { x with vals := x.vals ++ [mgetD l.got 0 0] } }

/-- An instruction whose lanes are all performed writes its registers, or raises MCHK for poison it read (R182). -/
def State.loadDone (s : State) (iid : Nat) : State :=
  match mget? s.loads iid with
  | none => s
  | some l =>
    if l.left != 0 || l.upper != 0 || s.heldBack l then s
    else
      let s := { s with loads := merase s.loads iid }
      let s := s.modGroup l.gk (fun g => { g with pending := g.pending.filter (fun p => p.iid != iid) })
      match l.poison with
      | some a =>
        match mget? s.groups l.gk with
        | none => s
        | some g =>
          let pid := g.heir l
          let s := s.cutChain l.gk pid
          match l.back with
          | some k => (s.modGroup l.gk (fun g => { g with ctr := k.ctr })).trapAt l.gk pid ⟨.mchk, a⟩ l.pc k.head
          | none => s.trapAt l.gk pid ⟨.mchk, a⟩ l.pc l.pc
      | none =>
        let s := s.ccoreValue l
        let s := if l.nwb then s else s.modGroup l.gk (fun g =>
          (lanes l.mask).foldl (fun g i => g.setWithin l.dst i (mgetD l.got i 0) l.words) g)
        s.loadLatch iid l

/-! ### Issue (R182) -/

/-- What a memory instruction asks of each acting lane. -/
structure Req where
  kind : AccKind
  scope : Scope
  rh : Retain
  len : Nat
  /-- Its access sets, bits as in R115. -/
  sets : Nat
  /-- It needs a memory-side page (R181). -/
  needMs : Bool
  /-- It may go to a peer package (R391). -/
  peerOk : Bool
  place : Nat → State → Place × State
  ea : Nat → Nat
  op : Nat → Op
  /-- Destination and size of the results, for an instruction that returns any. -/
  ret : Option (Sel × Nat)

/-- Places of the lanes, in ascending order. -/
def Req.places (r : Req) : List Nat → State → List (Nat × Place) × State
  | [], s => ([], s)
  | l :: ls, s =>
    let (p, s) := r.place l s
    let (ps, s) := Req.places r ls s
    ((l, p) :: ps, s)

/-- A lane that R180, R181 or R187 refuses. -/
def Req.refused (r : Req) (x : Nat × Place) : Bool :=
  r.ea x.1 % r.len != 0 ||
  (match x.2 with
   | .prot => true
   | .peer _ _ _ => r.scope != .sys || !r.peerOk
   | .at _ h _ => r.needMs && h != .ms
   | .fault _ => false)

def isFault : Place → Option Nat
  | .fault k => some k
  | _ => none

/-- The access of a lane. -/
def Ctx.mkAccess (c : Ctx) (r : Req) (iid lane : Nat) (p : Place) : Access :=
  let (loc, h, hd, peer) := match p with
    | .at loc h hd => (loc, h, hd, none)
    | .peer pkg frame ofs => (frame * 65536 + ofs, Home.cacheable, 2, some pkg)
    | _ => (0, Home.cacheable, 0, none)
  { iid := iid, gk := c.gk, launch := c.g.launch, part := c.part, asid := c.asid, die := c.die, core := c.core, lane := lane, op := r.op lane,
    scope := r.scope, rh := r.rh, loc := loc, len := r.len, va := r.ea lane, cacheable := h = .cacheable && peer.isNone,
    crossing := crosses c.die c.core loc h hd, home := hd, word := 0, relied := none, claimed := false, peer := peer }

/-- The half of an operation on 16 bytes that falls to one of its 8-byte words. -/
def Op.half (w : Nat) : Op → Op
  | .load _ => .load .b64
  | .store bs => .store ((bs.drop (8 * w)).take 8)
  | x => x

def Access.half (a : Access) (w : Nat) : Access := { a with op := a.op.half w, loc := a.loc + 8 * w, len := 8, va := a.va + 8 * w, word := w }

/-- The accesses of a lane: a saggar unit performs 16 bytes as two words, each whole (R280). -/
def Ctx.laneAccesses (c : Ctx) (r : Req) (iid : Nat) (x : Nat × Place) : List Access :=
  let a := c.mkAccess r iid x.1 x.2
  match x.2 with
  | .at _ .ms _ => if r.len = 16 then [a.half 0, a.half 1] else [a]
  | _ => [a]

/-- An access to the issuing team's own scratch, performed at issue (R186). -/
def Access.own (a : Access) : Bool := a.peer.isNone && decide (a.loc ≥ bankBase) && bankCore a.loc == a.core

/-- One page for the fault record of an address. -/
def pageOf (ea : Nat) : Nat := ea / 65536

/-- The faulting lanes gathered by page: the lowest lane's address, the lanes, the CAUSE (R345). -/
def faultPages (ea : Nat → Nat) : List (Nat × Nat) → List (Nat × Mask × Nat)
  | [] => []
  | (l, k) :: rest =>
    let r := faultPages ea rest
    match r.find? (fun x => pageOf x.1 == pageOf (ea l)) with
    | some x => (ea l, x.2.1 ||| (1#64 <<< l), k) :: r.filter (fun y => pageOf y.1 != pageOf (ea l))
    | none => (ea l, 1#64 <<< l, k) :: r

/-- Accesses sent on their way: own scratch performed at once, the others in flight, a peer's to its package. -/
def State.sendAccess (pid : Nat) (s : State) (a : Access) : State :=
  let (id, s) := s.fresh
  if a.own then s.performAccess id a
  else
    match a.peer with
    | some k => { s with peers := mset s.peers id { gk := a.gk, pid := pid, job := none, pkg := k, acc := a, since := s.coreCycle a.core, fail := none } }
    | none => { s with accesses := mset s.accesses id a }

/-- What an own-scratch access waits for (R183, R186), and a peer access for overlapping bytes. -/
def Ctx.mustWait (c : Ctx) (as : List Access) : List Nat :=
  as.flatMap (fun a =>
    if a.own then c.s.before c.s.nextId a
    else if a.peer.isSome then (c.s.peers.filter (fun x => x.2.gk == a.gk && x.2.acc.peer == a.peer && ordered x.2.acc a)).map (·.1)
    else [])

/-- Lanes an earlier try of this instruction has performed (R44, R347). -/
def Ctx.doneLanes (c : Ctx) : Mask :=
  match mget? c.g.unfinished c.pid with
  | some u => if u.pc = c.p.pc then u.done else 0
  | none => 0

/-- The SEQ that the lanes of a parked DATOM carry (R198). -/
def Ctx.keptSeq (c : Ctx) : Option Byte :=
  match mget? c.g.unfinished c.pid with
  | some u => if u.pc = c.p.pc then u.seq else none
  | none => none

/-- A member of a chain other than its last runs again in all its lanes (R44). -/
def Ctx.keepsDone (c : Ctx) : Bool := !c.o.hdr.ch || endsChain c.i || !c.nextCh

/-- The results an instruction is to get, tracked from its issue: pending registers and the latch (R255). -/
def Ctx.track (c : Ctx) (s : State) (iid : Nat) (as : List Access) (r : Req) (ret : Sel × Nat) : State :=
  let h := c.o.hdr
  let m := maskFilter (fullMask 64) (fun i => as.any (fun a => a.lane == i))
  let none := !r.ret.isSome
  let l : LoadI :=
    { gk := c.gk, pid := c.pid, pc := c.p.pc, mask := m, dst := ret.1, words := ret.2, uni := h.u, nwb := h.nwb || none,
      latch := if h.le then some h.lq.toNat else Option.none, back := c.restart c.s, left := m,
      upper := maskFilter (fullMask 64) (fun i => as.any (fun a => a.lane == i && a.word == 1)), got := [], poison := Option.none }
  let s := { s with loads := mset s.loads iid l }
  let s := if l.nwb then s else s.modGroup c.gk (fun g =>
    { g with pending := g.pending ++ (selKeys ret.1 ret.2).map (fun k => { reg := k, pc := c.p.pc, iid := iid }) })
  match l.latch with
  | some n =>
    let q := s.quarter c.q
    s.setQuarter c.q { q with chain := q.chain.map (fun k => { k with written := listSet k.written n true, waitLoad := mset k.waitLoad n iid }) }
  | Option.none => s

/-- The path has accesses at peers without their replies (R342). -/
def State.owesPeer (s : State) (gk pid : Nat) : Bool := s.peers.any (fun x => x.2.job.isNone && x.2.gk == gk && x.2.pid == pid)

/-- Issue of a memory instruction: the checks of R182 on every lane, then its accesses; lanes with a page fault park the group (log 25, DEDUCED) (log 76, DEDUCED). -/
def Ctx.access (c : Ctx) (r : Req) : State :=
  let ls := c.actLanes.filter (fun l => !c.doneLanes.getLsbD l)
  if c.g.fenceHolds r.sets then c.wait (.fenced r.sets)
  else
    let (ps, s) := r.places ls c.s
    let c1 := { c with s := s }
    match ps.find? r.refused with
    | some x => c1.trap ⟨.prot, r.ea x.1⟩
    | none =>
      let poison := ps.find? (fun x => match x.2 with | .at loc _ _ => (r.op x.1).reads && (s.poisoned loc r.len).isSome | _ => false)
      match poison with
      | some x => c1.trap ⟨.mchk, r.ea x.1⟩
      | none =>
        let bad := ps.filterMap (fun x => (isFault x.2).map (fun k => (x.1, k)))
        let go := ps.filter (fun x => (isFault x.2).isNone)
        let (iid, s) := s.fresh
        let as := go.flatMap (c.laneAccesses r iid)
        let w := c1.mustWait as
        if !w.isEmpty then c.wait (.accesses w)
        else
          let tracked := r.ret.isSome || as.any (fun a => !a.op.isStore && !a.op.loose)
          let s := if tracked && !as.isEmpty then c.track s iid as r (r.ret.getD (.zero, 1)) else s
          let s := if as.isEmpty && bad.isEmpty && c.o.hdr.le then s.setQuarter c.q ((s.quarter c.q).setLatch c.o.hdr.lq.toNat [] (fun _ => 0)) else s
          let s := (as.foldl (State.sendAccess c.pid) s)
          let s := if tracked && !as.isEmpty && as.all Access.own then s.loadDone iid else s
          if !bad.isEmpty then
            let left := maskFilter (fullMask 64) (fun l => bad.any (fun x => x.1 == l))
            let done := c.doneLanes ||| maskFilter (fullMask 64) (fun l => go.any (fun y => y.1 == l))
            let resume := c.s.resumePc c.gk c.pid c.p.pc
            let u : Unfinished := { pc := c.p.pc, resume := resume, done := done, seq := c.keptSeq }
            let s := if c.keepsDone then s.modGroup c.gk (fun g => { g with unfinished := mset g.unfinished c.pid u }) else s
            s.park c.gk c.pid r.kind.code c.p.pc left (faultPages r.ea bad)
          else if s.owesPeer c.gk c.pid then (if endsChain c.i then c.block s (.peer iid) else c.hold s (.peer iid))
          else c.advance s

/-- What is left of the way of an access that has reached its place: those before it are performed, those of its die that a narrow scope relies on too, and the
sector is in row orientation (R183, R276, R290, R295). -/
def State.arrived (s : State) (id : Nat) (a : Access) : Bool :=
  (s.before id a).isEmpty && !s.reliedOn a.die a.loc a.len a.op.isLoad (fun x => x.1 == id || (x.2.gk == a.gk && decide (id < x.1))) a.relied
    && (!a.cacheable || a.op.loose || !s.inColumns (sectorOf a.loc))

/-- An access in flight may be performed now: a write once no replica is left, a read unless a write that has claimed the sector holds it (R293) (log 76,
DEDUCED). -/
def State.canPerform (s : State) (id : Nat) (a : Access) : Bool :=
  s.arrived id a && (!a.cacheable || a.op.loose || (if a.op.isLoad then !s.readHeld a.die (sectorOf a.loc) else !s.hasReplica (sectorOf a.loc)))

/-- The write that sends the invalidations of a sector: the first that waits at the home for nothing else. -/
def State.claimant (s : State) (sector : Nat) : Option Nat :=
  (s.accesses.find? (fun x => x.2.cacheable && !x.2.op.loose && !x.2.op.isLoad && sectorOf x.2.loc == sector && s.arrived x.1 x.2)).map (·.1)

/-- An engine, the coil engine or a control core of a die may read a range now, or write it: nothing that the die relies on has still to be performed there, and
for a read no write has claimed its sector (R290, R293). -/
def State.mayRead (s : State) (die loc len : Nat) : Bool :=
  !s.reliedOn die loc len true (fun _ => false) none && !(isHbm loc && (sectorsIn loc len).any (fun k => s.readHeld die k))

def State.mayWrite (s : State) (die loc len : Nat) : Bool := !s.reliedOn die loc len false (fun _ => false) none

/-- The place of a virtual address for the issuing group. -/
def Ctx.vplace (c : Ctx) (k : AccKind) (ea : Nat) (s : State) : Place × State := s.place c.q c.part c.asid c.sys k ea

end Sys2Proof.Machine
end

