-- ==== Sys2Proof/Machine/Memory.lean ====
section
/-! DEFINITION. Loads, stores, prefetch, cache control, ring loads and fences (R184 to R195), and the events that perform their accesses. -/

namespace Sys2Proof.Machine

/-! ### Loads and stores (R184, R185) -/

def setR : Nat := 1
def setW : Nat := 2
def setA : Nat := 4
def setE : Nat := 8

/-- A load of any kind. -/
def load (i : Instr) (sz : Sz) (sc : Scope) (rh : Retain) (place : Ctx → Nat → State → Place × State) : State → Host.Outcome State Fault Refusal :=
  perform i noDetail noPriv (fun c => c.access
    { kind := .load, scope := sc, rh := rh, len := sz.bytes, sets := setR, needMs := false, peerOk := true, place := place c, ea := c.ea,
      op := fun _ => .load sz, ret := some (c.o.d, sz.words) })

/-- A store of any kind. -/
def store (i : Instr) (sz : Sz) (sc : Scope) (rh : Retain) (place : Ctx → Nat → State → Place × State) : State → Host.Outcome State Fault Refusal :=
  perform i noDetail noPriv (fun c => c.access
    { kind := .store, scope := sc, rh := rh, len := sz.bytes, sets := setW, needMs := false, peerOk := true, place := place c, ea := c.ea,
      op := fun l => .store (natLe sz.bytes (c.val c.o.b sz.words l)), ret := none })

/-- Places of virtual, scratch and vault addresses. -/
def atVirtual (k : AccKind) (c : Ctx) (l : Nat) (s : State) : Place × State := c.vplace k (c.ea l) s
def atScratch (n : Nat) (c : Ctx) (l : Nat) (s : State) : Place × State := (c.scratchPlace (c.ea l) n, s)
def atVault (c : Ctx) (l : Nat) (s : State) : Place × State := (if c.ea l ≥ 2 ^ 32 then .prot else vaultPlace s c.part (c.ea l), s)

def execLd (sc : Scope) (rh : Retain) (sz : Sz) (o : Ops) : State → Host.Outcome State Fault Refusal := load (.ld sc rh sz o) sz sc rh (atVirtual .load)
def execSt (sc : Scope) (rh : Retain) (sz : Sz) (o : Ops) : State → Host.Outcome State Fault Refusal := store (.st sc rh sz o) sz sc rh (atVirtual .store)
def execLds (sz : Sz) (o : Ops) : State → Host.Outcome State Fault Refusal := load (.lds sz o) sz .grp .df (atScratch sz.bytes)
def execSts (sz : Sz) (o : Ops) : State → Host.Outcome State Fault Refusal := store (.sts sz o) sz .grp .df (atScratch sz.bytes)
def execLdv (sz : Sz) (o : Ops) : State → Host.Outcome State Fault Refusal := load (.ldv sz o) sz .grp .df atVault
def execStv (sz : Sz) (o : Ops) : State → Host.Outcome State Fault Refusal := store (.stv sz o) sz .grp .df atVault

/-! ### Prefetch and cache control (R190, R191) -/

/-- What PREF leaves for a lane: a line in the core's cache, or a replica of a sector homed on the other die. -/
def Ctx.prefetch (c : Ctx) (sc : Scope) (rh : Retain) (s : State) (l : Nat) : State :=
  match c.vplace .load (c.ea l) s with
  | (.at loc .cacheable hd, s) =>
    if rh = .by || s.readHeld c.die (sectorOf loc) then s
    else if sc.code < 2 then (s.toRows loc 1).fillLine c.core loc rh
    else if hd != c.die then (s.toRows loc 1).addReplica c.part c.die (sectorOf loc) else s.toRows loc 1
  | (_, s) => s

def execPref (sc : Scope) (rh : Retain) (o : Ops) : State → Host.Outcome State Fault Refusal :=
  perform (.pref sc rh o) noDetail noPriv (fun c => c.advance ((lanes c.acts).foldl (c.prefetch sc rh) c.s))

/-- A peer's sector is nothing this package keeps. -/
def atCached (sc : Scope) (c : Ctx) (l : Nat) (s : State) : Place × State :=
  match c.vplace .store (c.ea l) s with
  | (.peer k f o, s) => (if sc = .sys then .at vaultBase .vault 0 else .peer k f o, s)
  | x => x

/-- CCTL: `op` is none for .wb at a scope where it does nothing but its checks (log 37, DEDUCED). -/
def cctl (i : Instr) (sc : Scope) (drop : Bool) : State → Host.Outcome State Fault Refusal :=
  perform i noDetail noPriv (fun c => c.access
    { kind := .store, scope := sc, rh := .df, len := 1, sets := setW, needMs := false, peerOk := false, place := atCached sc c, ea := c.ea,
      op := fun _ => .cctl drop, ret := none })

def execCctlWb (sc : Scope) (o : Ops) : State → Host.Outcome State Fault Refusal := cctl (.cctlWb sc o) sc false
def execCctlInv (sc : Scope) (o : Ops) : State → Host.Outcome State Fault Refusal := cctl (.cctlInv sc o) sc true
def execCctlWbinv (sc : Scope) (o : Ops) : State → Host.Outcome State Fault Refusal := cctl (.cctlWbinv sc o) sc true

/-! ### Ring loads (R192) -/

def execLdrg (sc : Scope) (rh : Retain) (o : Ops) : State → Host.Outcome State Fault Refusal :=
  perform (.ldrg sc rh o) noDetail noPriv (fun c => c.access
    { kind := .load, scope := sc, rh := rh, len := 8, sets := setR, needMs := true, peerOk := true, place := atVirtual .load c, ea := c.ea,
      op := fun _ => .ldrg, ret := some (o.d, 1) })

/-! ### Fences (R193 to R195) -/

/-- The access set of an operation in flight. -/
def Op.set : Op → Nat
  | .load _ => setR
  | .ldrg => setR
  | .dstat => setR
  | .store _ => setW
  | .land _ => setW
  | .cctl _ => setW
  | _ => setA

/-- The number of a RECV that a path waits in. -/
def PState.recvId : PState → Option Nat
  | .blocked (.recv id _ _ _) => some id
  | _ => none

/-- Accesses, sends, packets and receives of the group in the sets of `pred` that are not yet performed. -/
def Ctx.predAccs (c : Ctx) (pred : Nat) : List Nat :=
  (c.s.accesses.filter (fun x => x.2.gk == c.gk && pred &&& x.2.op.set != 0)).map (·.1)
    ++ (c.s.peers.filter (fun x => x.2.gk == c.gk && pred &&& x.2.acc.op.set != 0)).map (·.1)
    ++ (if pred &&& setW != 0 then
          (c.s.sends.filter (fun x => x.2.gk == c.gk)).map (·.1)
            ++ (c.s.packets.filter (fun x => x.2.gk == c.gk && x.2.launch == c.g.launch)).map (·.2.send)
        else [])
    ++ (if pred &&& setR != 0 then c.g.paths.filterMap (fun x => x.2.st.recvId) else [])

def JState.over : JState → Bool
  | .waiting => false
  | .running => false
  | .stopped => false
  | _ => true

/-- Bytes of a job are counted and not yet performed (R303). -/
def State.jobLeft (s : State) (id : Nat) : Bool := s.accesses.any (fun a => a.2.iid == id)

/-- The group's jobs, tile transfers and masks that are not yet performed (R193). -/
def State.jobsOf (s : State) (gk launch : Nat) : List Nat :=
  (s.jobs.filter (fun x => x.2.gk == some gk && x.2.launch == some launch && (!x.2.st.over || s.jobLeft x.1))).map (·.1)
def State.xfersOf (s : State) (gk : Nat) : List Nat := (s.xfers.filter (fun x => x.2.gk == gk)).map (·.1)
def State.masksOf (s : State) (gk launch : Nat) : List Nat :=
  (s.coilq.filter (fun x => x.2.gk == gk && x.2.launch == launch && x.2.feed.isNone)).map (·.1)

/-- Whether an item of a fence's list is still to be performed, at the fence's scope. -/
def State.itemPending (s : State) (sc : Scope) (id : Nat) : Bool :=
  !(s.awaited sc [id]).isEmpty || (mget? s.sends id).isSome || s.packets.any (fun x => x.2.send == id)
    || s.groups.any (fun g => g.2.paths.any (fun p => p.2.st.recvId == some id))

/-- A job in its scheduler's hands: a withdrawn or stopped one is not, until its team is restored (R354, R356). -/
def JState.open : JState → Bool
  | .waiting => true
  | .running => true
  | _ => false

/-- Jobs of a die's scheduler that are not over (R287). -/
def State.openJobs (s : State) (d : Nat) : Nat := (s.jobs.filter (fun x => x.2.die == d && JState.open x.2.st)).length

/-- A job that a fence or release of a scope still waits for: it is not over, or bytes of it are on their way to the other die (R290, R303). -/
def State.jobPending (s : State) (sc : Scope) (id : Nat) : Bool :=
  (match mget? s.jobs id with | some j => !j.st.over | none => false) || (decide (sc.code ≥ Scope.dev.code) && s.jobLeft id)

/-- A fence's predecessors are performed at its scope (R194). -/
def State.fenceMet (s : State) (sc : Scope) (accs xfers jobs masks : List Nat) : Bool :=
  !accs.any (s.itemPending sc) && !xfers.any (fun i => (mget? s.xfers i).isSome) && !jobs.any (s.jobPending sc) && !masks.any (fun i => (mget? s.coilq i).isSome)

/-- Every write to a partition's shadow regions is acknowledged by its buddy (R463); a fence of scope .sys waits for it (log 60, DEDUCED). -/
def State.shadowQuiet (s : State) (p : Nat) : Bool := s.pkg.shadows.all (fun r => r.1 / 4 != p || !r.2.v || r.2.queue.isEmpty)

/-- What a fence does when it completes: what it has gone on without is relied on (R290), and with r in its successor set and a scope of .cl or wider the
core's copies go (R188). -/
def State.fenced (s : State) (core : Nat) (sc : Scope) (accs : List Nat) (succ : Nat) : State :=
  let s := s.rely accs
  if sc.code ≥ 2 && succ &&& setR != 0 then s.acquire core else s

def fence (i : Instr) (sc : Scope) : State → Host.Outcome State Fault Refusal :=
  perform i noDetail noPriv (fun c =>
    if !c.actsOnce then c.advance c.s
    else
      let w := match c.o.c with | .raw v => v.toNat | .sel _ => 0
      let pred := w % 16
      let succ := w / 16 % 16
      let accs := c.predAccs pred
      let e := pred &&& setE != 0
      let xfers := if e then c.s.xfersOf c.gk else []
      let jobs := if e then c.s.jobsOf c.gk c.g.launch else []
      let masks := if e then c.s.masksOf c.gk c.g.launch else []
      if c.s.fenceMet sc accs xfers jobs masks && (sc != .sys || c.s.shadowQuiet c.part) then c.advance (c.s.fenced c.core sc accs succ)
      else c.block c.s (.fence sc accs xfers jobs masks succ))

def execFence (sc : Scope) (o : Ops) : State → Host.Outcome State Fault Refusal := fence (.fence sc o) sc
def execFenceSc (sc : Scope) (o : Ops) : State → Host.Outcome State Fault Refusal := fence (.fenceSc sc o) sc

/-! ### Events -/

/-- FENCE_COMPLETE (R194). -/
def execFenceComplete (g p : Key) (s : State) : Host.Outcome State Fault Refusal :=
  .next
    (match (mget? s.groups g).bind (fun x => mget? x.paths p) with
     | some x =>
       match x.st with
       | .blocked (.fence sc accs xfers jobs masks succ) =>
         if s.fenceMet sc accs xfers jobs masks && (sc != .sys || s.shadowQuiet ((s.partOfCore (coreOf g)).getD 4)) then (s.fenced (coreOf g) sc accs succ).release g p else s
       | _ => s
     | none => s)

/-- ACCESS_PERFORM (R181): DATOM arrivals and flushes have events of their own. -/
def execAccessPerform (id : Key) (s : State) : Host.Outcome State Fault Refusal :=
  .next
    (match mget? s.accesses id with
     | some a =>
       match a.op with
       | .datom _ _ => s
       | .dflush _ => s
       | _ => if s.canPerform id a then s.performAccess id a else s
     | none => s)

/-- LOAD_RETURN (R255). -/
def execLoadReturn (iid : Key) (s : State) : Host.Outcome State Fault Refusal := .next (s.loadDone iid)

/-- REPLICA_INVALIDATE (R293): the replica goes, by the invalidation of the write that then claims its sector, or silently when it is evicted (R278). -/
def execReplicaInvalidate (die sector : Key) (s : State) : Host.Outcome State Fault Refusal :=
  .next
    (let t := { s with replicas := merase s.replicas (replicaKey die sector) }
     match (if s.hasReplica sector then s.claimant sector else none) with
     | some id => { t with accesses := mmodify t.accesses id (fun a => { a with claimed := true }) }
     | none => t)

/-- An access, or a tile transfer by columns or rows, waits at the slice for the orientation. -/
def State.wantsLines (s : State) (sector : Nat) (cols wide : Bool) : Bool :=
  if cols then s.xfers.any (fun x => x.2.cols == some wide && x.2.runs.any (fun r => (sectorsIn r.loc r.len).contains sector))
  else s.accesses.any (fun x => x.2.cacheable && !x.2.op.loose && sectorOf x.2.loc == sector)

/-- SECTOR_CONVERT (R276): the tag takes the orientation that a waiting request asks for, and a dirty sector has been written back. -/
def execSectorConvert (sector : Key) (cols wide : Bool) (s : State) : Host.Outcome State Fault Refusal :=
  .next
    (if s.wantsLines sector cols wide then { s.clean sector with columns := if cols then mset s.columns sector wide else merase s.columns sector } else s)

end Sys2Proof.Machine
end

