-- ==== Sys2Proof/Machine/Atomic.lean ====
section
/-! DEFINITION. Atomics, deterministic atomics and ring adds (R196 to R203). -/

namespace Sys2Proof.Machine

/-! ### ATOM and ATOMS (R196, R197) -/

def atomic (i : Instr) (sc : Scope) (w64 : Bool) (op : Aop) (place : Ctx → Nat → State → Place × State) : State → Host.Outcome State Fault Refusal :=
  perform i noDetail noPriv (fun c =>
    let w := if w64 then 2 else 1
    c.access
      { kind := .atomic, scope := sc, rh := .df, len := 4 * w, sets := setA, needMs := false, peerOk := true, place := place c, ea := c.ea,
        op := fun l => .atomic op w64 (c.val c.o.b w l) (if op = .cas then c.val c.cSel w l else 0), ret := some (c.o.d, w) })

/-- An ATOMS of scope .tm may not name another team (R196). -/
def atTeam (sc : Scope) (n : Nat) (c : Ctx) (l : Nat) (s : State) : Place × State :=
  let ea := c.ea l
  (if sc = .tm && bit ea 24 && bits ea 20 4 != c.teamIdx then .prot else c.scratchPlace ea n, s)

def execAtom (sc : Scope) (w64 : Bool) (op : Aop) (o : Ops) : State → Host.Outcome State Fault Refusal :=
  atomic (.atom sc w64 op o) sc w64 op (atVirtual .atomic)

def execAtoms (sc : Scope) (w64 : Bool) (op : Aop) (o : Ops) : State → Host.Outcome State Fault Refusal :=
  atomic (.atoms sc w64 op o) sc w64 op (atTeam sc (if w64 then 8 else 4))

/-! ### Deterministic atomics (R198 to R201) -/

/-- The issuer key of a lane without its SEQ (R198): lanes carry their numbers before any SPLIT. -/
def Ctx.issuerKey (c : Ctx) (seq : Byte) (l : Nat) : Nat :=
  c.clid % 2 ^ 24 * 2 ^ 24 + c.teamIdx % 16 * 2 ^ 20 + c.g.rank % 64 * 2 ^ 14 + seq.toNat * 64 + (l + c.g.ofs.toNat) % 64

/-- The instruction needs an epoch: its lowest acting lane's address is recorded otherwise (R198). -/
def Ctx.withEpoch (c : Ctx) (f : State) : State :=
  match c.actLanes.head? with
  | none => c.advance c.s
  | some l => if c.launch.epoch = 0 then c.trap ⟨.prot, c.ea l⟩ else f

/-- The DATOM's first issue has gone out: the group's count rises, and a parked one keeps the SEQ its lanes carry. -/
def State.seqTaken (s : State) (gk pid : Nat) (pc : Pc) (seq : Byte) (first : Bool) : State :=
  s.modGroup gk (fun g =>
    { g with
      seq := if first then g.seq + 1 else g.seq
      unfinished := mmodify g.unfinished pid (fun u => if u.pc = pc then { u with seq := some seq } else u) })

/-- A state in which the path has neither waited nor trapped at the instruction: it has advanced, is blocked by it or has parked on it. -/
def State.issuedAt (s : State) (gk pid : Nat) (before : Group) : Bool :=
  match mget? s.groups gk with
  | none => false
  | some g =>
    match mget? g.paths pid with
    | none => false
    | some p =>
      (match p.st with | .waiting _ => false | _ => true) && !g.dead && (g.handler.isSome == before.handler.isSome)

def execDatom (sc : Scope) (o : Ops) : State → Host.Outcome State Fault Refusal :=
  perform (.datom sc o) noDetail noPriv (fun c => c.withEpoch (
    let kept := c.keptSeq
    let seq := kept.getD c.g.seq
    let s := c.access
      { kind := .atomic, scope := sc, rh := .df, len := 4, sets := setA, needMs := true, peerOk := false, place := atVirtual .atomic c, ea := c.ea,
        op := fun l => .datom (c.issuerKey seq l) (BitVec.ofNat 32 (c.val o.b 1 l)), ret := none }
    if s.issuedAt c.gk c.pid c.g then s.seqTaken c.gk c.pid c.p.pc seq kept.isNone else s))

/-- A piece of a DFLUSH's range on memory-side pages: another holds no tracked word (R200) (log 37, DEDUCED). -/
def flushable (x : Nat × Nat × Place) : Option (Nat × Nat) :=
  match x.2.2 with
  | .at loc .ms _ => some (loc, x.2.1)
  | _ => none

/-- DFLUSH parks at a page of its range that has no translation, as every instruction of its class does (R344); a page that refuses it is passed over (R200). -/
def execDflush (sc : Scope) (o : Ops) : State → Host.Outcome State Fault Refusal :=
  perform (.dflush sc o) noDetail noPriv (fun c =>
    if !c.actsOnce then c.advance c.s
    else
      let ea := c.ea c.lead
      if c.launch.epoch = 0 || ea ≥ 2 ^ 56 then c.trap ⟨.prot, ea⟩
      else if c.g.fenceHolds setA then c.wait (.fenced setA)
      else
        let n := c.val o.b 1 c.lead
        let (ps, s) := c.s.spanPlaces c.q c.part c.asid c.sys .load (spans (n / 65536 + 2) ea n)
        let bad := ps.filterMap spanFault
        if !bad.isEmpty then c.parkAll s AccKind.atomic.code bad
        else
          let (id, s) := s.fresh
          let a : Access :=
            { iid := id, gk := c.gk, launch := c.g.launch, part := c.part, asid := c.asid, die := c.die, core := c.core, lane := c.lead,
              op := .dflush (ps.filterMap flushable), scope := sc, rh := .df, loc := 0, len := 0, va := ea, cacheable := false, crossing := false, home := c.die,
              word := 0, relied := none, claimed := false, peer := none }
          c.block { s with accesses := mset s.accesses id a } (.dflush id))

def execDstat (sc : Scope) (o : Ops) : State → Host.Outcome State Fault Refusal :=
  perform (.dstat sc o) noDetail noPriv (fun c => c.withEpoch (c.access
    { kind := .load, scope := sc, rh := .df, len := 4, sets := setR, needMs := true, peerOk := false, place := atVirtual .load c, ea := c.ea,
      op := fun _ => .dstat, ret := some (o.d, 1) }))

/-! ### Ring add and merge (R203) -/

def execRadd (sc : Scope) (o : Ops) : State → Host.Outcome State Fault Refusal :=
  perform (.radd sc o) noDetail noPriv (fun c => c.access
    { kind := .atomic, scope := sc, rh := .df, len := 8, sets := setA, needMs := true, peerOk := true, place := atVirtual .atomic c, ea := c.ea,
      op := fun l => .radd (BitVec.ofNat 32 (c.val o.b 1 l)), ret := none })

def execRmerge (sc : Scope) (o : Ops) : State → Host.Outcome State Fault Refusal :=
  perform (.rmerge sc o) noDetail noPriv (fun c => c.access
    { kind := .atomic, scope := sc, rh := .df, len := 8, sets := setA, needMs := true, peerOk := true, place := atVirtual .atomic c, ea := c.ea,
      op := fun l => .rmerge (BitVec.ofNat 64 (c.val o.b 2 l)), ret := none })

/-! ### Events -/

/-- DATOM_ARRIVAL (R199). -/
def execDatomArrival (id : Key) (s : State) : Host.Outcome State Fault Refusal :=
  .next
    (match mget? s.accesses id with
     | some a =>
       match a.op with
       | .datom _ _ => if s.canPerform id a then s.performAccess id a else s
       | _ => s
     | none => s)

/-- The path that waits in a DFLUSH. -/
def Group.flushing (g : Group) (id : Nat) : Option Nat := (g.paths.find? (fun x => x.2.st == .blocked (.dflush id))).map (·.1)

/-- DFLUSH_PERFORM (R200): every DATOM that the group issued earlier is performed, and the held addends of the range are added. -/
def execDflushPerform (id : Key) (s : State) : Host.Outcome State Fault Refusal :=
  .next
    (match mget? s.accesses id with
     | none => s
     | some a =>
       match a.op with
       | .dflush _ =>
         let waits := s.accesses.any (fun x => decide (x.1 < id) && x.2.gk == a.gk && (match x.2.op with | .datom _ _ => true | _ => false))
         if waits then s
         else
           let (_, t) := s.doAccess a
           let t := { t with accesses := merase t.accesses id }
           match (mget? t.groups a.gk).bind (fun g => g.flushing id) with
           | some pid => t.release a.gk pid
           | none => t
       | _ => s)

end Sys2Proof.Machine
end

