-- ==== Sys2Proof/Machine/Barrier.lean ====
section
/-! DEFINITION. Barrier objects (R204 to R210): the object in scratch, the barrier unit that performs every operation on it one at a time, the barrier
instructions, and the events of the unit. -/

namespace Sys2Proof.Machine

/-! ### The object (R204) -/

structure Obj where
  landed : Nat
  target : Nat
  rsv : Nat
  scope : Nat
  lvalid : Bool
  lidx : Nat
  cvalid : Bool
  cidx : Nat
  watch : Bool
  ovb : Bool
  arrived : Nat
  expected : Nat
  phase : Nat
  deriving DecidableEq, Repr

def Obj.ofNat (w : Nat) : Obj :=
  { landed := bits w 96 32, target := bits w 64 32, rsv := bits w 59 5, scope := bits w 56 3, lvalid := bit w 55, lidx := bits w 53 2, cvalid := bit w 52,
    cidx := bits w 50 2, watch := bit w 49, ovb := bit w 48, arrived := bits w 32 16, expected := bits w 16 16, phase := bits w 0 16 }

def Obj.toNat (o : Obj) : Nat :=
  o.phase + o.expected * 2 ^ 16 + o.arrived * 2 ^ 32 + o.ovb.toNat * 2 ^ 48 + o.watch.toNat * 2 ^ 49 + o.cidx * 2 ^ 50 + o.cvalid.toNat * 2 ^ 52
    + o.lidx * 2 ^ 53 + o.lvalid.toNat * 2 ^ 55 + o.scope * 2 ^ 56 + o.rsv * 2 ^ 59 + o.target * 2 ^ 64 + o.landed * 2 ^ 96

def State.obj (s : State) (loc : Nat) : Obj := Obj.ofNat (s.word loc 16)
def State.setObj (s : State) (loc : Nat) (o : Obj) : State := s.writeNat loc 16 o.toNat

/-- Addition that stops at 2^32 − 1 (R204). -/
def satAdd (a b : Nat) : Nat := min (a + b) (2 ^ 32 - 1)

/-- The check after every operation of the unit: at most one phase completes (R208). -/
def Obj.check (o : Obj) : Obj :=
  if o.arrived = o.expected && o.landed ≥ o.target then
    { o with
      landed := o.landed - o.target, ovb := o.ovb || decide (o.landed > o.target), target := 0, arrived := 0, lidx := o.cidx, lvalid := o.cvalid,
      cvalid := false, phase := (o.phase + 1) % 2 ^ 16 }
  else o

/-- Phase n has completed (R209). -/
def Obj.over (o : Obj) (n : Nat) : Bool :=
  let d := (o.phase + 2 ^ 16 - n % 2 ^ 16) % 2 ^ 16
  decide (1 ≤ d) && decide (d ≤ 2 ^ 15)

/-- The word BWAIT and BTRY write (R209). -/
def Obj.status (o : Obj) (done : Bool) : Nat := done.toNat * 2 ^ 31 + o.ovb.toNat * 2 ^ 19 + o.lvalid.toNat * 2 ^ 18 + o.lidx * 2 ^ 16 + o.phase

/-- Bytes of an engine counted on an object (R207). -/
def State.landBytes (s : State) (loc n : Nat) : State :=
  let o := s.obj loc
  s.setObj loc ({ o with landed := satAdd o.landed n }).check

/-- One more arrival in a field of 16 bits. -/
def Obj.arrive (o : Obj) : Obj := { o with arrived := (o.arrived + 1) % 2 ^ 16 }

/-- A watch makes its arrival, which is dropped where every arrival has been made; the check follows either way (R208, R210). -/
def Obj.fired (o : Obj) (i : Nat) : Obj :=
  (if o.arrived = o.expected then o else (if o.cvalid then o else { o with cidx := i, cvalid := true }).arrive).check

/-! ### The unit (R205 to R210) -/

/-- What an operation at its unit leads to. -/
inductive BarRes where
  | done
  /-- BWAIT or BTRY answers: the register, its word, and whether the answer is an acquire. -/
  | word (dst : Sel) (v : Nat) (acq : Bool)
  | trap (cause : Cause)
  /-- A BWAIT that waits. -/
  | wait
  deriving DecidableEq, Repr

/-- Key of a watch among its core's: the object's address and the index. -/
def watchKey (obj i : Nat) : Nat := obj * 4 + i

/-- A watch disarms and makes its arrival (R210). -/
def State.fireWatch (s : State) (core i : Nat) : State :=
  let c := s.core core
  match mget? c.watches i with
  | none => s
  | some w =>
    let ws := merase c.watches i
    let s := s.setCore core { c with watches := ws }
    let o := s.obj w.obj
    s.setObj w.obj ({ o with watch := o.watch && ws.any (fun x => x.2.obj == w.obj) }.fired w.idx)

/-- The watches of an object with one armed or disarmed, and the object's flag (R210): a seventeenth is refused. A watch that the index held and whose word has
been written has fired, and makes its arrival first. The ADDR of the refusal is the object's address (log 111, DEDUCED). -/
def State.watchSet (s : State) (r : BarReq) (i : Nat) (word : Option Nat) (va : Nat) : BarRes × State :=
  let core := bankCore r.obj
  let k := watchKey r.obj i
  let s := match mget? (s.core core).watches k with | some w => if w.hit then s.fireWatch core k else s | none => s
  let c := s.core core
  match word with
  | none =>
    let ws := merase c.watches k
    let s := s.setCore core { c with watches := ws }
    let o := s.obj r.obj
    (.done, s.setObj r.obj ({ o with watch := ws.any (fun w => w.2.obj == r.obj) && o.watch }).check)
  | some w =>
    if (mget? c.watches k).isNone && c.watches.length ≥ 16 then (.trap .prot, s)
    else
      let s := s.setCore core { c with watches := mset c.watches k { obj := r.obj, idx := i, word := w / 8 * 8, va := va, hit := false } }
      let o := s.obj r.obj
      (.done, s.setObj r.obj ({ o with watch := true }).check)

/-- An operation performed by the unit of the core that holds the object; the check of R208 follows it. -/
def State.barUnit (s : State) (r : BarReq) : BarRes × State :=
  let o := s.obj r.obj
  let far := bankCore r.obj != r.core
  match r.op with
  | .init sc e t =>
    let core := bankCore r.obj
    let c := s.core core
    let s := s.setCore core { c with watches := c.watches.filter (fun w => w.2.obj != r.obj) }
    (.done, s.setObj r.obj ({ landed := 0, target := t, rsv := 0, scope := sc.code, lvalid := false, lidx := 0, cvalid := false, cidx := 0, watch := false,
                              ovb := false, arrived := 0, expected := e, phase := 0 } : Obj).check)
  | op =>
    if far && o.scope == Scope.tm.code then (.trap .prot, s)
    else
      match op with
      | .arrive b =>
        if o.arrived = o.expected then (.trap .barOver, s)
        else
          let o := ({ o with target := match b with | some n => satAdd o.target n | none => o.target } : Obj).arrive
          (.done, s.setObj r.obj o.check)
      | .bexp n => (.done, s.setObj r.obj ({ o with target := satAdd o.target n }).check)
      | .wait n d => (if o.over n then .word d (o.status true) (decide (o.scope ≥ 2)) else .wait, s.setObj r.obj o.check)
      | .tryit n d => (.word d (o.status (o.over n)) (o.over n && decide (o.scope ≥ 2)), s.setObj r.obj o.check)
      | .watch i w va => s.watchSet r i w va
      | .init _ _ _ => (.done, s)

/-- What an answer writes: the register, and the acquire of R188 and R209. -/
def State.barAnswer (s : State) (gk core : Nat) : BarRes → State
  | .word d v acq =>
    let s := s.setUniform gk d 1 v
    if acq then s.acquire core else s
  | _ => s

/-! ### The instructions -/

/-- The loads, stores and atomics of a group that are not yet performed, the stores of its TSTs among them (R207, R221) (log 91, DEDUCED). -/
def State.accsOf (s : State) (gk : Nat) : List Nat :=
  (s.accesses.filter (fun x => x.2.gk == gk && !x.2.op.loose)).map (·.1) ++ (s.peers.filter (fun x => x.2.job.isNone && x.2.gk == gk)).map (·.1)
    ++ (s.xfers.filter (fun x => x.2.gk == gk && x.2.out)).map (·.1)

/-- A release of scope .dev has found its accesses and jobs performed (R236, R300). -/
def State.released (s : State) (accs jobs : List Nat) : Bool := (s.awaited .dev accs).isEmpty && !jobs.any (s.jobPending .dev)

/-- What a barrier operation of the group on an object comes after: its accesses in flight to the object's bytes, and its operations there (R183, R205). -/
def Ctx.objAfter (c : Ctx) (loc : Nat) : List Nat :=
  (c.s.accesses.filter (fun x => x.2.gk == c.gk && !x.2.op.loose && rangesMeet x.2.loc x.2.len loc 16)).map (·.1) ++ c.s.barsMeeting c.gk c.s.nextId loc 16

/-- The scope of a barrier object, as the arrival that its unit is to count finds it (R204). -/
def State.objScope (s : State) (loc : Nat) : Scope :=
  match (s.obj loc).scope with
  | 0 => .grp | 1 => .tm | 2 => .cl | 3 => .die | 4 => .dev | _ => .sys

/-- What an operation still has to come after: an arrival, the accesses not yet performed at its object's scope (R207). -/
def State.barAfter (s : State) (r : BarReq) : List Nat :=
  match r.op with
  | .arrive _ => s.awaited (s.objScope r.obj) r.after
  | _ => s.awaited .sys r.after

/-- The operation goes on without what its object's scope does not need (R290). -/
def State.barRely (s : State) (r : BarReq) : State := match r.op with | .arrive _ => s.rely r.after | _ => s

/-- An arrival on an object of scope .sys waits for the buddies' acknowledgements (R207, R463) (log 60, DEDUCED). -/
def State.shadowHolds (s : State) (p obj : Nat) (op : BarOp) : Bool :=
  (match op with | .arrive _ => true | _ => false) && (s.obj obj).scope == Scope.sys.code && !s.shadowQuiet p

/-- A barrier instruction: its object's address is checked, then its operation goes to the unit; one on the issuing core's object whose wait is over is
performed at issue. -/
def Ctx.barrier (c : Ctx) (op : BarOp) (waits : Bool) : State :=
  let ea := c.addr c.o.a c.lead
  match c.scratchPlace ea 16 with
  | .at loc _ _ =>
    let bad := ea % 16 != 0 || (match op with | .init sc e _ => sc = .grp || e = 0 || (sc = .tm && bankCore loc != c.core) | _ => false)
    if bad then c.trap ⟨.prot, ea⟩
    else
      let after := if waits then c.s.accsOf c.gk ++ c.s.barsMeeting c.gk c.s.nextId loc 16 else c.objAfter loc
      let r : BarReq := { gk := c.gk, pid := c.pid, core := c.core, obj := loc, ea := ea, op := op, after := after, parked := false }
      let send := fun (parked : Bool) (s : State) =>
        let (id, s) := s.fresh
        c.block { s with barReqs := mset s.barReqs id { r with parked := parked } } (.barrier id)
      if bankCore loc != c.core || !(c.s.barAfter r).isEmpty || c.s.shadowHolds c.part loc op then send false c.s
      else
        match (c.s.barRely r).barUnit r with
        | (.trap k, s) => { c with s := s }.trap ⟨k, ea⟩
        | (.wait, s) => send true s
        | (x, s) => c.advance (s.barAnswer c.gk c.core x)
  | _ => c.trap ⟨.prot, ea⟩

/-- The last value source of the class, IMM32 standing for it. -/
def Ctx.barVal (c : Ctx) (x : Sel) : Nat := c.src x true false 1 c.lead

def barrierOp (i : Instr) (waits : Bool) (op : Ctx → BarOp) : State → Host.Outcome State Fault Refusal :=
  perform i noDetail noPriv (fun c => if !c.actsOnce then c.advance c.s else c.barrier (op c) waits)

def execBinit (sc : Scope) (o : Ops) : State → Host.Outcome State Fault Refusal :=
  barrierOp (.binit sc o) false (fun c => .init sc (c.val o.b 1 c.lead % 65536) (c.barVal c.cSel))

def execBarr (o : Ops) : State → Host.Outcome State Fault Refusal := barrierOp (.barr o) true (fun _ => .arrive none)

def execBarrBytes (o : Ops) : State → Host.Outcome State Fault Refusal :=
  barrierOp (.barrBytes o) true (fun c => .arrive (some (c.barVal o.b)))

def execBexp (o : Ops) : State → Host.Outcome State Fault Refusal := barrierOp (.bexp o) false (fun c => .bexp (c.barVal o.b))

/-- BWAIT resets the watchdog count at every issue (R209, R263) and honours a pending pre-emption when it waits (R354). -/
def execBwait (o : Ops) : State → Host.Outcome State Fault Refusal :=
  perform (.bwait o) noDetail noPriv (fun c =>
    (if !c.actsOnce then c.advance c.s else c.barrier (.wait (c.barVal o.b % 65536) o.d) false).modGroup c.gk (fun g => { g with watchdog := 0 }))

def execBtry (o : Ops) : State → Host.Outcome State Fault Refusal :=
  barrierOp (.btry o) false (fun c => .tryit (c.barVal o.b % 65536) o.d)

/-- WATCH: the watched word is checked as a load; a word of a peer package cannot be watched here and is refused (log 26, DEDUCED). -/
def execWatch (i : BitVec 2) (o : Ops) : State → Host.Outcome State Fault Refusal :=
  perform (.watch i o) noDetail noPriv (fun c =>
    if !c.actsOnce then c.advance c.s
    else if o.b.isZero then c.barrier (.watch i.toNat none 0) false
    else
      let va := c.addr o.b c.lead
      match c.vplace .load va c.s with
      | (.fault k, s) => c.parkOnce s AccKind.load.code va k
      | (.at loc _ _, s) => { c with s := s }.barrier (.watch i.toNat (some loc) va) false
      | (_, s) => { c with s := s }.trap ⟨.prot, va⟩)

/-! ### Events -/

/-- The accesses an arrival waits for are performed (R207); a BWAIT at its unit waits for its phase (R209). -/
def State.barReady (s : State) (r : BarReq) : Bool :=
  (s.barAfter r).isEmpty && !s.shadowHolds ((s.partOfCore r.core).getD 4) r.obj r.op &&
  (if r.parked then (match r.op with | .wait n _ => (s.obj r.obj).over n | _ => true) else true)

/-- The path that issued a barrier operation still waits for it. -/
def State.barWaits (s : State) (rid : Nat) (r : BarReq) : Bool :=
  match (mget? s.groups r.gk).bind (fun g => mget? g.paths r.pid) with
  | some p => p.st == .blocked (.barrier rid)
  | none => false

/-- BARRIER_UNIT_OP (R205): the operation is performed at its unit, or a BWAIT that waits there finds its phase completed. -/
def execBarrierUnitOp (rid : Key) (s : State) : Host.Outcome State Fault Refusal :=
  .next
    (match mget? s.barReqs rid with
     | none => s
     | some r =>
       if !s.barReady r then s
       else
         let waits := s.barWaits rid r
         match (s.barRely r).barUnit r with
         | (.wait, s) => { s with barReqs := mset s.barReqs rid { r with parked := true } }
         | (.trap k, s) =>
           let s := { s with barReqs := merase s.barReqs rid }
           if waits then s.trapWait r.gk r.pid ⟨k, r.ea⟩ else s
         | (x, s) =>
           let s := { s with barReqs := merase s.barReqs rid }
           if waits then (s.barAnswer r.gk r.core x).release r.gk r.pid else s)

/-- WATCH_FIRE (R210): a watch whose word has been written disarms and makes an arrival. -/
def execWatchFire (core i : Key) (s : State) : Host.Outcome State Fault Refusal :=
  .next
    (match mget? (s.core core).watches i with
     | none => s
     | some w => if w.hit then s.fireWatch core i else s)

end Sys2Proof.Machine
end

