-- ==== Sys2Proof/Machine/Budget.lean ====
section
/-! DEFINITION. Budgets of background activities (R452, R453), and writes by physical address that a partition's registers name (R435). -/

namespace Sys2Proof.Machine

/-- GRANT at reset by activity: SCRUB, SWEEP, TRACE, MIGRATE, SAVE, REPAIR. -/
def resetGrant : Nat → Nat
  | 0 => 1024
  | 1 => 4096
  | 2 => 8192
  | 3 => 16384
  | 4 => 65536
  | 5 => 8192
  | _ => 0

def State.budget (s : State) (p a : Nat) : Budget := mgetD s.pkg.budgets (8 * p + a) { grant := resetGrant a, spent := [] }

/-- The grant in force: SAVE's is at least 32,768. -/
def State.grant (s : State) (p a : Nat) : Nat := if a = 4 then max 32768 (s.budget p a).grant else (s.budget p a).grant

def State.setBudget (s : State) (p a : Nat) (b : Budget) : State := { s with pkg := { s.pkg with budgets := mset s.pkg.budgets (8 * p + a) b } }

/-- The cycle counter of an enforcing unit (log 22, DEDUCED): of its stack, of its die for a canopy and a trace core, of its core for a save port. Repairs
number canopies from 100 and cores from 200, patrols the stacks from 300 and then the canopies. -/
def State.budgetCycle (s : State) (a u : Nat) : Nat :=
  match a with
  | 0 => if u < 308 then s.stackCycle (u - 300) else s.dieCycle (u - 308)
  | 2 => s.dieCycle u
  | 4 => s.coreCycle u
  | 5 => if u < 100 then s.stackCycle u else if u < 200 then s.dieCycle (u - 100) else s.coreCycle (u - 200)
  | _ => s.stackCycle u

/-- A unit's account at a cycle: a period that is over has been the last completed one if it is the one before. -/
def Spent.roll (x : Spent) (cycle : Nat) : Spent :=
  let k := cycle / 65536
  if x.period = k then x else { period := k, n := 0, last := if x.period + 1 = k then x.n else 0 }

def State.spentBy (s : State) (p a u : Nat) : Spent :=
  let now := s.budgetCycle a u
  match mget? (s.budget p a).spent u with
  | some x => x.roll now
  | none => { period := now / 65536, n := 0, last := 0 }

/-- Units that a unit may still spend in its period. -/
def State.unspent (s : State) (p a u : Nat) : Nat := s.grant p a - (s.spentBy p a u).n

/-- `n` units of an activity spent. -/
def State.pay (s : State) (p a u n : Nat) : State :=
  let b := s.budget p a
  let x := s.spentBy p a u
  s.setBudget p a { b with spent := mset b.spent u { x with n := x.n + n } }

/-- One unit spent by an enforcing unit; none while the period's grant is spent. -/
def State.spend (s : State) (p a u : Nat) : Option State := if 0 < s.unspent p a u then some (s.pay p a u 1) else none

/-- USED: what was spent in the last completed period, the largest over the units. -/
def State.used (s : State) (p a : Nat) : Nat := (((s.budget p a).spent.map (fun x => (s.spentBy p a x.1).last)).max?).getD 0

/-- BUDGET_PERIOD (R452): the periods of 65,536 cycles that are over end, and the grant is to be spent anew. -/
def execBudgetPeriod (p a : Key) (s : State) : Host.Outcome State Fault Refusal :=
  .next (let b := s.budget p a; s.setBudget p a { b with spent := b.spent.map (fun x => (x.1, s.spentBy p a x.1)) })

/-- Bytes written on to HBM by physical address for a partition, where no replica keeps the old ones (R293); an address in none of its ranges takes nothing
(R435). -/
def State.physWrite (s : State) (p pa : Nat) (bs : List Byte) : State :=
  if (s.rangeOf p pa).isSome then s.homeWrite true false (s.phys pa) bs else s

end Sys2Proof.Machine
end

