-- ==== Sys2Proof/Machine/Channel.lean ====
section
/-! DEFINITION. Channels (R211 to R215): sends, receives, queries, and the events of the channel units. -/

namespace Sys2Proof.Machine

/-! ### Declarations and running state (R211) -/

def Chan.empty : Chan := { allow := [], filled := [], broken := false }

def Launch.chanRec (l : Launch) (ch : Nat) : Option ChanRec := l.chans.find? (fun r => r.id == ch)

/-- A channel's running state: at first every slot of every consumer is free. -/
def Launch.chanOf (l : Launch) (ch : Nat) : Chan :=
  match mget? l.chan ch with
  | some x => x
  | none =>
    match l.chanRec ch with
    | some r => { allow := r.cons.map (fun _ => r.slots), filled := r.cons.map (fun _ => []), broken := false }
    | none => Chan.empty

def State.setChan (s : State) (lid ch : Nat) (x : Chan) : State := s.modLaunch lid (fun l => { l with chan := mset l.chan ch x })

/-- The index of a consumer among a channel's. -/
def ChanRec.consumer (r : ChanRec) (clid t : Nat) : Option Nat :=
  let i := r.cons.findIdx (fun x => x == (clid, t))
  if i < r.cons.length then some i else none

/-- The issuing team produces, or consumes, the channel. -/
def Ctx.isProducer (c : Ctx) (r : ChanRec) : Bool := r.pcl == c.clid && r.pteam == c.teamIdx
def Ctx.consumes (c : Ctx) (r : ChanRec) : Option Nat := r.consumer c.clid c.teamIdx

/-! ### Scratch ranges -/

/-- The storage addresses of `n` bytes of a core's scratch. -/
def scratchLocs (roles : W64) (core o n : Nat) : List Nat := (List.range n).filterMap (fun i => roleLoc roles 1 core (o + i))

/-- A scratch range of the issuing team with CL = 0 that lies within the declared bytes (R212). -/
def Ctx.ownRange (c : Ctx) (ea n : Nat) : Bool := ea < 2 ^ 20 && decide (ea + n ≤ c.launch.scratch)

def State.writeAt (s : State) : List Nat → List Byte → State
  | a :: l, b :: bs => (s.write a [b]).writeAt l bs
  | _, _ => s

/-- Bytes of storage as a packet carries them, with its poisoned lines (R288). -/
def State.dataOf (s : State) (locs : List Nat) : Data :=
  { bytes := locs.map s.byte, bad := (List.range ((locs.length + 31) / 32)).filter (fun k => ((locs.drop (32 * k)).take 32).any (fun a => (s.poisoned a 1).isSome)) }

/-- A packet's data written, its poison with it. -/
def State.writeData (s : State) (locs : List Nat) (d : Data) : State :=
  d.bad.foldl (fun s k => ((locs.drop (32 * k)).take 32).foldl State.poisonLine s) (s.writeAt locs d.bytes)

/-! ### Sends (R213) -/

/-- The physical site of a logical core: the repair map's where a spare has taken its place, else the fuses' (R15, R457). -/
def State.siteOf (s : State) (c : Nat) : Nat := mgetD s.pkg.sites c (Config.fuseSite c % 100)

/-- The core in service at a physical site of a die. -/
def State.coreAt (s : State) (die site : Nat) : Option Nat :=
  ((List.range 96).map (fun i => die * 96 + i)).find? (fun c => s.siteOf c == site && !(s.core c).gone)

/-- The neighbouring site in a heading, 0 to 3 for x rising, y rising, x falling, y falling; none beyond the edge of the 10 × 10 mesh (R14). -/
def neighbour (site h : Nat) : Option Nat :=
  match h with
  | 0 => if site % 10 < 9 then some (site + 1) else none
  | 1 => if site / 10 < 9 then some (site + 10) else none
  | 2 => if 0 < site % 10 then some (site - 1) else none
  | _ => if 0 < site / 10 then some (site - 10) else none

/-- A heading after a turn: left, right, and straight on for the others, an eject among them (R104). -/
def turned (h turn : Nat) : Nat :=
  if turn = 1 then (h + (if Config.leftTurn then 1 else 3)) % 4 else if turn = 2 then (h + (if Config.leftTurn then 3 else 1)) % 4 else h

/-- The sites at which a packet with `n` turns to come ejects, the next turn lowest in `turns` (R104; log 10, DESIGN CHOICE). -/
def ejects : Nat → Nat → Nat → Nat → List Nat
  | 0, _, _, _ => []
  | n + 1, turns, site, h =>
    let h' := turned h (turns % 4)
    (if turns % 4 = 3 then [site] else []) ++ (match neighbour site h' with | some t => ejects n (turns / 4) t h' | none => [])

/-- The consumers at the ejects of a route, in route order (R213). -/
def State.stopsOf (s : State) (lid : Nat) (r : ChanRec) (core : Nat) (turns : BitVec 24) : List Nat :=
  (ejects 12 turns.toNat (s.siteOf core) (Config.routeHeading core % 4)).filterMap (fun site =>
    match (s.coreAt (dieOfCore core) site).bind (fun k => (s.core k).team) with
    | some t => if t.launch = lid then r.consumer t.clid t.idx else none
    | none => none)

def hasAllowances (x : Chan) (cons : List Nat) : Bool := cons.all (fun k => decide (0 < listGet 0 x.allow k))

/-- One allowance of each consumer taken. -/
def takeAllowances (x : Chan) (cons : List Nat) : Chan :=
  { x with allow := cons.foldl (fun l k => listSet l k (listGet 0 l k - 1)) x.allow }

/-- A send may take its allowances: it has them all, and no earlier send of the channel waits. -/
def State.canSend (s : State) (id : Nat) (r : SendReq) : Bool :=
  hasAllowances ((s.launch r.launch).chanOf r.ch) r.cons
    && !s.sends.any (fun x => decide (x.1 < id) && x.2.launch == r.launch && x.2.ch == r.ch)

/-- The send's allowances are taken, its data read, and a packet leaves for each consumer (log 45, DEDUCED). -/
def State.inject (s : State) (id : Nat) (r : SendReq) : State :=
  let l := s.launch r.launch
  let s := s.setChan r.launch r.ch (takeAllowances (l.chanOf r.ch) r.cons)
  let data := s.dataOf (scratchLocs l.banks (coreOf r.gk) r.ofs r.len)
  let s := { s with sends := merase s.sends id }
  r.cons.foldl (fun s k =>
    let (n, s) := s.fresh
    { s with packets := mset s.packets n { send := id, gk := r.gk, launch := r.launch, ch := r.ch, con := k, data := data } }) s

/-- The group may send on a channel of its launch. -/
def Ctx.isProducerOf (c : Ctx) (ch : Nat) : Bool := match c.launch.chanRec ch with | some r => c.isProducer r | none => false

/-- A send that has to wait for its allowances keeps its place, and its path waits (R213, R254): its packet leaves, and the instruction is complete, at
SEND_INJECT. -/
def Ctx.sendLater (c : Ctx) (id : Nat) (r : SendReq) : State :=
  ({ c.s with sends := mset c.s.sends id r, nextId := id + 1 } : State).modPath c.gk c.pid (fun p =>
    { p.leave c.now (.waiting (.send id)) with ilen := c.len, ipc := c.p.pc, back := c.restart c.s })

/-- A send instruction; `stops` gives the consumers it reaches. -/
def sendOp (i : Instr) (ch : BitVec 6) (stops : Ctx → ChanRec → List Nat) : State → Host.Outcome State Fault Refusal :=
  perform i noDetail noPriv (fun c =>
    if !c.actsOnce then c.advance c.s
    else
      let ea := c.addr c.o.a c.lead
      let n := c.val c.o.b 1 c.lead
      match c.launch.chanRec ch.toNat with
      | none => c.trap ⟨.prot, ea⟩
      | some r =>
        if !c.isProducer r then c.trap ⟨.prot, ea⟩
        else if (c.launch.chanOf ch.toNat).broken then c.trap ⟨.chanBroken, ch.toNat⟩
        else if n = 0 || n > r.size || !c.ownRange ea n then c.trap ⟨.prot, ea⟩
        else if c.g.fenceHolds setW then c.wait (.fenced setW)
        else
          let (id, s) := c.s.fresh
          let q : SendReq := { gk := c.gk, pid := c.pid, launch := c.g.launch, ch := ch.toNat, ofs := ea, len := n, cons := stops c r }
          if s.canSend id q then c.advance (s.inject id q)
          else c.sendLater id q)

def execSend (ch : BitVec 6) (o : Ops) : State → Host.Outcome State Fault Refusal :=
  sendOp (.send ch o) ch (fun _ r => List.range r.cons.length)

def execSendr (ch : BitVec 6) (o : Ops) : State → Host.Outcome State Fault Refusal :=
  sendOp (.sendr ch o) ch (fun c r => (c.s.stopsOf c.g.launch r c.core (BitVec.ofNat 24 (imm64 o.imm))).take 1)

def execMcst (ch : BitVec 6) (o : Ops) : State → Host.Outcome State Fault Refusal :=
  sendOp (.mcst ch o) ch (fun c r => (c.s.stopsOf c.g.launch r c.core (BitVec.ofNat 24 (imm64 o.imm))).eraseDups)

/-! ### Receives (R214) -/

/-- The oldest filled slot taken by a group: its bytes in scratch, its count in sD, its allowance on the way back; none where the range is refused. -/
def State.takeSlot (s : State) (gk lid ch k : Nat) (dst : Sel) (ea : Nat) : Option State :=
  let l := s.launch lid
  let x := l.chanOf ch
  match listGet [] x.filled k with
  | [] => none
  | data :: rest =>
    if ea ≥ 2 ^ 20 || ea + data.bytes.length > l.scratch then none
    else
      let s := s.setChan lid ch { x with filled := listSet x.filled k rest }
      let s := s.writeData (scratchLocs l.banks (coreOf gk) ea data.bytes.length) data
      let (n, s) := s.fresh
      some (({ s with returns := mset s.returns n (lid, ch, k) }).setUniform gk dst 1 data.bytes.length)

/-- RECV and RECV.TRY (log 45, DEDUCED). -/
def recvOp (i : Instr) (ch : BitVec 6) (waits : Bool) : State → Host.Outcome State Fault Refusal :=
  perform i noDetail noPriv (fun c =>
    if !c.actsOnce then c.advance c.s
    else
      let ea := c.addr c.o.a c.lead
      match (c.launch.chanRec ch.toNat).bind c.consumes with
      | none => c.trap ⟨.prot, ea⟩
      | some k =>
        if (c.launch.chanOf ch.toNat).broken then c.trap ⟨.chanBroken, ch.toNat⟩
        else if !c.ownRange ea 1 then c.trap ⟨.prot, ea⟩
        else if c.g.fenceHolds setR then c.wait (.fenced setR)
        else if (listGet [] (c.launch.chanOf ch.toNat).filled k).isEmpty then
          (if waits then c.block { c.s with nextId := c.s.nextId + 1 } (.recv c.s.nextId ch.toNat c.o.d ea) else c.advance (c.s.setUniform c.gk c.o.d 1 0))
        else
          match c.s.takeSlot c.gk c.g.launch ch.toNat k c.o.d ea with
          | some s => c.advance s
          | none => c.trap ⟨.prot, ea⟩)

def execRecv (ch : BitVec 6) (o : Ops) : State → Host.Outcome State Fault Refusal := recvOp (.recv ch o) ch true
def execRecvTry (ch : BitVec 6) (o : Ops) : State → Host.Outcome State Fault Refusal := recvOp (.recvTry ch o) ch false

/-! ### Queries (R214) -/

def chq (i : Instr) (ch : BitVec 6) (f : Ctx → ChanRec → Chan → Option Nat) : State → Host.Outcome State Fault Refusal :=
  perform i noDetail noPriv (fun c =>
    if !c.actsOnce then c.advance c.s
    else
      match c.launch.chanRec ch.toNat with
      | none => c.trap ⟨.prot, 0⟩
      | some r =>
        if !c.isProducer r && (c.consumes r).isNone then c.trap ⟨.prot, 0⟩
        else
          let x := c.launch.chanOf ch.toNat
          if x.broken then c.trap ⟨.chanBroken, ch.toNat⟩
          else
            match f c r x with
            | some v => c.advance (c.s.setUniform c.gk c.o.d 1 v)
            | none => c.trap ⟨.prot, 0⟩)

def execChqFree (ch : BitVec 6) (o : Ops) : State → Host.Outcome State Fault Refusal :=
  chq (.chqFree ch o) ch (fun _ _ x => some ((x.allow.min?).getD 0))

def execChqFilled (ch : BitVec 6) (o : Ops) : State → Host.Outcome State Fault Refusal :=
  chq (.chqFilled ch o) ch (fun c r x => (c.consumes r).map (fun k => (listGet [] x.filled k).length))

/-! ### Events -/

/-- The path that issued a send is on its core, where the data lies: its team is not saved. -/
def State.sendWaits (s : State) (id : Nat) (r : SendReq) : Bool :=
  match mget? s.groups r.gk with
  | none => false
  | some g => match mget? g.paths r.pid with | some p => p.st == .waiting (.send id) && g.runs r.pid | none => false

/-- A send that has waited is complete: its issue counts, its chain is over, and the path goes on after it. -/
def State.sendDone (s : State) (r : SendReq) : State :=
  let now := s.coreCycle (coreOf r.gk)
  let pc := s.pcOf r.gk r.pid
  let s := (s.endChain r.gk r.pid).modGroup r.gk (fun g => g.issued now r.pid pc g.handler.isSome)
  let s := s.modPath r.gk r.pid (fun p => { (p.issued now p.ilen pc false).pass with st := .ready, since := now })
  s.watchdogDue r.gk

/-- SEND_INJECT (R213). -/
def execSendInject (id : Key) (s : State) : Host.Outcome State Fault Refusal :=
  .next
    (match mget? s.sends id with
     | none => s
     | some r => if s.canSend id r && s.sendWaits id r then (s.inject id r).sendDone r else s)

/-- The paths of a consumer team that wait in RECV on a channel, in the order they issued it. -/
def State.receivers (s : State) (lid clid t ch : Nat) : List (Nat × Nat × Nat × Sel × Nat) :=
  (s.groups.filter (fun x => match (s.core (coreOf x.1)).team with
    | some m => m.launch == lid && m.clid == clid && m.idx == t && !x.2.dead
    | none => false)).flatMap (fun x =>
      x.2.paths.filterMap (fun y => match y.2.st with | .blocked (.recv n c d ea) => if c = ch then some (n, x.1, y.1, d, ea) else none | _ => none))

/-- Waiting RECVs take filled slots: one whose range is refused traps, and the next takes the slot. -/
def State.serveRecv (lid ch k clid t : Nat) : Nat → State → State
  | 0, s => s
  | n + 1, s =>
    if (listGet [] ((s.launch lid).chanOf ch).filled k).isEmpty then s
    else
      match minBy? (fun x => x.1) (s.receivers lid clid t ch) with
      | none => s
      | some (_, gk, pid, d, ea) =>
        match s.takeSlot gk lid ch k d ea with
        | some s => State.serveRecv lid ch k clid t n (s.release gk pid)
        | none => State.serveRecv lid ch k clid t n (s.trapWait gk pid ⟨.prot, ea⟩)

/-- CHANNEL_PACKET_ARRIVE (R213): a slot fills, and a waiting RECV takes it. Packets of a channel reach a consumer in acceptance order (R289). -/
def execChannelPacketArrive (id : Key) (s : State) : Host.Outcome State Fault Refusal :=
  .next
    (match mget? s.packets id with
     | none => s
     | some p =>
       if s.packets.any (fun x => decide (x.1 < id) && x.2.launch == p.launch && x.2.ch == p.ch && x.2.con == p.con) then s
       else
         let s := { s with packets := merase s.packets id }
         let l := s.launch p.launch
         match l.chanRec p.ch with
         | none => s
         | some r =>
           let x := l.chanOf p.ch
           if x.broken then s
           else
             let s := s.setChan p.launch p.ch { x with filled := listSet x.filled p.con (listGet [] x.filled p.con ++ [p.data]) }
             let c := listGet (0, 0) r.cons p.con
             State.serveRecv p.launch p.ch p.con c.1 c.2 64 s)

/-- ALLOWANCE_RETURN (R214). -/
def execAllowanceReturn (id : Key) (s : State) : Host.Outcome State Fault Refusal :=
  .next
    (match mget? s.returns id with
     | none => s
     | some (lid, ch, k) =>
       let s := { s with returns := merase s.returns id }
       if (mget? s.launches lid).isNone then s
       else
         let x := (s.launch lid).chanOf ch
         s.setChan lid ch { x with allow := listSet x.allow k (listGet 0 x.allow k + 1) })

end Sys2Proof.Machine
end

