-- ==== Sys2Proof/Machine/Control.lean ====
section
/-! DEFINITION. The control instructions (R125 to R146): branches, loops, rejoining, yield, exit, traps, votes, fuse and split, register growth, gangs. -/

namespace Sys2Proof.Machine

/-- The signed byte offset of a control instruction added to its PC (R129). -/
def Ctx.target (c : Ctx) : Pc := c.p.pc + (BitVec.ofNat 32 (imm32 c.o.imm)).signExtend 56

/-- A 64-bit target in a register pair is no PC: detail 10 (R129). -/
def badTarget (t : Nat) : Bool := t % 4 != 0 || t ≥ 2 ^ 56

/-! ### Loop stacks (R128, R131) -/

def Loop.inBody (e : Loop) (x : Pc) : Bool := e.start.toNat ≤ x.toNat && x.toNat ≤ e.start.toNat + e.endofs.toNat

/-- The stack, top first, unwound for a transfer; none where it enters a body other than at its start (R128). -/
def unwindTop : List Loop → Pc → Pc → Option (List Loop)
  | [], _, _ => some []
  | e :: l, src, t =>
    if e.inBody src && !e.inBody t then unwindTop l src t
    else if !e.inBody src && e.inBody t && t != e.start then none
    else some (e :: l)

def unwind (loops : List Loop) (src t : Pc) : Option (List Loop) := (unwindTop loops.reverse src t).map List.reverse

/-- The path continues at `t` with its loop stack unwound (log 48, DEDUCED). -/
def Ctx.branch (c : Ctx) (t : Pc) : State :=
  match unwind c.p.loops c.p.pc t with
  | none => c.ill 10
  | some l => (c.jump c.s t).modPath c.gk c.pid (fun p => { p with loops := l })

def unwindBad (c : Ctx) (t : Pc) : Option Nat := if (unwind c.p.loops c.p.pc t).isNone then some 10 else none

/-! ### New paths (R129, R130, R256) -/

def PState.isParked : PState → Bool
  | .parked _ => true
  | _ => false

def PState.isBlocked : PState → Bool
  | .blocked _ => true
  | .held => true
  | _ => false

/-- The path of least index in the table among those that meet a test. -/
def Group.lowest (g : Group) (f : Path → Bool) : Option (Nat × Nat) :=
  (minBy? (·.1) (g.paths.filterMap (fun x => match x.2.entry with | some e => if f x.2 then some (e, x.1) else none | none => none)))

/-- A new path joins the group: in the lowest free entry, or in one that a spilled path leaves, or spilled itself (R256). -/
def State.addPath (s : State) (gk : Nat) (p : Path) : State :=
  match mget? s.groups gk with
  | none => s
  | some g =>
    let pid := g.nextPid
    let put := fun (s : State) (e : Option Nat) =>
      s.modGroup gk (fun g => { g with paths := mset g.paths pid { p with entry := e }, nextPid := pid + 1 })
    match g.freeEntry with
    | some e => put s (some e)
    | none =>
      match (g.lowest (fun p => p.st.isParked)).or (g.lowest (fun p => p.st.isBlocked)) with
      | some (e, v) => put ((s.pathEvent gk v 0x8003 e 0).modPath gk v (fun p => { p with entry := none })) (some e)
      | none =>
        let s := put s none
        s.pathEvent gk pid 0x8003 (Config.newPathIndex s.tick) 0

/-! ### Branches (R127, R129) -/

def execNop (o : Ops) : State → Host.Outcome State Fault Refusal := perform (.nop o) noDetail noPriv (fun c => c.advance c.s)

def execBra (o : Ops) : State → Host.Outcome State Fault Refusal :=
  perform (.bra o) (fun c => unwindBad c c.target) noPriv (fun c => c.branch c.target)

/-- The split of BRP: a new path takes the lanes that branch. -/
def Ctx.splitPath (c : Ctx) (taken : Mask) : State :=
  match unwind c.p.loops c.p.pc c.target with
  | none => c.ill 10
  | some l =>
    if c.g.paths.length ≥ 8 + c.g.spill then c.trap ⟨.pathOverflow, c.g.paths.length⟩
    else
      let s := (c.advance c.s).modPath c.gk c.pid (fun p => { p with mask := c.p.mask &&& ~~~taken })
      s.addPath c.gk
        { entry := none, mask := taken, pc := c.target, fmt := c.p.fmt, loops := l, st := .ready, stamp := c.now, since := c.now, idle := 0,
          boosted := false, ilen := 0, ipc := 0, back := none, lastCh := false, noCut := none, hold := false }

def execBrp (o : Ops) : State → Host.Outcome State Fault Refusal :=
  perform (.brp o) (fun c => if c.acts = 0 then none else unwindBad c c.target) noPriv (fun c =>
    if c.acts = 0 then c.advance c.s
    else if c.acts = c.p.mask then c.branch c.target
    else c.splitPath c.acts)

def execBrx (o : Ops) : State → Host.Outcome State Fault Refusal :=
  perform (.brx o)
    (fun c => if badTarget (c.val o.a 2 0) then some 10 else unwindBad c (BitVec.ofNat 56 (c.val o.a 2 0))) noPriv
    (fun c => c.branch (BitVec.ofNat 56 (c.val o.a 2 0)))

def execCall (o : Ops) : State → Host.Outcome State Fault Refusal :=
  perform (.call o) noDetail noPriv (fun c => c.jump (c.s.setUniform c.gk o.d 2 (c.p.pc + 12).toNat) c.target)

def execRet (o : Ops) : State → Host.Outcome State Fault Refusal :=
  perform (.ret o) (fun c => if badTarget (c.val o.a 2 0) then some 10 else none) noPriv (fun c => c.jump c.s (BitVec.ofNat 56 (c.val o.a 2 0)))

/-! ### Loops (R131, R132) -/

/-- LOOP with a count of zero: the successor is found from the length of the 8 bytes read at PC + IMM32 (R131). -/
def Ctx.skipLoop (c : Ctx) : State :=
  let a := c.p.pc + BitVec.ofNat 56 (imm32 c.o.imm)
  match c.s.rangeAll c.q c.part c.asid c.sys .fetch a.toNat 8 with
  | (.error l, s) => c.rangeBad s 3 a.toNat l
  | (.ok ls, s) =>
    if s.poisonedLocs ls then { c with s := s }.trap ⟨.mchk, a.toNat⟩
    else
      match Len.ofCode (leNat (s.readLocs ls) % 4) with
      | none => { c with s := s }.ill 10
      | some l => c.jump s (a + BitVec.ofNat 56 l.bytes)

/-- A distance to a loop body's last instruction that LOOP refuses: read as the signed offset that R102 gives it, below 12 or no multiple of 4 (log 88, DEDUCED). -/
def loopBad (imm : Nat) : Bool := decide (sext imm 32 < 12) || imm % 4 != 0

def execLoop (o : Ops) : State → Host.Outcome State Fault Refusal :=
  perform (.loop o)
    (fun c => if loopBad (imm32 o.imm) || c.p.loops.length ≥ 4 then some 10 else none) noPriv
    (fun c =>
      let n := c.val o.a 1 0 % 2 ^ 24
      if n = 0 then c.skipLoop
      else
        (c.jump c.s (c.p.pc + 12)).modPath c.gk c.pid (fun p =>
          { p with loops := p.loops ++ [{ start := c.p.pc + 12, endofs := BitVec.ofNat 32 (imm32 o.imm - 12), count := BitVec.ofNat 24 n }] }))

/-- See log 48, DEDUCED. -/
def execLoopx (o : Ops) : State → Host.Outcome State Fault Refusal :=
  perform (.loopx o) (fun c => if c.p.loops.isEmpty then some 10 else none) noPriv
    (fun c => (c.jump c.s (c.p.pc + 8)).modPath c.gk c.pid (fun p => { p with loops := p.loops.dropLast }))

/-! ### Rejoining (R134 to R137) -/

def Group.setRej (g : Group) (k : Nat) (j : Rejoin) : Group := { g with rejoin := if j = Rejoin.idle then merase g.rejoin k else mset g.rejoin k j }

/-- JARM's expected mask: the pair named, or the path's mask. -/
def Ctx.expected (c : Ctx) : Mask := if c.o.a.isZero then c.p.mask else BitVec.ofNat 64 (c.val c.o.a 2 0)

def execJarm (k : BitVec 3) (o : Ops) : State → Host.Outcome State Fault Refusal :=
  perform (.jarm k o)
    (fun c =>
      let j := c.g.rej k.toNat
      if (j.armed && j.arrived != 0) || c.expected = 0 || c.expected &&& ~~~fullMask c.g.width != 0 then some 10 else none) noPriv
    (fun c => c.jump
      (c.s.modGroup c.gk (fun g => g.setRej k.toNat
        { jpc := c.target, armed := true, lost := false, expected := c.expected, arrived := 0, fmt := c.p.fmt, stack := c.p.loops })) (c.p.pc + 12))

/-- Paths parked on a rejoin register. -/
def Group.parkedOn (g : Group) (k : Nat) : List (Nat × Path) := g.paths.filter (fun x => x.2.st == .parked k)

/-- The paths parked on a register released unmerged at JPC + 8 (R136, R137). -/
def State.releaseJoin (s : State) (gk k : Nat) (lost : Bool) : State :=
  let now := s.coreCycle (coreOf gk)
  s.modGroup gk (fun g =>
    let j := g.rej k
    { g.setRej k { j with armed := false, lost := j.lost || lost } with
      paths := g.paths.map (fun x => (x.1, if x.2.st == .parked k then { x.2.wake now true with pc := j.jpc + 8, lastCh := false } else x.2)) })

/-- The check after every EXIT and every park (R136): where every path is parked, the lowest short armed register that holds paths releases them (log 82, DEDUCED). -/
def State.lostCheck (s : State) (gk : Nat) : State :=
  match mget? s.groups gk with
  | none => s
  | some g =>
    if g.paths.isEmpty || !(g.paths.all (fun x => x.2.st.isParked)) then s
    else
      match (List.range 8).find? (fun k => (g.rej k).armed && (g.rej k).arrived != (g.rej k).expected && !(g.parkedOn k).isEmpty) with
      | none => s
      | some k =>
        let pid := match minBy? (fun x => x.2.entry.getD 8) (g.parkedOn k) with | some x => x.1 | none => 0
        let s := s.pathEvent gk pid 0x8001 k 0
        let q := s.quarter (quarterOf gk)
        (s.setQuarter (quarterOf gk) { q with lost := q.lost + 1 }).releaseJoin gk k true

/-- All paths parked on a register merge into one (R135), which takes the lowest table index among them; a hold of any of them holds it (R429). -/
def State.mergeJoin (s : State) (gk pid k : Nat) (pc : Pc) : State :=
  let now := s.coreCycle (coreOf gk)
  s.modGroup gk (fun g =>
    let j := g.rej k
    let e := (((g.parkedOn k).filterMap (fun x => x.2.entry)).min?)
    let held := (g.parkedOn k).any (fun x => x.2.hold)
    let m := match mget? g.paths pid with
      | some p => some { ({ p with hold := p.hold || held } : Path).wake now true with entry := e, mask := j.expected, pc := pc + 8, fmt := j.fmt, loops := j.stack, lastCh := false }
      | none => none
    let rest := g.paths.filter (fun x => !(x.2.st == .parked k))
    { g.setRej k { j with armed := false } with paths := match m with | some p => mset rest pid p | none => rest })

def execJoin (k : BitVec 3) (o : Ops) : State → Host.Outcome State Fault Refusal :=
  perform (.join k o)
    (fun c =>
      let j := c.g.rej k.toNat
      if j.armed && (c.p.pc != j.jpc || c.p.mask &&& ~~~j.expected != 0) then some 10 else none) noPriv
    (fun c =>
      let j := c.g.rej k.toNat
      if !j.armed then c.jump c.s (c.p.pc + 8)
      else
        let a := j.arrived ||| c.p.mask
        let s := ((c.issued c.s).interrupt c.gk c.pid).modGroup c.gk (fun g =>
          (g.setRej k.toNat { j with arrived := a }).modPath c.pid (fun p => p.leave c.now (.parked k.toNat)))
        if a = j.expected then s.mergeJoin c.gk c.pid k.toNat c.p.pc else s.lostCheck c.gk)

def execJdrop (k : BitVec 3) (o : Ops) : State → Host.Outcome State Fault Refusal :=
  perform (.jdrop k o) noDetail noPriv (fun c =>
    let s := c.jump c.s (c.p.pc + 8)
    if (c.g.rej k.toNat).armed then s.releaseJoin c.gk k.toNat false else s)

/-! ### Yield, tile boundaries, exit (R138, R139, R354) -/

/-- A path of a group that stops for pre-emption: a waiting instruction is withdrawn and issues anew on restore (R264, R266, R356); a STEP and a peer access
already under way are not, nor is the ILL that the end of a gang has left (R266). -/
def Path.withdrawn (p : Path) (now : Nat) : Path :=
  match p.st with
  | .waiting _ => p.wake now false
  | .blocked (.step _ _ _) => p
  | .blocked (.peer _) => p
  | .blocked .gangLost => p
  | .blocked _ => p.wake now false
  | _ => p

/-- A DFLUSH that is not performed goes with its group. -/
def Access.flushes (a : Access) (gk : Nat) : Bool := a.gk == gk && (match a.op with | .dflush _ => true | _ => false)

/-- A group stops for pre-emption (R354): a chain in progress returns to its head, and what its paths wait for is withdrawn. -/
def State.preStop (s : State) (gk : Nat) : State :=
  let pids : List Nat := ((mget? s.groups gk).map (fun (g : Group) => mkeys g.paths (fun _ _ => true))).getD []
  let s : State := pids.foldl (fun s pid => s.cutChain gk pid) s
  let q := s.quarter (quarterOf gk)
  let round := match q.round with
    | some r => (let m := r.members.filter (fun x => x.1 != gk); if m.isEmpty then none else some { r with members := m })
    | none => none
  let s := s.setQuarter (quarterOf gk) { q with growq := q.growq.filter (fun r => r.gk != gk), round := round }
  let now := s.coreCycle (coreOf gk)
  let s := (s.modGroup gk (fun g => g.halt now)).modGroup gk (fun g =>
    { g with stopped := true, wdDue := false, paths := g.paths.map (fun x => (x.1, x.2.withdrawn now)) })
  { s with
    sends := s.sends.filter (fun r => r.2.gk != gk)
    barReqs := s.barReqs.filter (fun b => b.2.gk != gk)
    launchReqs := s.launchReqs.filter (fun b => b.2.gk != gk)
    accesses := s.accesses.filter (fun a => !a.2.flushes gk) }

/-- A pending pre-emption of the group's team is honoured: the group stops (R138, R354). -/
def State.honour (s : State) (gk : Nat) : State :=
  match (s.core (coreOf gk)).team with
  | some t => if t.preempt.isSome then s.preStop gk else s
  | none => s

def execYield (o : Ops) : State → Host.Outcome State Fault Refusal :=
  perform (.yield o) noDetail noPriv (fun c =>
    let s := c.jump c.s (c.p.pc + 8)
    ((s.modPath c.gk c.pid (fun p => { p with stamp := c.now })).modGroup c.gk (fun g => { g with watchdog := 0 })).honour c.gk)

def execTileb (o : Ops) : State → Host.Outcome State Fault Refusal :=
  perform (.tileb o) noDetail noPriv (fun c => (c.jump c.s (c.p.pc + 8)).honour c.gk)

/-- The group has no lane left: its allocation returns to the quarter, and its slot once the loads it still waits for have come back; its tasks return (R139,
R399). -/
def State.retire (s : State) (gk : Nat) : State :=
  let s := ((s.returnTasks gk).gangEnd gk).orphan gk
  let s := { s with groups := merase s.groups gk }
  let q := s.quarter (quarterOf gk)
  (s.setQuarter (quarterOf gk) { q with growq := q.growq.filter (fun r => r.gk != gk) }).teamCheck (coreOf gk)

def execExit (o : Ops) : State → Host.Outcome State Fault Refusal :=
  perform (.exit o) noDetail noPriv (fun c =>
    let s := (c.issued c.s).modGroup c.gk (fun g => { g with paths := merase g.paths c.pid, live := g.live &&& ~~~c.p.mask })
    match mget? s.groups c.gk with
    | none => s
    | some g => if g.paths.isEmpty then s.retire c.gk else s.lostCheck c.gk)

/-! ### Traps and breakpoints (R138, R140, R351, R359) -/

def execTrap (n : Byte) (o : Ops) : State → Host.Outcome State Fault Refusal :=
  perform (.trap n o) noDetail noPriv (fun c => (c.issued c.s).trapAt c.gk c.pid ⟨.swtrap, n.toNat⟩ c.p.pc (c.p.pc + 8))

def execBkpt (n : Byte) (o : Ops) : State → Host.Outcome State Fault Refusal :=
  perform (.bkpt n o) noDetail noPriv (fun c =>
    if (c.s.pdie c.part c.die).bkhold then
      ((c.jump c.s (c.p.pc + 8)).endChain c.gk c.pid).modPath c.gk c.pid (fun p => { p.leave c.now .held with lastCh := false })
    else (c.issued c.s).trapAt c.gk c.pid ⟨.bkpt, n.toNat⟩ c.p.pc c.p.pc)

/-- A group ended by a refused frame (R352) (log 33, DEDUCED). -/
def Ctx.refuseFrame (c : Ctx) (s : State) : State :=
  ((s.stopGroup c.gk c.pid 8 3 c.p.pc 0).gangEnd c.gk).teamCheck c.core

/-- ERET's restore of the frame read from the group's slot (R140, R352, R263). -/
def Ctx.resume (c : Ctx) (s : State) (bs : List Byte) : State :=
  match frameOf c.g.width (leNat bs) c.p with
  | none => c.refuseFrame s
  | some (p, rj, dz) =>
    (c.issued s).modGroup c.gk (fun g =>
      { g with
        paths := mset (g.go c.now).paths c.pid { p with since := c.now, idle := 0, boosted := false }
        rejoin := rj
        dz := dz
        handler := none
        watchdog := 0
        wdDue := false
        unfinished := g.unfinished.filter (fun u => !(u.1 == c.pid && u.2.resume != p.pc)) })

def execEret (o : Ops) : State → Host.Outcome State Fault Refusal :=
  perform (.eret o) noDetail (fun c => c.g.handler.isNone) (fun c =>
    match c.s.range c.q c.part c.asid true .load (c.s.saveBase c.core + 0x1000 + 1024 * c.g.rank) 896 with
    | (.ok ls, s) => if s.poisonedLocs ls then { c with s := s }.trap ⟨.mchk, c.s.saveBase c.core + 0x1000 + 1024 * c.g.rank⟩ else c.resume s (s.readLocs ls)
    | (.error _, s) => c.refuseFrame s)

/-! ### Votes and path queries (R141) -/

/-- The predicate A in the path's active lanes. -/
def Ctx.voters (c : Ctx) : Mask := maskFilter c.p.mask (fun i => c.val c.o.a 1 i == 1)

def execVoteAll (o : Ops) : State → Host.Outcome State Fault Refusal :=
  perform (.voteAll o) noDetail noPriv (fun c => c.advance (c.writePred o.d (lanes c.p.mask) (fun _ => c.voters = c.p.mask)))

def execVoteAny (o : Ops) : State → Host.Outcome State Fault Refusal :=
  perform (.voteAny o) noDetail noPriv (fun c => c.advance (c.writePred o.d (lanes c.p.mask) (fun _ => c.voters ≠ 0)))

/-- An odd uniform register. -/
def Sel.oddUni : Sel → Bool
  | .s n => n.toNat % 2 == 1
  | _ => false

def execVoteBallot (o : Ops) : State → Host.Outcome State Fault Refusal :=
  perform (.voteBallot o) (fun c => if c.g.width = 64 && Sel.oddUni o.d then some 4 else none) noPriv
    (fun c => c.advance (c.s.setUniform c.gk o.d (if c.g.width = 64 then 2 else 1) c.voters.toNat))

def execPathqLive (o : Ops) : State → Host.Outcome State Fault Refusal :=
  perform (.pathqLive o) noDetail noPriv (fun c => c.advance (c.s.setUniform c.gk o.d 1 c.g.paths.length))

def execPathqMlo (o : Ops) : State → Host.Outcome State Fault Refusal :=
  perform (.pathqMlo o) noDetail noPriv (fun c => c.advance (c.s.setUniform c.gk o.d 1 (c.p.mask.toNat % 2 ^ 32)))

def execPathqMhi (o : Ops) : State → Host.Outcome State Fault Refusal :=
  perform (.pathqMhi o) noDetail noPriv (fun c => c.advance (c.s.setUniform c.gk o.d 1 (c.p.mask.toNat / 2 ^ 32)))

/-! ### Fuse and split (R142, R143) -/

/-- More than one live path, an exited lane, an armed rejoin register, or a place in %gang (R142, R143). -/
def State.notWhole (s : State) (gk : Nat) (g : Group) : Bool :=
  g.paths.length != 1 || g.live != fullMask g.width || (List.range 8).any (fun k => (g.rej k).armed)
  || (gangSlots (s.quarter (quarterOf gk)).gang).contains (gk % 16)

/-- The group's single path waits in a FUSE: the slot it names. -/
def Group.fusing (g : Group) : Option Nat :=
  (g.paths.filterMap (fun x => match x.2.st with | .blocked (.fuse h) => some h | _ => none)).head?

/-- What makes a FUSE that names slot `h` raise ILL (R142); the conditions on both groups are tested when the second FUSE issues (log 31, DEDUCED). -/
def Ctx.fuseBad (c : Ctx) (h : Nat) : Bool :=
  let k := c.q * 16 + h
  h ≥ 16 || k == c.gk || c.g.width = 64 || c.s.notWhole c.gk c.g ||
  (match mget? c.s.groups k with
   | none => true
   | some g =>
     g.launch != c.g.launch || g.dead ||
     (match g.fusing, g.paths with
      | some h', [(_, p)] =>
        h' != c.gk % 16 || g.width != c.g.width || g.blocks != c.g.blocks || c.s.notWhole k g || p.pc != c.p.pc || p.fmt != c.p.fmt || p.loops != c.p.loops
      | _, _ => false))

/-- The lanes of a register file below `w`. -/
def lowLanes (m : Map W32) (w : Nat) : Map W32 := m.filter (fun x => decide (x.1 % 64 < w))

/-- The vector registers of two groups of `w` lanes, the second's lanes above the first's. -/
def joinLanes (a b : Map W32) (w : Nat) : Map W32 := ((lowLanes b w).map (·.1)).foldl (fun m k => zset m (k + w) (zget b k)) (lowLanes a w)

/-- The fused group: the survivor with the other's lanes above its own (R142, R130, R399). What R142 does not list stays the survivor's: its DZ bit and its
%cycle capture (log 102, DESIGN CHOICE). -/
def fused (a b : Group) : Group :=
  let w := a.width
  { a with
    width := 2 * w
    live := fullMask (2 * w)
    v := joinLanes a.v b.v w
    p := (List.range 7).foldl (fun m k => zset m k ((zget a.p k &&& fullMask w) ||| ((zget b.p k &&& fullMask w) <<< w))) []
    spill := a.spill + b.spill
    tasks := a.tasks ++ b.tasks }

/-- Both FUSEs complete at once: the group of the lower slot survives, and with it what the other has in flight in its name (R142) (log 102, DESIGN CHOICE). -/
def State.doFuse (s : State) (a b : Nat) : State :=
  let lo := min a b
  let hi := max a b
  match mget? s.groups lo, mget? s.groups hi with
  | some g, some h =>
    let now := s.coreCycle (coreOf lo)
    let g' := fused g h
    let g' := { g' with paths := g'.paths.map (fun x => (x.1, { x.2.wake now true with mask := fullMask g'.width, pc := x.2.pc + 8 })) }
    { s with
      groups := merase (mset s.groups lo g') hi
      accesses := s.accesses.map (fun a => (a.1, if a.2.gk = hi then { a.2 with gk := lo } else a.2))
      loads := s.loads.map (fun l => (l.1, if l.2.gk = hi then { l.2 with gk := lo } else l.2)) }
  | _, _ => s

def execFuse (o : Ops) : State → Host.Outcome State Fault Refusal :=
  perform (.fuse o) (fun c => if c.fuseBad (c.val o.a 1 0) then some 10 else none) noPriv (fun c =>
    let h := c.val o.a 1 0
    if !c.g.pending.isEmpty then c.wait (.regs (c.g.pending.map (·.reg)))
    else
      match mget? c.s.groups (c.q * 16 + h) with
      | some g => if g.fusing = some (c.gk % 16) then (c.issued c.s).doFuse c.gk (c.q * 16 + h) else c.block c.s (.fuse h)
      | none => c.s)

/-- A slot holds no group, and no load of the group that retired from it has still to come back (R139). -/
def State.slotFree (s : State) (gk : Nat) : Bool := (mget? s.groups gk).isNone && !s.loads.any (fun l => l.2.gk == gk && !l.2.nwb)

/-- The quarter's lowest free slot. -/
def State.freeSlot (s : State) (q : Nat) : Option Nat := (List.range 16).find? (fun k => s.slotFree (q * 16 + k))

/-- The lanes of a register file at and above `w`, moved down. -/
def upperLanes (m : Map W32) (w : Nat) : Map W32 := (m.filter (fun x => decide (x.1 % 64 ≥ w))).map (fun x => (x.1 - w, x.2))

/-- The upper half of a split group (R143, R130); its DZ bit, which R143 does not list, is 0 (log 32, DESIGN CHOICE). -/
def upperHalf (g : Group) : Group :=
  let w := g.width / 2
  { g with
    width := w
    live := fullMask w
    v := upperLanes g.v w
    p := (List.range 7).foldl (fun m k => zset m k (zget g.p k >>> w)) []
    a := g.a.map (fun x => (x.1, { x.2 with base := BitVec.ofNat 64 (x.2.at w) }))
    ofs := g.ofs + BitVec.ofNat 32 w
    spill := w - 8
    dz := false, cycap := 0, watchdog := 0, wdDue := false, tasks := [], unfinished := [] }

/-- The half that keeps the slot. -/
def lowerHalf (g : Group) : Group :=
  let w := g.width / 2
  { g with
    width := w
    live := fullMask w
    v := lowLanes g.v w
    p := (List.range 7).foldl (fun m k => zset m k (zget g.p k &&& fullMask w)) []
    spill := w - 8 }

/-- SPLIT waits for the group's pending register writes; accesses in flight stay with the group that keeps the slot (R143) (log 103, DESIGN CHOICE). -/
def execSplit (o : Ops) : State → Host.Outcome State Fault Refusal :=
  perform (.split o) (fun c => if c.g.width = 8 || c.s.notWhole c.gk c.g || (c.s.freeSlot c.q).isNone then some 10 else none) noPriv (fun c =>
    if !c.g.pending.isEmpty then c.wait (.regs (c.g.pending.map (·.reg)))
    else
      let s := (c.jump c.s (c.p.pc + 8))
      match mget? s.groups c.gk, s.freeSlot c.q with
      | some g, some k =>
        let half := fun (g : Group) => { g with paths := g.paths.map (fun x => (x.1, { x.2 with mask := fullMask (c.g.width / 2) })) }
        let new := half (upperHalf g)
        let new := { new with paths := new.paths.map (fun x => (x.1, { x.2.wake c.now true with lastCh := false, noCut := none, hold := false })) }
        { s with groups := mset (mset s.groups c.gk (half (lowerHalf g))) (c.q * 16 + k) new }
      | _, _ => s)

/-! ### Register growth (R32, R33, R144, R145) -/

/-- Lane-blocks of a quarter that no group holds (R33). -/
def State.freeBlocks (s : State) (q : Nat) : Nat :=
  4096 - ((s.groups.filter (fun x => quarterOf x.1 == q)).map (fun x => x.2.width * x.2.blocks)).sum

/-- `n` more blocks, whose registers read zero. -/
def Group.grow (g : Group) (n : Nat) : Group := { g with blocks := g.blocks + n }

def Ctx.growFits (c : Ctx) (n : Nat) : Bool := c.quarter.growq.isEmpty && c.g.width * n ≤ c.s.freeBlocks c.q

def execGrow (n : BitVec 5) (o : Ops) : State → Host.Outcome State Fault Refusal :=
  perform (.grow n o) noDetail noPriv (fun c =>
    let n := n.toNat
    if c.g.blocks + n > 32 then c.trap ⟨.regRange, 8 * (c.g.blocks + n) - 1⟩
    else if c.growFits n then c.jump (c.s.modGroup c.gk (fun g => g.grow n)) (c.p.pc + 8)
    else
      let s := c.block c.s (.grow n)
      let q := s.quarter c.q
      s.setQuarter c.q { q with growq := q.growq ++ [{ gk := c.gk, pid := c.pid, n := n }] })

def execGrowNb (n : BitVec 5) (o : Ops) : State → Host.Outcome State Fault Refusal :=
  perform (.growNb n o) noDetail noPriv (fun c =>
    let n := n.toNat
    if c.g.blocks + n > 32 then c.trap ⟨.regRange, 8 * (c.g.blocks + n) - 1⟩
    else
      let ok := c.growFits n
      let s := c.writePred o.d (lanes c.p.mask) (fun _ => ok)
      c.jump (if ok then s.modGroup c.gk (fun g => g.grow n) else s) (c.p.pc + 8))

/-- The top `n` blocks removed with their contents. -/
def Group.shrink (g : Group) (n : Nat) : Group :=
  { g with blocks := g.blocks - n, v := g.v.filter (fun x => decide (x.1 / 64 < 8 * (g.blocks - n))) }

/-- A load in flight writes none of the registers from `top` up, which have left the allocation (R32). -/
def LoadI.cut (l : LoadI) (top : Nat) : LoadI :=
  match l.dst with
  | .v n => if n == 255 then l else { l with words := min l.words (top - n.toNat) }
  | _ => l

/-- The group's registers from `top` up are gone, and with them what loads have still to write to them. -/
def State.cutLoads (s : State) (gk top : Nat) : State :=
  ({ s with loads := s.loads.map (fun l => (l.1, if l.2.gk == gk then l.2.cut top else l.2)) } : State).modGroup gk (fun g =>
    { g with pending := g.pending.filter (fun p => decide (p.reg < top) || decide (256 ≤ p.reg)) })

def execShrink (n : BitVec 5) (o : Ops) : State → Host.Outcome State Fault Refusal :=
  perform (.shrink n o) noDetail noPriv (fun c =>
    if c.g.blocks < c.launch.regs + n.toNat then c.trap ⟨.regRange, 8 * c.g.blocks - 1⟩
    else c.jump ((c.s.modGroup c.gk (fun g => g.shrink n.toNat)).cutLoads c.gk (8 * (c.g.blocks - n.toNat))) (c.p.pc + 8))

/-! ### Gangs (R47, R146) -/

/-- What makes GANG raise ILL (R146). -/
def Ctx.gangBad (c : Ctx) (w : W32) : Bool :=
  let n := bits w.toNat 24 3
  let sl := gangSlots w
  n == 1 || n == 7 || bits w.toNat 27 5 != 0 || (bits w.toNat 0 24 / 2 ^ (4 * n) != 0) || decide (¬ sl.Nodup)
  || sl.any (fun k => match mget? c.s.groups (c.q * 16 + k) with | none => true | some g => g.launch != c.g.launch || g.dead)
  || (n ≥ 2 && !sl.contains (c.gk % 16)) || c.quarter.round.isSome

def execGang (o : Ops) : State → Host.Outcome State Fault Refusal :=
  perform (.gang o) (fun c => if c.gangBad (BitVec.ofNat 32 (imm32 o.imm)) then some 10 else none)
    (fun c => (gangSlots c.quarter.gang).any (fun k => match mget? c.s.groups (c.q * 16 + k) with | none => false | some g => g.launch != c.g.launch))
    (fun c => c.jump (c.s.setQuarter c.q { c.quarter with gang := BitVec.ofNat 32 (imm32 o.imm) }) (c.p.pc + 12))

end Sys2Proof.Machine
end

