-- ==== Sys2Proof/Machine/FloatFns.lean ====
section
/-! DEFINITION. The six fixed evaluations (R163 to R165), to the last rounding. Each function gives the exact value of its last step, the one that is
rounded under RND; `exp2e` and its like round that step RNE. -/

namespace Sys2Proof

/-- E_k of R163: rne32((ln 2)^k / k!), for k = 7 down to 1. -/
def constE : List W32 := [0x377fe5fe, 0x39218489, 0x3aaec3ff, 0x3c1d955b, 0x3d635847, 0x3e75fdf0, 0x3f317218]

/-- L_j of R163: rne32(2 / (j ln 2)), for j = 9, 7, 5, 3, 1. -/
def constL : List W32 := [0x3ea4258a, 0x3ed30bb1, 0x3f13bb63, 0x3f76384f, 0x4038aa3b]

/-- P_j of R164, for j = 9, 7, 5, 3, 1. -/
def constP : List W32 := [0x3da83c1a, 0xbf196966, 0x402335e3, 0xc0a55de7, 0x40490fdb]

/-- Q_j of R164, for j = 10, 8, 6, 4, 2. -/
def constQ : List W32 := [0xbcd368f9, 0x3e70fa83, 0xbfaae9e4, 0x4081e0f8, 0xc09de9e6]

/-- LOG2E of R165 and LN2 of R79. -/
def log2e : Num := f32 0x3fb8aa3b
def ln2c : Num := f32 0x3f317218

/-- A step in FP32: rne32 of a sum or of a product. -/
def fadd32 (a b : Num) : Num := r32 (Num.add false a b)
def fsub32 (a b : Num) : Num := r32 (Num.sub false a b)
def fmul32 (a b : Num) : Num := r32 (a.mul b)
def fdiv32 (a b : Num) : Num := r32 (a.div b)

/-- h × x + c for each constant in turn, each step rne32, from the first constant. -/
def horner (x : Num) : List W32 → Num
  | [] => .zero false
  | c :: cs => cs.foldl (fun h k => fadd32 (fmul32 h x) (f32 k)) (f32 c)

def one : Num := .ofInt 1

/-- A power of two beyond ±1000 acts on an FP32 value as ±1000 does: every rounding of the product is the same. -/
def clampExp (n : Int) : Int := max (-1000) (min 1000 n)

/-- FEXP2 before its last rounding (R163). -/
def exp2Exact (x : Num) : Num :=
  match x with
  | .nan => .nan
  | .inf s => if s then .zero false else .inf false
  | .fin q =>
    let n := q.nearest
    let f := Num.sub false x (.ofInt n)
    let h := horner f constE
    (fadd32 (fmul32 h f) one).scale (clampExp n)

/-- The FEXP2 sequence with rne32 last (R165). -/
def exp2e (x : Num) : Num := r32 (exp2Exact x)

/-- FLOG2 before its last rounding (R163). -/
def log2Exact (x : Num) : Num :=
  match x with
  | .nan => .nan
  | .inf s => if s then .nan else .inf false
  | .fin q =>
    if q.num = 0 then .inf true
    else if q.neg then .nan
    else
      let k := q.log2
      let s := (Num.fin q).scale (-k)
      let big := !(s.lt (.ofInt 3 (-1)))
      let m := if big then s.scale (-1) else s
      let e := if big then k + 1 else k
      let t := fdiv32 (fsub32 m one) (fadd32 m one)
      let w := fmul32 t t
      let h := horner w constL
      Num.add false (.ofInt e) (fmul32 h t)

/-- sin(π·f) and cos(π·f) of R164 with the quadrant of the argument. -/
def sinCos (x : Num) : Option (Num × Num × Nat) :=
  match x with
  | .nan => none
  | .inf _ => none
  | .fin q =>
    let k := ({ q with e := q.e + 1 } : Q).nearest
    let f0 := Num.sub false x (.ofInt k (-1))
    let f := if f0.isZero then .zero q.neg else f0
    let w := fmul32 f f
    let s := fmul32 (horner w constP) f
    let c := fadd32 (fmul32 (horner w constQ) w) one
    some (s, c, (k % 4).toNat)

/-- FSIN and FCOS before their last rounding (R164). -/
def sinExact (x : Num) : Num :=
  match sinCos x with
  | none => .nan
  | some (s, c, g) => if g = 0 then s else if g = 1 then c else if g = 2 then s.neg else c.neg

def cosExact (x : Num) : Num :=
  match sinCos x with
  | none => .nan
  | some (s, c, g) => if g = 0 then c else if g = 1 then s.neg else if g = 2 then c.neg else s

/-- FTANH before its last rounding (R165). -/
def tanhExact (a : Num) : Num :=
  if a.isNaN then .nan
  else if a.abs.lt (pow2 (-12)) then a
  else
    let z := fmul32 (fmul32 (.ofInt 2) a.abs) log2e
    let e := exp2e z
    let w := fdiv32 (.ofInt 2) (fadd32 e one)
    let y := Num.sub false one w
    if a.isNeg then y.neg else y

/-- FSIGM before its last rounding (R165). -/
def sigmExact (a : Num) : Num :=
  if a.isNaN then .nan
  else
    let z := fmul32 a.neg log2e
    one.div (fadd32 one (exp2e z))

/-- The FLOG2 sequence with rne32 last, and the FCOS sequence likewise (R231). -/
def log2e32 (x : Num) : Num := r32 (log2Exact x)
def cos32 (x : Num) : Num := r32 (cosExact x)

end Sys2Proof
end

