-- ==== Sys2Proof/Machine/Float.lean ====
section
/-! DEFINITION. The floating-point instructions (R154 to R165): rounding under the path's %fmt with its dither, and the plain meanings. -/

namespace Sys2Proof.Machine

/-! ### Rounding under %fmt (R39, R63, R67, R154) -/

/-- The RND field as a mode; the reserved codes never stand in a %fmt (R39). -/
def rmodeOf : Nat → RMode
  | 0 => .rne
  | 1 => .rtz
  | 2 => .rdn
  | 3 => .rup
  | 4 => .sr
  | _ => .srd

def Ctx.rnd (c : Ctx) : RMode := rmodeOf (c.p.fmt.toNat % 8)
def Ctx.rv (c : Ctx) : Bool := c.p.fmt.getLsbD 3
def Ctx.ftz (c : Ctx) : Bool := c.p.fmt.getLsbD 4
def Ctx.sat (c : Ctx) : Bool := c.p.fmt.getLsbD 5

/-- The dither selector: field C where the form has it there, the extension's otherwise (R111). -/
def Ctx.ditherSel (c : Ctx) : Sel :=
  match c.fields.find? (fun f => f.1 == .dither) with
  | some f => f.2
  | none => .zero

/-- The dither of a lane (R67): word 0 of the stream for a uniform instruction. -/
def Ctx.dither (c : Ctx) (lane : Nat) : Nat :=
  match c.rnd with
  | .sr => c.stream 0 (if c.o.hdr.u then 0 else lane) % 65536
  | .srd => c.val c.ditherSel 1 lane % 65536
  | _ => 0

def Ctx.rctx (c : Ctx) (lane : Nat) : RCtx := { mode := c.rnd, sat := c.sat, ftz := c.ftz, dither := c.dither lane }

/-- rnd32 of R154 in a lane. -/
def Ctx.rnd32 (c : Ctx) (lane : Nat) (z : Num) : Nat := (FF.f32.round (c.rctx lane) z).1

/-- Under SR a rounding instruction with an acting lane draws once (R67, R155). -/
def Ctx.draw (c : Ctx) (s : State) : State := if c.rnd = .sr && !c.actLanes.isEmpty then s.drawn c.gk 1 else s

/-- A complete rounding instruction. -/
def Ctx.rounded (c : Ctx) (w : Nat) (f : Nat → Nat) : State := c.advance (c.draw (c.write w f))

/-- A floating-point source as R55 reads it. -/
def Ctx.fop (c : Ctx) (x : Sel) (last : Bool) (lane : Nat) : Num := FF.f32.read c.ftz (c.src x last false 1 lane)

/-! ### Arithmetic (R157, R158) -/

/-- A rounding instruction of one source. -/
def fuse1 (i : Instr) (f : Num → Num) : State → Host.Outcome State Fault Refusal :=
  perform i noDetail noPriv (fun c => c.rounded 1 (fun l => c.rnd32 l (f (c.fop c.o.a true l))))

/-- A rounding instruction of two sources; `f` learns whether a zero sum is −0, as under RDN (R54). -/
def fuse2 (i : Instr) (f : Bool → Num → Num → Num) : State → Host.Outcome State Fault Refusal :=
  perform i noDetail noPriv (fun c =>
    c.rounded 1 (fun l => c.rnd32 l (f (c.rnd == .rdn) (c.fop c.o.a false l) (c.fop c.o.b true l))))

def execFadd (o : Ops) : State → Host.Outcome State Fault Refusal := fuse2 (.fadd o) Num.add
def execFsub (o : Ops) : State → Host.Outcome State Fault Refusal := fuse2 (.fsub o) Num.sub
def execFmul (o : Ops) : State → Host.Outcome State Fault Refusal := fuse2 (.fmul o) (fun _ a b => a.mul b)
def execFdiv (o : Ops) : State → Host.Outcome State Fault Refusal := fuse2 (.fdiv o) (fun _ a b => a.div b)

def execFfma (o : Ops) : State → Host.Outcome State Fault Refusal :=
  perform (.ffma o) noDetail noPriv (fun c =>
    c.rounded 1 (fun l => c.rnd32 l (Num.add (c.rnd == .rdn) ((c.fop o.a false l).mul (c.fop o.b false l)) (c.fop c.cSel true l))))

def execFrcp (o : Ops) : State → Host.Outcome State Fault Refusal := fuse1 (.frcp o) (fun a => one.div a)
def execFrsq (o : Ops) : State → Host.Outcome State Fault Refusal := fuse1 (.frsq o) (fun a => one.div a.sqrt)
def execFsqrt (o : Ops) : State → Host.Outcome State Fault Refusal := fuse1 (.fsqrt o) Num.sqrt
def execFexp2 (o : Ops) : State → Host.Outcome State Fault Refusal := fuse1 (.fexp2 o) exp2Exact
def execFlog2 (o : Ops) : State → Host.Outcome State Fault Refusal := fuse1 (.flog2 o) log2Exact
def execFsin (o : Ops) : State → Host.Outcome State Fault Refusal := fuse1 (.fsin o) sinExact
def execFcos (o : Ops) : State → Host.Outcome State Fault Refusal := fuse1 (.fcos o) cosExact
def execFtanh (o : Ops) : State → Host.Outcome State Fault Refusal := fuse1 (.ftanh o) tanhExact
def execFsigm (o : Ops) : State → Host.Outcome State Fault Refusal := fuse1 (.fsigm o) sigmExact

/-! ### Selection, sign, comparison (R159, R160) -/

def fsel (i : Instr) (wantMax : Bool) : State → Host.Outcome State Fault Refusal :=
  perform i noDetail noPriv (fun c =>
    c.result 1 (fun l => (fMinMax c.ftz wantMax (BitVec.ofNat 32 (c.src c.o.a false false 1 l)) (BitVec.ofNat 32 (c.src c.o.b true false 1 l))).toNat))

def execFmin (o : Ops) : State → Host.Outcome State Fault Refusal := fsel (.fmin o) false
def execFmax (o : Ops) : State → Host.Outcome State Fault Refusal := fsel (.fmax o) true

/-- FABS and FNEG on a word: NaN is made canonical, a subnormal flushed first under FTZ. -/
def fsign (ftz : Bool) (f : W32 → W32) (w : Nat) : Nat :=
  let x := BitVec.ofNat 32 w
  if (f32 x).isNaN then nan32.toNat else (f (flush32 ftz x)).toNat

def execFabs (o : Ops) : State → Host.Outcome State Fault Refusal :=
  perform (.fabs o) noDetail noPriv (fun c => c.result 1 (fun l => fsign c.ftz (fun x => x &&& 0x7FFFFFFF) (c.src o.a true false 1 l)))

def execFneg (o : Ops) : State → Host.Outcome State Fault Refusal :=
  perform (.fneg o) noDetail noPriv (fun c => c.result 1 (fun l => fsign c.ftz (fun x => x ^^^ 0x80000000) (c.src o.a true false 1 l)))

/-- A relation of FCMP (R160). -/
def fcmpHolds (r : FCmp) (a b : Num) : Bool :=
  let un := a.isNaN || b.isNaN
  match r with
  | .eq => !un && a.eq b
  | .ne => un || !a.eq b
  | .lt => !un && a.lt b
  | .le => !un && (a.lt b || a.eq b)
  | .gt => !un && b.lt a
  | .ge => !un && (b.lt a || a.eq b)
  | .un => un
  | .ord => !un

def execFcmp (r : FCmp) (o : Ops) : State → Host.Outcome State Fault Refusal :=
  perform (.fcmp r o) noDetail noPriv (fun c =>
    c.advance (c.writePred o.d (lanes c.acts) (fun l => fcmpHolds r (c.fop o.a false l) (c.fop o.b true l))))

/-- The class of an FP32 pattern as one bit (R160). -/
def fclass (w : Nat) : Nat :=
  match FF.f32.val w with
  | .nan => 2 ^ 8
  | .inf neg => if neg then 1 else 2 ^ 7
  | .fin q =>
    if q.num = 0 then (if q.neg then 2 ^ 3 else 2 ^ 4)
    else if FF.f32.isSub w then (if q.neg then 2 ^ 2 else 2 ^ 5)
    else if q.neg then 2 else 2 ^ 6

def execFclass (o : Ops) : State → Host.Outcome State Fault Refusal :=
  perform (.fclass o) noDetail noPriv (fun c => c.result 1 (fun l => fclass (c.src o.a true false 1 l)))

/-! ### FRND and FSCL (R161, R162) -/

/-- The mode FRND names; none for the path's own. -/
def frndMode : FRMode → Option RMode
  | .fmt => none
  | .rne => some .rne
  | .rdn => some .rdn
  | .rup => some .rup
  | .rtz => some .rtz

/-- FRND of an operand's pattern (R161). -/
def frnd (rc : RCtx) (w : Nat) : Nat :=
  match FF.f32.read rc.ftz w with
  | .nan => nan32.toNat
  | .inf s => FF.f32.inf s
  | .fin q =>
    if q.num = 0 then FF.f32.signBit q.neg
    else if !((Num.fin q).abs.lt (pow2 23)) then w
    else
      let m := roundInt rc q
      if m = 0 then FF.f32.signBit q.neg else (FF.f32.round .rne (.ofInt m)).1

def execFrnd (r : FRMode) (o : Ops) : State → Host.Outcome State Fault Refusal :=
  perform (.frnd r o) noDetail noPriv (fun c =>
    match frndMode r with
    | none => c.rounded 1 (fun l => frnd (c.rctx l) (c.src o.a true false 1 l))
    | some m => c.result 1 (fun l => frnd { mode := m, sat := false, ftz := c.ftz, dither := 0 } (c.src o.a true false 1 l)))

def execFscl (o : Ops) : State → Host.Outcome State Fault Refusal :=
  perform (.fscl o) noDetail noPriv (fun c =>
    c.rounded 1 (fun l => c.rnd32 l ((c.fop o.a false l).scale (clampExp (sext (c.src o.b true true 1 l) 32)))))

end Sys2Proof.Machine
end

