-- ==== Sys2Proof/Machine/Convert.lean ====
section
/-! DEFINITION. The conversions (R166 to R171): CVT, block quantisation CVTB, nested quantisation CVTN and their inverse CVTX. -/

namespace Sys2Proof.Machine

/-! ### CVT (R166, R167, R70) -/

/-- The rounded format of a class V code. -/
def vfmtFF : VFmt → Option FF
  | .f32 => some .f32
  | .f16 => some .f16
  | .bf16 => some .bf16
  | .e4m3 => some .e4m3
  | .e5m2 => some .e5m2
  | _ => none

/-- Width and signedness of an integer code. -/
def vfmtInt : VFmt → Option (Nat × Bool)
  | .i8 => some (8, true)
  | .n8 => some (8, false)
  | .i16 => some (16, true)
  | .n16 => some (16, false)
  | .i32 => some (32, true)
  | .n32 => some (32, false)
  | .i64 => some (64, true)
  | .n64 => some (64, false)
  | _ => none

/-- The value of an E8M0 scale byte (R58). -/
def e8m0 (e : Nat) : Num := if e = 255 then .nan else pow2 ((e : Int) - 127)

/-- The value of a source in its format; the bits R166 marks ignored are ignored. -/
def cvtRead (ftz : Bool) (f : VFmt) (w : Nat) : Num :=
  match vfmtFF f, vfmtInt f with
  | some x, _ => x.read ftz (w % 2 ^ x.width)
  | none, some (n, sg) => .ofInt (readInt sg n (w % 2 ^ n))
  | none, none => e8m0 (w % 256)

/-- Saturation to an integer type's range (R65). -/
def clampInt (n : Nat) (sg : Bool) (i : Int) : Int :=
  if sg then max (-(2 ^ (n - 1) : Int)) (min (2 ^ (n - 1) - 1) i) else max 0 (min (2 ^ n - 1) i)

/-- A value rounded to an integer type (R64, R65). -/
def toIntType (rc : RCtx) (n : Nat) (sg : Bool) : Num → Int
  | .nan => 0
  | .inf neg => clampInt n sg (if neg then -(2 ^ 64) else 2 ^ 64)
  | .fin q => clampInt n sg (roundInt rc q)

/-- The value written in the destination format (R70, R166). -/
def cvtWrite (rc : RCtx) (f : VFmt) (x : Num) : Nat :=
  match vfmtFF f, vfmtInt f with
  | some g, _ => (g.round rc x).1
  | none, some (n, sg) => wrap (if n = 64 then 64 else 32) (toIntType rc n sg x)
  | none, none => 0

def execCvt (src dst : VFmt) (o : Ops) : State → Host.Outcome State Fault Refusal :=
  perform (.cvt src dst o) noDetail noPriv (fun c =>
    let f := fun l => cvtWrite (c.rctx l) dst (cvtRead c.ftz src (c.src o.a true false src.words l))
    if cvtExact src dst then c.result dst.words f else c.rounded dst.words f)

/-! ### Blocks (R168 to R171) -/

/-- A mould slot nothing has written. -/
def MouldSlot.empty : MouldSlot := { mould := 0, valid := false, perm := none }
def Quarter.slot (q : Quarter) (m : Nat) : MouldSlot := mgetD q.slots m MouldSlot.empty

/-- The lane or element that entry `i` of a permutation names; the identity where the mould's table pointer is zero (R169, R218). -/
def MouldSlot.entry (m : MouldSlot) (i : Nat) : Nat :=
  match m.perm with
  | none => i
  | some l => listGet i l i

/-- The greatest of a list of magnitudes. -/
def maxNum : List Num → Num
  | [] => .zero false
  | x :: l => let m := maxNum l; if m.lt x then x else m

/-- The scale byte of a block (R169): none where an element is NaN or infinite. -/
def blockScale (maxf : Nat) (xs : List Num) : Option Nat :=
  if xs.any (fun x => x.isNaN || x.isInf) then none
  else
    let amax := maxNum (xs.map Num.abs)
    if amax.isZero then some 127
    else some (((List.range 255).find? (fun (e : Nat) => !((Num.ofInt maxf).scale ((e : Int) - 127)).lt amax)).getD 254)

/-- Blocks of 32 lanes in a group (R169). -/
def Ctx.blocks (c : Ctx) : Nat := if c.g.width = 64 then 2 else 1

/-- The elements of block `b`: `perm` gives the source lane of a position. -/
def Ctx.elements (c : Ctx) (perm : Nat → Nat) (b : Nat) : List Num :=
  (List.range 32).map (fun i =>
    let l := perm (32 * b + i)
    if decide (l < c.g.width) && c.acts.getLsbD l then c.fop c.o.a false l else .zero false)

/-- The scales of all blocks as the bytes of the uniform register, 0xFF for a block without one. -/
def scaleWord (es : List (Option Nat)) : Nat := leNat (es.map (fun e => BitVec.ofNat 8 (e.getD 255)))

/-- The permutation and slot that CVTB's extension names (R103, R168). -/
def Ctx.cvtbSlot (c : Ctx) : Option Nat :=
  match c.o.imm with
  | .i64 v => if v.toNat ≥ 8 then some (v.toNat % 8) else none
  | _ => none

/-- CVTB and CVTN: each lane's word from its block's elements and scale, and the scales in sB. -/
def Ctx.quantise (c : Ctx) (perm : Nat → Nat) (maxf : Nat) (f : List Num → Option Nat → Nat → Nat) : State :=
  let xs := (List.range c.blocks).map (c.elements perm)
  let es := xs.map (blockScale maxf)
  let s := c.draw (c.write 1 (fun l => f (listGet [] xs (l / 32)) (listGet none es (l / 32)) l))
  c.advance (s.setUniform c.gk c.o.b 1 (scaleWord es))

def b8FF : B8 → FF
  | .e4m3 => .e4m3
  | .e5m2 => .e5m2

def b8Max : B8 → Nat
  | .e4m3 => 448
  | .e5m2 => 57344

/-- See log 36, DEDUCED. -/
def execCvtb (dst : B8) (o : Ops) : State → Host.Outcome State Fault Refusal :=
  perform (.cvtb dst o)
    (fun c => match c.cvtbSlot with | some m => if (c.quarter.slot m).valid then none else some 9 | none => none) noPriv
    (fun c =>
      let perm := match c.cvtbSlot with | some m => (c.quarter.slot m).entry | none => fun i => i
      c.quantise perm (b8Max dst) (fun xs e l =>
        match e with
        | none => (b8FF dst).nan
        | some e => ((b8FF dst).round (c.rctx l) ((listGet (.zero false) xs (l % 32)).scale (127 - (e : Int)))).1))

/-- The integers of a block of CVTN (R170). -/
def Ctx.nested (c : Ctx) (b : Nat) (xs : List Num) (e : Option Nat) : List Int :=
  match e with
  | none => List.replicate 32 0
  | some e => xs.zipIdx.map (fun x => toIntType (c.rctx (32 * b + x.2)) 8 true (x.1.scale (127 - (e : Int))))

/-- Plane word `k` of a block: bit i is bit 7 − k of element i, and lanes beyond the eighth hold zero (R170). -/
def planeWord (ns : List Int) (k : Nat) : Nat :=
  if k ≥ 8 then 0 else (ns.zipIdx.map (fun x => if bit (wrap 8 x.1) (7 - k) then 2 ^ x.2 else 0)).sum

/-- See log 36, DEDUCED. -/
def execCvtn (o : Ops) : State → Host.Outcome State Fault Refusal :=
  perform (.cvtn o) noDetail noPriv (fun c =>
    c.quantise (fun i => i) 127 (fun xs e l => planeWord (c.nested (l / 32) xs e) (l % 32)))

/-- A read of the first `k` planes of an element (R60). -/
def planeRead (k : Nat) (x : Int) : Int := if k ≥ 8 then x else x / 2 ^ (8 - k) * 2 ^ (8 - k) + 2 ^ (7 - k)

/-- The element of CVTX's nested form in a lane: its planes come from the block's lanes (R171). -/
def Ctx.nestedElem (c : Ctx) (l : Nat) : Int :=
  let k := bits c.p.fmt.toNat 14 3 + 1
  let b := l / 32
  let bitsOf := (List.range k).map (fun j => if bit (c.val c.o.a 1 (32 * b + j)) (l % 32) then 2 ^ (7 - j) else 0)
  planeRead k (sext bitsOf.sum 8)

def execCvtx (src : XFmt) (o : Ops) : State → Host.Outcome State Fault Refusal :=
  perform (.cvtx src o) noDetail noPriv (fun c =>
    c.result 1 (fun l =>
      let scale := e8m0 (bits (c.val o.b 1 l) (8 * (l / 32)) 8)
      let x := match src with
        | .e4m3 => FF.e4m3.val (c.val o.a 1 l % 256)
        | .e5m2 => FF.e5m2.val (c.val o.a 1 l % 256)
        | .ni => .ofInt (c.nestedElem l)
      (FF.f32.round { RCtx.rne with ftz := c.ftz } (x.mul scale)).1))

end Sys2Proof.Machine
end

