-- ==== Sys2Proof/Machine/Record.lean ====
section
/-! DEFINITION. Records that an instruction acting once per path reads or writes in memory at issue: the checks and waits of R182, R183 and R344. -/

namespace Sys2Proof.Machine

/-- The sectors of ranges served by rows (R276). -/
def State.rowsOf (s : State) (ls : List Spot) : State := ls.foldl (fun s r => if r.cached then s.toRows r.loc r.len else s) s

/-- A storage range as an access of the issuing group, to find what has to be performed before it (R183, R295). -/
def Ctx.rangeAccess (c : Ctx) (op : Op) (r : Spot) : Access :=
  { iid := c.s.nextId, gk := c.gk, launch := c.g.launch, part := c.part, asid := c.asid, die := c.die, core := c.core, lane := c.lead, op := op,
    scope := .dev, rh := .df, loc := r.loc, len := r.len, va := 0, cacheable := r.cached, crossing := !isHbm r.loc || stackOf r.loc / 4 != c.die,
    home := stackOf r.loc / 4,
    word := 0, relied := none, claimed := false, peer := none }

/-- What has to be performed before an access to storage ranges: the group's own accesses, and what its die relies on or a home holds there. -/
def Ctx.waitsFor (c : Ctx) (op : Op) (ls : List Spot) : List Nat :=
  ls.flatMap (fun r => c.s.before c.s.nextId (c.rangeAccess op r)
    ++ (c.s.accesses.filter (fun x => rangesMeet x.2.loc x.2.len r.loc r.len && x.2.die == c.die && x.2.relied.isSome && !(x.2.op.isLoad && op.isLoad)
          || (x.2.claimed && op.isLoad && isHbm r.loc && (sectorsIn r.loc r.len).contains (sectorOf x.2.loc)))).map (·.1))

/-- A range of virtual addresses resolved for an access of a kind: its storage, or the state in which the instruction has trapped or parked instead. -/
def Ctx.resolve (c : Ctx) (k : AccKind) (va n : Nat) : Except State (List Spot × State) :=
  match c.s.rangeAll c.q c.part c.asid c.sys k va n with
  | (.ok ls, s) => .ok (ls, s)
  | (.error l, s) => .error (c.rangeBad s k.code va l)

/-- A record of `n` bytes read as a load of scope .dev (R218, R234, R237): its bytes and the state after, or the state in which the instruction waits, has
trapped or has parked instead. -/
def Ctx.readRecord (c : Ctx) (va n : Nat) : Except State (List Byte × State) :=
  if c.g.fenceHolds 1 then .error (c.wait (.fenced 1))
  else
    match c.resolve .load va n with
    | .error s => .error s
    | .ok (ls, s) =>
      let ws := c.waitsFor (.load .b32) ls
      if !ws.isEmpty then .error (c.wait (.accesses ws))
      else if s.poisonedLocs ls then .error ({ c with s := s }.trap ⟨.mchk, va⟩)
      else
        let s := s.rowsOf ls
        .ok (s.readLocs ls, s)

/-- The state an `Except` answers either way. -/
def either (x : Except State State) : State :=
  match x with
  | .ok s => s
  | .error s => s

/-- A record read, with what follows. -/
def Ctx.withRecord (c : Ctx) (va n : Nat) (f : List Byte → State → State) : State :=
  match c.readRecord va n with
  | .error s => s
  | .ok (bs, s) => f bs s

end Sys2Proof.Machine
end

