-- ==== Sys2Proof/Machine/Mould.lean ====
section
/-! DEFINITION. Moulds (R282, R283), the tiles they describe (R284, R285), operand images in the TOB (R216), and the places of TOB bytes (R267). -/

namespace Sys2Proof.Machine

/-! ### The record (R282) -/

structure Mould where
  raw : Nat
  base : Nat
  efmt : Nat
  vfmt : Nat
  orient : Bool
  tiled : Bool
  rh : Nat
  ndim : Nat
  trows : Nat
  tbytes : Nat
  permOfs : Int
  sclOfs : Int
  varOfs : Int
  deriving DecidableEq, Repr

def Mould.ofNat (r : Nat) : Mould :=
  { raw := r, base := bits r 0 64, efmt := bits r 64 4, vfmt := bits r 68 1, orient := bit r 69, tiled := bit r 70, rh := bits r 71 2, ndim := bits r 73 3,
    trows := bits r 80 6 + 1, tbytes := 32 * (bits r 96 4 + 1), permOfs := sext (bits r 384 40) 40, sclOfs := sext (bits r 424 40) 40,
    varOfs := sext (bits r 464 40) 40 }

/-- The stored SIZE and STRIDE of a dimension. -/
def Mould.rawSize (m : Mould) (d : Nat) : Nat := bits m.raw (128 + 48 * d) 16
def Mould.rawStride (m : Mould) (d : Nat) : Int := sext (bits m.raw (128 + 48 * d + 16) 32) 32

/-- Dimensions at and above NDIM have size 1 and stride 0. -/
def Mould.size (m : Mould) (d : Nat) : Nat := if d < m.ndim then m.rawSize d else 1
def Mould.stride (m : Mould) (d : Nat) : Int := if d < m.ndim then m.rawStride d else 0

/-- The address of an array whose offset from BASE is in 64-byte units. -/
def Mould.ptr (m : Mould) (ofs : Int) : Nat := wrap 64 ((m.base : Int) + ofs * 64)

/-- Bytes per element; NI counts one byte each (R284). -/
def Mould.elem (m : Mould) : Nat := if m.efmt = 2 || m.efmt = 3 then 2 else 1

/-- Width of a variance element (R216). -/
def Mould.vw (m : Mould) : Nat := 1 + m.vfmt

def ceilDiv (a b : Nat) : Nat := (a + b - 1) / b

/-- The offsets of R285 are whole numbers: they are offsets in elements times vw. A stride that no index above 0 multiplies does not matter. -/
def Mould.varWhole (m : Mould) : Bool :=
  m.vw % m.elem == 0 || ((List.range 4).all (fun d => m.size (d + 1) == 1 || m.stride (d + 1) % 2 == 0))

/-- What MLD refuses (R283); a nonzero STRIDE0 counts as a reserved field. -/
def Mould.bad (m : Mould) : Bool :=
  bits m.raw 504 8 != 0 || bits m.raw 368 16 != 0 || bits m.raw 100 28 != 0 || bits m.raw 86 10 != 0 || bits m.raw 76 4 != 0 || m.rawStride 0 != 0
  || m.efmt > 4 || m.ndim == 0 || m.ndim > 5
  || (List.range 5).any (fun d => if d < m.ndim then m.rawSize d == 0 else m.rawSize d != 0 || m.rawStride d != 0)
  || m.base ≥ 2 ^ 56 || [m.permOfs, m.sclOfs, m.varOfs].any (fun o => o != 0 && m.ptr o ≥ 2 ^ 56)
  || (m.efmt == 4 && m.tbytes % 256 != 0)
  || (m.tiled && (m.base % 1024 != 0 || m.stride 1 % 1024 != 0 || m.stride 1 < 1024 * ceilDiv (m.size 0) 32))
  || (m.orient && (!m.tiled || m.efmt == 4))
  || (m.varOfs != 0 && !m.varWhole)

/-! ### Tiles (R284) -/

/-- Byte offset of (row y, byte b) from BASE. -/
def Mould.ofs (m : Mould) (y b : Nat) : Int :=
  if m.tiled then (y / 32 : Nat) * m.stride 1 + ((b / 32 * 1024 + y % 32 * 32 + b % 32 : Nat) : Int) else y * m.stride 1 + b

/-- The matrix coordinates of image row `r`, element `k`. -/
def Mould.coord (m : Mould) (t : Bool) (idx : List Nat) (r k : Nat) : Nat × Nat :=
  let te := m.tbytes / m.elem
  let i0 := listGet 0 idx 0
  let i1 := listGet 0 idx 1
  if t then (i0 * te + k, i1 * m.trows + r) else (i1 * m.trows + r, i0 * te + k)

/-- Elements of a stored row. -/
def Mould.e0 (m : Mould) : Nat := m.size 0 / m.elem

/-- The tile's outer indices lie outside the tensor. -/
def Mould.outer (m : Mould) (idx : List Nat) : Bool := [2, 3, 4].any (fun d => decide (listGet 0 idx d ≥ m.size d))

def Mould.extra (m : Mould) (idx : List Nat) : Int := ([2, 3, 4].map (fun d => ((listGet 0 idx d : Nat) : Int) * m.stride d)).sum

/-- A piece of a tile in virtual memory: image byte, offset from BASE, bytes. -/
structure Piece where
  img : Nat
  ofs : Int
  len : Nat
  deriving DecidableEq, Repr

/-- The pieces of the elements, padding left out: at most 32 bytes each, one element each by columns. -/
def Mould.pieces (m : Mould) (t : Bool) (idx : List Nat) : List Piece :=
  if m.outer idx then []
  else
    let s := m.elem
    let step := if t then 1 else 32 / s
    (List.range m.trows).flatMap (fun r =>
      (List.range (m.tbytes / s / step)).filterMap (fun j =>
        let k := j * step
        let (y, x) := m.coord t idx r k
        let n := min step (m.e0 - x)
        if y < m.size 1 && n > 0 then some { img := r * m.tbytes + k * s, ofs := m.ofs y (x * s) + m.extra idx, len := n * s } else none))

/-- The tile has the shape of an operand image: 64 rows of 512 bytes (R220). -/
def Mould.isImage (m : Mould) : Bool := m.trows == 64 && m.tbytes == 512

/-- Elements of an image row. -/
def Mould.te (m : Mould) : Nat := 512 / m.elem

def imgScales : Nat := 32768
def imgVar : Nat := 33792
def Mould.imgVarScales (m : Mould) : Nat := imgVar + 64 * m.te * m.vw

/-- Bytes of the image in the TOB (R216, R220). -/
def Mould.imgSize (m : Mould) : Nat :=
  if m.isImage then (if m.varOfs = 0 then imgVar else m.imgVarScales + 1024) else m.trows * m.tbytes

/-- Scale bytes of the image with their places in the scale array, none for padding (R285). -/
def Mould.scales (m : Mould) (t : Bool) (idx : List Nat) : List (Nat × Option Nat) :=
  let sg := listGet 0 idx 2 + m.size 2 * (listGet 0 idx 3 + m.size 3 * listGet 0 idx 4)
  (List.range 64).flatMap (fun r =>
    (List.range (16 / m.elem)).map (fun j =>
      let (y, x) := m.coord t idx r (32 * j)
      let at? := if m.outer idx || y ≥ m.size 1 || x ≥ m.e0 then none
        else some (if t then (sg * ceilDiv (m.size 1) 32 + y / 32) * m.e0 + x else (sg * m.size 1 + y) * ceilDiv m.e0 32 + x / 32)
      (16 * r + j, at?)))

/-- Bytes of the scale array. -/
def Mould.scaleBytes (m : Mould) (t : Bool) : Nat :=
  m.size 2 * m.size 3 * m.size 4 * (if t then ceilDiv (m.size 1) 32 * m.e0 else m.size 1 * ceilDiv m.e0 32)

/-- Every piece of a transfer with its virtual address, and the image bytes that read 0x7F (R58, R220, R285). -/
def Mould.layout (m : Mould) (t : Bool) (idx : List Nat) : List (Nat × Nat × Nat) × List Nat :=
  let ps := m.pieces t idx
  let el := ps.map (fun p => (p.img, wrap 64 ((m.base : Int) + p.ofs), p.len))
  if !m.isImage then (el, [])
  else
    let sc := m.scales t idx
    let named := m.sclOfs != 0
    let here := fun (at0 : Nat) (ptr : Nat) =>
      if named then sc.filterMap (fun x => x.2.map (fun k => (at0 + x.1, (ptr + k) % 2 ^ 64, 1))) else []
    let pad := fun (at0 : Nat) =>
      if named then (sc.filter (fun x => x.2.isNone)).map (fun x => at0 + x.1) else (List.range 1024).map (fun i => at0 + i)
    let scl := m.ptr m.sclOfs
    let e := (el ++ here imgScales scl, pad imgScales)
    if m.varOfs = 0 then e
    else
      let vbase := (m.ptr m.varOfs : Int)
      let var := ps.map (fun p => (imgVar + p.img / m.elem * m.vw, wrap 64 (vbase + p.ofs * m.vw / m.elem), p.len / m.elem * m.vw))
      let vscl := scl + ceilDiv (m.scaleBytes t) 64 * 64
      (e.1 ++ var ++ here m.imgVarScales vscl, e.2 ++ pad m.imgVarScales)

/-- Tiles along each dimension, by rows or (`t`) by columns. -/
def Mould.tilesBy (m : Mould) (t : Bool) : List Nat :=
  let te := m.tbytes / m.elem
  let xy := if t then [ceilDiv (m.size 1) te, ceilDiv m.e0 m.trows] else [ceilDiv m.e0 te, ceilDiv (m.size 1) m.trows]
  xy ++ [m.size 2, m.size 3, m.size 4]

/-- Tiles along each dimension, in the mould's own orientation. -/
def Mould.tiles (m : Mould) : List Nat := m.tilesBy m.orient

/-- Tile `n` in index order, i0 fastest. -/
def tileAt : Nat → List Nat → List Nat
  | _, [] => []
  | n, d :: ds => (n % max 1 d) :: tileAt (n / max 1 d) ds

def Mould.tileCount (m : Mould) : Nat := m.tiles.foldl (· * ·) 1

/-- The tile after one in index order: i0 fastest, each index wrapping at the number of tiles along its dimension (R286). -/
def nextTile : List Nat → List Nat → List Nat
  | i :: is, n :: ns => if i + 1 < n then (i + 1) :: is else 0 :: nextTile is ns
  | is, _ => is

/-! ### TOB bytes (R216, R267) -/

/-- Bytes of a core's TOB under a bank-role register. -/
def tobBytes (roles : W64) : Nat := roleBytes roles 2

/-- The storage address of a TOB byte of a core. -/
def State.tobLoc (s : State) (core o : Nat) : Nat :=
  match (s.core core).team with
  | some t => (roleLoc (s.launch t.launch).banks 2 core o).getD 0
  | none => 0

/-- TOB bytes, 1,024 at a time: none of these runs crosses a bank. -/
def State.tobRead (s : State) (core o n : Nat) : List Byte :=
  (List.range (n / 1024 + 1)).flatMap (fun i => s.bytes (s.tobLoc core (o + 1024 * i)) (min 1024 (n - 1024 * i)))

def State.tobWrite (s : State) (core : Nat) : Nat → List Byte → Nat → State
  | _, _, 0 => s
  | o, bs, fuel + 1 => if bs.isEmpty then s else (s.write (s.tobLoc core o) (bs.take 1024)).tobWrite core (o + 1024) (bs.drop 1024) fuel

/-- The TOB offset of the first poisoned byte of a range, by 32-byte lines. -/
def State.tobPoison (s : State) (core o n : Nat) : Option Nat :=
  if s.poison.isEmpty then none
  else ((List.range (n / 32)).map (fun i => o + 32 * i)).find? (fun a => (s.poisoned (s.tobLoc core a) 32).isSome)

end Sys2Proof.Machine
end

