-- ==== Sys2Proof/Machine/Matrix.lean ====
section
/-! DEFINITION. The matrix instructions (R217 to R227, R265, R266, R284) and the events of the mould engine and the matrix unit. -/

namespace Sys2Proof.Machine

/-! ### MLD and MPERM (R218, R219) -/

def Quarter.setSlot (q : Quarter) (m : Nat) (x : MouldSlot) : Quarter := { q with slots := mset q.slots m x }

/-- ILL for an invalid mould slot (R46). -/
def Ctx.slotBad (c : Ctx) (m : Nat) : Option Nat := if (c.quarter.slot m).valid then none else some 9

def execMld (m : BitVec 3) (o : Ops) : State → Host.Outcome State Fault Refusal :=
  perform (.mld m o) noDetail noPriv (fun c => c.once' (fun c =>
    let ea := c.addr c.o.a c.lead
    if ea % 64 != 0 then c.trap ⟨.prot, ea⟩
    else c.withRecord ea 64 (fun bs s =>
      let w := leNat bs
      if (Mould.ofNat w).bad then { c with s := s }.trap ⟨.prot, ea⟩
      else c.advance (s.setQuarter c.q ((s.quarter c.q).setSlot m.toNat { mould := BitVec.ofNat 512 w, valid := true, perm := none })))))

/-- The 512 entries of a permutation table: none where a word has a bit above the ninth. -/
def permOf : Nat → List Byte → Option (List Nat)
  | 0, _ => some []
  | n + 1, bs =>
    let w := leNat (bs.take 2)
    match permOf n (bs.drop 2) with
    | some l => if w < 512 then some (w :: l) else none
    | none => none

def execMperm (m : BitVec 3) (o : Ops) : State → Host.Outcome State Fault Refusal :=
  perform (.mperm m o) (fun c => c.slotBad m.toNat) noPriv (fun c => c.once' (fun c =>
    let x := c.quarter.slot m.toNat
    let md := Mould.ofNat x.mould.toNat
    let put := fun (s : State) (p : Option (List Nat)) => c.advance (s.setQuarter c.q ((s.quarter c.q).setSlot m.toNat { x with perm := p }))
    if md.permOfs = 0 then put c.s none
    else
      let ea := md.ptr md.permOfs
      c.withRecord ea 1024 (fun bs s =>
        match permOf 512 bs with
        | none => { c with s := s }.trap ⟨.prot, ea⟩
        | some l => put s (some l))))

/-! ### TLD and TST (R220 to R222) -/

/-- A piece cut at a 64 KiB page. -/
def cutPiece (p : Nat × Nat × Nat) : List (Nat × Nat × Nat) :=
  let room := 65536 - p.2.1 % 65536
  if p.2.2 ≤ room then [p] else [(p.1, p.2.1, room), (p.1 + room, (p.2.1 + room) % 2 ^ 64, p.2.2 - room)]

/-- The pages that pieces touch, with the first address touched on each. -/
def pagesOf (ps : List (Nat × Nat × Nat)) : Map Nat :=
  ps.foldl (fun m p => if (mget? m (p.2.1 / 65536)).isSome then m else mset m (p.2.1 / 65536) p.2.1) []

/-- The mould engine's translation of pages: the places found. -/
def State.placePages (s : State) (u p asid : Nat) (sys : Bool) (k : AccKind) : List (Nat × Nat) → List (Nat × Nat × Place) × State
  | [] => ([], s)
  | (pg, va) :: l =>
    let (pl, s) := s.place u p asid sys k va
    let (r, s) := s.placePages u p asid sys k l
    ((pg, va, pl) :: r, s)

/-- The tile index of a transfer (R220). -/
def Ctx.tileIdx (c : Ctx) : List Nat :=
  let t := match c.o.imm with | .i64 v => v.toNat | _ => 0
  (List.range 5).map (fun d =>
    let add := if d = 0 then c.val c.o.a 1 c.lead else if d = 1 then c.val c.o.b 1 c.lead else 0
    (bits t (12 * d) 12 + add) % 4096)

/-- A transfer's issue: its checks and translations, after which the engine does the rest. -/
def Ctx.transfer (c : Ctx) (m : Nat) (out trn : Bool) : State :=
  let md := Mould.ofNat (c.quarter.slot m).mould.toNat
  let t := xor md.orient trn
  let o := c.val c.o.d 1 c.lead
  let size := md.imgSize
  if trn && (!md.tiled || md.efmt == 4) then c.trap ⟨.prot, md.base⟩
  else if o % 1024 != 0 || o + size > tobBytes c.launch.banks then c.trap ⟨.prot, o⟩
  else if c.g.fenceHolds setE then c.wait (.fenced setE)
  else
    let (ps, pads) := md.layout t c.tileIdx
    let ps := ps.flatMap cutPiece
    let k : AccKind := if out then .store else .load
    let (pls, s) := c.s.placePages (mouldUnit c.core) c.part c.asid c.sys k (pagesOf ps)
    let c1 := { c with s := s }
    match pls.find? (fun x => match x.2.2 with | .prot => true | .peer _ _ _ => true | _ => false) with
    | some x => c1.trap ⟨.prot, x.2.1⟩
    | none =>
      let lane : Mask := 1#64 <<< c.lead
      let faults := pls.filterMap (fun x => match x.2.2 with | .fault e => some (x.2.1, lane, e) | _ => none)
      if !faults.isEmpty then s.park c.gk c.pid k.code c.p.pc lane faults
      else
        let homes : Map (Nat × Bool) :=
          pls.filterMap (fun x => match x.2.2 with | .at loc h _ => some (x.1, loc - x.2.1 % 65536, decide (h = .cacheable)) | _ => none)
        let runs := ps.map (fun p =>
          let h := mgetD homes (p.2.1 / 65536) (0, false)
          ({ img := p.1, loc := h.1 + p.2.1 % 65536, len := p.2.2, cached := h.2 } : Run))
        let (id, s) := s.fresh
        let next := (md.layout t (nextTile c.tileIdx (md.tilesBy t))).1.flatMap cutPiece
        let x : Xfer :=
          { gk := c.gk, launch := c.g.launch, core := c.core, q := c.q, out := out, tob := o, size := size, runs := runs, pads := pads,
            cols := if t then some (decide (md.elem = 2)) else none, past := decide (md.rh = 3), ahead := (pagesOf next).map (fun p => p.2) }
        c.advance { s with xfers := mset s.xfers id x }

def execTld (m : BitVec 3) (o : Ops) : State → Host.Outcome State Fault Refusal :=
  perform (.tld m o) (fun c => c.slotBad m.toNat) noPriv (fun c => c.once' (fun c => c.transfer m.toNat false false))
def execTldTrn (m : BitVec 3) (o : Ops) : State → Host.Outcome State Fault Refusal :=
  perform (.tldTrn m o) (fun c => c.slotBad m.toNat) noPriv (fun c => c.once' (fun c => c.transfer m.toNat false true))
def execTst (m : BitVec 3) (o : Ops) : State → Host.Outcome State Fault Refusal :=
  perform (.tst m o) (fun c => c.slotBad m.toNat) noPriv (fun c => c.once' (fun c => c.transfer m.toNat true false))

/-! ### Operands of an MMA (R216, R223, R224, R59, R60, R88, R89) -/

/-- AFMT or BFMT with code 5 resolved to the mould's element format. -/
def fmtCode (w : W32) (lo : Nat) (m : Mould) : Nat := if bits w.toNat lo 4 = 5 then m.efmt else bits w.toNat lo 4

/-- The operand's variance is read from its image. -/
def readsVar (w : W32) (lo : Nat) (m : Mould) : Bool := bit w.toNat 21 && bits w.toNat lo 4 != 5 && m.varOfs != 0

def fmtElem (code : Nat) : Nat := if code = 2 || code = 3 then 2 else 1

/-- Bytes of an operand's image (R216): the variance section is part of it where the mould names one. -/
def operandImage (w : W32) (lo : Nat) (m : Mould) : Nat :=
  if m.varOfs != 0 then imgVar + 64 * (512 / fmtElem (fmtCode w lo m)) * m.vw + 1024 else imgVar

/-- Bytes of the image that an operand is read from. -/
def operandSize (w : W32) (lo : Nat) (m : Mould) : Nat :=
  if readsVar w lo m then imgVar + 64 * (512 / fmtElem (fmtCode w lo m)) * m.vw + 1024 else imgVar

/-- Planes an operand is read with (R40, R225). -/
def planesOf (w : W32) (lo plo : Nat) (m : Mould) : Nat := if fmtCode w lo m = 4 then bits w.toNat plo 3 + 1 else 8

/-- An element as the unit takes it: its value with its block's scale, and 12 times the variance it brings, plane term included. -/
structure MElem where
  v : Num
  q : Num
  deriving DecidableEq, Repr

def MElem.zero : MElem := { v := .zero false, q := .zero false }

/-- What the reading of an image depends on. -/
structure MRead where
  code : Nat
  planes : Nat
  var : Bool
  vfmt : Nat
  perm : Option (List Nat)
  deriving DecidableEq, Repr

def MRead.elems (r : MRead) : Nat := 512 / fmtElem r.code

def byteAt (img : Array Byte) (i : Nat) : Nat := (img[i]?.getD 0).toNat

/-- Element `t` of row `row` before its scale. -/
def MRead.raw (r : MRead) (img : Array Byte) (row t : Nat) : Num :=
  let at0 := 512 * row
  match r.code with
  | 0 => FF.e4m3.val (byteAt img (at0 + t))
  | 1 => FF.e5m2.val (byteAt img (at0 + t))
  | 2 => FF.bf16.val (byteAt img (at0 + 2 * t) + 256 * byteAt img (at0 + 2 * t + 1))
  | 3 => FF.f16.val (byteAt img (at0 + 2 * t) + 256 * byteAt img (at0 + 2 * t + 1))
  | _ =>
    let e := t % 256
    let x := ((List.range 8).map (fun p => if bit (byteAt img (at0 + 256 * (t / 256) + 32 * (7 - p) + e / 8)) (e % 8) then 2 ^ p else 0)).sum
    .ofInt (planeRead r.planes (sext x 8))

/-- A stored element (R58, R60, R88). -/
def MRead.elem (r : MRead) (img : Array Byte) (row t : Nat) : MElem :=
  let sc := e8m0 (byteAt img (imgScales + 16 * row + t / 32))
  let vw := 1 + r.vfmt
  let i := imgVar + (row * r.elems + t) * vw
  let vq :=
    if r.var then
      ((if r.vfmt = 0 then FF.e5m2.val (byteAt img i) else FF.bf16.val (byteAt img i + 256 * byteAt img (i + 1))).mul
        (e8m0 (byteAt img (imgVar + 64 * r.elems * vw + 16 * row + t / 32)))).mul (.ofInt 12)
    else .zero false
  let p := if r.code = 4 && r.planes < 8 then (sc.scale (8 - (r.planes : Int))).mul (sc.scale (8 - (r.planes : Int))) else .zero false
  { v := (r.raw img row t).mul sc, q := Num.add false vq p }

/-- Row `row` in its logical order (R224): stored elements beyond the row read as zero. -/
def MRead.row (r : MRead) (img : Array Byte) (row : Nat) : List MElem :=
  let st := (List.range r.elems).map (r.elem img row)
  match r.perm with
  | none => st
  | some l => (l.take r.elems).map (fun i => (st[i]?).getD MElem.zero)

/-- The reading of an operand under a %fmt. -/
def mread (w : W32) (lo plo : Nat) (x : MouldSlot) : MRead :=
  let m := Mould.ofNat x.mould.toNat
  { code := fmtCode w lo m, planes := planesOf w lo plo m, var := readsVar w lo m, vfmt := m.vfmt,
    perm := if bit w.toNat 20 then x.perm else none }

/-! ### The product (R73, R88, R90) -/

/-- A list cut into chunks of 32. -/
def chunks {α : Type} : Nat → List α → List (List α)
  | 0, _ => []
  | n + 1, l => if l.isEmpty then [] else l.take 32 :: chunks n (l.drop 32)

/-- The exact mean sum of a chunk. -/
def chunkMean (a b : List MElem) : Num := (a.zip b).foldl (fun s x => Num.add false s (x.1.v.mul x.2.v)) (.zero false)

/-- The exact variance sum of a chunk. -/
def chunkVar (a b : List MElem) : Num :=
  ((a.zip b).foldl (fun s x => Num.add false (Num.add false s ((x.1.v.mul x.1.v).mul x.2.q)) ((x.2.v.mul x.2.v).mul x.1.q)) (.zero false)).div (.ofInt 12)

/-- An accumulator element with its chunks added in order, two roundings each. -/
def accumulate (c : W32) (sums : List Num) : W32 := sums.foldl (fun c s => rne32 (Num.add false (f32 c) (r32 s))) c

/-- A plane of 64 × 64 elements from its elements by index. -/
def planeMap (f : Nat → W32) : Map W32 :=
  (List.range 4096).filterMap (fun i => let v := f i; if v = 0 then none else some (i, v))

/-- The MMA's effect on an accumulator. -/
def mmaApply (mom : Bool) (a b : List (List MElem)) (x : Accum) : Accum :=
  let ra := (a.map (chunks 16)).toArray
  let rb := (b.map (chunks 16)).toArray
  let pair := fun (i : Nat) => ((ra[i / 64]?).getD []).zip ((rb[i % 64]?).getD [])
  { mean := planeMap (fun i => accumulate (zget x.mean i) ((pair i).map (fun y => chunkMean y.1 y.2)))
    var := if mom then planeMap (fun i => accumulate (zget x.var i) ((pair i).map (fun y => chunkVar y.1 y.2))) else x.var }

def Accum.zero : Accum := { mean := [], var := [] }
def accKey (a : Bool) : Nat := if a then 1 else 0
def Quarter.accum (q : Quarter) (a : Bool) : Accum := mgetD q.acc (accKey a) Accum.zero
def Quarter.setAccum (q : Quarter) (a : Bool) (x : Accum) : Quarter := { q with acc := mset q.acc (accKey a) x }

/-- The value of an accumulator element as the access word asks for it. -/
def accRead (x : Accum) (w e : Nat) : Nat :=
  if bit w 13 then (zget x.mean e).toNat + 2 ^ 32 * (zget x.var e).toNat
  else (if bit w 12 then zget x.var e else zget x.mean e).toNat

def accWrite (x : Accum) (w e v : Nat) : Accum :=
  if bit w 13 then { mean := zset x.mean e (BitVec.ofNat 32 v), var := zset x.var e (BitVec.ofNat 32 (v / 2 ^ 32)) }
  else if bit w 12 then { x with var := zset x.var e (BitVec.ofNat 32 v) }
  else { x with mean := zset x.mean e (BitVec.ofNat 32 v) }

def accWords (w : Nat) : Nat := if bit w 13 then 2 else 1

/-- The element a lane reaches. -/
def accElem (w lane : Nat) : Nat := 64 * bits w 0 6 + bits w 6 6 + lane

def MmaOp.isMma (m : MmaOp) : Bool := !m.zero && m.move.isNone

/-- An MWR, for which CLOCK does not wait (R250). -/
def MmaOp.writes (m : MmaOp) : Bool := match m.move with | some (.write _ _) => true | _ => false

/-- A queued operation carried out. -/
def State.mmaDo (s : State) (q : Nat) (m : MmaOp) : State :=
  let x := s.quarter q
  if m.zero then s.setQuarter q (x.setAccum m.acc Accum.zero)
  else
    match m.move with
    | some (.read iid w mask) =>
      ((lanes mask).foldl (fun s l => s.gotLane iid l 0 (accRead (x.accum m.acc) w (accElem w l)) none) s).loadDone iid
    | some (.write w vals) => s.setQuarter q (x.setAccum m.acc (vals.foldl (fun a v => accWrite a w (accElem w v.1) v.2) (x.accum m.acc)))
    | none =>
    let ra := mread m.fmt 6 14 m.a
    let rb := mread m.fmt 10 17 m.b
    let ia := (s.tobRead (q / 4) m.aOfs (operandSize m.fmt 6 (Mould.ofNat m.a.mould.toNat))).toArray
    let ib := (s.tobRead (q / 4) m.bOfs (operandSize m.fmt 10 (Mould.ofNat m.b.mould.toNat))).toArray
    let rows := fun (r : MRead) (img : Array Byte) => (List.range 64).map (r.row img)
    s.setQuarter q (x.setAccum m.acc (mmaApply (bit m.fmt.toNat 21) (rows ra ia) (rows rb ib) (x.accum m.acc)))

/-! ### MMA and MZERO (R223, R225, R226, R265) -/

/-- A group that %gang does not list may not use the matrix unit while it lists any (R47). -/
def Ctx.gangDetail (c : Ctx) : Option Nat :=
  let l := gangSlots c.quarter.gang
  if l.length ≥ 2 && !l.contains (c.gk % 16) then some 10 else none

def Ctx.mmaDetail (c : Ctx) (ma mb : Nat) : Option Nat :=
  match (c.slotBad ma).or (c.slotBad mb) with
  | some d => some d
  | none =>
    let fa := fmtCode c.p.fmt 6 (Mould.ofNat (c.quarter.slot ma).mould.toNat)
    let fb := fmtCode c.p.fmt 10 (Mould.ofNat (c.quarter.slot mb).mould.toNat)
    if fmtElem fa != fmtElem fb then some 10 else c.gangDetail

/-- The slot's permutation store is not the identity (R219, R224). -/
def MouldSlot.permutes (x : MouldSlot) : Bool := match x.perm with | some l => l != List.range 512 | none => false

/-- The %fmt fields that an MMA reads (R40, R224, R265): plane counts for NI operands, and PERM where a slot permutes. -/
def fmtRead (w : W32) (a b : MouldSlot) : W32 :=
  let m := 0x203FC0 + (if fmtCode w 6 (Mould.ofNat a.mould.toNat) = 4 then 7 * 2 ^ 14 else 0)
    + (if fmtCode w 10 (Mould.ofNat b.mould.toNat) = 4 then 7 * 2 ^ 17 else 0) + (if a.permutes || b.permutes then 2 ^ 20 else 0)
  w &&& BitVec.ofNat 32 m

/-- The images of an MMA, as TOB ranges (R216). -/
def MmaOp.images (m : MmaOp) : List (Nat × Nat) :=
  if m.isMma then [(m.aOfs, operandImage m.fmt 6 (Mould.ofNat m.a.mould.toNat)), (m.bOfs, operandImage m.fmt 10 (Mould.ofNat m.b.mould.toNat))] else []

/-- What an MMA reads of them. -/
def MmaOp.operands (m : MmaOp) : List (Nat × Nat) :=
  if m.isMma then [(m.aOfs, operandSize m.fmt 6 (Mould.ofNat m.a.mould.toNat)), (m.bOfs, operandSize m.fmt 10 (Mould.ofNat m.b.mould.toNat))] else []

/-- Earlier TLDs of a quarter that write bytes of the ranges (R222) (log 39, DEDUCED). -/
def State.tldsOn (s : State) (q : Nat) (rs : List (Nat × Nat)) : List Nat :=
  (s.xfers.filter (fun x => x.2.q == q && !x.2.out && rs.any (fun r => rangesMeet x.2.tob x.2.size r.1 r.2))).map (·.1)

/-- The operation joins the unit's queue, or is carried out at once: one that is no MMA, with nothing before it on its accumulator. -/
def State.mmaQueue (s : State) (q : Nat) (m : MmaOp) : State :=
  let x := s.quarter q
  if !m.isMma && !x.mmaq.any (fun y => y.acc == m.acc) then s.mmaDo q m
  else
    let (id, s) := s.fresh
    s.setQuarter q { x with mmaq := x.mmaq ++ [{ m with id := id, running := !m.isMma }] }

/-- Poisoned bytes among an operation's operands. -/
def State.mmaPoison (s : State) (core : Nat) (m : MmaOp) : Option Nat :=
  (m.operands.filterMap (fun r => s.tobPoison core r.1 (r.2 / 32 * 32))).head?

/-- The unit cannot take another MMA (R225). -/
def Quarter.mmaFull (q : Quarter) : Bool := decide ((q.mmaq.filter MmaOp.isMma).length ≥ 4)

/-- The last arrival of a round: the operation executes once, and every member goes on with a new stamp (R265); poison raises MCHK at each of them. -/
def Ctx.roundDone (c : Ctx) (r : Round) (m : MmaOp) : State :=
  let s := c.s.setQuarter c.q { c.quarter with round := none }
  match s.mmaPoison c.core m with
  | some a =>
    let s := r.members.foldl (fun s x => let pc := s.pcOf x.1 x.2; s.trapAt x.1 x.2 ⟨.mchk, a⟩ pc pc) s
    { c with s := s }.trap ⟨.mchk, a⟩
  | none =>
    let s := r.members.foldl (fun s x => s.release x.1 x.2) (s.mmaQueue c.q m)
    (c.advance s).modPath c.gk c.pid (fun p => { p with stamp := c.now })

/-- MMA and MZERO past their checks: alone, or through the rendezvous latch (log 39, DEDUCED). -/
def Ctx.matrixOp (c : Ctx) (key : RoundKey) (m : MmaOp) : State :=
  let l := gangSlots c.quarter.gang
  let tlds := c.s.tldsOn c.q m.images
  if l.length < 2 then
    if !tlds.isEmpty then c.wait (.transfers tlds)
    else if !m.zero && c.quarter.mmaFull then c.wait .mmaRoom
    else
      match c.s.mmaPoison c.core m with
      | some a => c.trap ⟨.mchk, a⟩
      | none => c.advance (c.s.mmaQueue c.q m)
  else
    match c.quarter.round with
    | none => c.block (c.s.setQuarter c.q { c.quarter with round := some { key := key, members := [(c.gk, c.pid)] } }) .rendezvous
    | some r =>
      if r.members.any (fun x => x.1 == c.gk) then c.waitBlocked .round
      else if r.key != key then c.ill 10
      else if r.members.length + 1 < l.length then
        c.block (c.s.setQuarter c.q { c.quarter with round := some { r with members := r.members ++ [(c.gk, c.pid)] } }) .rendezvous
      else if !tlds.isEmpty then c.wait (.transfers tlds)
      else if !m.zero && c.quarter.mmaFull then c.wait .mmaRoom
      else c.roundDone r m

def execMma (acc : Bool) (mb ma : BitVec 3) (o : Ops) : State → Host.Outcome State Fault Refusal :=
  perform (.mma acc mb ma o) (fun c => c.mmaDetail ma.toNat mb.toNat) noPriv (fun c => c.once' (fun c =>
    let a := c.quarter.slot ma.toNat
    let b := c.quarter.slot mb.toNat
    let ao := c.val o.a 1 c.lead
    let bo := c.val o.b 1 c.lead
    let m : MmaOp := { id := 0, acc := acc, zero := false, gk := c.gk, a := a, b := b, aOfs := ao, bOfs := bo, fmt := c.p.fmt, running := false }
    match m.images.find? (fun r => r.1 % 1024 != 0 || decide (r.1 + r.2 > tobBytes c.launch.banks)) with
    | some r => c.trap ⟨.prot, r.1⟩
    | none =>
      c.matrixOp
        { zero := false, acc := acc, ma := ma.toNat, mb := mb.toNat, aOfs := ao, bOfs := bo,
          fmt := fmtRead c.p.fmt a b } m))

def execMzero (acc : Bool) (o : Ops) : State → Host.Outcome State Fault Refusal :=
  perform (.mzero acc o) Ctx.gangDetail noPriv (fun c => c.once' (fun c =>
    c.matrixOp { zero := true, acc := acc, ma := 0, mb := 0, aOfs := 0, bOfs := 0, fmt := 0 }
      { id := 0, acc := acc, zero := true, gk := c.gk, a := MouldSlot.empty, b := MouldSlot.empty, aOfs := 0, bOfs := 0, fmt := 0, running := false }))

/-! ### MRD and MWR (R226) -/

/-- The access word. -/
def Ctx.accWord (c : Ctx) : Nat := c.val c.o.a 1 c.lead

/-- The rows a member of a gang owns: floor(64 i / n) up to floor(64 (i + 1) / n). -/
def ownsRow (l : List Nat) (slot row : Nat) : Bool :=
  let i := l.findIdx (fun x => x == slot)
  decide (64 * i / l.length ≤ row) && decide (row < 64 * (i + 1) / l.length)

/-- What makes MRD and MWR raise ILL (R99, R226): `x` is the register named. -/
def Ctx.accDetail (c : Ctx) (x : Sel) : Option Nat :=
  let w := c.accWord
  let pair := bit w 13
  let l := gangSlots c.quarter.gang
  let odd := match x with | .v n => n.toNat % 2 == 1 || n.toNat ≥ 254 | _ => false
  if c.acts = 0 then none
  else if pair && odd then some 4
  else if w / 2 ^ 14 != 0 || (pair && bit w 12) || bits w 6 6 + c.g.width > 64 then some 10
  else if l.length < 2 then none
  else if !l.contains (c.gk % 16) || !ownsRow l (c.gk % 16) (bits w 0 6) then some 10
  else none

/-- The second register of a pair is pending. -/
def Ctx.pairPending (c : Ctx) (x : Sel) : List Nat :=
  if bit c.accWord 13 then (selKeys x 2).filter (fun k => (c.s.outstanding c.g).any (fun p => p.reg == k)) else []

/-- MRD and MWR: carried out at once where nothing is before them on the accumulator, else queued at the unit behind the operations issued before them, an
MRD with its registers pending (R225, R255). -/
def Ctx.accOp (c : Ctx) (acc : Bool) (x : Sel) (now : State) (later : Ctx → State) : State :=
  if !(c.pairPending x).isEmpty then c.wait (.regs (c.pairPending x))
  else if c.acts != 0 && c.quarter.mmaq.any (fun m => m.acc == acc) then c.advance (later c)
  else c.advance now

/-- An operation on an accumulator that is not an MMA. -/
def Ctx.accMove (c : Ctx) (acc : Bool) (m : AccMove) : MmaOp :=
  { id := 0, acc := acc, zero := false, gk := c.gk, a := MouldSlot.empty, b := MouldSlot.empty, aOfs := 0, bOfs := 0, fmt := 0, running := false, move := some m }

/-- A queued MRD: the registers it is to write are pending. -/
def Ctx.readLater (c : Ctx) (acc : Bool) (w : Nat) : State :=
  let (iid, s) := c.s.fresh
  let l : LoadI :=
    { gk := c.gk, pid := c.pid, pc := c.p.pc, mask := c.acts, dst := c.o.d, words := accWords w, uni := false, nwb := false, latch := none, back := c.restart c.s,
      left := c.acts, upper := 0, got := [], poison := none }
  let s := { s with loads := mset s.loads iid l }
  let s := s.modGroup c.gk (fun g =>
    { g with pending := g.pending ++ (selKeys c.o.d (accWords w)).map (fun k => { reg := k, pc := c.p.pc, iid := iid }) })
  s.mmaQueue c.q (c.accMove acc (.read iid w c.acts))

def execMrd (acc : Bool) (o : Ops) : State → Host.Outcome State Fault Refusal :=
  perform (.mrd acc o) (fun c => c.accDetail o.d) noPriv (fun c =>
    let w := c.accWord
    let x := c.quarter.accum acc
    c.accOp acc o.d (c.s.modGroup c.gk (fun g => (lanes c.acts).foldl (fun g l => g.setSel o.d l (accRead x w (accElem w l)) (accWords w)) g))
      (fun c => c.readLater acc w))

def execMwr (acc : Bool) (o : Ops) : State → Host.Outcome State Fault Refusal :=
  perform (.mwr acc o) (fun c => c.accDetail o.b) noPriv (fun c =>
    let w := c.accWord
    let vals := (lanes c.acts).map (fun l => (l, c.val o.b (accWords w) l))
    let x := vals.foldl (fun x v => accWrite x w (accElem w v.1) v.2) (c.quarter.accum acc)
    c.accOp acc o.b (if c.acts = 0 then c.s else c.s.setQuarter c.q ((c.s.quarter c.q).setAccum acc x))
      (fun c => c.s.mmaQueue c.q (c.accMove acc (.write w vals))))

/-! ### MQRY (R227) -/

def Quarter.queuedOn (q : Quarter) (a : Bool) : Nat := (q.mmaq.filter (fun m => m.isMma && m.acc == a)).length

def Ctx.mqryWord (c : Ctx) (code : Nat) : Nat :=
  let q := c.quarter
  match code with
  | 0 => min 7 (q.queuedOn false) + 16 * min 7 (q.queuedOn true)
  | 1 =>
    ((List.range 8).map (fun i => if (q.slot i).valid then 2 ^ i else 0)).sum
      + (match q.round with | some r => (r.members.map (fun m => 2 ^ (16 + m.1 % 16))).sum | none => 0)
  | _ => q.gang.toNat

def execMqry (o : Ops) : State → Host.Outcome State Fault Refusal :=
  perform (.mqry o) (fun c => if c.actsOnce && decide (c.val o.a 1 c.lead > 2) then some 10 else none) noPriv (fun c =>
    c.once (fun c => c.s.setUniform c.gk o.d 1 (c.mqryWord (c.val o.a 1 c.lead))))

/-! ### Events -/

/-- MMA_START (R225): the first operation in the queue that has not started. -/
def execMmaStart (q : Key) (s : State) : Host.Outcome State Fault Refusal :=
  .next
    (let x := s.quarter q
     match x.mmaq.find? (fun m => !m.running) with
     | none => s
     | some m => s.setQuarter q { x with mmaq := x.mmaq.map (fun y => if y.id = m.id then { y with running := true } else y) })

/-- The operations other than MMAs that stand at the front of their accumulators' orders are carried out. -/
def State.zerosDone (q : Nat) : Nat → State → State
  | 0, s => s
  | n + 1, s =>
    let x := s.quarter q
    match x.mmaq.find? (fun m => !m.isMma && (x.mmaq.find? (fun y => y.acc == m.acc)).map (·.id) == some m.id) with
    | none => s
    | some m => State.zerosDone q n ((s.setQuarter q { x with mmaq := x.mmaq.filter (fun y => y.id != m.id) }).mmaDo q m)

/-- MMA_COMPLETE (R225): a started MMA with nothing before it on its accumulator writes its result. -/
def execMmaComplete (q : Key) (s : State) : Host.Outcome State Fault Refusal :=
  .next
    (let x := s.quarter q
     match x.mmaq.find? (fun m => m.running && m.isMma && (x.mmaq.find? (fun y => y.acc == m.acc)).map (·.id) == some m.id) with
     | none => s
     | some m => (State.zerosDone q x.mmaq.length ((s.setQuarter q { x with mmaq := x.mmaq.filter (fun y => y.id != m.id) }).mmaDo q m)).teamCheck (q / 4))

/-- Whether a transfer still waits: R222 for the TOB, R183 for the memory a TST writes. -/
def State.xferWaits (s : State) (id : Nat) (x : Xfer) : Bool :=
  s.xfers.any (fun y => decide (y.1 < id) && y.2.q == x.q && !(x.out && y.2.out) && rangesMeet y.2.tob y.2.size x.tob x.size)
  || (!x.out && (s.quarter x.q).mmaq.any (fun m => decide (m.id < id) && m.images.any (fun r => rangesMeet r.1 r.2 x.tob x.size)))
  || (x.out && s.accesses.any (fun a => decide (a.1 < id) && a.2.gk == x.gk && !a.2.op.loose && x.meets a.2.loc a.2.len))
  || (x.out && s.xfers.any (fun y => decide (y.1 < id) && y.2.gk == x.gk && y.2.out && y.2.runs.any (fun r => x.meets r.loc r.len)))

/-- A sector takes the orientation a request asks for (R276). -/
def State.orient (s : State) (sector : Nat) (cols : Option Bool) : State :=
  if mget? s.columns sector = cols then s
  else { s.clean sector with columns := match cols with | some w => mset s.columns sector w | none => merase s.columns sector }

/-- The sectors of a piece, in the transfer's orientation. -/
def State.orientRun (s : State) (x : Xfer) (r : Run) : State :=
  if r.cached then (sectorsIn r.loc r.len).foldl (fun s k => s.orient k x.cols) s else s

/-- The 32-byte lines of a range that are poisoned, as offsets in it with their lengths (R449). -/
def State.badParts (s : State) (loc len : Nat) : List (Nat × Nat) :=
  if s.poison.isEmpty then []
  else
    (s.poison.filter (fun k => decide (k * 32 < loc + len) && decide (loc < k * 32 + 32))).map (fun k =>
      (k * 32 - loc, min (k * 32 + 32) (loc + len) - max (k * 32) loc))

/-- Poison laid on every line of a range. -/
def State.poisonRange (s : State) (loc len : Nat) : State :=
  (List.range ((loc % 32 + len + 31) / 32)).foldl (fun s i => s.poisonLine (loc / 32 * 32 + 32 * i)) s

/-- A TLD's image (log 23, DESIGN CHOICE). -/
def State.tldDo (s : State) (x : Xfer) : State :=
  let s := x.runs.foldl (fun s r => s.orientRun x r) s
  let poison := x.runs.flatMap (fun r => (s.badParts r.loc r.len).map (fun b => (r.img + b.1, b.2)))
  let img := x.runs.map (fun r => (r.img, s.bytes r.loc r.len))
  let s := s.tobWrite x.core x.tob (List.replicate x.size 0) (x.size / 1024 + 1)
  let s := img.foldl (fun s p => s.rewrite (s.tobLoc x.core (x.tob + p.1)) p.2) s
  let s := x.pads.foldl (fun s i => s.rewrite (s.tobLoc x.core (x.tob + i)) [0x7F]) s
  poison.foldl (fun s b => s.poisonRange (s.tobLoc x.core (x.tob + b.1)) b.2) s

/-- A TST's stores, of scope .dev (R221): each piece takes its bytes, and their poison; the issuing core's copy of a line takes them too (R188). -/
def State.tstDo (s : State) (x : Xfer) : State :=
  x.runs.foldl (fun s r =>
    let a := s.tobLoc x.core (x.tob + r.img)
    let bs := s.bytes a r.len
    let bad := s.badParts a r.len
    let s := (s.orientRun x r).putLines r.cached (!x.past) r.loc bs
    let s := if r.cached then s.setCore x.core ((s.core x.core).updateAll r.loc bs) else s
    bad.foldl (fun s b => s.poisonRange (r.loc + b.1) b.2) s) s

/-- The mould engine may read or write the pieces of a transfer now (R290, R293). -/
def State.xferReaches (s : State) (x : Xfer) : Bool :=
  x.runs.all (fun r => if x.out then s.mayWrite (dieOfCore x.core) r.loc r.len else s.mayRead (dieOfCore x.core) r.loc r.len)

/-- The pages of the next tile, where they translate without a fault, are in the mould engine's TLB (R286). -/
def State.walkAhead (s : State) (x : Xfer) : State :=
  let l := s.launch x.launch
  x.ahead.foldl (fun s va => if va < windowBase then (s.translate (mouldUnit x.core) l.part l.asid va).2 else s) s

/-- MOULD_TRANSFER_DONE (R220, R221) (log 23, DESIGN CHOICE). -/
def execMouldTransferDone (id : Key) (s : State) : Host.Outcome State Fault Refusal :=
  .next
    (match mget? s.xfers id with
     | none => s
     | some x =>
       if s.xferWaits id x || !s.xferReaches x then s
       else
         let s := (if x.out then s.tstDo x else s.tldDo x).walkAhead x
         ({ s with xfers := merase s.xfers id }).teamCheck x.core)

end Sys2Proof.Machine
end

