-- ==== Sys2Proof/Machine/Jobs.lean ====
section
/-! DEFINITION. Engine jobs: cards and their refusal (R313, R331, R332), the job scheduler (R287, R234, R235), what the engines do (R332, R333) and the events of
a job's life. -/

namespace Sys2Proof.Machine

/-! ### The card (R331) -/

structure Card where
  kind : Nat
  lscope : Nat
  nobar : Bool
  param : Nat
  bar : Nat
  r1 : Nat
  r1len : Nat
  r2 : Nat
  r2len : Nat
  w : Nat
  wlen : Nat
  mofsa : Int
  mofsb : Int
  const : Nat
  restart : Nat
  rsvd : Bool
  deriving DecidableEq, Repr

def Card.ofNat (x : Nat) : Card :=
  { kind := bits x 0 4, lscope := bits x 8 3, nobar := bit x 12, param := bits x 16 8, bar := bits x 32 32, r1 := bits x 64 64, r1len := bits x 128 32,
    r2 := bits x 160 64, r2len := bits x 224 32, w := bits x 256 64, wlen := bits x 320 32, mofsa := sext (bits x 352 32) 32, mofsb := sext (bits x 384 32) 32,
    const := bits x 416 32, restart := bits x 448 32,
    rsvd := bits x 480 32 != 0 || bits x 24 8 != 0 || bits x 13 3 != 0 || bit x 11 || bits x 4 4 != 0 }

def Job.c (j : Job) : Card := Card.ofNat j.card.toNat

/-! ### Tiles of a MOULD job (R332, R284) -/

/-- A virtual range lies within another. -/
def within (va n base len : Nat) : Bool := decide (base ≤ va) && decide (va + n ≤ base + len)

/-- Every byte of the tiles that mould `a` numbers lies in a region. -/
def Mould.inside (m a : Mould) (base len : Nat) : Bool :=
  (List.range a.tileCount).all (fun i => (m.layout m.orient (tileAt i a.tiles)).1.all (fun p => within p.2.1 p.2.2 base len))

/-- The requirement of a MOULD card (R332): the tiles moved are those of mould A (log 94, DEDUCED). -/
def mouldsOk (c : Card) (a b : Mould) : Bool :=
  !a.bad && !b.bad && a.trows == b.trows && a.tbytes == b.tbytes && a.efmt == b.efmt && a.inside a c.r1 c.r1len && b.inside a c.w c.wlen

/-! ### Refusal (R313, R332) -/

/-- The footprint rule of the card's kind; a MOULD's moulds are looked at apart. -/
def Card.footprint (c : Card) : Bool :=
  match c.kind with
  | 0 => c.r1len == c.wlen && c.wlen > 0 && c.r2len == 0
  | 1 => c.r1len == 0 && c.r2len == 0 && c.wlen > 0 && c.wlen % 4 == 0
  | 2 => 2 ≤ c.param && c.param ≤ 12 && c.r2len % 4 == 0 && c.wlen == c.r2len / 4 * 2 ^ c.param
  | 3 => true
  | 4 => c.r1len == c.wlen && c.wlen > 0 && c.wlen % 4 == 0 && c.r2len == 0
  | _ =>
    c.wlen ≤ 65536 && c.wlen > 0 && c.r2len == 0 && c.param ≤ 2 && c.w % 4 == 0 && (c.r1len == 0 || c.r1 % 4 == 0)
      && (match c.param with
          | 0 => c.wlen % 4 == 0 && c.r1len == c.wlen
          | 1 => c.wlen % 8 == 0 && c.w % 8 == 0 && c.r1len == c.wlen / 2
          | _ => c.wlen % 4 == 0 && c.r1len == 0)

def Card.restartOk (c : Card) : Bool :=
  c.restart == 0 || (c.kind != 3 && c.kind != 5 && c.restart % 4096 == 0 && c.restart < c.wlen)

/-- The refusal code of a card, 0 for none: `barOk` says that BAR is a scratch address of the issuing team, `moulds` that a MOULD card's moulds do, and
`peer` that a region lies in a peer package. -/
def Card.code (c : Card) (barOk moulds peer : Bool) : Nat :=
  if c.rsvd then 1
  else if c.kind ≥ 6 then 2
  else if c.bar % 16 != 0 then 6
  else if !c.footprint || !c.restartOk || (if c.nobar then c.bar != 0 else !barOk) || (c.kind == 3 && !moulds) then 10
  else if c.lscope == 0 || c.lscope > 5 || (peer && c.lscope != 5) then 11
  else 0

/-- A refusal that the moulds of a MOULD card cannot lower: they are not read then (R313). -/
def Card.early (c : Card) (code : Nat) : Bool := c.kind != 3 || (code != 0 && decide (code ≤ 10))

/-- Some page of a region lies in a peer package, as the tables stand. -/
def State.peerRegion (s : State) (u p asid va n : Nat) : Bool :=
  (spans (n / 65536 + 2) va n).any (fun x =>
    x.1 < windowBase && (match s.translate u p asid x.1 with | (.ok (l, _), _) => l.peer | _ => false))

/-! ### The scheduler (R287, R234, R235) -/

/-- Jobs of a partition on a die submitted after number `seq`. -/
def State.newerJobs (s : State) (p d seq : Nat) : Nat := (s.jobs.filter (fun x => x.2.part == p && x.2.die == d && decide (seq < x.2.seq))).length

/-- A die's scheduler keeps the last 4,096 jobs of a partition, and every older one that is not over (R235). -/
def State.trimJobs (s : State) (p d : Nat) : State :=
  { s with jobs := s.jobs.filter (fun x => !(x.2.part == p && x.2.die == d && x.2.st.over && decide (s.newerJobs p d x.2.seq ≥ 4096))) }

/-- A job accepted: its handle has the die in bit 24 and a sequence number below. -/
def State.submit (s : State) (j : Job) : Nat × State :=
  let (id, s) := s.fresh
  let h := j.die * 2 ^ 24 + id % 2 ^ 24
  (h, State.trimJobs { s with jobs := mset s.jobs id { j with handle := h, seq := id } } j.part j.die)

/-- Ranges that share a byte; a length of 0 names no region. -/
def shares (a n b k : Nat) : Bool := n > 0 && k > 0 && rangesMeet a n b k

/-- Job J has to wait for job I, submitted earlier (R287). -/
def Card.after (j i : Card) : Bool :=
  shares i.w i.wlen j.r1 j.r1len || shares i.w i.wlen j.r2 j.r2len || shares i.w i.wlen j.w j.wlen || shares i.r1 i.r1len j.w j.wlen
    || shares i.r2 i.r2len j.w j.wlen

def State.jobBlocked (s : State) (j : Job) : Bool :=
  s.jobs.any (fun x => decide (x.2.seq < j.seq) && x.2.die == j.die && x.2.part == j.part && x.2.asid == j.asid && JState.open x.2.st && j.c.after x.2.c)

/-- See log 46, DEDUCED. -/
def JState.code : JState → Nat
  | .waiting => 0 | .running => 1 | .complete => 2 | .stopped => 3 | .failed => 4

/-- The word of JQRY (R235). -/
def State.jobWord (s : State) (p h : Nat) : Nat :=
  match s.jobs.find? (fun x => x.2.part == p && x.2.handle == h && decide (s.newerJobs p x.2.die x.2.seq < 4096)) with
  | none => 2 ^ 31
  | some x => x.2.st.code + (if x.2.st = .failed then x.2.cause * 256 else 0)

/-- The translating unit of a card's engine; an UPDATE's is found when it starts (R332) (log 46, DEDUCED). -/
def Card.engine (c : Card) (core die : Nat) : Nat :=
  match c.kind with
  | 0 => pourUnit core
  | 1 => pourUnit core
  | 2 => gatherUnit die
  | 3 => mouldUnit core
  | 4 => collectiveUnit die
  | _ => saggarUnit (4 * die)

/-! ### JOB and JQRY -/

/-- Whether a region of a card lies in a peer package, where its landing scope has to know (R313). -/
def State.cardPeer (s : State) (p asid die : Nat) (k : Card) : Bool :=
  let far := s.peerRegion (collectiveUnit die) p asid
  k.lscope != 5 && (far k.r1 k.r1len || far k.r2 k.r2len || far k.w k.wlen)

/-- The storage of the landing object that a card names, a scratch address of the issuing team (R186, R332). -/
def Ctx.cardBar (c : Ctx) (k : Card) : Option Nat :=
  match c.scratchPlace k.bar 16 with
  | .at loc _ _ => if bankCore loc == c.core then some loc else none
  | _ => none

def Ctx.cardCode (c : Ctx) (k : Card) (moulds : Bool) : Nat := k.code (c.cardBar k).isSome moulds (c.s.cardPeer c.part c.asid c.die k)

/-- JOB past its card's reading: refused with a code, or submitted. -/
def Ctx.submitCard (c : Ctx) (s : State) (card : Nat) (ms : List Nat) (code : Nat) : State :=
  let k := Card.ofNat card
  if code != 0 then
    (if c.o.d.isZero then { c with s := s }.trap ⟨.prot, c.addr c.o.a c.lead⟩ else c.advance (s.setUniform c.gk c.o.d 1 (2 ^ 31 + code)))
  else
    let (h, s) := s.submit
      { handle := 0, seq := 0, part := c.part, asid := c.asid, die := c.die, gk := some c.gk, launch := some c.g.launch, core := some c.core, pc := c.p.pc.toNat,
        card := BitVec.ofNat 512 card, bar := if k.nobar then none else c.cardBar k, st := .waiting, cause := 0,
        pos := k.restart, frec := none, sys := c.sys, got := [], wrote := 0, eng := k.engine c.core c.die, checked := false, moulds := ms.map (BitVec.ofNat 512) }
    c.advance (if c.o.d.isZero then s else s.setUniform c.gk c.o.d 1 h)

def execJob (o : Ops) : State → Host.Outcome State Fault Refusal :=
  perform (.job o) noDetail noPriv (fun c => c.once' (fun c =>
    let ea := c.addr c.o.a c.lead
    if ea % 64 != 0 then c.trap ⟨.prot, ea⟩
    else if c.g.fenceHolds setE then c.wait (.fenced setE)
    else if c.s.openJobs c.die ≥ 1024 then c.wait .jobRoom
    else c.withRecord ea 64 (fun bs s =>
      let w := leNat bs
      let k := Card.ofNat w
      let code := c.cardCode k true
      if k.early code then c.submitCard s w [] code
      else
        ({ c with s := s } : Ctx).withRecord (wrap 64 ((ea : Int) + k.mofsa * 64)) 64 (fun ba s =>
          ({ c with s := s } : Ctx).withRecord (wrap 64 ((ea : Int) + k.mofsb * 64)) 64 (fun bb s =>
            c.submitCard s w [leNat ba, leNat bb] (c.cardCode k (mouldsOk k (Mould.ofNat (leNat ba)) (Mould.ofNat (leNat bb)))))))))

def execJqry (o : Ops) : State → Host.Outcome State Fault Refusal :=
  perform (.jqry o) noDetail noPriv (fun c => c.once (fun c => c.s.setUniform c.gk o.d 1 (c.s.jobWord c.part (c.val o.a 1 c.lead))))

/-! ### What an engine meets -/

inductive JRes where
  | bytes (bs : List Byte)
  /-- A translation fault: the record's KIND, the address, its CAUSE. -/
  | page (kind va cause : Nat)
  | fail (cause : Nat)
  /-- Bytes at a peer package: their virtual address and number, the package, the frame, the offset. -/
  | peer (va n pkg frame ofs : Nat)
  /-- Something has to be performed there first. -/
  | held
  deriving DecidableEq, Repr

/-- What refuses an engine a range: a refusal of a page, then a translation fault. -/
def spansBad (k : AccKind) (xs : List (Nat × Nat × Place)) : Option JRes :=
  if xs.any (fun x => x.2.2 == .prot) then some (.fail 2)
  else ((xs.filterMap spanFault).head?).map (fun f => .page k.code f.1 f.2)

/-- Bytes of a span that a peer has sent. -/
def Job.sent (j : Job) (va n : Nat) : Option (List Byte) := (j.got.find? (fun x => x.1 == va && x.2.length == n)).map (·.2)

/-- The bytes of spans in order; none at the first that a peer has still to send. -/
def State.spanBytes (s : State) (j : Job) : List (Nat × Nat × Place) → Except JRes (List Byte)
  | [] => .ok []
  | (va, n, x) :: l =>
    match x, s.spanBytes j l with
    | .at loc _ _, .ok bs => .ok (s.bytes loc n ++ bs)
    | .peer p f o, r =>
      (match j.sent va n, r with
       | none, _ => .error (.peer va n p f o)
       | some a, .ok bs => .ok (a ++ bs)
       | some _, .error e => .error e)
    | _, .ok bs => .ok bs
    | _, .error e => .error e

/-- An engine's read of a virtual range. -/
def State.jobRead (s : State) (j : Job) (va n : Nat) : JRes × State :=
  let (xs, s) := s.spanPlaces j.eng j.part j.asid j.sys .engRead (spans (n / 65536 + 2) va n)
  match spansBad .engRead xs with
  | some e => (e, s)
  | none =>
    let ls := xs.filterMap spanLoc
    if ls.any (fun x => !s.mayRead j.die x.loc x.len) then (.held, s)
    else if s.poisonedLocs ls then (.fail 3, s)
    else
      let s := s.rowsOf ls
      match s.spanBytes j xs with
      | .ok bs => (.bytes bs, s)
      | .error e => (e, s)

/-- Bytes written by a unit at storage ranges, in one event (R281, R293). -/
def State.engineLocs (s : State) : List Spot → List Byte → State
  | [], _ => s
  | x :: l, bs => (s.homeWrite x.cached true x.loc (bs.take x.len)).engineLocs l (bs.drop x.len)

/-! ### One piece of a job (R332) -/

def addWords (w a : List Byte) : List Byte := natLe 4 (fadd (leNat w) (BitVec.ofNat 32 (leNat a)))

/-- Two words a piece: each half of 4 bytes by itself. -/
def eachWord (f : List Byte → List Byte → List Byte) (w a : List Byte) : List Byte :=
  if w.length ≤ 4 then f w a else f (w.take 4) (a.take 4) ++ f (w.drop 4) (a.drop 4)

/-- The bytes of W from the job's place on: `k` of them. -/
def State.jobValue (s : State) (j : Job) (k : Nat) : JRes × State :=
  let c := j.c
  let at0 := c.w + j.pos
  let both := fun (va n : Nat) (f : List Byte → List Byte → State → List Byte × State) =>
    match s.jobRead j va n with
    | (.bytes a, s) => (match s.jobRead j at0 k with | (.bytes w, s) => let (bs, s) := f w a s; (.bytes bs, s) | x => x)
    | x => x
  match c.kind with
  | 0 => s.jobRead j (c.r1 + j.pos) k
  | 1 => (.bytes ((List.range k).map (fun i => BitVec.ofNat 8 (bits c.const (8 * ((j.pos + i) % 4)) 8))), s)
  | 2 =>
    let row := 2 ^ c.param
    (match s.jobRead j (c.r2 + 4 * (j.pos / row)) 4 with
     | (.bytes ib, s) =>
       let i := leNat ib
       if (i + 1) * row > c.r1len then (.bytes (List.replicate k 0), s) else s.jobRead j (c.r1 + i * row + j.pos % row) k
     | x => x)
  | 4 => both (c.r1 + j.pos) k (fun w a s => (addWords w a, s))
  | _ =>
    match c.param with
    | 0 => both (c.r1 + j.pos) k (fun w a s => (eachWord addWords w a, s))
    | 1 =>
      both (c.r1 + j.pos / 2) 4 (fun w a s =>
        let loc := match s.place j.eng j.part j.asid j.sys .engRead at0 with | (.at loc _ _, _) => loc | _ => 0
        let (v, stale) := s.ringAdd (stackOf loc) j.part j.asid (leNat w) (BitVec.ofNat 32 (leNat a))
        (natLe 8 v, if stale then s.ringStale j.part j.asid (stackOf loc) at0 else s))
    | _ =>
      (match s.jobRead j at0 k with
       | (.bytes w, s) => (.bytes (eachWord (fun w _ => natLe 4 (rne32 ((f32 (BitVec.ofNat 32 (leNat w))).mul (f32 (BitVec.ofNat 32 c.const)))).toNat) w []), s)
       | x => x)

/-- Length of the next piece: within the bytes asked for and left, one page of W, and a row; a word of the kinds that compute, and both words of an aligned
64-bit word of an UPDATE (R281) (log 24, DEDUCED). -/
def Job.piece (j : Job) (n : Nat) : Nat :=
  let c := j.c
  let k := min (min n (c.wlen - j.pos)) (65536 - (c.w + j.pos) % 65536)
  match c.kind with
  | 0 => min k (65536 - (c.r1 + j.pos) % 65536)
  | 1 => k
  | 2 => min k (2 ^ c.param - j.pos % 2 ^ c.param)
  | 4 => 4
  | _ => if c.param = 1 || ((c.w + j.pos) % 8 == 0 && decide (c.wlen - j.pos ≥ 8)) then 8 else 4

/-- Whether the landing object's team is still the one that issued the job. -/
def State.landsHere (s : State) (j : Job) (loc : Nat) : Bool :=
  match (s.core (bankCore loc)).team, j.launch with
  | some t, some l => t.launch == l
  | _, _ => false

/-- Written bytes counted on the landing object (R303, R207). -/
def State.jobLand (s : State) (j : Job) (n : Nat) : State :=
  match j.bar with
  | some loc => if n > 0 && s.landsHere j loc then s.landBytes loc n else s
  | none => s

def State.setJob (s : State) (id : Nat) (j : Job) : State := { s with jobs := mset s.jobs id j }

def State.failJob (s : State) (id cause : Nat) : State :=
  { s with
    jobs := mmodify s.jobs id (fun j => { j with st := .failed, cause := cause, frec := none, got := [] })
    peers := s.peers.filter (fun x => x.2.job != some id) }

/-- A job waits in its engine for a fault record to be resolved (R344, R345). -/
def State.jobFault (s : State) (id : Nat) (j : Job) (kind va cause : Nat) : State :=
  let (f, s) := s.postFault
    { id := 0, part := j.part, die := j.die, kind := kind, cause := cause, asid := j.asid, gk := j.gk, mask := 0, pc := if j.gk.isSome then j.pc else 0, va := va,
      posted := false }
  s.setJob id { j with frec := some f }

/-- An access of a job on its way, to a peer package or to the other die: it belongs to no group of its die. -/
def Job.access (j : Job) (id : Nat) (op : Op) (loc len va : Nat) (cached : Bool) (home : Nat) (relied peer : Option Nat) : Access :=
  { iid := id, gk := 2 ^ 20 + j.die, launch := j.launch.getD id, part := j.part, asid := j.asid, die := j.die, core := 192, lane := 0, op := op,
    scope := if peer.isSome then .sys else .dev, rh := .df, loc := loc, len := len, va := va, cacheable := cached, crossing := true, home := home, word := 0,
    relied := relied, claimed := false, peer := peer }

/-- An engine's access to a peer package sent out: `bs` are the bytes of a write. -/
def State.jobPeer (s : State) (id : Nat) (j : Job) (va n pkg frame ofs : Nat) (bs : Option (List Byte)) : State :=
  let (k, s) := s.fresh
  let op := match bs with | some b => Op.store b | none => .load .b128
  { s with
    peers := mset s.peers k
      { gk := 0, pid := 0, job := some id, pkg := pkg, acc := j.access id op (frame * 65536 + ofs) n va false 2 none (some pkg), since := s.dieCycle j.die,
        fail := none } }

/-- Bytes of W at storage of this package. With a landing scope narrower than .dev, bytes homed on the other die are counted once the bridge has them and the
engine's die holds no replica of their sector, and are performed later (R303). -/
def State.jobStore (s : State) (id : Nat) (j : Job) (x : Spot) (bs : List Byte) : State :=
  if decide (j.c.lscope < Scope.dev.code) && isHbm x.loc && stackOf x.loc / 4 != j.die then
    let s := if x.cached then { s with replicas := s.replicas.filter (fun k => !(sectorsIn x.loc x.len).any (fun y => k.1 == replicaKey j.die y)) } else s
    let (n, s) := s.fresh
    let (k, s) := s.fresh
    { s with accesses := mset s.accesses k (j.access id (.land bs) x.loc x.len 0 x.cached (stackOf x.loc / 4) (some n) none) }
  else s.engineLocs [x] bs

/-- The bytes of a piece sent to their places: those at peers are still to be acknowledged. -/
def State.jobSend (s : State) (id : Nat) (j : Job) : List (Nat × Nat × Place) → List Byte → State
  | [], _ => s
  | (va, n, x) :: l, bs =>
    let t := match x with
      | .at loc h _ => (s.jobStore id j ⟨loc, n, h == Home.cacheable⟩ (bs.take n)).jobLand j n
      | .peer p f o => s.jobPeer id j va n p f o (some (bs.take n))
      | _ => s
    t.jobSend id j l (bs.drop n)

/-- The job's place `k` bytes on. -/
def State.jobStep (s : State) (id k : Nat) : State :=
  { s with jobs := mmodify s.jobs id (fun j => { j with pos := j.pos + k, got := [], wrote := 0 }) }

/-- One piece: its bytes are made and written, and counted; otherwise the job waits or fails. -/
def State.jobPiece (s : State) (id : Nat) (j : Job) (k : Nat) : State :=
  match s.jobValue j k with
  | (.page kd va e, s) => s.jobFault id j kd va e
  | (.fail e, s) => s.failJob id e
  | (.peer va n p f o, s) => s.jobPeer id j va n p f o none
  | (.held, _) => s
  | (.bytes bs, s1) =>
    let (xs, s1) := s1.spanPlaces j.eng j.part j.asid j.sys .engWrite (spans (bs.length / 65536 + 2) (j.c.w + j.pos) bs.length)
    match spansBad .engWrite xs with
    | some (.page kd va e) => s1.jobFault id j kd va e
    | some _ => s1.failJob id 2
    | none =>
      if xs.any (fun x => match x.2.2 with | .at loc _ _ => !s1.mayWrite j.die loc x.2.1 | _ => false) then s
      else
        let s1 := s1.jobSend id j xs bs
        if s1.peers.any (fun x => x.2.job == some id) then { s1 with jobs := mmodify s1.jobs id (fun j => { j with wrote := bs.length }) }
        else s1.jobStep id bs.length

/-- A region of the job reaches a peer package, so that a piece is at most 16 bytes. -/
def State.jobFar (s : State) (j : Job) : Bool :=
  let c := j.c
  let far := s.peerRegion j.eng j.part j.asid
  far c.r1 c.r1len || far c.r2 c.r2len || far c.w c.wlen

/-- Jobs that stop for pre-emption (R332, R354). -/
def Job.stops (j : Job) : Bool := j.c.kind ≤ 4 && j.c.kind != 3 && j.pos % 4096 == 0

/-- The team that issued the job is being pre-empted (R354). -/
def State.jobHeld (s : State) (j : Job) : Bool :=
  match j.core, j.launch with
  | some c, some l => (match (s.core c).team with | some t => t.launch == l && t.preempt.isSome | none => false)
  | _, _ => false

/-- The job can go on: it runs, waits for no fault record and no peer, and does not stand where it is to stop (R354). -/
def State.jobGoes (s : State) (id : Nat) (j : Job) : Bool :=
  j.st = .running && j.frec.isNone && !s.peers.any (fun x => x.2.job == some id) && !(s.jobHeld j && j.stops && decide (j.pos < j.c.wlen))

/-- Pieces until `n` bytes are written or the job is held up; a team's pre-emption lets none pass a multiple of 4,096. -/
def State.jobRun (id : Nat) : Nat → Nat → State → State
  | 0, _, s => s
  | fuel + 1, n, s =>
    match mget? s.jobs id with
    | none => s
    | some j =>
      if n = 0 || j.pos ≥ j.c.wlen || !s.jobGoes id j then s
      else
        let k := if s.jobFar j then min (j.piece n) (16 - (if j.c.kind = 0 then (j.c.r1 + j.pos) % 16 else 0)) else j.piece n
        let k := if s.jobHeld j && j.c.kind ≤ 4 then min k (4096 - j.pos % 4096) else k
        let s := s.jobPiece id j k
        match mget? s.jobs id with
        | none => s
        | some j' => if j'.pos = j.pos then s else State.jobRun id fuel (n - (j'.pos - j.pos)) s

/-! ### A tile of a MOULD job -/

/-- A piece list read into an image. -/
def State.tileRead (s : State) (j : Job) : List (Nat × Nat × Nat) → List (Nat × List Byte) → JRes × List (Nat × List Byte) × State
  | [], acc => (.bytes [], acc, s)
  | (i, va, n) :: l, acc =>
    match s.jobRead j va n with
    | (.bytes bs, s) => s.tileRead j l ((i, bs) :: acc)
    | (.peer _ _ _ _ _, s) => (.fail 2, acc, s)
    | (x, s) => (x, acc, s)

/-- The image's bytes by offset, zero where nothing lies. -/
def imageOf (ps : List (Nat × List Byte)) (pads : List Nat) : Map Byte :=
  let m := ps.foldl (fun (m : Map Byte) p => (p.2.zipIdx).foldl (fun m b => zset (n := 8) m (p.1 + b.2) b.1) m) []
  pads.foldl (fun m i => mset m i 0x7F) m

/-- Storage ranges for every piece of a tile, looked at before any is written; a peer's page refuses, as it refuses a TST. -/
def State.tilePlaces (s : State) (j : Job) : List (Nat × Nat × Nat) → List (Nat × List Spot) → JRes × List (Nat × List Spot) × State
  | [], acc => (.bytes [], acc, s)
  | (i, va, n) :: l, acc =>
    let (xs, s) := s.spanPlaces j.eng j.part j.asid j.sys .engWrite (spans 2 va n)
    match spansBad .engWrite xs with
    | some e => (e, acc, s)
    | none =>
      let ls := xs.filterMap spanLoc
      if ls.length < xs.length then (.fail 2, acc, s)
      else if ls.any (fun x => !s.mayWrite j.die x.loc x.len) then (.held, acc, s)
      else s.tilePlaces j l ((i, ls) :: acc)

/-- What keeps a tile from being moved. -/
def State.tileBad (s : State) (id : Nat) (j : Job) : JRes → State → State
  | .page kd va e, t => t.jobFault id j kd va e
  | .fail e, t => t.failJob id e
  | _, _ => s

/-- The next tile moved, as TLD then TST (R332). -/
def State.jobTile (s : State) (id : Nat) (j : Job) (a b : Mould) : State :=
  let (ra, pads) := a.layout a.orient (tileAt j.pos a.tiles)
  let (wb, _) := b.layout b.orient (tileAt j.pos a.tiles)
  match s.tileRead j ra [] with
  | (.bytes _, img, t) =>
    let m := imageOf img pads
    (match t.tilePlaces j wb [] with
     | (.bytes _, pls, t) =>
       (pls.reverse.foldl (fun s p =>
         p.2.foldl (fun (y : Nat × State) x =>
           (y.1 + x.len, (y.2.jobStore id j x ((List.range x.len).map (fun k => zget (n := 8) m (y.1 + k)))).jobLand j x.len)) (p.1, s) |>.2) t).jobStep id 1
     | (x, _, t) => s.tileBad id j x t)
  | (x, _, t) => s.tileBad id j x t

/-! ### UPDATE's look at its pages (R332) -/

/-- The stack of the first byte of an UPDATE's W, where it lies in this package. -/
def State.updateStack (s : State) (j : Job) : Option Nat :=
  match s.place j.eng j.part j.asid j.sys .engWrite j.c.w with
  | (.at loc .ms _, _) => some (stackOf loc)
  | _ => none

/-- What the pages of W and of the first read region lead to: `ws` is set for those of W, which are read and written and lie on memory-side pages of the
stack. -/
def State.updatePages (s : State) (j : Job) (st : Nat) (ws : Bool) : List (Nat × Nat) → JRes × State
  | [] => (.bytes [], s)
  | (va, _) :: l =>
    match s.place j.eng j.part j.asid j.sys (if ws then .engWrite else .engRead) va with
    | (.fault e, s) => (.page (if ws then 5 else 4) va e, s)
    | (.at loc h _, s) =>
      let (rd, s) := if ws then s.place j.eng j.part j.asid j.sys .engRead va else (.at loc h 0, s)
      if ws && !(h == .ms && stackOf loc == st && rd != .prot) then (.fail 2, s) else s.updatePages j st ws l
    | (.peer _ _ _, s) => if ws then (.fail 2, s) else s.updatePages j st ws l
    | (_, s) => (.fail 2, s)

/-- An UPDATE's pages translated before any word is written: it goes on, waits, or fails. -/
def State.updateCheck (s : State) (id : Nat) (j0 : Job) : State :=
  let st := (s.updateStack j0).getD (4 * j0.die)
  let j := { j0 with eng := saggarUnit st }
  let c := j.c
  let (r, s) := s.updatePages j st true (spans (c.wlen / 65536 + 2) c.w c.wlen)
  let (r, s) := match r with
    | .bytes _ => s.updatePages j st false (spans (c.r1len / 65536 + 2) c.r1 c.r1len)
    | x => (x, s)
  match r with
  | .bytes _ => s.setJob id { j with checked := true }
  | .page kd va e => s.jobFault id j kd va e
  | _ => s.failJob id 2

/-! ### Events -/

/-- The place at which a job is complete: bytes of W, or tiles of its moulds. -/
def Job.goal (j : Job) : Nat :=
  match j.moulds with
  | a :: _ => (Mould.ofNat a.toNat).tileCount
  | [] => j.c.wlen

/-- ENGINE_BYTES_LAND: the engine writes the next `n` bytes of W, a tile of a MOULD, and counts them once visible at the landing scope, which performed bytes
are (R207, R303, R332) (log 24, DEDUCED). -/
def execEngineBytesLand (job n : Key) (s : State) : Host.Outcome State Fault Refusal :=
  .next
    (match mget? s.jobs job with
     | none => s
     | some j =>
       if !s.jobGoes job j || j.pos ≥ j.goal then s
       else
         match j.moulds with
         | [a, b] => s.jobTile job j (Mould.ofNat a.toNat) (Mould.ofNat b.toNat)
         | _ =>
           let s := if j.c.kind = 5 && !j.checked then s.updateCheck job j else s
           match mget? s.jobs job with
           | none => s
           | some j => if j.c.kind = 5 && !j.checked then s else State.jobRun job (n + 1) n s)

def State.jobStartable (s : State) (j : Job) : Bool := j.st = .waiting && !s.jobBlocked j && !s.jobHeld j

/-- JOB_START (R287): an UPDATE's pages are looked at first (R332). -/
def execJobStart (job : Key) (s : State) : Host.Outcome State Fault Refusal :=
  .next
    (match mget? s.jobs job with
     | none => s
     | some j =>
       if !s.jobStartable j then s
       else
         let j := { j with st := .running }
         if j.c.kind = 5 then (s.setJob job j).updateCheck job j else s.setJob job j)

def State.jobFinished (s : State) (id : Nat) (j : Job) : Bool := s.jobGoes id j && decide (j.pos ≥ j.goal) && (j.c.kind != 5 || j.checked)

/-- JOB_COMPLETE (R287). -/
def execJobComplete (job : Key) (s : State) : Host.Outcome State Fault Refusal :=
  .next
    (match mget? s.jobs job with
     | none => s
     | some j => if s.jobFinished job j then s.setJob job { j with st := .complete } else s)

/-- JOB_FAIL (R333). -/
def execJobFail (job cause : Key) (s : State) : Host.Outcome State Fault Refusal :=
  .next
    (match mget? s.jobs job with
     | none => s
     | some j => if j.st = .running && 1 ≤ cause && cause ≤ 5 then s.failJob job cause else s)

/-- JOB_STOP (R332, R354): the offset reached is kept as RESTART in the card's copy. -/
def execJobStop (job : Key) (s : State) : Host.Outcome State Fault Refusal :=
  .next
    (match mget? s.jobs job with
     | none => s
     | some j =>
       if j.st = .running && s.jobHeld j && j.stops && j.pos < j.goal && !s.peers.any (fun x => x.2.job == some job) then
         s.setJob job { j with st := .stopped, frec := none, got := [] }
       else s)

end Sys2Proof.Machine
end

