-- ==== Sys2Proof/Machine/Launch.lean ====
section
/-! DEFINITION. Launch descriptors (R312 to R315) and the distributor: placing clusters (R252, R268, R329, R330) and what a group starts with (R35). -/

namespace Sys2Proof.Machine

/-! ### The descriptor (R312) -/

def widthOf (w : Nat) : Nat := 8 * 2 ^ w

/-- A launch from a descriptor's 128 bytes; `args` is the node's ARGS, 0 to keep the descriptor's (R321). -/
def Launch.ofNat (w desc part args inst node seq : Nat) (chans : List ChanRec) : Launch :=
  { Launch.empty with
    part := part, desc := desc, entry := BitVec.ofNat 56 (bits w 0 56), args := if args = 0 then bits w 64 56 else args, banks := BitVec.ofNat 64 (bits w 128 64)
    fmt := BitVec.ofNat 32 (bits w 192 32), scratch := bits w 224 21, regs := bits w 256 5 + 1, width := widthOf (bits w 261 2)
    ngroups := bits w 264 6 + 1, clw := bits w 272 2 + 1, clh := bits w 274 2 + 1, grid := bits w 280 24, prio := bits w 304 2, dies := bits w 306 2
    asid := bits w 308 12, step := bit w 320, sys := bit w 321, cosched := bit w 322, epoch := bits w 336 16, handler := bits w 384 64
    qrights := BitVec.ofNat 64 (bits w 448 64), save := bits w 640 64, chans := chans, inst := inst, node := node, seq := seq }

/-- Reserved fields of a descriptor. -/
def descRsvd (w : Nat) : Bool :=
  bits w 704 320 != 0 || bits w 584 56 != 0 || bits w 352 32 != 0 || bits w 323 13 != 0 || bits w 276 4 != 0 || bits w 270 2 != 0 || bit w 263
    || bits w 245 11 != 0 || bits w 120 8 != 0 || bits w 56 8 != 0

/-! ### Channel records (R315) -/

def chanCons (r i : Nat) : Nat := bits r (64 + 32 * i) 32

def ChanRec.ofNat (r : Nat) : ChanRec :=
  { id := bits r 0 6, slots := bits r 8 6 + 1, size := 64 * 2 ^ bits r 16 3, pcl := bits r 28 24, pteam := bits r 52 4,
    cons := (List.range (bits r 56 3)).map (fun i => (bits (chanCons r i) 0 24, bits (chanCons r i) 24 4)) }

def chanRsvd (r : Nat) : Bool :=
  bits r 59 5 != 0 || bits r 19 9 != 0 || bits r 14 2 != 0 || bits r 6 2 != 0
    || (List.range 6).any (fun i => decide (i < bits r 56 3) && bits (chanCons r i) 28 4 != 0)

/-- A record that R315 refuses in a grid of clusters of `n` teams. -/
def chanBad (grid n r : Nat) : Bool :=
  let c := ChanRec.ofNat r
  let k := bits r 56 3
  k = 0 || k > 6 || bits r 16 3 == 7 || c.pcl ≥ grid || c.pteam ≥ n || c.cons.any (fun x => decide (x.1 ≥ grid) || decide (x.2 ≥ n) || x == (c.pcl, c.pteam))
    || decide (¬ c.cons.Nodup) || (List.range 6).any (fun i => decide (i ≥ k) && chanCons r i != 0)

/-- Scratch bytes for the slots of the consumer team that holds most (R211, R268). -/
def chanBytes (cs : List ChanRec) : Nat :=
  ((cs.flatMap (·.cons)).map (fun t => ((cs.filter (fun c => c.cons.contains t)).map (fun c => c.slots * c.size)).sum)).foldl max 0

/-! ### Rectangles of cores (R329) -/

/-- Dies on which a cluster may be placed. -/
def Launch.diesFor (l : Launch) (c : Nat) : List Nat :=
  match l.dies with
  | 0 => [0, 1]
  | 1 => [0]
  | 2 => [1]
  | _ => [c % 2]

/-- The cores of the rectangle of a launch's clusters at an origin. -/
def Launch.rect (l : Launch) (d y x : Nat) : List Nat :=
  (List.range l.clh).flatMap (fun j => (List.range l.clw).map (fun i => d * 96 + (y + j) * 12 + (x + i)))

/-- A pre-emption request holds the launch's placing on a die (R353). -/
def State.placeHeld (s : State) (l : Launch) (d : Nat) : Bool :=
  let r := (s.pdie l.part d).pre
  r.run.isSome && (r.runAll || r.runA.toNat == l.desc)

/-- Loads whose registers were pending when their group went still keep slots of a core (R139). -/
def State.loadsLeft (s : State) (c : Nat) : Bool := s.loads.any (fun x => coreOf x.2.gk == c && !x.2.nwb)

/-- A core of the partition that may take a team: `busy` says which hold one. -/
def State.coreFree (s : State) (p : Nat) (busy : Nat → Bool) (c : Nat) : Bool :=
  s.partOfCore c == some p && !(s.core c).gone && !busy c && !s.loadsLeft c

/-- The first free rectangle for a cluster, y first, on the first allowed die that has one (log 40, DESIGN CHOICE). -/
def State.findRect (s : State) (l : Launch) (c : Nat) (busy : Nat → Bool) (held : Bool) : Option (Nat × Nat × Nat) :=
  (l.diesFor c).findSome? (fun d =>
    if held && s.placeHeld l d then none
    else
      (List.range (9 - l.clh)).findSome? (fun y =>
        (List.range (13 - l.clw)).findSome? (fun x => if (l.rect d y x).all (s.coreFree l.part busy) then some (d, y, x) else none)))

/-- A core whose site is being retired: the distributor places nothing more there (R457). -/
def State.retiring (s : State) (c : Nat) : Bool := s.pkg.rcmd.busy && s.pkg.rcmd.op == 1 && s.pkg.rcmd.target / 128 * 96 + s.pkg.rcmd.target % 128 == c

/-- A core that takes no team now. -/
def State.hasTeam (s : State) (c : Nat) : Bool := (s.core c).team.isSome || s.retiring c

/-- Rectangles for clusters `c` on, each beside those before it; none where one does not fit. -/
def State.findAll (s : State) (l : Launch) (busy : Nat → Bool) (held : Bool) : Nat → Nat → List Nat → Option (List (Nat × Nat × Nat))
  | 0, _, _ => some []
  | n + 1, c, taken =>
    match s.findRect l c (fun k => busy k || taken.contains k) held with
    | none => none
    | some (d, y, x) => (s.findAll l busy held n (c + 1) (taken ++ l.rect d y x)).map (fun rs => (d, y, x) :: rs)

/-- A co-scheduled grid fits in the empty partition (R330). -/
def State.fitsEmpty (s : State) (l : Launch) : Bool := l.grid ≤ 192 && (s.findAll l (fun _ => false) false l.grid 0 []).isSome

/-- Bytes of the scratch banks that a team uses: the declared ones, its spill entries and its channel slots (R130, R211, R268). -/
def Launch.scratchUse (l : Launch) : Nat := l.scratch + 64 * (l.width - 8) * l.ngroups + chanBytes l.chans

/-! ### The descriptor's codes (R313, R314) -/

/-- Codes that a descriptor's words break; `asid` and `rights` are the instance's. A HANDLER that is no PC counts as a reserved field or as misaligned
(log 93, DEDUCED); ARGS has no alignment to break (log 92, DEDUCED). -/
def State.descCodes (s : State) (l : Launch) (w : Nat) (recs : List Nat) (asid : Nat) (rights : Option (Bool × Bool × W64)) : List Nat :=
  let q := (l.ngroups + 3) / 4
  let n := l.clw * l.clh
  let onDie := fun d => s.partOnDie l.part d
  let when := fun (b : Bool) (k : Nat) => if b then [k] else []
  when (descRsvd w || l.handler ≥ 2 ^ 56 || recs.any chanRsvd) 1
    ++ when (l.grid == 0 || n > 12 || l.width * l.ngroups > 4096) 3
    ++ when (q * l.width * l.regs > 4096 || l.scratchUse > roleBytes l.banks 1) 4
    ++ when (!fmtOk l.fmt) 5
    ++ when (l.entry.toNat % 4 != 0 || l.handler % 4 != 0 || l.save % 64 != 0 || bits w 512 64 % 32 != 0 || l.scratch % 16 != 0) 6
    ++ when (l.asid != asid || !(s.asidRec l.part l.asid).en) 7
    ++ when ((l.dies == 1 && !onDie 0) || (l.dies == 2 && !onDie 1) || (l.dies == 3 && !(onDie 0 && onDie 1))) 8
    ++ when (bits w 576 8 > 64 || recs.any (chanBad l.grid n) || decide (¬ (l.chans.map (·.id)).Nodup)) 9
    ++ when (match rights with | none => false | some (y, t, r) => (l.sys && !y) || (l.step && !t) || (l.qrights &&& ~~~r != 0)) 12
    ++ when (l.cosched && l.grid != 0 && n ≤ 12 && !s.fitsEmpty l) 14

/-! ### Placing (R35, R252, R268) -/

/-- A group as it starts (R35, R130, R230). -/
def Launch.group (l : Launch) (lid r now : Nat) : Group :=
  let p : Path :=
    { entry := some 0, mask := fullMask l.width, pc := l.entry, fmt := l.fmt, loops := [], st := .ready, stamp := now, since := now, idle := 0, boosted := false,
      ilen := 0, ipc := 0, back := none, lastCh := false, noCut := none, hold := false }
  { launch := lid, rank := r, width := l.width, base := l.regs, blocks := l.regs, v := [],
    s := zset (zset [] 0 (BitVec.ofNat 32 l.args)) 1 (BitVec.ofNat 32 (l.args / 2 ^ 32)), a := [], p := [], rejoin := [], paths := [(0, p)], nextPid := 1,
    live := fullMask l.width, spill := l.width - 8, prio := l.prio, pending := [], key := 0, ctr := 0, ofs := 0, dz := false, cycap := 0, seq := 0,
    watchdog := 0, wdDue := false, handler := none, park := none, unfinished := [], dead := false, stopped := false, tasks := [], lastIssue := now,
      lastPid := 0, lastPc := 0 }

/-- The banks of a role are zero. -/
def State.zeroBanks (s : State) (core : Nat) (bs : List Nat) : State := bs.foldl (fun s b => s.zeroBytes (bankLoc core b 0) 32768) s

/-- What a new team finds on its core: an invalid cache, zeroed scratch and TOB banks, no watch, no valid mould slot, no gang (R46, R268). -/
def State.clearCore (s : State) (core : Nat) (banks : W64) : State :=
  let s := s.zeroBanks core (banksOf banks 1 ++ banksOf banks 2)
  let s := s.setCore core { s.core core with frames := [], watches := [] }
  (List.range 4).foldl (fun s k =>
    let q := s.quarter (core * 4 + k)
    s.setQuarter (core * 4 + k)
      { q with gang := 0, slots := q.slots.map (fun x => (x.1, { x.2 with valid := false })), round := none, chain := none, latch := [], growq := [] }) s

/-- A team placed on a core, its groups in ascending rank order (R252). -/
def State.placeTeam (s : State) (lid clid idx core : Nat) : State :=
  let l := s.launch lid
  let s := s.clearCore core l.banks
  let s := s.setCore core { s.core core with team := some { launch := lid, clid := clid, idx := idx, preempt := none, since := 0 } }
  let s := (List.range l.ngroups).foldl (fun s r =>
    { s with groups := mset s.groups ((core * 4 + r % 4) * 16 + r / 4) (l.group lid r (s.coreCycle core)) }) s
  s.modLaunch lid (fun l => { l with teams := l.teams + 1 })

/-- The next cluster of a launch placed at a rectangle. -/
def State.placeCluster (s : State) (lid : Nat) (r : Nat × Nat × Nat) : State :=
  let l := s.launch lid
  let cores := l.rect r.1 r.2.1 r.2.2
  let s := ((List.range cores.length).zip cores).foldl (fun s x => s.placeTeam lid l.nextCl x.1 x.2) s
  s.modLaunch lid (fun l => { l with nextCl := l.nextCl + 1 })

/-- A launch with clusters to place. -/
def Launch.waits (l : Launch) : Bool := l.nextCl < l.grid

/-- A saved team of a launch that a RESUMEA asks for, whose core could take it (R353). -/
def State.resumable (s : State) (lid : Nat) (l : Launch) : Bool :=
  s.saved.any (fun x => x.2.launch == lid && x.2.resume && !s.placeHeld l (dieOfCore x.2.core) && (x.2.move || s.coreFree l.part s.hasTeam x.2.core))

/-- Another launch that goes first when a core is free (R329, R330): of a higher PRIO or started earlier, where it could be placed; or a waiting co-scheduled
grid of no lower PRIO. -/
def State.goesFirst (s : State) (lid : Nat) (l : Launch) (k : Nat × Launch) : Bool :=
  let earlier := k.2.prio > l.prio || (k.2.prio == l.prio && k.2.seq < l.seq)
  k.1 != lid && k.2.part == l.part &&
    ((k.2.waits && k.2.cosched && decide (k.2.prio ≥ l.prio) && !(l.cosched && l.prio == k.2.prio && decide (l.seq < k.2.seq)))
      || (k.2.waits && !k.2.cosched && earlier && (s.findRect k.2 k.2.nextCl s.hasTeam true).isSome)
      || (earlier && s.resumable k.1 k.2))

def State.goesNow (s : State) (lid : Nat) (l : Launch) : Bool := !s.launches.any (s.goesFirst lid l)
def State.mayPlace (s : State) (lid : Nat) (l : Launch) : Bool := l.waits && s.goesNow lid l

/-- CLUSTER_PLACE (R329). -/
def execClusterPlace (lid : Key) (s : State) : Host.Outcome State Fault Refusal :=
  .next
    (match mget? s.launches lid with
     | none => s
     | some l =>
       if l.cosched || !s.mayPlace lid l then s
       else
         match s.findRect l l.nextCl s.hasTeam true with
         | some r => s.placeCluster lid r
         | none => s)

/-- COSCHED_PLACE (R330). -/
def execCoschedPlace (lid : Key) (s : State) : Host.Outcome State Fault Refusal :=
  .next
    (match mget? s.launches lid with
     | none => s
     | some l =>
       if !l.cosched || !s.mayPlace lid l then s
       else
         match s.findAll l s.hasTeam true l.grid 0 [] with
         | some rs => rs.foldl (fun s r => s.placeCluster lid r) s
         | none => s)

end Sys2Proof.Machine
end

