-- ==== Sys2Proof/Machine/Graph.lean ====
section
/-! DEFINITION. The dispatcher: hardware queues (R316 to R318), graph instances and their nodes (R319 to R328), HOST queues (R327), and the events of the
dispatcher. -/

namespace Sys2Proof.Machine

/-! ### Reading as the dispatcher -/

inductive DRes where
  | ok (bs : List Byte)
  | page (kind va cause : Nat)
  | bad
  deriving DecidableEq, Repr

/-- The storage of a range in an instance's address space, for the dispatcher, which is no group of a kernel class (R337). -/
def State.dispLocs (s : State) (x : GInst) (k : AccKind) (va n : Nat) : Except DRes (List Spot) × State :=
  match s.range (dispatchUnit x.die) x.part x.asid true k va n with
  | (.ok ls, s) => (.ok ls, s)
  | (.error (a, .fault e), s) => (.error (.page k.code a e), s)
  | (.error _, s) => (.error .bad, s)

/-- A load of scope .dev by the dispatcher. -/
def State.dispRead (s : State) (x : GInst) (va n : Nat) : DRes × State :=
  match s.dispLocs x .engRead va n with
  | (.error e, s) => (e, s)
  | (.ok ls, s) => if s.poisonedLocs ls then (.bad, s) else (.ok (s.readLocs ls), s)

def State.dispWrite (s : State) (x : GInst) (va : Nat) (bs : List Byte) : DRes × State :=
  match s.dispLocs x .engWrite va bs.length with
  | (.error e, s) => (e, s)
  | (.ok ls, s) => (.ok [], s.engineLocs ls bs)

/-! ### Instances -/

def State.modInst (s : State) (i : Nat) (f : GInst → GInst) : State := { s with insts := mmodify s.insts i f }
def State.modNode (s : State) (i a : Nat) (f : GNode → GNode) : State := s.modInst i (fun x => { x with nodes := mmodify x.nodes a f })
def State.node (s : State) (i a : Nat) : Option (GInst × GNode) :=
  match mget? s.insts i with
  | none => none
  | some x => (mget? x.nodes a).map (fun n => (x, n))

/-- The instance of the queue entry that a nested instance belongs to. -/
def State.rootOf (s : State) : Nat → Nat → Nat
  | 0, i => i
  | n + 1, i =>
    match (mget? s.insts i).bind (·.parent) with
    | some p => s.rootOf n p.1
    | none => i

def State.root (s : State) (i : Nat) : Nat := s.rootOf 9 i

def State.instFailed (s : State) (i : Nat) : Bool := match mget? s.insts (s.root i) with | some x => x.code != 0 | none => true

/-- The whole instance fails with a code at a node; the first failure stands (R324, R328). -/
def State.failInst (s : State) (i code a : Nat) : State := s.modInst (s.root i) (fun x => if x.code = 0 then { x with code := code, fnode := a } else x)

/-- One more node has run (R319); one that is refused has not (log 112, DEDUCED). -/
def State.countRun (s : State) (i : Nat) : State := s.modInst (s.root i) (fun x => { x with ran := min (x.ran + 1) 65535 })

def State.setSt (s : State) (i a : Nat) (st : NState) : State := s.modNode i a (fun n => { n with st := st })

/-- A fault record for which the dispatcher waits at a node (R344). -/
def State.nodeFault (s : State) (i a : Nat) (x : GInst) (kind va cause : Nat) : State :=
  let (f, s) := s.postFault
    { id := 0, part := x.part, die := x.die, kind := kind, cause := cause, asid := x.asid, gk := none, mask := 0, pc := 0, va := va, posted := false }
  s.modNode i a (fun n => { n with frec := some f })

/-! ### Nodes (R320, R321) -/

def GNode.w (n : GNode) : Nat := n.bytes.toNat
def GNode.kind (n : GNode) : Nat := bits n.w 0 4
def GNode.nsucc (n : GNode) : Nat := bits n.w 8 3
def GNode.npred (n : GNode) : Nat := bits n.w 16 8
def GNode.succ (n : GNode) (i : Nat) : Nat := wrap 64 ((n.addr : Int) + 64 * sext (bits n.w (64 + 32 * i) 32) 32)
/-- The word of the body at bit 192: DESC, CARDS, WORD, a GRAPH's BODY or COOKIE. -/
def GNode.body (n : GNode) : Nat := bits n.w 192 64
def GNode.cmp (n : GNode) : Nat := bits n.w 256 3
def GNode.w64 (n : GNode) : Bool := bit n.w 259
def GNode.value (n : GNode) : Nat := bits n.w 320 64
def GNode.cap (n : GNode) : Nat := bits n.w 288 32
def GNode.loopBody (n : GNode) : Nat := bits n.w 384 64
def GNode.hostCore (n : GNode) : Nat := bits n.w 256 8

/-- The successors to be decremented. -/
def GNode.succs (n : GNode) : List Nat :=
  match n.chosen with
  | some i => [n.succ i]
  | none => (List.range n.nsucc).map n.succ

/-- Fields of the body by kind, as first bit and width (R321). -/
def bodyFields : Nat → List (Nat × Nat)
  | 0 => [(192, 64), (256, 64)]
  | 1 => [(192, 64), (256, 10), (266, 1)]
  | 2 => [(192, 64), (256, 4), (320, 64)]
  | 3 => [(192, 64), (256, 4), (288, 32), (320, 64), (384, 64)]
  | 4 => [(192, 64)]
  | 5 => [(256, 32)]
  | _ => [(192, 64), (256, 8), (288, 32)]

def GNode.rsvd (n : GNode) : Bool :=
  bits n.w 4 4 != 0 || bits n.w 11 5 != 0 || bits n.w 24 40 != 0 || n.nsucc > 4 || (List.range 4).any (fun i => decide (i ≥ n.nsucc) && bits n.w (64 + 32 * i) 32 != 0)
    || (n.kind ≤ 6 && n.w / 2 ^ 192 * 2 ^ 192 != ((bodyFields n.kind).map (fun f => bits n.w f.1 f.2 * 2 ^ f.1)).sum)

/-- Codes that a ready node breaks (R313, R321, R322) (log 18, DEDUCED). -/
def State.nodeCodes (s : State) (x : GInst) (n : GNode) (entry : Bool) : List Nat :=
  let when := fun (b : Bool) (k : Nat) => if b then [k] else []
  when n.rsvd 1
    ++ when (n.kind ≥ 7 || (n.kind == 2 && n.nsucc != 2) || ((n.kind == 2 || n.kind == 3) && n.cmp ≥ 6)) 2
    ++ when ((n.kind ≤ 1 && n.body % 64 != 0) || ((n.kind == 2 || n.kind == 3) && n.body % 8 != 0)) 6
    ++ when (n.kind == 1 && !s.partOnDie x.part (bits n.w 266 1)) 8
    ++ when (n.kind == 6 && n.hostCore != 255 && (n.hostCore ≥ 16 || s.partOfRegion (n.hostCore / 4) != some x.part)) 12
    ++ when ((n.kind == 3 || n.kind == 4) && x.depth ≥ 8) 13
    ++ when (x.nodes.length > 4096) 14
    ++ when (entry && n.npred != 0) 16

/-- A node becomes ready: refused, dropped where its instance has failed (R328), or waiting to be run; a HOST node runs from now on, though it may have to wait
for room to post (R327). -/
def State.readyNode (s : State) (i a : Nat) (entry : Bool) : State :=
  match s.node i a with
  | none => s
  | some (x, n) =>
    if s.instFailed i then s.setSt i a .done
    else
      match (s.nodeCodes x n entry).min? with
      | some k => (s.failInst i k a).setSt i a .done
      | none => if n.kind = 6 then (s.countRun i).setSt i a .running else s.setSt i a .ready

def GNode.fresh (a : Nat) : GNode :=
  { addr := a, bytes := 0, st := .unread, prog := 0, jobs := [], sub := none, chosen := none, frec := none, watch := none, hit := false }

/-- A node read whole at its first decrement, or as the entry of its instance (R322); DONE of a HOST node becomes 0 (R326). -/
def State.readNode (s : State) (i a : Nat) (entry : Bool) : State :=
  match mget? s.insts i with
  | none => s
  | some x =>
    if a % 64 != 0 then s.failInst i 6 a
    else
      let put := fun (s : State) (n : GNode) => s.modInst i (fun x => { x with nodes := mset x.nodes a n })
      let ready := fun (s : State) (bs : List Byte) =>
        let n : GNode := { GNode.fresh a with bytes := BitVec.ofNat 512 (leNat bs) }
        let s := put s { n with st := .counting n.npred }
        if entry then s.readyNode i a true else s
      match s.dispRead x a 64 with
      | (.bad, s) => s.failInst i 15 a
      | (.page k va e, s) => (put s (GNode.fresh a)).nodeFault i a x k va e
      | (.ok bs, s) =>
        if bits (leNat bs) 0 4 = 6 then
          match s.dispWrite x (a + 36) [0, 0, 0, 0] with
          | (.bad, s) => s.failInst i 15 a
          | (.page k va e, s) => (put s (GNode.fresh a)).nodeFault i a x k va e
          | (.ok _, s) => ready s bs
        else ready s bs

/-- One decrement of a node that has been read (R322): a node that is ready or beyond fails the instance (log 18, DEDUCED). -/
def State.decNode (s : State) (i a : Nat) : State :=
  match s.node i a with
  | none => s
  | some (_, n) =>
    match n.st with
    | .counting k => if k ≤ 1 then s.readyNode i a false else s.setSt i a (.counting (k - 1))
    | .unread => s
    | _ => s.failInst i 16 a

/-- A completing node's successors decremented in order, from the first that is left (R322); it stops at one whose bytes wait for a fault record. -/
def State.deliver (i a : Nat) : Nat → State → State
  | 0, s => s
  | k + 1, s =>
    match s.node i a with
    | none => s
    | some (x, n) =>
      if s.instFailed i then s.setSt i a .done
      else
        match n.succs[n.prog]? with
        | none => s.setSt i a .done
        | some t =>
          let s := if (mget? x.nodes t).isNone then s.readNode i t false else s
          match s.node i t with
          | none => State.deliver i a k s
          | some (_, m) =>
            if m.st = .unread then s else State.deliver i a k ((s.decNode i t).modNode i a (fun n => { n with prog := n.prog + 1 }))

/-- A node completes (R322). -/
def State.completeNode (s : State) (i a : Nat) : State :=
  State.deliver i a 5 (s.modNode i a (fun n => { n with st := .completing, prog := 0, watch := none, sub := none }))

/-- A nested instance begins (R321, R324). -/
def State.nest (s : State) (i a entry : Nat) : State :=
  match mget? s.insts i with
  | none => s
  | some x =>
    let (j, s) := s.fresh
    let y : GInst := { x with status := 0, nodes := [], parent := some (i, a), depth := x.depth + 1, fnode := 0, code := 0, capHit := false, ran := 0, frec := none }
    ({ s with insts := mset s.insts j y }.modNode i a (fun n => { n with st := .running, sub := some j })).readNode j entry true

/-! ### The end of an instance (R319) -/

/-- Nothing of the instance runs or is ready; what had not started when it failed never does. -/
def instOver (failed : Bool) (x : GInst) : Bool :=
  x.frec.isNone && x.nodes.all (fun n => match n.2.st with
    | .done => true
    | .counting _ => true
    | .ready => failed
    | .unread => failed
    | _ => false)

def GInst.statusWord (x : GInst) : Nat :=
  x.ran + x.code * 2 ^ 16 + x.capHit.toNat * 2 ^ 29 + (if x.code = 0 then 0 else 2 ^ 30) + 2 ^ 31 + x.tag.toNat * 2 ^ 32 + x.fnode * 2 ^ 64

/-- An instance of a queue entry is gone, and its place is free. -/
def State.endRoot (s : State) (i : Nat) (x : GInst) : State :=
  let d := s.pdie x.part x.die
  let q := mgetD d.queues x.queue HwQueue.reset
  ({ s with insts := merase s.insts i }).setPdie x.part x.die { d with queues := mset d.queues x.queue { q with live := q.live - 1 } }

/-- The status record is written; one that its pages refuse, or that is misaligned, is lost (log 41, DEDUCED). -/
def State.closeRoot (s : State) (i : Nat) (x : GInst) : State :=
  if x.status = 0 || x.status % 16 != 0 then s.endRoot i x
  else
    match s.dispWrite x x.status (natLe 16 x.statusWord) with
    | (.page k va e, s) =>
      let (f, s) := s.postFault
        { id := 0, part := x.part, die := x.die, kind := k, cause := e, asid := x.asid, gk := none, mask := 0, pc := 0, va := va, posted := false }
      s.modInst i (fun x => { x with frec := some f })
    | (_, s) => s.endRoot i x

/-- An instance that is over completes: its status record is written, or the node it is nested in goes on. -/
def State.closeInst (s : State) (i : Nat) : State :=
  match mget? s.insts i with
  | none => s
  | some x =>
    if !instOver (s.instFailed i) x then s
    else
      match x.parent with
      | none => s.closeRoot i x
      | some (j, a) =>
        let failed := s.instFailed i
        let s := { s with insts := merase s.insts i }
        match s.node j a with
        | none => s
        | some (_, n) =>
          if failed then s.setSt j a .done
          else if n.kind = 3 then s.modNode j a (fun n => { n with sub := none, prog := n.prog + 1 })
          else s.completeNode j a

/-- Every instance that is over, nested ones first. -/
def State.closeInsts (s : State) : State := (s.insts.map (·.1)).reverse.foldl State.closeInst s

/-! ### Hardware queues (R316 to R318) -/

def State.queue (s : State) (p d q : Nat) : HwQueue := mgetD (s.pdie p d).queues q HwQueue.reset
def State.setQueue (s : State) (p d q : Nat) (x : HwQueue) : State :=
  let r := s.pdie p d
  s.setPdie p d { r with queues := mset r.queues q x }

def ringSize (log2n : BitVec 4) : Nat := 2 ^ (min log2n.toNat 11 + 4)
def HwQueue.size (q : HwQueue) : Nat := ringSize q.log2n
/-- Entries between HEAD and TAIL. -/
def HwQueue.held (q : HwQueue) : Nat := (q.tail - q.head).toNat
def HwQueue.full (q : HwQueue) : Bool := q.held == q.size
def HwQueue.busy (q : HwQueue) : Bool := q.live > 0 || q.head != q.tail

/-- Live instances of a partition on a die. -/
def State.liveInsts (s : State) (p d : Nat) : Nat := (s.insts.filter (fun x => x.2.part == p && x.2.die == d && x.2.parent.isNone)).length

def HwQueue.canStart (q : HwQueue) : Bool := q.en && q.head != q.tail && !(q.serial && q.live > 0)

/-- The queue the dispatcher takes an entry from: the highest class with a startable entry, round robin in ascending order within it (R318). -/
def State.nextQueue (s : State) (p d : Nat) : Option Nat :=
  if s.liveInsts p d ≥ 256 then none
  else
    let r := s.pdie p d
    let ready := (r.queues.filter (fun x => x.2.canStart)).map (·.1)
    match (ready.map (· / 16)).max? with
    | none => none
    | some c =>
      let mine := ready.filter (fun q => q / 16 == c)
      match mget? r.rr c with
      | none => mine.head?
      | some l => (mine.find? (fun q => q > l)).or mine.head?

/-- QUEUE_TAIL_WRITE (R316): discarded on a queue with DEV = 1. -/
def execQueueTailWrite (p die q : Key) (tail : W16) (s : State) : Host.Outcome State Fault Refusal :=
  .next (let x := s.queue p die q; if x.dev || q ≥ 64 then s else s.setQueue p die q { x with tail := tail })

/-- DISPATCH_ENTRY (R317 to R319, R322): the entry at HEAD becomes an instance. Rings are read by physical address (log 42, DEDUCED). -/
def execDispatchEntry (p die q : Key) (s : State) : Host.Outcome State Fault Refusal :=
  .next
    (if s.nextQueue p die != some q then s
     else
       let x := s.queue p die q
       let k := x.head.toNat
       let pa := x.base.toNat + 32 * (k % x.size)
       let s := s.setQueue p die q { x with head := x.head + 1, live := x.live + 1, rights := merase x.rights k }
       let r := s.pdie p die
       let s := s.setPdie p die { r with rr := mset r.rr (q / 16) q }
       let bad := (s.rangeOf p pa).isNone || (s.poisoned (s.phys pa) 32).isSome
       let e := if bad then 0 else s.physWord pa 32
       let node := bits e 0 64
       let asid := bits e 160 12
       let when := fun (b : Bool) (k : Nat) => if b then [k] else []
       let codes := when (bits e 172 84 != 0) 1 ++ when (node % 64 != 0 || bits e 64 64 % 16 != 0) 6 ++ when (!(s.asidRec p asid).en) 7 ++ when bad 15
       let (i, s) := s.fresh
       let y : GInst :=
         { part := p, die := die, queue := q, asid := asid, tag := BitVec.ofNat 32 (bits e 128 32), status := bits e 64 64, nodes := [], rights := mget? x.rights k,
           parent := none, depth := 0, fnode := if codes.isEmpty then 0 else node, code := codes.min?.getD 0, capHit := false, ran := 0, frec := none }
       let s := { s with insts := mset s.insts i y }
       if codes.isEmpty then s.readNode i node true else s)

/-! ### Running nodes -/

/-- The ready node of a kind, while its instance has not failed and no fault record holds it. -/
def State.runnable (s : State) (i a kind : Nat) : Option (GInst × GNode) :=
  match s.node i a with
  | some (x, n) => if n.st = .ready && n.kind = kind && n.frec.isNone && !s.instFailed i then some (x, n) else none
  | none => none

/-- A node whose structure is refused (R313, R328). -/
def State.refuseNode (s : State) (i a code : Nat) : State := (s.failInst i code a).setSt i a .done

/-- A launch of the partition with this nonzero epoch runs (R202). -/
def State.epochBusy (s : State) (p e : Nat) : Bool := e != 0 && s.launches.any (fun l => l.2.part == p && l.2.epoch == e)

/-- The channel records of a descriptor. -/
def recordsOf (bs : List Byte) (n : Nat) : List Nat := (List.range n).map (fun i => leNat ((bs.drop (32 * i)).take 32))

/-- KERNEL_NODE_START (R313, R321): the descriptor and its channel table are read and checked, a table that cannot be read only where no lower code holds, and the grid waits for placing; a busy identifier (R339) or
epoch (R202) holds it. -/
def execKernelNodeStart (inst node : Key) (s : State) : Host.Outcome State Fault Refusal :=
  .next
    (match s.runnable inst node 0 with
     | none => s
     | some (x, n) =>
       match s.dispRead x n.body 128 with
       | (.bad, s) => s.refuseNode inst node 15
       | (.page k va e, s) => s.nodeFault inst node x k va e
       | (.ok bs, s) =>
         let w := leNat bs
         let nchan := if bits w 576 8 > 64 || bits w 512 64 % 32 != 0 || descRsvd w then 0 else bits w 576 8
         let launch := fun (lid : Nat) (recs : List Nat) => Launch.ofNat w n.body x.part (bits n.w 256 64) inst node lid (recs.map ChanRec.ofNat)
         match s.dispRead x (bits w 512 64) (32 * nchan) with
         | (.bad, s) => s.refuseNode inst node ((s.descCodes (launch 0 []) w [] x.asid x.rights).min?.getD 15)
         | (.page k va e, s) => s.nodeFault inst node x k va e
         | (.ok cb, s) =>
           let recs := recordsOf cb nchan
           let (lid, s') := s.fresh
           let l := launch lid recs
           match (s.descCodes l w recs x.asid x.rights).min? with
           | some k => s.refuseNode inst node k
           | none =>
             if (s.asidRec x.part l.asid).busy || s.epochBusy x.part l.epoch then s
             else (({ s' with launches := mset s'.launches lid l }).setSt inst node .running).countRun inst)

/-- The code of a JOBSET's card (R313, R321). -/
def State.nodeCard (s : State) (x : GInst) (die : Nat) (k : Card) (moulds : Bool) : Nat := k.code false moulds (s.cardPeer x.part x.asid die k)

/-- The next card of a JOBSET submitted (R321), or refused with a code. -/
def State.submitNode (s : State) (i a : Nat) (x : GInst) (n : GNode) (die card : Nat) (ms : List Nat) (code : Nat) : State :=
  let k := Card.ofNat card
  match code with
  | 0 =>
    let id := s.nextId
    let (_, s) := s.submit
      { handle := 0, seq := 0, part := x.part, asid := x.asid, die := die, gk := none, launch := none, core := none, pc := 0, card := BitVec.ofNat 512 card, bar := none,
        st := .waiting, cause := 0, pos := k.restart, frec := none, sys := true, got := [], wrote := 0, eng := k.engine (die * 96) die, checked := false,
        moulds := ms.map (BitVec.ofNat 512) }
    s.modNode i a (fun m => { m with st := .running, prog := n.prog + 1, jobs := m.jobs ++ [id] })
  | c => (s.failInst i c a).modNode i a (fun m => { m with st := .running, prog := 1024 })

/-- Cards of a JOBSET. -/
def GNode.ncard (n : GNode) : Nat := bits n.w 256 10 + 1

/-- JOBSET_NODE (R321): one card at a time goes to the job scheduler, while that has room (R287). -/
def execJobsetNode (inst node : Key) (s : State) : Host.Outcome State Fault Refusal :=
  .next
    (match s.node inst node with
     | none => s
     | some (x, n) =>
       let die := bits n.w 266 1
       if n.kind != 1 || n.frec.isSome || n.prog ≥ n.ncard || s.openJobs die ≥ 1024 then s
       else if n.st = .ready && s.instFailed inst then s
       else if n.st != .ready && n.st != .running then s
       else
         let s0 := if n.st = .ready then s.countRun inst else s
         let card := n.body + 64 * n.prog
         let stop := fun (s : State) (code : Nat) => (s.failInst inst code node).modNode inst node (fun m => { m with st := .running, prog := 1024 })
         match s0.dispRead x card 64 with
         | (.bad, s) => stop s 15
         | (.page k va e, _) => s.nodeFault inst node x k va e
         | (.ok bs, s1) =>
           let w := leNat bs
           let k := Card.ofNat w
           let code := s1.nodeCard x die k true
           if k.early code then s1.submitNode inst node x n die w [] code
           else
             let last := if code = 0 then 15 else code
             match s1.dispRead x (wrap 64 ((card : Int) + k.mofsa * 64)) 64 with
             | (.page k va e, _) => s.nodeFault inst node x k va e
             | (.bad, s2) => stop s2 last
             | (.ok ba, s2) =>
               match s2.dispRead x (wrap 64 ((card : Int) + k.mofsb * 64)) 64 with
               | (.page k va e, _) => s.nodeFault inst node x k va e
               | (.bad, s3) => stop s3 last
               | (.ok bb, s3) =>
                 s3.submitNode inst node x n die w [leNat ba, leNat bb] (s3.nodeCard x die k (mouldsOk k (Mould.ofNat (leNat ba)) (Mould.ofNat (leNat bb)))))

/-- The comparison of COND and LOOP (R321). -/
def GNode.compare (n : GNode) (v : Nat) : Bool :=
  let k := if n.w64 then 64 else 32
  let a := v % 2 ^ k
  let b := n.value % 2 ^ k
  match n.cmp with
  | 0 => a == b
  | 1 => a != b
  | 2 => decide (a < b)
  | 3 => decide (a ≥ b)
  | 4 => decide (sext a k < sext b k)
  | _ => decide (sext a k ≥ sext b k)

/-- COND_NODE (R324). -/
def execCondNode (inst node : Key) (s : State) : Host.Outcome State Fault Refusal :=
  .next
    (match s.runnable inst node 2 with
     | none => s
     | some (x, n) =>
       match s.dispRead x n.body 8 with
       | (.bad, s) => s.refuseNode inst node 15
       | (.page k va e, s) => s.nodeFault inst node x k va e
       | (.ok bs, s) =>
         ((s.countRun inst).modNode inst node (fun m => { m with chosen := some (if n.compare (leNat bs) then 0 else 1) })).completeNode inst node)

/-- LOOP_NODE_ITERATION (R324): WORD is read afresh, and the body runs again or the node completes. -/
def execLoopNodeIteration (inst node : Key) (s : State) : Host.Outcome State Fault Refusal :=
  .next
    (match s.node inst node with
     | none => s
     | some (x, n) =>
       if n.kind != 3 || n.frec.isSome || n.sub.isSome || !(n.st = .running || (n.st = .ready && !s.instFailed inst)) then s
       else
         let s0 := if n.st = .ready then s.countRun inst else s
         match s0.dispRead x n.body 8 with
         | (.bad, s) => s.refuseNode inst node 15
         | (.page k va e, _) => s.nodeFault inst node x k va e
         | (.ok bs, s) =>
           let holds := n.compare (leNat bs)
           if n.prog < n.cap && holds then s.nest inst node n.loopBody
           else
             let s := if n.prog = n.cap && holds then s.modInst (s.root inst) (fun x => { x with capHit := true }) else s
             s.completeNode inst node)

/-- GRAPH_NODE (R321). -/
def execGraphNode (inst node : Key) (s : State) : Host.Outcome State Fault Refusal :=
  .next
    (match s.runnable inst node 4 with
     | none => s
     | some (_, n) => (s.countRun inst).nest inst node n.body)

/-- EVENT_NODE (R325): a ready node whose FLAG is set clears it and completes. -/
def execEventNode (inst node : Key) (s : State) : Host.Outcome State Fault Refusal :=
  .next
    (match s.runnable inst node 5 with
     | none => s
     | some (x, _) =>
       match s.dispRead x (node + 32) 4 with
       | (.bad, s) => s.refuseNode inst node 15
       | (.page k va e, s) => s.nodeFault inst node x k va e
       | (.ok bs, s1) =>
         if leNat bs = 0 then s1
         else
           match s1.dispWrite x (node + 32) [0, 0, 0, 0] with
           | (.bad, s) => s.refuseNode inst node 15
           | (.page k va e, s) => s.nodeFault inst node x k va e
           | (.ok _, s) => (s.countRun inst).completeNode inst node)

/-! ### HOST nodes (R326, R327) -/

/-- Live control cores of a partition, ascending (R25, R458). -/
def State.liveCcores (s : State) (p : Nat) : List Nat :=
  (List.range 16).filter (fun c => s.partOfRegion (c / 4) == some p && !s.pkg.ccoresDown.contains c)

def Ring.size (r : Ring) : Nat := ringSize r.log2n
def Ring.held (r : Ring) : Nat := (r.tail - r.head).toNat
/-- A ring whose BASE is 0 counts as full. -/
def Ring.full (r : Ring) : Bool := r.base == 0 || r.held == r.size

/-- The control core whose HOST queue takes a node's record now (R326, R327, R458). -/
def State.hostCore (s : State) (x : GInst) (n : GNode) : Option Nat :=
  let live := s.liveCcores x.part
  if n.hostCore = 255 then live.find? (fun c => c / 8 == x.die && !(s.hostRing c).full)
  else
    match (if s.pkg.ccoresDown.contains n.hostCore then live.head? else some n.hostCore) with
    | some c => if (s.hostRing c).full then none else some c
    | none => none

/-- HOST_NODE_POST (R326, R327): the record is written once there is room, and the control core's external interrupt line is raised (log 95, DESIGN CHOICE). -/
def execHostNodePost (inst node : Key) (s : State) : Host.Outcome State Fault Refusal :=
  .next
    (match s.node inst node with
     | none => s
     | some (x, n) =>
       match (if n.kind = 6 && n.st = .running && n.frec.isNone && n.watch.isNone then s.hostCore x n else none) with
       | none => s
       | some c =>
         match s.dispLocs x .engRead (node + 36) 4 with
         | (.error (.page k va e), s) => s.nodeFault inst node x k va e
         | (.error _, s) => s.refuseNode inst node 15
         | (.ok ls, s) =>
           let r := s.hostRing c
           let s := s.physWrite x.part (r.base.toNat + 32 * (r.tail.toNat % r.size)) (natLe 32 (n.body + node * 2 ^ 64 + x.asid * 2 ^ 128))
           let s := { s with pkg := { s.pkg with host := mset s.pkg.host c { r with tail := r.tail + 1 }, hostIrq := insertLine c s.pkg.hostIrq } }
           s.modNode inst node (fun m => { m with watch := (ls.head?).map (fun x => (x.loc, x.cached)), hit := false }))

/-- HOST_DONE (R326): a control core writes the node's DONE; the first nonzero one after the post completes the node. -/
def execHostDone (inst node : Key) (v : W32) (s : State) : Host.Outcome State Fault Refusal :=
  .next
    (match s.node inst node with
     | none => s
     | some (_, n) =>
       match n.watch with
       | none => s
       | some (loc, cached) =>
         let s := s.homeWrite cached true loc (natLe 4 v.toNat)
         match s.node inst node with
         | some (_, m) => if m.hit then s.completeNode inst node else s
         | none => s)

/-! ### NODE_COMPLETE (R202, R321 to R323) -/

/-- Every tracked word of an epoch in the partition flushed and freed, and its TF flags cleared (R202). -/
def State.endEpoch (s : State) (p e : Nat) : State :=
  if e = 0 then s
  else
    ((List.range 8).filter (fun k => s.partOfStack k == some p)).foldl (fun s k =>
      let s := (((s.saggar k).words.filter (fun x => x.2.epoch == e)).map (·.1)).foldl (fun s w => s.flushWord k w) s
      let g := s.saggar k
      s.setSaggar k { g with words := g.words.filter (fun x => x.2.epoch != e), fell := g.fell.filter (fun x => x != e) }) s

/-- Nothing of a launch is left: every cluster placed, every team gone, its jobs over, its accesses performed (R321). -/
def State.launchOver (s : State) (lid : Nat) (l : Launch) : Bool :=
  l.nextCl == l.grid && l.teams == 0 && !s.accesses.any (fun x => x.2.launch == lid) && !s.peers.any (fun x => x.2.job.isNone && x.2.acc.launch == lid)
    && !s.xfers.any (fun x => x.2.launch == lid) && !s.sends.any (fun x => x.2.launch == lid) && !s.packets.any (fun x => x.2.launch == lid)
    && !s.coilq.any (fun x => x.2.launch == lid) && !s.jobs.any (fun x => x.2.launch == some lid && !x.2.st.over)

def State.launchOf (s : State) (i a : Nat) : Option (Nat × Launch) := s.launches.find? (fun l => l.2.inst == i && l.2.node == a)

/-- A running node has done its work. -/
def State.nodeOver (s : State) (i a : Nat) (n : GNode) : Bool :=
  n.st == .running &&
  (match n.kind with
   | 0 => (match s.launchOf i a with | some (lid, l) => s.launchOver lid l | none => false)
   | 1 => decide (n.prog ≥ n.ncard) && n.jobs.all (fun j => !s.jobPending .dev j)
   | 6 => n.hit
   | _ => false)

/-- NODE_COMPLETE (R322, R328): the node's work is over, or successors are left to be decremented. -/
def execNodeComplete (inst node : Key) (s : State) : Host.Outcome State Fault Refusal :=
  .next
    (match s.node inst node with
     | none => s
     | some (_, n) =>
       if n.st = .completing then State.deliver inst node 5 s
       else if !s.nodeOver inst node n then s
       else
         match s.launchOf inst node with
         | some (lid, l) =>
           let s := s.endEpoch l.part l.epoch
           let s := { s with launches := merase s.launches lid, returns := s.returns.filter (fun r => r.2.1 != lid) }
           let s := if l.failed then s.failInst inst 15 node else s
           s.completeNode inst node
         | none => s.completeNode inst node)

/-! ### What a resolved fault record leads to (R346) -/

/-- The dispatcher tries again, or the structure is refused with code 15. -/
def State.nodeResolved (s : State) (i a : Nat) (n : GNode) (action : Nat) : State :=
  if n.st = .unread then
    let entry := match mget? s.insts i with | some x => x.nodes.length == 1 | none => false
    let s := s.modInst i (fun x => { x with nodes := merase x.nodes a })
    if action = 0 then (if entry then s.readNode i a true else s) else s.failInst i 15 a
  else if action = 0 then s.modNode i a (fun m => { m with frec := none })
  else if n.kind = 1 && n.st = .running then (s.failInst i 15 a).modNode i a (fun m => { m with frec := none, prog := 1024 })
  else (s.refuseNode i a 15).modNode i a (fun m => { m with frec := none })

end Sys2Proof.Machine
end

