-- ==== Sys2Proof/Machine/Enqueue.lean ====
section
/-! DEFINITION. LAUNCH and GSIG (R236, R316, R317, R325), and the dispatcher's side of them. -/

namespace Sys2Proof.Machine

/-- Loads, stores and atomics of the group, the stores of its TSTs, and its jobs, that a release waits for (R236, R238, R300). -/
def Ctx.unreleased (c : Ctx) : List Nat × List Nat := (c.s.accsOf c.gk, c.s.jobsOf c.gk c.g.launch)

/-- An entry joins a queue at TAIL, with the rights it carries; none when the queue is full (R314, R316, R317) (log 19, DEDUCED). -/
def State.enqueue (s : State) (p d q asid node : Nat) (rights : Bool × Bool × W64) : Option State :=
  let x := s.queue p d q
  if x.full then none
  else
    let k := x.tail.toNat
    let s := s.physWrite p (x.base.toNat + 32 * (k % x.size)) (natLe 32 (node + asid * 2 ^ 160))
    some (s.setQueue p d q { x with tail := x.tail + 1, rights := mset x.rights k rights })

/-- What LAUNCH leads to at the dispatcher: done, with its status written, or none while it waits for room. -/
def State.launchAt (s : State) (r : LaunchReq) : Option State :=
  match mget? s.groups r.gk with
  | none => some s
  | some g =>
    let l := s.launch g.launch
    let put := fun (s : State) (v : Nat) => match r.dst with | some d => s.setUniform r.gk d 1 v | none => s
    match s.enqueue l.part (dieOf r.gk) r.queue l.asid r.va (l.sys || g.handler.isSome, l.step, l.qrights) with
    | some s => some (put s 0)
    | none => if r.dst.isSome then some (put s 1) else none

/-- FLAG of an EVENT node becomes 1 (R325). -/
def State.signal (s : State) (node : Nat) (cached : Bool) : State := s.engineLocs [⟨node + 32, 4, cached⟩] [1, 0, 0, 0]

/-- A request at the dispatcher, all that it waits for being performed; none while it waits. -/
def State.launchDone (s : State) (r : LaunchReq) : Option State := if r.gsig then some (s.signal r.node r.cached) else s.launchAt r

/-- LAUNCH and GSIG past their checks: at the dispatcher at once when nothing is to be waited for. -/
def Ctx.release (c : Ctx) (s : State) (r : LaunchReq) : State :=
  if s.released r.accs r.jobs then
    match s.launchDone r with
    | some s => c.advance s
    | none => let (id, s) := s.fresh; c.block { s with launchReqs := mset s.launchReqs id r } (.launch id)
  else let (id, s) := s.fresh; c.block { s with launchReqs := mset s.launchReqs id r } (.launch id)

/-- The queue that LAUNCH names. -/
def Ctx.queueOperand (c : Ctx) : Nat := c.src c.o.b true false 1 c.lead

/-- LAUNCH: the node's address is translated at issue (R344); a node that its page refuses is left to the dispatcher (R236). -/
def execLaunch (o : Ops) : State → Host.Outcome State Fault Refusal :=
  perform (.launch o) (fun c => if c.actsOnce && c.queueOperand ≥ 64 then some 10 else none)
    (fun c => c.actsOnce && (!c.launch.qrights.getLsbD c.queueOperand || !(c.s.queue c.part c.die c.queueOperand).dev))
    (fun c => c.once' (fun c =>
      let ea := c.addr c.o.a c.lead
      match c.vplace .load ea c.s with
      | (.fault k, s) => c.parkOnce s AccKind.load.code ea k
      | (_, s) =>
        let w := c.unreleased
        c.release s
          { gk := c.gk, pid := c.pid, node := 0, cached := false, va := ea, gsig := false, queue := c.queueOperand, dst := if c.o.d.isZero then none else some c.o.d,
            accs := w.1, jobs := w.2 }))

/-- GSIG: the node is looked at as an atomic would (R325), and one that is no EVENT node, or misaligned, raises PROT. -/
def execGsig (o : Ops) : State → Host.Outcome State Fault Refusal :=
  perform (.gsig o) noDetail noPriv (fun c => c.once' (fun c =>
    let ea := c.addr c.o.a c.lead
    if ea % 64 != 0 then c.trap ⟨.prot, ea⟩
    else
      match c.resolve .atomic ea 64 with
      | .error s => s
      | .ok (ls, s) =>
        let ws := c.waitsFor (.load .b32) ls
        if !ws.isEmpty then c.wait (.accesses ws)
        else if s.poisonedLocs ls then { c with s := s }.trap ⟨.mchk, ea⟩
        else if leNat (s.readLocs ls) % 16 != 5 then { c with s := s }.trap ⟨.prot, ea⟩
        else
          let w := c.unreleased
          c.release s
            { gk := c.gk, pid := c.pid, node := ((ls.head?).map (·.loc)).getD 0, cached := ((ls.head?).map (·.cached)).getD false, va := ea, gsig := true, queue := 0, dst := none, accs := w.1, jobs := w.2 }))

/-- The path still waits in the request's LAUNCH or GSIG. -/
def State.launchWaits (s : State) (id : Nat) (r : LaunchReq) : Bool :=
  match (mget? s.groups r.gk).bind (fun g => mget? g.paths r.pid) with
  | some p => p.st == .blocked (.launch id)
  | none => false

/-- The request may go to the dispatcher: what it waits for is performed, and there is room where it has to wait for it. -/
def State.launchReady (s : State) (r : LaunchReq) : Bool :=
  s.released r.accs r.jobs
    && (r.gsig || r.dst.isSome || (match mget? s.groups r.gk with
          | some g => !(s.queue (s.launch g.launch).part (dieOf r.gk) r.queue).full
          | none => true))

/-- LAUNCH_ENQUEUE (R236): the request is served in the order of arrival; one whose path is gone is dropped. -/
def execLaunchEnqueue (id : Key) (s : State) : Host.Outcome State Fault Refusal :=
  .next
    (match mget? s.launchReqs id with
     | none => s
     | some r =>
       if !s.launchWaits id r then { s with launchReqs := merase s.launchReqs id }
       else if !s.launchReady r then s
       else
         match s.launchDone r with
         | none => s
         | some s =>
           let s := { s with launchReqs := merase s.launchReqs id }
           if r.gsig || r.dst.isSome then s.releaseOld r.gk r.pid else s.release r.gk r.pid)

end Sys2Proof.Machine
end

