-- ==== Sys2Proof/Machine/Grove.lean ====
section
/-! DEFINITION. The grove (R392 to R399): TASKGET, TASKDONE and TASKADD (R237, R238), and the decrements between its entries. -/

namespace Sys2Proof.Machine

/-! ### Entries -/

def groveKey (die entry : Nat) : Nat := die * 8192 + entry

/-- An id word (R237, R396). -/
def idWord (k type : Nat) : Nat := k % 8192 + k / 8192 * 2 ^ 13 + type * 2 ^ 16

/-- First entry open to a partition on a die, and how many (R392). -/
def State.groveOpen (s : State) (p d : Nat) : Nat × Nat :=
  match bits (s.part p).regions (2 * d) 2 with
  | 1 => (groveKey d 0, 4096)
  | 2 => (groveKey d 4096, 4096)
  | 3 => (groveKey d 0, 8192)
  | _ => (groveKey d 0, 0)

/-- The task that a TASKGET with this mask takes: the oldest ready one, ties by entry (R237, R392). -/
def State.readyTask (s : State) (d p asid mask : Nat) : Option (Nat × Task) :=
  minBy? (fun x => x.2.stamp) (s.grove.filter (fun x => x.1 / 8192 == d && x.2.st == .ready && x.2.part == p && x.2.asid == asid && bit mask x.2.type))

/-- The task is the group's, its block written from register `r` on (R237), and the core acquires (R398). -/
def State.takeTask (s : State) (gk r k : Nat) (t : Task) : State :=
  let s := { s with grove := mset s.grove k { t with st := .running } }
  let s := s.modGroup gk (fun g => { (g.setUni r (idWord k t.type + t.arg.toNat * 2 ^ 32) 13) with tasks := g.tasks ++ [k] })
  s.acquire (coreOf gk)

/-- The uniform register a selector names. -/
def uniOf : Sel → Nat
  | .s n => n.toNat
  | _ => 0

/-! ### TASKGET (R237) -/

def badMask (m : Nat) : Bool := m = 0 || m ≥ 128

def Ctx.maskOperand (c : Ctx) : Nat := c.src c.o.a true false 1 c.lead

def execTaskget (o : Ops) : State → Host.Outcome State Fault Refusal :=
  perform (.taskget o) (fun c => if c.actsOnce && badMask c.maskOperand then some 10 else none) noPriv (fun c => c.once' (fun c =>
    let r := uniOf c.o.d
    match c.s.readyTask c.die c.part c.asid c.maskOperand with
    | some (k, t) => c.advance (c.s.takeTask c.gk r k t)
    | none => let (n, s) := c.s.fresh; c.block s (.taskget c.maskOperand r n)))

def execTaskgetNb (o : Ops) : State → Host.Outcome State Fault Refusal :=
  perform (.taskgetNb o) (fun c => if c.actsOnce && badMask (c.val o.a 1 c.lead) then some 10 else none) noPriv (fun c => c.once (fun c =>
    match c.s.readyTask c.die c.part c.asid (c.val o.a 1 c.lead) with
    | some (k, t) => (c.writePred o.d (lanes c.p.mask) (fun _ => true)).takeTask c.gk (uniOf c.o.b) k t
    | none => c.writePred o.d (lanes c.p.mask) (fun _ => false)))

/-! ### TASKDONE (R238, R396, R397) -/

/-- The task is done: a decrement leaves for each successor, and its entry is free. -/
def State.finishTask (s : State) (gk k : Nat) : State :=
  match mget? s.grove k with
  | none => s
  | some t =>
    let (src, s) := s.fresh
    let s := t.succ.foldl (fun s e => let (n, s) := s.fresh; { s with decs := mset s.decs n { id := n, src := src, entry := e, part := t.part } }) s
    ({ s with grove := merase s.grove k }).modGroup gk (fun g => { g with tasks := g.tasks.filter (fun e => e != k) })

/-- See log 20, DEDUCED. -/
def execTaskdone (o : Ops) : State → Host.Outcome State Fault Refusal :=
  perform (.taskdone o) noDetail noPriv (fun c => c.once' (fun c =>
    let id := c.maskOperand
    let k := bits id 0 14
    if bits id 14 2 != 0 || bits id 19 13 != 0 || !c.g.tasks.contains k then c.trap ⟨.prot, 0⟩
    else
      let w := c.unreleased
      if w.1.isEmpty && w.2.isEmpty then c.advance (c.s.finishTask c.gk k) else c.block c.s (.taskdone k w.1 w.2)))

/-! ### TASKADD (R238, R392 to R394) -/

/-- Successor fields of a record. -/
def succField (w i : Nat) : Nat := bits w (64 + 16 * i) 16

/-- What TASKADD refuses in a record. -/
def State.taskBad (s : State) (p w : Nat) : Bool :=
  bits w 32 32 != 0 || bits w 3 13 != 0 || bits w 0 3 == 7
    || (List.range 4).any (fun i =>
      let f := succField w i
      if bit f 15 then bit f 14 || (match mget? s.grove (bits f 0 14) with | some t => t.part != p || t.st != .waiting | none => true) else f != 0)

def Ctx.addTask (c : Ctx) (s : State) (w : Nat) : State :=
  let (lo, n) := s.groveOpen c.part c.die
  match mfree s.grove n lo with
  | none => s.setUniform c.gk c.o.d 1 0xFFFFFFFF
  | some k =>
    let t : Task :=
      { st := if bits w 16 16 = 0 then .ready else .waiting, type := bits w 0 3, cnt := bits w 16 16,
        succ := (List.range 4).filterMap (fun i => if bit (succField w i) 15 then some (bits (succField w i) 0 14) else none),
        arg := BitVec.ofNat 384 (bits w 128 384), part := c.part, asid := c.asid, stamp := s.dieCycle c.die }
    ({ s with grove := mset s.grove k t }).setUniform c.gk c.o.d 1 (idWord k t.type)

/-- Accesses of the group that TASKADD has to find performed: it releases at .die (R290, R300, R398) (log 91, DEDUCED). -/
def Ctx.openAccesses (c : Ctx) : List Nat := c.s.awaited .die c.unreleased.1

/-- See log 20, DEDUCED. -/
def execTaskadd (o : Ops) : State → Host.Outcome State Fault Refusal :=
  perform (.taskadd o) noDetail noPriv (fun c => c.once' (fun c =>
    let ea := c.addr c.o.a c.lead
    if ea % 64 != 0 then c.trap ⟨.prot, ea⟩
    else if !c.openAccesses.isEmpty then c.wait (.accesses c.openAccesses)
    else c.withRecord ea 64 (fun bs s =>
      let w := leNat bs
      if s.taskBad c.part w then { c with s := s }.trap ⟨.prot, ea⟩ else c.advance (c.addTask (s.rely c.unreleased.1) w))))

/-! ### What waits for the grove -/

/-- Waiting TASKGETs and TASKDONEs of groups that run, as group, path and block. -/
def State.groveWaits (s : State) : List (Nat × Nat × Block) :=
  (s.groups.filter (fun x => !x.2.dead && !x.2.stopped)).flatMap (fun x =>
    x.2.paths.filterMap (fun y => match y.2.st with
      | .blocked (.taskget m d q) => some (x.1, y.1, .taskget m d q)
      | .blocked (.taskdone e a j) => some (x.1, y.1, .taskdone e a j)
      | _ => none))

/-- A waiting TASKGET of a group takes a task that is ready for it. A TASKDONE whose release is over finishes, unless another path has ended the group's task
meanwhile (R238). -/
def State.serveGrove (s : State) (w : Nat × Nat × Block) : State :=
  match w.2.2, mget? s.groups w.1 with
  | .taskget m d _, some g =>
    (match s.readyTask (dieOf w.1) (s.launch g.launch).part (s.launch g.launch).asid m with
     | some (k, t) => (s.takeTask w.1 d k t).release w.1 w.2.1
     | none => s)
  | .taskdone e a j, some g =>
    if !s.released a j then s
    else if g.tasks.contains e then (s.finishTask w.1 e).releaseOld w.1 w.2.1
    else s.trapWait w.1 w.2.1 ⟨.prot, 0⟩
  | _, _ => s

def waitSeq (w : Nat × Nat × Block) : Nat := match w.2.2 with | .taskget _ _ q => q | _ => 0

/-- Waits in the order they arrived. -/
def insertWait (x : Nat × Nat × Block) : List (Nat × Nat × Block) → List (Nat × Nat × Block)
  | [] => [x]
  | y :: l => if waitSeq x < waitSeq y then x :: y :: l else y :: insertWait x l

def State.settleGrove (s : State) : State := (s.groveWaits.foldl (fun l x => insertWait x l) []).foldl State.serveGrove s

/-! ### GROVE_DECREMENT (R395, R397) -/

/-- The decrements of one TASKDONE are performed in SUCC order: none before an earlier one. -/
def State.decTurn (s : State) (id : Nat) (r : Decrement) : Bool := !s.decs.any (fun x => decide (x.1 < id) && x.2.src == r.src)

def execGroveDecrement (id : Key) (s : State) : Host.Outcome State Fault Refusal :=
  .next
    (match mget? s.decs id with
     | none => s
     | some r =>
       if !s.decTurn id r then s else
       let s := { s with decs := merase s.decs id }
       let d := r.entry / 8192
       match mget? s.grove r.entry with
       | some t =>
         if t.st = .waiting then
           (let t := if t.cnt ≤ 1 then { t with cnt := 0, st := .ready, stamp := s.dieCycle d } else { t with cnt := t.cnt - 1 }
            { s with grove := mset s.grove r.entry t })
         else s.unitEvent d (10200 + d) t.part t.asid 0x8300 (r.entry % 8192) 0 (s.dieCycle d)
       | none => s.unitEvent d (10200 + d) r.part 0 0x8300 (r.entry % 8192) 0 (s.dieCycle d))

end Sys2Proof.Machine
end

