-- ==== Sys2Proof/Machine/Coil.lean ====
section
/-! DEFINITION. The coil engine: grammar images (R360 to R367), the walk (R368 to R370), slots, snapshots, saving and loading (R372 to R378), the coil
instructions (R239 to R245) and the events of the engine. -/

namespace Sys2Proof.Machine

/-! ### The image header (R360) -/

structure ImgHdr where
  nstate : Nat
  start : Nat
  nsym : Nat
  v : Nat
  nclass : Nat
  eos : Nat
  nbm : Nat
  ntrans : Nat
  nnode : Nat
  cls : Nat
  st : Nat
  tr : Nat
  bm : Nat
  tk : Nat
  trie : Nat
  pool : Nat
  deriving DecidableEq, Repr

def ImgHdr.ofNat (w : Nat) : ImgHdr :=
  { nstate := bits w 16 16, start := bits w 32 16, nsym := bits w 48 16, v := bits w 64 18 + 1, nclass := bits w 96 9, eos := bits w 128 32,
    nbm := bits w 160 32, ntrans := bits w 192 32, nnode := bits w 224 32, cls := 64 * bits w 256 32, st := 64 * bits w 288 32, tr := 64 * bits w 320 32,
    bm := 64 * bits w 352 32, tk := 64 * bits w 384 32, trie := 64 * bits w 416 32, pool := 64 * bits w 448 32 }

def noToken : Nat := 0xFFFFFFFF
def noLink : Nat := 0xFFFFFF

/-- What CBIND refuses with code 3. -/
def imgBad (w : Nat) : Bool :=
  let h := ImgHdr.ofNat w
  bits w 480 32 != 0 || bits w 105 23 != 0 || bits w 82 14 != 0 || bits w 0 16 != 1 || h.nstate == 0 || h.nsym == 0 || h.nclass == 0 || h.nclass > 256
    || h.nbm > 65535 || h.ntrans == 0 || h.ntrans ≥ 2 ^ 24 || h.nnode == 0 || h.nnode ≥ 2 ^ 24 || h.start ≥ h.nstate || (h.eos ≥ h.v && h.eos != noToken)
    || h.tk == 0 || h.trie == 0

def CoilSlot.h (x : CoilSlot) : ImgHdr := ImgHdr.ofNat x.hdr.toNat

/-- Bytes of a mask (R242). -/
def ImgHdr.maskBytes (h : ImgHdr) : Nat := (h.v + 7) / 8

/-! ### A walker (R367) -/

/-- A walker at work: the slot it serves, items resolved as malformed, the fault that stops it, how many malformed items it has met, and whether a write
holds back an item it reads (R293). -/
structure Walker where
  s : State
  die : Nat
  x : CoilSlot
  bad : List Nat
  fault : Option (Nat × Nat)
  mal : Nat
  held : Bool

/-- The values an item may be read with (R379): the present one, and those that its 16-byte entry has held since the slot's image was bound. -/
def itemValues (s : State) (since loc n : Nat) : List Nat :=
  s.word loc n :: ((mget? s.images (loc / 16)).getD []).filterMap (fun v => if v.1 < since then none else some (leNat ((v.2.drop (loc % 16)).take n)))

/-- The value an item is read with: any of them (log 11, DESIGN CHOICE). -/
def itemNow (s : State) (since loc n : Nat) : Nat :=
  match itemValues s since loc n with
  | [v] => v
  | vs => listGet (s.word loc n) vs (Config.imageChoice (loc / 16 + 2 ^ 48 * s.tick) % vs.length)

/-- A malformed item met: it counts as a rejection (R367). -/
def Walker.note (w : Walker) : Walker := { w with mal := w.mal + 1 }

def Walker.malformed {α : Type} (w : Walker) : Option α × Walker := (none, w.note)

/-- The walk can go no further now: a fault stands, or an item may not be read yet. -/
def Walker.stuck (w : Walker) : Bool := w.fault.isSome || w.held

/-- An item of the image at an offset from its header; none where it is malformed or its page faults. -/
def Walker.read (w : Walker) (ofs n : Nat) : Option Nat × Walker :=
  let va := w.x.image + ofs
  if w.stuck then (none, w)
  else if w.bad.contains va then w.malformed
  else
    match w.s.place (coilUnit w.die) w.x.part w.x.asid w.x.sys .engRead va with
    | (.fault k, s) => (none, { w with s := s, fault := some (va, k) })
    | (.at loc _ _, s) =>
      if !s.mayRead w.die loc n then (none, { w with s := s, held := true })
      else if (s.poisoned loc n).isSome then { w with s := s }.malformed
      else
        let s := s.toRows loc n
        (some (itemNow s w.x.bound loc n), { w with s := s })
    | (_, s) => { w with s := s }.malformed

/-- The state-table entry of a state (R361). -/
def Walker.state (w : Walker) (st : Nat) : Option Nat × Walker :=
  if st ≥ w.x.h.nstate then w.malformed
  else
    match w.read (w.x.h.st + 16 * st) 16 with
    | (some e, w) => if bits e 65 63 != 0 then w.malformed else (some e, w)
    | x => x

def entTbase (e : Nat) : Nat := bits e 0 32
def entAlw (e : Nat) : Nat := bits e 32 16
def entDny (e : Nat) : Nat := bits e 48 16
def entAccept (e : Nat) : Bool := bit e 64

/-! ### One byte (R362, R368) -/

def CoilCfg.top (c : CoilCfg) : Option Nat := (c.stack.getLast?).map (·.toNat)

/-- What a transition entry's action does; none for a rejection. -/
def Walker.act (w : Walker) (c : CoilCfg) (e : Nat) : Option CoilCfg × Walker :=
  let next := bits e 0 16
  let osym := bits e 32 16
  let go := fun (st : List W16) =>
    if next ≥ w.x.h.nstate then w.malformed else (some { c with state := BitVec.ofNat 16 next, stack := st }, w)
  match bits e 48 3 with
  | 0 => (none, w)
  | 1 => go c.stack
  | 2 => if osym ≥ w.x.h.nsym then w.malformed else if c.stack.length ≥ 256 then (none, w) else go (c.stack ++ [BitVec.ofNat 16 osym])
  | 3 => if c.stack.isEmpty then (none, w) else go c.stack.dropLast
  | 4 => if osym ≥ w.x.h.nsym then w.malformed else if c.stack.isEmpty then (none, w) else go (c.stack.dropLast ++ [BitVec.ofNat 16 osym])
  | _ =>
    match c.stack.getLast? with
    | none => (none, w)
    | some t => if t.toNat ≥ w.x.h.nstate then w.malformed else (some { c with state := t, stack := c.stack.dropLast }, w)

/-- Entry `e` and its alternatives, sixteen at most. -/
def Walker.alts (c : CoilCfg) : Nat → Nat → Walker → Option CoilCfg × Walker
  | 0, _, w => w.malformed
  | k + 1, i, w =>
    if i ≥ w.x.h.ntrans then w.malformed
    else
      match w.read (w.x.h.tr + 16 * i) 16 with
      | (none, w) => (none, w)
      | (some e, w) =>
        let tany := bit e 51
        if bits e 88 40 != 0 || bits e 52 12 != 0 || bits e 48 3 ≥ 6 || (!tany && bits e 16 16 ≥ w.x.h.nsym) then w.malformed
        else if tany || c.top == some (bits e 16 16) then w.act c e
        else if bits e 64 24 = noLink then (none, w)
        else Walker.alts c k (bits e 64 24) w

/-- `step` of R368. -/
def Walker.step (w : Walker) (c : CoilCfg) (b : Nat) : Option CoilCfg × Walker :=
  match w.read (w.x.h.cls + b) 1 with
  | (none, w) => (none, w)
  | (some k, w) =>
    if k ≥ w.x.h.nclass then w.malformed
    else
      match w.state c.state.toNat with
      | (none, w) => (none, w)
      | (some e, w) => Walker.alts c 16 (entTbase e + k) w

/-! ### The mask (R363, R365, R369) -/

/-- 128 bits at a time of a bitmap; `d` stands for bits that cannot be read. -/
def Walker.chunks (d : Nat) : Nat → Nat → Walker → Nat × Walker
  | 0, _, w => (0, w)
  | n + 1, ofs, w =>
    match w.read ofs 16 with
    | (v, w) => let (r, w) := Walker.chunks d n (ofs + 16) w; ((v.getD d) + 2 ^ 128 * r, w)

/-- A state's bitmap by its index: 0xFFFF is none, and so is a malformed index (R367). -/
def Walker.bitmap (w : Walker) (k d : Nat) : Nat × Walker :=
  let h := w.x.h
  if k = 0xFFFF then (0, w)
  else if k ≥ h.nbm then (0, w.note)
  else
    let (m, w) := Walker.chunks d ((h.v + 127) / 128) (h.bm + k * (32 * ((h.v + 255) / 256))) w
    (m % 2 ^ h.v, w)

def setBit (m t : Nat) : Nat := m ||| 2 ^ t

/-- The children from a node of a sibling list on, `n` of them at most; `down` walks below a node. -/
def siblings (alw dny : Nat) (down : Nat → CoilCfg → Nat → Walker → Nat × Walker) : Nat → Nat → CoilCfg → Nat → Walker → Nat × Walker
  | 0, i, _, m, w => (m, if i = noLink then w else w.note)
  | n + 1, i, c, m, w =>
    if i = noLink || w.stuck then (m, w)
    else if i ≥ w.x.h.nnode then (m, w.note)
    else
      match w.read (w.x.h.trie + 16 * i) 16 with
      | (none, w) => (m, w)
      | (some e, w) =>
        let sib := bits e 88 24
        let child := bits e 64 24
        let tok := bits e 16 18
        let ends := bit e 8
        if bits e 112 16 != 0 || bits e 34 30 != 0 || bits e 9 7 != 0 || (ends && tok ≥ w.x.h.v) then
          siblings alw dny down n sib c m w.note
        else if child = noLink && ends && (bit alw tok || bit dny tok) then siblings alw dny down n sib c m w
        else
          match w.step c (bits e 0 8) with
          | (none, w) => siblings alw dny down n sib c m w
          | (some c', w) =>
            let m := if ends && !bit dny tok then setBit m tok else m
            let (m, w) := down child c' m w
            siblings alw dny down n sib c m w

/-- The walk below a node, `d` levels of the trie at most. -/
def below (alw dny : Nat) : Nat → Nat → CoilCfg → Nat → Walker → Nat × Walker
  | 0, i, _, m, w => (m, if i = noLink then w else w.note)
  | d + 1, i, c, m, w => siblings alw dny (below alw dny d) w.x.h.nnode i c m w

/-- The mask of a configuration as bits by token (R369). -/
def Walker.mask (w : Walker) (c : CoilCfg) : Nat × Walker :=
  match w.state c.state.toNat with
  | (none, w) => (0, w)
  | (some e, w) =>
    let (alw, w) := w.bitmap (entAlw e) 0
    let (dny, w) := w.bitmap (entDny e) (2 ^ 128 - 1)
    let (m, w) := match w.read w.x.h.trie 16 with
      | (none, w) => (alw, w)
      | (some r, w) =>
        if bits r 112 16 != 0 || bits r 34 30 != 0 || bits r 9 7 != 0 || (bit r 8 && bits r 16 18 ≥ w.x.h.v) then (alw, w.note)
        else below alw dny 64 (bits r 64 24) c alw w
    let h := w.x.h
    if h.eos = noToken then (m, w)
    else
      let m := if bit m h.eos then m - 2 ^ h.eos else m
      (if entAccept e && c.stack.isEmpty then setBit m h.eos else m, w)

/-! ### The feed (R370) -/

def Walker.string (ofs : Nat) : Nat → CoilCfg → Walker → Option CoilCfg × Walker
  | 0, c, w => (some c, w)
  | n + 1, c, w =>
    match w.read ofs 1 with
    | (none, w) => (none, w)
    | (some b, w) =>
      match w.step c b with
      | (none, w) => (none, w)
      | (some c', w) => Walker.string (ofs + 1) n c' w

def Walker.feed (w : Walker) (c : CoilCfg) (t : Nat) : CoilCfg × Walker :=
  let no := { c with dead := true }
  if c.dead then (c, w)
  else
    match w.state c.state.toNat with
    | (none, w) => (no, w)
    | (some e, w) =>
      if t = w.x.h.eos then (if entAccept e && c.stack.isEmpty then c else no, w)
      else
        match w.read (w.x.h.tk + 8 * t) 8 with
        | (none, w) => (no, w)
        | (some k, w) =>
          let n := bits k 32 7
          if bits k 39 25 != 0 || n > 64 then (no, w.note)
          else
            let dny := entDny e
            let (deny, w) :=
              if dny = 0xFFFF then (false, w)
              else if dny ≥ w.x.h.nbm then (false, w.note)
              else
                match w.read (w.x.h.bm + dny * (32 * ((w.x.h.v + 255) / 256)) + t / 128 * 16) 16 with
                | (some m, w) => (bit m (t % 128), w)
                | (none, w) => (true, w)
            if n = 0 || deny then (no, w)
            else
              match Walker.string (w.x.h.pool + bits k 0 32) n c w with
              | (some c', w) => (c', w)
              | (none, w) => (no, w)

/-- ACCEPT of the status word (R245): none from a malformed entry. -/
def Walker.accept (w : Walker) (c : CoilCfg) : Bool × Walker :=
  match w.state c.state.toNat with
  | (some e, w) => (entAccept e && c.stack.isEmpty, w)
  | (none, w) => (false, w)

/-! ### Slots -/

/-- A slot id's slot, where it is bound in the partition (R239, R240). -/
def State.coilSlot (s : State) (p id : Nat) : Option CoilSlot :=
  if id ≥ 2048 then none
  else
    match mget? s.coil id with
    | some x => if x.part = p then some x else none
    | none => none

/-- The lowest free slot open to a partition on a die (R372). -/
def State.freeCoil (s : State) (p d : Nat) : Option Nat :=
  match bits (s.part p).regions (2 * d) 2 with
  | 1 => mfree s.coil 512 (d * 1024)
  | 2 => mfree s.coil 512 (d * 1024 + 512)
  | 3 => mfree s.coil 1024 (d * 1024)
  | _ => none

/-- The status word (R245) (log 17, DEDUCED). -/
def State.coilStatus (s : State) (k : Nat) (x : CoilSlot) (accept : Bool) : Nat :=
  let busy := s.coilq.any (fun r => r.2.slot == k && r.2.feed.isNone && r.2.cfg.isSome)
  x.cfg.stack.length + x.snaps.length * 2 ^ 16 + busy.toNat * 2 ^ 28 + accept.toNat * 2 ^ 29 + x.cfg.dead.toNat * 2 ^ 30 + 2 ^ 31

def State.setCoil (s : State) (k : Nat) (x : CoilSlot) : State := { s with coil := mset s.coil k x }

/-- The group waits until the operations queued on a slot are taken (R240). -/
def State.coilQueued (s : State) (k : Nat) : Bool := s.coilq.any (fun r => r.2.slot == k && (r.2.feed.isSome || r.2.cfg.isNone))

/-- An operation on the slot that a register names, once earlier ones are taken: COIL_ERR code 1 without a slot. -/
def Ctx.onSlot (c : Ctx) (x : Sel) (f : Nat → CoilSlot → State) : State :=
  let k := c.val x 1 c.lead
  match c.s.coilSlot c.part k with
  | none => c.trap ⟨.coilErr, 1⟩
  | some sl => if c.s.coilQueued k then c.wait (.coil k) else f k sl

/-! ### CBIND, CFORK, CROLL, CDROP (R241, R243, R376) -/

/-- Since when copies of an image may be kept: from the first binding of a slot that is still bound to it (R379). -/
def State.boundSince (s : State) (part asid image : Nat) : Nat :=
  s.coil.foldl (fun n x => if x.2.part = part && x.2.asid = asid && x.2.image = image then min n x.2.bound else n) s.tick

/-- A new slot bound, or 0xFFFFFFFF where none is free (log 17, DEDUCED). -/
def Ctx.bind (c : Ctx) (s : State) (image hdr : Nat) (cfg : CoilCfg) (snaps : Map CoilCfg) : State :=
  match s.freeCoil c.part c.die with
  | none => c.advance (s.setUniform c.gk c.o.d 1 0xFFFFFFFF)
  | some k =>
    c.advance ((s.setCoil k { part := c.part, asid := c.asid, image := image, hdr := BitVec.ofNat 512 hdr, bound := s.boundSince c.part c.asid image, cfg := cfg, snaps := snaps, sys := c.sys }).setUniform
      c.gk c.o.d 1 k)

def execCbind (o : Ops) : State → Host.Outcome State Fault Refusal :=
  perform (.cbind o) noDetail noPriv (fun c => c.once' (fun c =>
    let ea := c.addr c.o.a c.lead
    if ea % 64 != 0 then c.trap ⟨.prot, ea⟩
    else c.withRecord ea 64 (fun bs s =>
      let w := leNat bs
      if imgBad w then { c with s := s }.trap ⟨.coilErr, 3⟩
      else c.bind s ea w { state := BitVec.ofNat 16 (ImgHdr.ofNat w).start, stack := [], dead := false } [])))

def execCfork (o : Ops) : State → Host.Outcome State Fault Refusal :=
  perform (.cfork o) noDetail noPriv (fun c => c.once' (fun c => c.onSlot c.o.a (fun k x =>
    match mfree x.snaps 64 0 with
    | none => c.advance (c.s.setUniform c.gk c.o.d 1 0xFFFFFFFF)
    | some i => c.advance ((c.s.setCoil k { x with snaps := mset x.snaps i x.cfg }).setUniform c.gk c.o.d 1 i))))

def execCroll (o : Ops) : State → Host.Outcome State Fault Refusal :=
  perform (.croll o) noDetail noPriv (fun c => c.once' (fun c => c.onSlot c.o.a (fun k x =>
    match mget? x.snaps (c.val c.o.b 1 c.lead) with
    | none => c.trap ⟨.coilErr, 2⟩
    | some y => c.advance (c.s.setCoil k { x with cfg := y }))))

def execCdrop (o : Ops) : State → Host.Outcome State Fault Refusal :=
  perform (.cdrop o) noDetail noPriv (fun c => c.once' (fun c => c.onSlot c.o.a (fun k x =>
    let n := c.val c.o.b 1 c.lead
    if n = 0xFFFFFFFF then
      (if c.s.coilq.any (fun r => r.2.slot == k) then c.wait (.coilDone k) else c.advance { c.s with coil := merase c.s.coil k })
    else if (mget? x.snaps n).isNone then c.trap ⟨.coilErr, 2⟩
    else c.advance (c.s.setCoil k { x with snaps := merase x.snaps n }))))

/-! ### CMASK and CFEED (R242, R243) -/

/-- Where a CMASK's units go, one storage address for each 32 bytes: a refusal, or the state of a park, otherwise. -/
def Ctx.maskUnits (c : Ctx) (tgt n : Nat) : Except State (List Nat × State) :=
  let ea := c.addr c.o.a c.lead
  let units := (n + 31) / 32
  let prot := c.trap ⟨.prot, ea⟩
  if ea % 32 != 0 then .error prot
  else
    match tgt with
    | 0 =>
      (match c.scratchPlace ea n with
       | .at loc _ _ => .ok ((List.range units).filterMap (fun i => roleLoc c.launch.banks 1 (bankCore loc) (bits ea 0 20 + 32 * i)), c.s)
       | _ => .error prot)
    | 1 =>
      (match vaultPlace c.s c.part ea with
       | .at loc _ _ => if bits ea 0 21 + n > 2 ^ 21 then .error prot else .ok ((List.range units).map (fun i => loc + 32 * i), c.s)
       | _ => .error prot)
    | _ =>
      match c.resolve .store ea n with
      | .error s => .error s
      | .ok (ls, s) => .ok (ls.flatMap (fun r => (List.range ((r.len + 31) / 32)).map (fun i => r.loc + 32 * i)), s)

def cmask (i : Instr) (tgt : Nat) : State → Host.Outcome State Fault Refusal :=
  perform i noDetail noPriv (fun c => c.once' (fun c =>
    let k := c.val c.o.b 1 c.lead
    match c.s.coilSlot c.part k with
    | none => c.trap ⟨.coilErr, 1⟩
    | some x =>
      if c.g.fenceHolds setE then c.wait (.fenced setE)
      else
        match c.maskUnits tgt x.h.maskBytes with
        | .error s => s
        | .ok (units, s) =>
          let bar := c.val c.cSel 1 c.lead
          match c.scratchPlace bar 16 with
          | .at loc _ _ =>
            if bar % 16 != 0 then { c with s := s }.trap ⟨.prot, bar⟩
            else
              let (id, s) := s.fresh
              let r : CoilReq :=
                { slot := k, part := c.part, gk := c.gk, launch := c.g.launch, feed := none, dst := units, bar := loc, cfg := none, mask := [], units := [],
                  frec := none, bad := [] }
              c.advance { s with coilq := mset s.coilq id r }
          | _ => { c with s := s }.trap ⟨.prot, bar⟩))

def execCmaskS (o : Ops) : State → Host.Outcome State Fault Refusal := cmask (.cmaskS o) 0
def execCmaskV (o : Ops) : State → Host.Outcome State Fault Refusal := cmask (.cmaskV o) 1
def execCmaskM (o : Ops) : State → Host.Outcome State Fault Refusal := cmask (.cmaskM o) 2

/-- The status register waits for the engine (R255): a request joins its die's queue. -/
def Ctx.coilAsk (c : Ctx) (s : State) (k : Nat) (tok : Option Nat) (frec : Option Nat) (id : Nat) : State :=
  let r : CoilReq :=
    { slot := k, part := c.part, gk := c.gk, launch := c.g.launch, feed := some (tok, c.o.d), dst := [], bar := 0, cfg := none, mask := [], units := [],
      frec := frec, bad := [] }
  let s := { s with coilq := mset s.coilq id r }
  s.modGroup c.gk (fun g => { g with pending := g.pending ++ (selKeys c.o.d 1).map (fun k => { reg := k, pc := c.p.pc, iid := id }) })

def execCfeed (o : Ops) : State → Host.Outcome State Fault Refusal :=
  perform (.cfeed o) noDetail noPriv (fun c => c.once' (fun c =>
    let k := c.val c.o.a 1 c.lead
    let t := c.val c.o.b 1 c.lead
    match c.s.coilSlot c.part k with
    | none => c.trap ⟨.coilErr, 1⟩
    | some x => if t ≥ x.h.v then c.trap ⟨.coilErr, 4⟩ else let (id, s) := c.s.fresh; c.advance (c.coilAsk s k (some t) none id)))

/-- A unit's fault record for a slot's address space. -/
def State.coilFault (s : State) (d : Nat) (x : CoilSlot) (va cause : Nat) : Nat × State :=
  s.postFault { id := 0, part := x.part, die := d, kind := 4, cause := cause, asid := x.asid, gk := none, mask := 0, pc := 0, va := va, posted := false }

def Walker.begin (s : State) (k : Nat) (x : CoilSlot) (bad : List Nat) : Walker := { s := s, die := k / 1024, x := x, bad := bad, fault := none, mal := 0, held := false }

/-- CSTAT reads its slot at once; a state's entry that may not be read yet, or a fault at it, keeps its register pending until it is read. -/
def execCstat (o : Ops) : State → Host.Outcome State Fault Refusal :=
  perform (.cstat o) noDetail noPriv (fun c => c.once' (fun c => c.onSlot c.o.a (fun k x =>
    let (a, w) := (Walker.begin c.s k x []).accept x.cfg
    match w.fault with
    | none =>
      if w.held then let (id, s) := c.s.fresh; c.advance (c.coilAsk s k none none id)
      else c.advance (w.s.setUniform c.gk c.o.d 1 (w.s.coilStatus k x a))
    | some f =>
      let (r, s) := w.s.coilFault (k / 1024) x f.1 f.2
      let (id, s) := s.fresh
      c.advance (c.coilAsk s k none (some r) id))))

/-! ### CSAVE and CLOAD (R244, R377, R378) -/

/-- A stack of at most 256 entries as 512 bytes. -/
def stackBytes (st : List W16) : List Byte := st.flatMap (fun e => natLe 2 e.toNat) ++ List.replicate (512 - 2 * st.length) 0

def cfgBits (c : CoilCfg) : Nat := c.state.toNat + c.stack.length * 2 ^ 16 + c.dead.toNat * 2 ^ 25

/-- The header and stack of a save image. -/
def CoilSlot.image0 (x : CoilSlot) : List Byte :=
  natLe 64 (x.image % 2 ^ 56 + cfgBits x.cfg * 2 ^ 64 + 2 ^ 112 + (x.snaps.map (fun y => 2 ^ (128 + y.1))).sum) ++ stackBytes x.cfg.stack

def snapBytes (c : CoilCfg) : List Byte := natLe 64 (cfgBits c) ++ stackBytes c.stack

/-- The records of a save image, as offset and bytes. -/
def CoilSlot.records (x : CoilSlot) : List (Nat × List Byte) := (0, x.image0) :: x.snaps.map (fun y => (576 + 576 * y.1, snapBytes y.2))

/-- Every record's storage, or the state of a trap, a park or a wait. -/
def Ctx.savePlaces (c : Ctx) (ea : Nat) : List (Nat × List Byte) → Except State (List (List Spot × List Byte) × State)
  | [] => .ok ([], c.s)
  | (ofs, bs) :: l =>
    match c.resolve .store (wrap 64 (ea + ofs : Nat)) bs.length with
    | .error s => .error s
    | .ok (ls, s) =>
      let ws := c.waitsFor (.store []) ls
      if !ws.isEmpty then .error (c.wait (.accesses ws))
      else
        match Ctx.savePlaces { c with s := s } ea l with
        | .error s => .error s
        | .ok (r, s) => .ok ((ls, bs) :: r, s)

def execCsave (o : Ops) : State → Host.Outcome State Fault Refusal :=
  perform (.csave o) noDetail noPriv (fun c => c.once' (fun c => c.onSlot c.o.b (fun _ x =>
    let ea := c.addr c.o.a c.lead
    if ea % 64 != 0 then c.trap ⟨.prot, ea⟩
    else
      match c.savePlaces ea x.records with
      | .error s => s
      | .ok (ps, s) => c.advance (ps.foldl (fun s p => s.engineLocs p.1 p.2) s))))

/-- A configuration read back; none where R378 refuses it. -/
def cfgOf (h : ImgHdr) (w : Nat) (stack : List Byte) : Option CoilCfg :=
  let st := bits w 0 16
  let n := bits w 16 9
  let es := (List.range (min n 256)).map (fun i => leNat ((stack.drop (2 * i)).take 2))
  if st ≥ h.nstate || n > 256 || es.any (fun e => decide (e ≥ h.nsym)) then none
  else some { state := BitVec.ofNat 16 st, stack := es.map (BitVec.ofNat 16), dead := bit w 25 }

/-- Reserved bits and FORMAT of a save header. -/
def saveBad (w : Nat) : Bool := bits w 192 320 != 0 || bits w 112 16 != 1 || bits w 90 22 != 0 || bits w 56 8 != 0

/-- The snapshot records that LIVE names, read. -/
def Ctx.readSnaps (c : Ctx) (ea : Nat) (s : State) : List Nat → Except State (Map (List Byte) × State)
  | [] => .ok ([], s)
  | i :: l =>
    match ({ c with s := s } : Ctx).readRecord (wrap 64 (ea + 576 + 576 * i : Nat)) 576 with
    | .error s => .error s
    | .ok (bs, s) =>
      match Ctx.readSnaps c ea s l with
      | .error s => .error s
      | .ok (r, s) => .ok ((i, bs) :: r, s)

/-- Snapshots read back; none where one is refused. -/
def snapsOf (h : ImgHdr) : Map (List Byte) → Option (Map CoilCfg)
  | [] => some []
  | (i, bs) :: l =>
    let w := leNat (bs.take 64)
    match (if bits w 26 486 != 0 then none else cfgOf h w (bs.drop 64)), snapsOf h l with
    | some c, some r => some ((i, c) :: r)
    | _, _ => none

def execCload (o : Ops) : State → Host.Outcome State Fault Refusal :=
  perform (.cload o) noDetail noPriv (fun c => c.once' (fun c =>
    let ea := c.addr c.o.a c.lead
    if ea % 64 != 0 then c.trap ⟨.prot, ea⟩
    else c.withRecord ea 576 (fun bs s =>
      let w := leNat (bs.take 64)
      let bad := fun (s : State) => ({ c with s := s } : Ctx).trap ⟨.coilErr, 3⟩
      let image := bits w 0 56
      if saveBad w || image % 64 != 0 then bad s
      else
        match c.readSnaps ea s ((List.range 64).filter (fun i => bit w (128 + i))) with
        | .error s => s
        | .ok (recs, s) =>
          ({ c with s := s } : Ctx).withRecord image 64 (fun hb s =>
            let hw := leNat hb
            let h := ImgHdr.ofNat hw
            if imgBad hw then bad s
            else
              match cfgOf h (bits w 64 26) (bs.drop 64), snapsOf h recs with
              | some cfg, some snaps => c.bind s image hw cfg snaps
              | _, _ => bad s))))

/-! ### The engine's queue (R374, R375) -/

/-- The oldest request of a die's queue that a walker may take: no CFEED of its slot stands before it. -/
def State.coilNext (s : State) (d : Nat) : Option (Nat × CoilReq) :=
  if (s.coilq.filter (fun x => x.2.slot / 1024 == d && x.2.frec.isSome)).length ≥ 16 then none
  else
    s.coilq.find? (fun x => x.2.slot / 1024 == d && x.2.frec.isNone && (x.2.feed.isSome || x.2.cfg.isNone)
      && !s.coilq.any (fun y => decide (y.1 < x.1) && y.2.slot == x.2.slot && y.2.feed.isSome))

def State.dropCoil (s : State) (id : Nat) : State := { s with coilq := merase s.coilq id }

/-- The hardware events of the malformed items that a walk has met, one for each (R367, R420). -/
def State.coilEvent (s : State) (k : Nat) (x : CoilSlot) : Nat → State
  | 0 => s
  | n + 1 => (s.unitEvent (k / 1024) (10300 + k / 1024) x.part x.asid 0x8100 k 0 (s.dieCycle (k / 1024))).coilEvent k x n

/-- A request waits in its walker for a fault record to be resolved. -/
def State.coilPark (s : State) (id : Nat) (r : CoilReq) (x : CoilSlot) (f : Nat × Nat) : State :=
  let (n, s) := s.coilFault (r.slot / 1024) x f.1 f.2
  { s with coilq := mset s.coilq id { r with frec := some n } }

/-- A status word reaches its register, where the group still waits for it. -/
def State.coilAnswer (s : State) (id : Nat) (r : CoilReq) (d : Sel) (v : Nat) : State :=
  let s := s.dropCoil id
  match mget? s.groups r.gk with
  | none => s
  | some g =>
    if g.launch = r.launch && g.pending.any (fun p => p.iid == id) then
      (s.modGroup r.gk (fun g => { g with pending := g.pending.filter (fun p => p.iid != id) })).setUniform r.gk d 1 v
    else s

/-- A request performed by a walker, from its start; it waits where an item may not be read yet (R293). -/
def State.coilRun (s : State) (id : Nat) (r : CoilReq) : State :=
  match mget? s.coil r.slot with
  | none => s.dropCoil id
  | some x =>
    match r.feed with
    | some (tok, d) =>
      let w := Walker.begin s r.slot x r.bad
      let (c, w) := match tok with | some t => w.feed x.cfg t | none => (x.cfg, w)
      let mal := w.mal
      let (a, w) := w.accept c
      (match w.fault with
       | some f => w.s.coilPark id r x f
       | none =>
         if w.held then s
         else
         let x := { x with cfg := c }
         let s := (w.s.setCoil r.slot x).coilEvent r.slot x (if tok.isSome then mal else 0)
         s.coilAnswer id r d (s.coilStatus r.slot x a))
    | none =>
      let cfg := r.cfg.getD x.cfg
      let r := { r with cfg := some cfg }
      let (m, w) := (Walker.begin s r.slot x r.bad).mask cfg
      match w.fault with
      | some f => w.s.coilPark id r x f
      | none =>
        if w.held then s
        else
        let n := x.h.maskBytes
        let s := w.s.coilEvent r.slot x w.mal
        { s with coilq := mset s.coilq id { r with mask := natLe n m, units := List.range ((n + 31) / 32) } }

/-- COIL_MASK_WALK (R374, R375). -/
def execCoilMaskWalk (die : Key) (s : State) : Host.Outcome State Fault Refusal :=
  .next (match s.coilNext die with | some (id, r) => if r.feed.isNone then s.coilRun id r else s | none => s)

/-- COIL_FEED_WALK (R374). -/
def execCoilFeedWalk (die : Key) (s : State) : Host.Outcome State Fault Refusal :=
  .next (match s.coilNext die with | some (id, r) => if r.feed.isSome then s.coilRun id r else s | none => s)

/-- Bytes of a unit. -/
def unitBytes (mask : List Byte) (u : Nat) : List Byte := (mask.drop (32 * u)).take 32

/-- MASK_UNIT_LAND (R375): the unit is written whole and counted; after the last the request is over. -/
def execMaskUnitLand (id unit : Key) (s : State) : Host.Outcome State Fault Refusal :=
  .next
    (match mget? s.coilq id with
     | none => s
     | some r =>
       if !r.units.contains unit then s
       else
         let bs := unitBytes r.mask unit
         let loc := listGet 0 r.dst unit
         let s := (s.toRows loc bs.length).engineWrite loc bs
         let s := match (s.core (bankCore r.bar)).team with
           | some t => if t.launch = r.launch then s.landBytes r.bar bs.length else s
           | none => s
         let us := r.units.filter (fun u => u != unit)
         if us.isEmpty then s.dropCoil id else { s with coilq := mset s.coilq id { r with units := us } })

/-- A fault record of a request resolved (R346): the item is read again, or counts as malformed. -/
def State.coilResolved (s : State) (id : Nat) (r : CoilReq) (va action : Nat) : State :=
  s.coilRun id { r with frec := none, bad := if action = 0 then r.bad else va :: r.bad }

end Sys2Proof.Machine
end

