-- ==== Sys2Proof/Machine/Dist.lean ====
section
/-! DEFINITION. The distribution instructions (R172 to R179) and the propagation of uncertainty (R76 to R87). -/

namespace Sys2Proof.Machine

/-! ### The words of a distribution (R41, R71) -/

/-- A distribution: its mean and spread words and four sensitivities (none of them in moment form). -/
structure Dst where
  mean : W32
  spread : W32
  sens : List W16
  deriving DecidableEq, Repr

/-- The distribution that a value of two or four registers holds. -/
def dstOf (f : Form) (w : Nat) : Dst :=
  { mean := BitVec.ofNat 32 w
    spread := BitVec.ofNat 32 (w / 2 ^ 32)
    sens := match f with
      | .m => []
      | .t => (List.range 4).map (fun i => BitVec.ofNat 16 (w / 2 ^ (64 + 16 * i))) }

/-- Sensitivities as words from bit 64 up. -/
def sensWord : List W16 → Nat
  | [] => 0
  | x :: l => x.toNat + 65536 * sensWord l

/-- The registers' value of a distribution. -/
def Dst.word (x : Dst) : Nat := x.mean.toNat + x.spread.toNat * 2 ^ 32 + sensWord x.sens * 2 ^ 64

/-- The distribution a selector names in a lane. -/
def Ctx.dist (c : Ctx) (f : Form) (x : Sel) (l : Nat) : Dst := dstOf f (c.val x f.words l)

def Dst.sp (x : Dst) : Num := f32 x.spread
def Dst.si (x : Dst) (i : Nat) : Num := bf16Val (listGet 0 x.sens i)

/-! ### Rounding terms (R69, R83) -/

/-- The spread with the R69 term of a rounding of `z`; where no rounding takes place it keeps its value (log 35, DEDUCED). -/
def addTerm (f : FF) (m : RMode) (z : Num) (info : RInfo) (v : Num) : Num :=
  match z with
  | .fin q => if q.num = 0 then v else fadd32 v (rvTerm f m info)
  | _ => v

/-- The spread word of DCVT: its R69 term added once, whatever RV holds (R84, R176); where no rounding takes place, a NaN, a zero or an infinity that the
format holds, the word as it stands (R69) (log 35, DEDUCED). -/
def cvtSpread (f : FF) (m : RMode) (z : Num) (info : RInfo) (v : W32) : W32 :=
  let t := rvTerm f m info
  match z with
  | .fin q => if q.num = 0 then v else rne32 (Num.add false (f32 v) t)
  | .inf _ => if t.isInf then rne32 (Num.add false (f32 v) t) else v
  | .nan => v

/-- The spacing of the FP32 grid at |y| (R64); at zero the subnormal spacing. -/
def ulpAt (y : Num) : Num :=
  match y with
  | .fin q => if q.num = 0 then pow2 (-149) else pow2 (max (q.log2 - 23) (-149))
  | _ => .zero false

/-- The directed term of the four fixed evaluations (R83): `z` is the exact value of the last step and `y` its rounding. -/
def addDirected (z y : Num) (v : Num) : Num :=
  match y with
  | .nan => v
  | .inf _ => if z.isInf then v else fadd32 v (.inf false)
  | .fin _ => fadd32 v (fdiv32 (fmul32 (ulpAt y) (ulpAt y)) (.ofInt 3))

/-- What an instruction does to spreads and sensitivities: steps of R78 on the operands' spreads and exact expressions of R82 on their sensitivities, both
from the operand means as read and the rounded mean. -/
structure Rule where
  spread : List Num → Num → List Num → Num
  sens : List Num → Num → List Num → Num

/-- The result of a rounding distribution instruction in a lane (R173). `fixed` marks the fixed evaluations. -/
def Ctx.propagate (c : Ctx) (l : Nat) (fixed : Bool) (mus : List Num) (xs : List Dst) (z : Num) (r : Rule) : Nat :=
  let (code, info) := FF.f32.round (c.rctx l) z
  let y := FF.f32.val code
  let v := r.spread mus y (xs.map Dst.sp)
  let v := if c.rv then (if fixed then addDirected z y v else addTerm .f32 c.rnd z info v) else v
  let n := (xs.map (fun x => x.sens.length)).headD 0
  ({ mean := BitVec.ofNat 32 code, spread := rne32 v, sens := (List.range n).map (fun i => bf16 (r.sens mus y (xs.map (fun x => x.si i)))) } : Dst).word

/-- A source mean as the mean computation reads it (R76). -/
def Ctx.mu (c : Ctx) (x : Dst) : Num := f32z c.ftz x.mean

def nth (l : List Num) (i : Nat) : Num := listGet (.zero false) l i

/-! ### The rules of R78 and R82 -/

def ruleAdd : Rule := { spread := fun _ _ v => fadd32 (nth v 0) (nth v 1), sens := fun _ _ s => Num.add false (nth s 0) (nth s 1) }
def ruleSub : Rule := { spread := fun _ _ v => fadd32 (nth v 0) (nth v 1), sens := fun _ _ s => Num.sub false (nth s 0) (nth s 1) }

/-- t2 + t4 of R78. -/
def mulSpread (m v : List Num) : Num :=
  fadd32 (fmul32 (fmul32 (nth m 1) (nth m 1)) (nth v 0)) (fmul32 (fmul32 (nth m 0) (nth m 0)) (nth v 1))

def mulSens (m s : List Num) : Num := Num.add false ((nth m 1).mul (nth s 0)) ((nth m 0).mul (nth s 1))

def ruleMul : Rule := { spread := fun m _ v => mulSpread m v, sens := fun m _ s => mulSens m s }
def ruleFma : Rule :=
  { spread := fun m _ v => fadd32 (mulSpread m v) (nth v 2), sens := fun m _ s => Num.add false (mulSens m s) (nth s 2) }

def ruleDiv : Rule :=
  { spread := fun m _ v =>
      let b2 := fmul32 (nth m 1) (nth m 1)
      let a2 := fmul32 (nth m 0) (nth m 0)
      fadd32 (fdiv32 (nth v 0) b2) (fdiv32 (fmul32 a2 (nth v 1)) (fmul32 b2 b2))
    sens := fun m _ s =>
      Num.sub false ((nth s 0).div (nth m 1)) (((nth m 0).mul (nth s 1)).div ((nth m 1).mul (nth m 1))) }

/-- A unary function with derivative factor `g` of the operand mean and the rounded mean (R79). -/
def ruleUnary (g : Num → Num → Num) : Rule :=
  { spread := fun m y v => let k := g (nth m 0) y; fmul32 (fmul32 k k) (nth v 0)
    sens := fun m y s => (g (nth m 0) y).mul (nth s 0) }

/-- DSCL by the constant that stands as a second mean. -/
def ruleScl : Rule :=
  { spread := fun m _ v => fmul32 (fmul32 (nth m 1) (nth m 1)) (nth v 0)
    sens := fun m _ s => (nth m 1).mul (nth s 0) }

def gRcp (_ y : Num) : Num := (fmul32 y y).neg
/-- At a root of zero of either sign the factor is +∞ (R79). -/
def gSqrt (_ y : Num) : Num := if y.isZero then .inf false else fdiv32 (.ofInt 1 (-1)) y
def gExp (_ y : Num) : Num := fmul32 ln2c y
def gLog (m _ : Num) : Num := fdiv32 one (fmul32 ln2c m)
def gTanh (_ y : Num) : Num := fsub32 one (fmul32 y y)
def gSigm (_ y : Num) : Num := fmul32 y (fsub32 one y)

/-! ### The rounding instructions (R173) -/

/-- A rounding instruction of two distributions. -/
def dist2 (i : Instr) (f : Form) (r : Rule) (e : Bool → Num → Num → Num) : State → Host.Outcome State Fault Refusal :=
  perform i noDetail noPriv (fun c =>
    c.rounded f.words (fun l =>
      let a := c.dist f c.o.a l
      let b := c.dist f c.o.b l
      c.propagate l false [c.mu a, c.mu b] [a, b] (e (c.rnd == .rdn) (c.mu a) (c.mu b)) r))

/-- A rounding instruction of one distribution. -/
def dist1 (i : Instr) (f : Form) (fixed : Bool) (g : Num → Num → Num) (e : Num → Num) : State → Host.Outcome State Fault Refusal :=
  perform i noDetail noPriv (fun c =>
    c.rounded f.words (fun l =>
      let a := c.dist f c.o.a l
      c.propagate l fixed [c.mu a] [a] (e (c.mu a)) (ruleUnary g)))

def execDadd (f : Form) (o : Ops) : State → Host.Outcome State Fault Refusal := dist2 (.dadd f o) f ruleAdd Num.add
def execDsub (f : Form) (o : Ops) : State → Host.Outcome State Fault Refusal := dist2 (.dsub f o) f ruleSub Num.sub
def execDmul (f : Form) (o : Ops) : State → Host.Outcome State Fault Refusal := dist2 (.dmul f o) f ruleMul (fun _ a b => a.mul b)
def execDdiv (f : Form) (o : Ops) : State → Host.Outcome State Fault Refusal := dist2 (.ddiv f o) f ruleDiv (fun _ a b => a.div b)

def execDfma (f : Form) (o : Ops) : State → Host.Outcome State Fault Refusal :=
  perform (.dfma f o) noDetail noPriv (fun c =>
    c.rounded f.words (fun l =>
      let a := c.dist f o.a l
      let b := c.dist f o.b l
      let d := c.dist f c.cSel l
      c.propagate l false [c.mu a, c.mu b, c.mu d] [a, b, d] (Num.add (c.rnd == .rdn) ((c.mu a).mul (c.mu b)) (c.mu d)) ruleFma))

def execDrcp (f : Form) (o : Ops) : State → Host.Outcome State Fault Refusal := dist1 (.drcp f o) f false gRcp (fun a => one.div a)
/-- See log 49, DEDUCED. -/
def execDsqrt (f : Form) (o : Ops) : State → Host.Outcome State Fault Refusal := dist1 (.dsqrt f o) f false gSqrt Num.sqrt
def execDexp (f : Form) (o : Ops) : State → Host.Outcome State Fault Refusal := dist1 (.dexp f o) f true gExp exp2Exact
def execDlog (f : Form) (o : Ops) : State → Host.Outcome State Fault Refusal := dist1 (.dlog f o) f true gLog log2Exact
def execDtanh (f : Form) (o : Ops) : State → Host.Outcome State Fault Refusal := dist1 (.dtanh f o) f true gTanh tanhExact
def execDsigm (f : Form) (o : Ops) : State → Host.Outcome State Fault Refusal := dist1 (.dsigm f o) f true gSigm sigmExact

def execDscl (f : Form) (o : Ops) : State → Host.Outcome State Fault Refusal :=
  perform (.dscl f o) noDetail noPriv (fun c =>
    c.rounded f.words (fun l =>
      let a := c.dist f o.a l
      let k := c.fop o.b true l
      c.propagate l false [c.mu a, k] [a] ((c.mu a).mul k) ruleScl))

/-! ### Selection, origins, conversions between forms (R80, R86, R174, R175) -/

/-- The distribution of a NaN mean (R174). -/
def dstNaN (n : Nat) : Dst := { mean := nan32, spread := nan32, sens := List.replicate n 0x7FC0 }

def distPick (i : Instr) (f : Form) (wantMax : Bool) : State → Host.Outcome State Fault Refusal :=
  perform i noDetail noPriv (fun c =>
    c.result f.words (fun l =>
      let a := c.dist f c.o.a l
      let b := c.dist f c.o.b l
      match fPickB c.ftz wantMax a.mean b.mean with
      | none => (dstNaN a.sens.length).word
      | some t => if t then b.word else a.word))

def execDmax (f : Form) (o : Ops) : State → Host.Outcome State Fault Refusal := distPick (.dmax f o) f true
def execDmin (f : Form) (o : Ops) : State → Host.Outcome State Fault Refusal := distPick (.dmin f o) f false

def execDorg (i : BitVec 2) (o : Ops) : State → Host.Outcome State Fault Refusal :=
  perform (.dorg i o) noDetail noPriv (fun c =>
    c.result 4 (fun l =>
      let a := c.dist .m o.a l
      ({ mean := a.mean, spread := 0, sens := listSet [0, 0, 0, 0] i.toNat (bf16 a.sp.sqrt) } : Dst).word))

def execDset (f : Form) (o : Ops) : State → Host.Outcome State Fault Refusal :=
  perform (.dset f o) noDetail noPriv (fun c => c.result f.words (fun l => c.val o.a 1 l + c.val o.b 1 l * 2 ^ 32))

/-- The total variance of a distribution (R85): the moment form's own word, or the tracked sum. -/
def Dst.total (x : Dst) : Num :=
  if x.sens.isEmpty then x.sp
  else
    let q := fun i => fmul32 (x.si i) (x.si i)
    fadd32 (fadd32 (fadd32 (q 0) (q 1)) (fadd32 (q 2) (q 3))) x.sp

/-- DVAR's word: a moment form's variance bit for bit unless it is NaN (R85, R178). -/
def Dst.var (x : Dst) : W32 := if x.sens.isEmpty then (if x.sp.isNaN then nan32 else x.spread) else rne32 x.total

def execDvar (f : Form) (o : Ops) : State → Host.Outcome State Fault Refusal :=
  perform (.dvar f o) noDetail noPriv (fun c => c.result 1 (fun l => (c.dist f o.a l).var.toNat))

def execDstd (f : Form) (o : Ops) : State → Host.Outcome State Fault Refusal :=
  perform (.dstd f o) noDetail noPriv (fun c => c.result 1 (fun l => (rne32 (c.dist f o.a l).total.sqrt).toNat))

def execDsens (i : BitVec 2) (o : Ops) : State → Host.Outcome State Fault Refusal :=
  perform (.dsens i o) noDetail noPriv (fun c => c.result 1 (fun l => (rne32 ((c.dist .t o.a l).si i.toNat)).toNat))

def execDindep (o : Ops) : State → Host.Outcome State Fault Refusal :=
  perform (.dindep o) noDetail noPriv (fun c =>
    c.result 2 (fun l => let a := c.dist .t o.a l; ({ mean := a.mean, spread := a.var, sens := [] } : Dst).word))

def execDtrk (o : Ops) : State → Host.Outcome State Fault Refusal :=
  perform (.dtrk o) noDetail noPriv (fun c =>
    c.result 4 (fun l => let a := c.dist .m o.a l; ({ mean := a.mean, spread := a.spread, sens := [0, 0, 0, 0] } : Dst).word))

/-! ### DCVT and DRED (R84, R87, R176, R177) -/

def nfmtFF : NFmt → FF
  | .f16 => .f16
  | .bf16 => .bf16
  | .e4m3 => .e4m3
  | .e5m2 => .e5m2

def execDcvt (n : NFmt) (f : Form) (o : Ops) : State → Host.Outcome State Fault Refusal :=
  perform (.dcvt n f o) noDetail noPriv (fun c =>
    c.rounded f.words (fun l =>
      let a := c.dist f o.a l
      let (code, info) := (nfmtFF n).round (c.rctx l) (c.mu a)
      ({ a with mean := BitVec.ofNat 32 code, spread := cvtSpread (nfmtFF n) c.rnd (c.mu a) info a.spread } : Dst).word))

/-- One node of DRED (R87). -/
def dredNode (rv : Bool) (a b : Dst) : Dst :=
  let z := Num.add false (f32 a.mean) (f32 b.mean)
  let (code, info) := FF.f32.round .rne z
  let v := fadd32 a.sp b.sp
  { mean := BitVec.ofNat 32 code
    spread := rne32 (if rv && info != .exact then fadd32 v (rvTerm .f32 .rne info) else v)
    sens := (List.range a.sens.length).map (fun i => bf16 (Num.add false (a.si i) (b.si i))) }

/-- One level of the tree of R74: neighbours joined, an odd last element carried up. -/
def treeLevel {α : Type} (f : α → α → α) : List α → List α
  | a :: b :: l => f a b :: treeLevel f l
  | l => l

/-- The tree of R74 over at most 2^fuel elements. -/
def tree {α : Type} (f : α → α → α) : Nat → List α → List α
  | 0, l => l
  | n + 1, l => if l.length ≤ 1 then l else tree f n (treeLevel f l)

def execDred (f : Form) (o : Ops) : State → Host.Outcome State Fault Refusal :=
  perform (.dred f o) noDetail noPriv (fun c =>
    let ls := lanes c.acts
    match ls, tree (dredNode c.rv) 7 (ls.map (c.dist f o.a)) with
    | l :: _, r :: _ => c.advance (if ls.length = 1 then c.s.modGroup c.gk (fun g => g.setSel o.d l (c.val o.a f.words l) f.words)
        else c.s.modGroup c.gk (fun g => g.setSel o.d l r.word f.words))
    | _, _ => c.advance c.s)

end Sys2Proof.Machine
end

