-- ==== Sys2Proof/WellFormed.lean ====
section
/-! DEFINITION. Well-formedness of an instruction: no encoding fault of R121 that the word alone shows. -/

namespace Sys2Proof

/-- A well-formed instruction word: no check of R121 refuses it. -/
def Instr.WF (i : Instr) : Bool := i.check.isNone

end Sys2Proof
end

