-- ==== Sys2Proof/Decode.lean ====
section
/-! DEFINITION. The decoder (R92 to R121), total on any word and rejecting by name with the detail code of R121, and the encoder, written from the same rows
of the opcode map. -/

namespace Sys2Proof

/-- The bits of a base word by field (R95). -/
structure Fields where
  op : Nat
  pg : Nat
  pn : Nat
  u : Nat
  ch : Nat
  d : Nat
  a : Nat
  b : Nat
  c : Nat
  lq : Nat
  le : Nat
  nwb : Nat
  m : Nat
  deriving DecidableEq, Repr

/-- The base word of the fields, least significant field first (R95). -/
def Fields.pack (len : Nat) (f : Fields) : Nat :=
  len + 4 * (f.op + 256 * (f.pg + 8 * (f.pn + 2 * (f.u + 2 * (f.ch + 2 * (f.d + 512 * (f.a + 512 * (f.b + 512 * (f.c + 512 * (f.lq + 4 *
    (f.le + 2 * (f.nwb + 2 * f.m))))))))))))

/-- The fields of a base word (R95). -/
def Fields.unpack (w : Nat) : Fields :=
  let w := w / 4
  let op := w % 256
  let w := w / 256
  let pg := w % 8
  let w := w / 8
  let pn := w % 2
  let w := w / 2
  let u := w % 2
  let w := w / 2
  let ch := w % 2
  let w := w / 2
  let d := w % 512
  let w := w / 512
  let a := w % 512
  let w := w / 512
  let b := w % 512
  let w := w / 512
  let c := w % 512
  let w := w / 512
  let lq := w % 4
  let w := w / 4
  let le := w % 2
  let w := w / 2
  let nwb := w % 2
  let m := w / 2 % 256
  { op, pg, pn, u, ch, d, a, b, c, lq, le, nwb, m }

def Fields.hdr (f : Fields) : Hdr :=
  { pg := BitVec.ofNat 3 f.pg, pn := f.pn == 1, u := f.u == 1, ch := f.ch == 1, nwb := f.nwb == 1, le := f.le == 1, lq := BitVec.ofNat 2 f.lq }

/-- What follows the base word of a word of this length. -/
def immOf (l : Len) (ext : Nat) : Imm :=
  match l with
  | .l64 => .none
  | .l96 => .i32 (BitVec.ofNat 32 ext)
  | .l128 => .i64 (BitVec.ofNat 64 ext)

/-- Field C read as raw bits or as a selector. -/
def cOf (raw : Bool) (c : Nat) : Option CField := if raw then some (.raw (BitVec.ofNat 9 c)) else (selOfCode c).map .sel

/-- The operand fields, when every selector names something. -/
def opsOf (f : Fields) (raw : Bool) (imm : Imm) : Option Ops :=
  match selOfCode f.d, selOfCode f.a, selOfCode f.b, cOf raw f.c with
  | some d, some a, some b, some c => some { hdr := f.hdr, d := d, a := a, b := b, c := c, imm := imm }
  | _, _, _, _ => none

/-- Whether C holds raw bits: IMC = 1 where the row allows it in a 64-bit word (R101), or a FENCE. -/
def rawBits (r : OpRow) (m : Nat) (l : Len) : Bool := r.rawC || (r.imc && m / 16 % 2 == 1 && l == .l64)

/-- MOD with the IMC bit taken out where C is an immediate. -/
def modOf (r : OpRow) (m : Nat) (l : Len) : Nat := if r.imc && m / 16 % 2 == 1 && l == .l64 then m - 16 else m

/-- The instruction that opcode, MOD and selectors spell, before the checks of the operand fields (log 27, DEDUCED). -/
def decodeForm (w ext : Nat) : Except Reject Instr :=
  match Len.ofCode (w % 4) with
  | none => .error .len11
  | some l =>
    let f := Fields.unpack w
    match opRow f.op with
    | none => .error .opcode
    | some r =>
      if !(r.lens f.m).contains l then .error .length
      else if r.op == 0x3B && f.m == 0x0A && l == .l128 then .error .modifier
      else
        match r.build (modOf r f.m l) with
        | none => .error .modifier
        | some k =>
          match opsOf f (rawBits r f.m l) (immOf l ext) with
          | none => .error .selector
          | some o => .ok (k o)

/-- The decoder: the instruction of a base word `w` and what follows it, or why there is none (R121). -/
def decode (w ext : Nat) : Except Reject Instr :=
  match decodeForm w ext with
  | .error e => .error e
  | .ok i =>
    match i.check with
    | none => .ok i
    | some e => .error e

/-- Bits of the word beyond the base word. -/
def immNat : Imm → Nat
  | .none => 0
  | .i32 v => v.toNat
  | .i64 v => v.toNat

/-- Field C as nine bits. -/
def cCode : CField → Nat
  | .sel s => selCode s
  | .raw v => v.toNat

/-- The fields of an encoding: MOD gains the IMC bit where C is an immediate of class I. -/
def fieldsOf (e : Enc) : Fields :=
  let imc := e.o.c.isRaw && (match opRow e.op with | some r => r.imc | none => false)
  let h := e.o.hdr
  { op := e.op, pg := h.pg.toNat, pn := h.pn.toNat, u := h.u.toNat, ch := h.ch.toNat, d := selCode e.o.d, a := selCode e.o.a, b := selCode e.o.b,
    c := cCode e.o.c, lq := h.lq.toNat, le := h.le.toNat, nwb := h.nwb.toNat, m := if imc then e.m + 16 else e.m }

/-- The words of an instruction: its length in bits, its base word, and what follows; none for a machine event. -/
def Instr.encode (i : Instr) : Option (Nat × Nat × Nat) :=
  i.enc.map (fun e => ((immLen e.o.imm).bytes * 8, (fieldsOf e).pack (immLen e.o.imm).code, immNat e.o.imm))

/-- The instruction in the low bits of `w`, which are numbered from the first word's bit 0 as the opcode table numbers them. -/
def decodeTableWord (_nbits w : Nat) : Option Instr :=
  match decode (w % 2 ^ 64) (w / 2 ^ 64 % 2 ^ 64) with
  | .ok i => some i
  | .error _ => none

end Sys2Proof
end

