-- ==== Sys2Proof/Machine/ControlCore.lean ====
section
/-! DEFINITION. Control cores as observers of device memory (R22, R290): their loads, stores, atomics and fences, translated and ordered as those of the compute
cores. -/

namespace Sys2Proof.Machine

/-- The key under which a control core's accesses are in flight, as a group's are under its own. -/
def ccoreKey (c : Nat) : Nat := 2 ^ 21 + c
/-- Its translating unit. -/
def ccoreUnit (c : Nat) : Nat := 3400 + c

def State.setCcore (s : State) (c : Nat) (x : Ccore) : State := { s with ccores := mset s.ccores c x }

def Op.accKind : Op → AccKind
  | .load _ => .load
  | .store _ => .store
  | _ => .atomic

/-- The access of a control core of a partition at a place of this package or a peer's. -/
def ccoreAccess (c p iid : Nat) (op : Op) (sc : Scope) (asid va len loc : Nat) (h : Home) (hd : Nat) (peer : Option Nat) : Access :=
  { iid := iid, gk := ccoreKey c, launch := 0, part := p, asid := asid, die := c / 8, core := 192 + c, lane := 0, op := op, scope := sc, rh := .df, loc := loc,
    len := len, va := va, cacheable := h = .cacheable && peer.isNone, crossing := crosses (c / 8) (192 + c) loc h hd, home := hd, word := 0, relied := none,
    claimed := false, peer := peer }

/-- What a load or atomic gives back is to come. -/
def ccoreLoad (c : Nat) : LoadI :=
  { gk := ccoreKey c, pid := 0, pc := 0, mask := 1, dst := .zero, words := 0, uni := false, nwb := true, latch := none, back := none, left := 1, upper := 0, got := [],
    poison := none }

/-- An access issued; one that has no translation, that a page refuses or that is misaligned is not performed: the control core's own exception is its business
(log 97, DESIGN CHOICE). -/
def State.ccoreIssue (s : State) (c p : Nat) (op : Op) (sc : Scope) (asid va len : Nat) : State :=
  match s.place (ccoreUnit c) p asid true op.accKind va with
  | (x, s) =>
    let (iid, s) := s.fresh
    let (id, s) := s.fresh
    let s' := if op.isStore then s else { s with loads := mset s.loads iid (ccoreLoad c) }
    if len = 0 || va % len != 0 then s
    else
      match x with
      | .at loc h hd => { s' with accesses := mset s'.accesses id (ccoreAccess c p iid op sc asid va len loc h hd none) }
      | .peer pkg frame ofs =>
        if sc = .sys then
          { s' with
            peers := mset s'.peers id
              { gk := ccoreKey c, pid := 0, job := none, pkg := pkg, acc := ccoreAccess c p iid op sc asid va len (frame * 65536 + ofs) .cacheable 2 (some pkg),
                since := s.dieCycle (c / 8), fail := none } }
        else s
      | _ => s

/-- The accesses of a control core that are not yet performed. -/
def State.ccoreOpen (s : State) (c : Nat) : List Nat :=
  mkeys s.accesses (fun _ a => a.gk == ccoreKey c) ++ mkeys s.peers (fun _ o => o.job.isNone && o.gk == ccoreKey c)

/-- What a control core does next in program order: a fence waits for its earlier accesses, at its scope (R194); its control space is `State.controlsOn`'s. -/
def State.ccoreRun (c p : Nat) : Nat → State → State
  | 0, s => s
  | fuel + 1, s =>
    let x := mgetD s.ccores c { ops := [], vals := [] }
    match x.ops with
    | [] => s
    | .fence sc :: l =>
      if (s.awaited sc (s.ccoreOpen c)).isEmpty then State.ccoreRun c p fuel ((s.rely (s.ccoreOpen c)).setCcore c { x with ops := l }) else s
    | .control _ _ :: _ => s
    | .access op sc asid va len :: l => State.ccoreRun c p fuel ((s.setCcore c { x with ops := l }).ccoreIssue c p op sc asid va len)

/-- Every control core of a partition goes on. -/
def State.ccoresOn (s : State) : State :=
  (mkeys s.ccores (fun _ x => !x.ops.isEmpty)).foldl (fun s c =>
    match s.partOfRegion (c / 4) with
    | some p => State.ccoreRun c p (mgetD s.ccores c { ops := [], vals := [] }).ops.length s
    | none => s) s

/-- An operation comes to a live control core (R22, R458). -/
def State.ccoreTake (s : State) (c : Nat) (x : CcOp) : State :=
  if c < 16 && !s.pkg.ccoresDown.contains c && (s.partOfRegion (c / 4)).isSome then
    let y := mgetD s.ccores c { ops := [], vals := [] }
    s.setCcore c { y with ops := y.ops ++ [x] }
  else s

end Sys2Proof.Machine
end

