-- ==== Sys2Proof/Machine/Settle.lean ====
section
/-! DEFINITION. What follows of itself after every step: waits that are over (R254, R255), graph instances that complete (R319), TASKGETs that are served (R237),
the deadlock check of GROW (R145, R264), and a FUSE whose partner is gone (R142). -/

namespace Sys2Proof.Machine

/-! ### Waits that are over -/

/-- A blocked instruction that has still to write a result, or an MMA that has still to execute. -/
def PState.owes : PState → Bool
  | .blocked (.barrier _) => true
  | .blocked (.recv _ _ _ _) => true
  | .blocked (.taskget _ _ _) => true
  | .blocked (.launch _) => true
  | .blocked (.step _ _ _) => true
  | .blocked .rendezvous => true
  | .blocked (.peer _) => true
  | .blocked (.clock _ _ _) => true
  | _ => false

/-- What a group has issued that is not complete (R250): register results and loads to come, tile loads, and MMAs. -/
def State.openItems (s : State) (gk : Nat) : List Nat :=
  (match mget? s.groups gk with | some g => g.pending.map (fun p => p.iid) | none => [])
    ++ mkeys s.loads (fun _ l => l.gk == gk && (!l.nwb || l.latch.isSome)) ++ mkeys s.xfers (fun _ x => x.gk == gk && !x.out)
    ++ ((s.quarter (quarterOf gk)).mmaq.filter (fun m => m.gk == gk && !m.writes)).map (fun m => m.id)

/-- And its paths that stand in an instruction which is not complete. -/
def Group.openPaths (g : Group) : List Nat := mkeys g.paths (fun _ p => p.st.owes)

/-- Every earlier instruction of the group has completed: register results written, loads returned, MMAs done (R250). -/
def State.quietFor (s : State) (gk : Nat) : Bool :=
  match mget? s.groups gk with
  | none => true
  | some g => (s.openItems gk).isEmpty && g.openPaths.isEmpty

/-- A CLOCK's wait goes on without what has completed, or ends with the core's count in its register. -/
def State.clockOn (s : State) (gk pid : Nat) : State :=
  match mget? s.groups gk with
  | none => s
  | some g =>
    match (mget? g.paths pid).map (fun (p : Path) => p.st) with
    | some (.blocked (.clock items paths d)) =>
      let is := items.filter (fun i => (s.openItems gk).contains i)
      let ps := paths.filter (fun i => g.openPaths.contains i)
      if is.isEmpty && ps.isEmpty then (s.setUniform gk d 2 (s.coreCycle (coreOf gk) % 2 ^ 64)).release gk pid
      else s.modPath gk pid (fun p => { p with st := .blocked (.clock is ps d) })
    | _ => s

/-- Paths that wait in CLOCK. -/
def State.clocks (s : State) : List (Nat × Nat) :=
  s.groups.flatMap (fun x => (mkeys x.2.paths (fun _ p => match p.st with | .blocked (.clock _ _ _) => true | _ => false)).map (fun p => (x.1, p)))

/-- A wait of a path of group `gk` is over. -/
def State.waitOver (s : State) (gk : Nat) (g : Group) : WaitFor → Bool
  | .regs ks => !(s.outstanding g).any (fun p => ks.contains p.reg)
  | .accesses ids => !ids.any s.accPending
  | .fenced sets => !g.fenceHolds sets
  | .mmaRoom => decide (((s.quarter (quarterOf gk)).mmaq.filter MmaOp.isMma).length < 4)
  | .transfers ids => !ids.any (fun i => (mget? s.xfers i).isSome)
  | .jobRoom => decide (s.openJobs (dieOf gk) < 1024)
  | .coil slot => !s.coilq.any (fun x => x.2.slot == slot && (x.2.feed.isSome || x.2.cfg.isNone))
  | .coilDone slot => !s.coilq.any (fun x => x.2.slot == slot)
  | .load iid => (mget? s.loads iid).isNone
  | .released accs jobs => s.released accs jobs
  | .send _ => false
  | .round => (match (s.quarter (quarterOf gk)).round with | some r => !r.members.any (fun m => m.1 == gk) | none => true)

/-- A path whose wait is over is ready; a blocked one with a fresh stamp (R259). -/
def State.wakeOne (s : State) (gk : Nat) (g : Group) (now : Nat) (p : Path) : Path :=
  match p.st with
  | .waiting w => if s.waitOver gk g w then p.wake now false else p
  | .blocked (.again w) => if s.waitOver gk g w then p.wake now true else p
  | _ => p

def State.wakeAll (s : State) : State :=
  { s with groups := s.groups.map (fun x =>
      (x.1, { x.2 with paths := x.2.paths.map (fun y => (y.1, s.wakeOne x.1 x.2 (s.coreCycle (coreOf x.1)) y.2)) })) }

/-! ### GROW (R145, R264) -/

def Group.grown (s : State) (g : Group) : Bool := decide (g.blocks > (s.launch g.launch).regs)

def PState.inGrow : PState → Bool
  | .blocked (.grow _) => true
  | _ => false

/-- Waiting in GROW: some path waits there, and every other waits there too or is parked. -/
def Group.waitsInGrow (g : Group) : Bool :=
  g.paths.any (fun x => x.2.st.inGrow) && g.paths.all (fun x => x.2.st.inGrow || x.2.st.isParked)

/-- The request that the deadlock check of a quarter fails: none where the oldest fits or a grown group still runs. -/
def State.growStuck (s : State) (q : Nat) : Option GrowReq :=
  let reqs := (s.quarter q).growq
  match reqs with
  | [] => none
  | r :: _ =>
    let fits := match mget? s.groups r.gk with | some g => g.blocks + r.n > 32 || g.width * r.n ≤ s.freeBlocks q | none => true
    if fits then none
    else if s.groups.all (fun x => quarterOf x.1 != q || !(Group.grown s x.2) || x.2.waitsInGrow) then
      match (reqs.map (·.gk)).max? with
      | some k => reqs.find? (fun r => r.gk == k)
      | none => none
    else none

/-- The check of R145, repeated after each failure. -/
def State.growCheck (q : Nat) : Nat → State → State
  | 0, s => s
  | n + 1, s =>
    match s.growStuck q with
    | none => s
    | some r =>
      let x := s.quarter q
      let s := s.setQuarter q { x with growq := x.growq.filter (fun y => !(y.gk == r.gk && y.pid == r.pid)) }
      State.growCheck q n (s.trapWait r.gk r.pid ⟨.growFail, r.n⟩)

/-! ### FUSE (R142) -/

/-- A FUSE that waits for a slot which is empty by now, or whose group waits in a FUSE for another (log 31, DEDUCED). -/
def State.fuseStuck (s : State) (gk : Nat) (g : Group) : Option Nat :=
  match g.fusing with
  | none => none
  | some h =>
    let bad := match mget? s.groups (gk / 16 * 16 + h) with
      | none => true
      | some k => k.dead || (match k.fusing with | some h' => h' != gk % 16 | none => false)
    if bad then (g.paths.head?).map (·.1) else none

def State.fuseCheck (s : State) : State :=
  match s.groups.findSome? (fun x => (s.fuseStuck x.1 x.2).map (fun p => (x.1, p))) with
  | none => s
  | some (gk, pid) => s.trapAt gk pid ⟨.ill, 10⟩ (s.fpcOf gk pid) (s.pcOf gk pid)

/-! ### Ended gangs (R266) -/

/-- An MMA or MZERO whose gang has ended raises ILL once no other path's trap handler runs and its group stands neither parked nor stopped. -/
def State.gangCheck (s : State) : State :=
  match s.groups.findSome? (fun x => if x.2.stopped then none else
      ((x.2.paths.find? (fun y => y.2.st == .blocked .gangLost && !s.trapHeld x.1 y.1)).map (fun y => (x.1, y.1)))) with
  | none => s
  | some (gk, pid) => s.trapAt gk pid ⟨.ill, 10⟩ (s.fpcOf gk pid) (s.pcOf gk pid)

/-! ### Remote traps (R342) -/

/-- The group has stopped for pre-emption. -/
def State.isStopped (s : State) (gk : Nat) : Bool := match mget? s.groups gk with | some g => g.stopped | none => false

/-- The replies of an instruction that are still to come are discarded, with the results it waits for. -/
def State.dropPeers (s : State) (iid gk : Nat) : State :=
  let s := { s with peers := s.peers.filter (fun x => x.2.acc.iid != iid), loads := merase s.loads iid }
  s.modGroup gk (fun g => { g with pending := g.pending.filter (fun p => p.iid != iid) })

/-- A path that waits at an instruction for replies of peers. -/
def PState.awaitsPeers : PState → Bool
  | .blocked (.peer _) => true
  | _ => false

/-- The path that a reply is for, while it waits for its instruction's replies. -/
def State.peerPath (s : State) (o : PeerOut) : Bool :=
  match mget? s.groups o.gk with
  | none => false
  | some g => match mget? g.paths o.pid with | some p => p.st.awaitsPeers && !g.dead | none => false

/-- The instruction that a reply is for has still to be completed: its group is parked, or will try its other lanes again (R347). -/
def State.peerLater (s : State) (o : PeerOut) : Bool :=
  match mget? s.groups o.gk with
  | none => false
  | some g => !g.dead && (g.park.isSome || (mget? g.unfinished o.pid).isSome)

/-- The remote traps that are due (R342): raised, kept for later, or given up with an instruction that is no more. -/
def State.peerCheck (s : State) : State :=
  match s.peers.findSome? (fun x => match x.2.fail with
      | some t => if s.peerLater x.2 || (s.peerPath x.2 && (s.trapHeld x.2.gk x.2.pid || s.isStopped x.2.gk)) then none else some (x.2, t)
      | none => none) with
  | none => s
  | some (o, t) =>
    let d := s.dropPeers o.acc.iid o.gk
    if s.peerPath o then d.trapAt o.gk o.pid t (s.fpcOf o.gk o.pid) (s.pcOf o.gk o.pid) else d

/-! ### Holds that are due (R429) -/

/-- A path to be held has come to an instruction boundary. -/
def State.settleHolds (s : State) : State :=
  (s.groups.flatMap (fun x => (x.2.paths.filter (fun y => y.2.hold && y.2.st == .ready)).map (fun y => (x.1, y.1)))).foldl
    (fun s y => s.holdPath y.1 y.2) s

/-! ### All of it -/

def State.settle (s : State) : State :=
  let s := s.ccoresOn.closeInsts.settleGrove.fuseCheck.gangCheck.peerCheck.settleHolds
  let s := s.clocks.foldl (fun s x => s.clockOn x.1 x.2) s
  let s := (mkeys s.quarters (fun _ q => !q.growq.isEmpty)).foldl (fun s q => State.growCheck q 64 s) s
  s.wakeAll

end Sys2Proof.Machine
end

