-- ==== Sys2Proof/Machine/Issue.lean ====
section
/-! DEFINITION. Choosing a path to issue (R258 to R261), fetching and decoding its instruction (R92, R93, R121, R337, R344). -/

namespace Sys2Proof.Machine

/-! ### Choosing a path (R258 to R261) -/

/-- The issue class of a group's paths, higher first (R258). -/
def State.classOf (s : State) (g : Group) : Nat := if g.handler.isSome then 5 else if (s.launch g.launch).sys then 4 else g.prio

/-- The path may issue: it is ready and in the table, its group runs, and no sibling holds the group's trap handler (R254, R344, R351). -/
def Group.mayIssue (g : Group) (pid : Nat) (p : Path) : Bool :=
  g.runs pid && p.st == .ready && p.entry.isSome

/-- A path that may issue, with what the choice compares. -/
structure Cand where
  gk : Nat
  pid : Nat
  cls : Nat
  boosted : Bool
  /-- Cycles it has been ready without issuing (R260). -/
  count : Nat
  stamp : Nat
  entry : Nat
  deriving DecidableEq, Repr

/-- The candidates of a quarter: a path ready for 4,096 cycles is boosted (R260). -/
def State.cands (s : State) (q : Nat) : List Cand :=
  (s.groups.filter (fun x => quarterOf x.1 == q)).flatMap (fun x =>
    (x.2.paths.filter (fun y => x.2.mayIssue y.1 y.2)).map (fun y =>
      { gk := x.1, pid := y.1, cls := s.classOf x.2, boosted := y.2.boosted || decide (x.2.readyFor y.1 (s.coreCycle (coreOf x.1)) y.2 ≥ 4096),
        count := x.2.readyFor y.1 (s.coreCycle (coreOf x.1)) y.2, stamp := y.2.stamp, entry := y.2.entry.getD 8 }))

/-- Whether one candidate goes before another: class, boosts with the highest count, then the oldest stamp, the lower %group and the lower %path. -/
def Cand.before (a b : Cand) : Bool :=
  if a.cls != b.cls then decide (a.cls > b.cls)
  else if a.boosted != b.boosted then a.boosted
  else if a.boosted && a.count != b.count then decide (a.count > b.count)
  else if a.stamp != b.stamp then decide (a.stamp < b.stamp)
  else if a.gk != b.gk then decide (a.gk < b.gk)
  else decide (a.entry ≤ b.entry)

def bestCand : List Cand → Option Cand
  | [] => none
  | a :: l =>
    match bestCand l with
    | none => some a
    | some b => if a.before b then some a else some b

/-- The chain in progress on a quarter holds its issue slot: its path's next instruction is a member too (R42, R261). -/
def State.chainHolds (s : State) (q : Nat) : Option (Nat × Nat) :=
  match (s.quarter q).chain with
  | none => none
  | some k =>
    match mget? s.groups k.gk with
    | none => none
    | some g => if !g.dead && s.inside k k.gk k.pid then some (k.gk, k.pid) else none

/-- The path a quarter issues from. -/
def State.pick (s : State) (q : Nat) : Option Cand :=
  let cs := s.cands q
  match cs with
  | [] => none
  | [c] => match s.chainHolds q with | some k => if k.1 == c.gk && k.2 == c.pid then some c else none | none => some c
  | _ => match s.chainHolds q with | some k => cs.find? (fun c => k.1 == c.gk && k.2 == c.pid) | none => bestCand cs

/-! ### Fetching (R92, R93, R337, R344) -/

inductive Fetched where
  | instr (i : Instr)
  | trap (t : Trap)
  | park (cause : Nat)
  deriving DecidableEq, Repr

/-- The detail code of a word that is no instruction: a value rule gives way to the chain and latch rules, which R121 names first. -/
def State.rejectDetail (s : State) (gk pid w ext : Nat) (e : Reject) : Nat :=
  if e = .value then
    match decodeForm w ext with
    | .error _ => e.detail
    | .ok i =>
      match ({ s with cur := some ⟨gk, pid⟩ } : State).ctx i with
      | some c => if c.enter.chainBad then 8 else e.detail
      | none => e.detail
  else e.detail

/-- The instruction at an address of storage; `pc` is its address in the block. No instruction fits in the last 4 bytes of a block, whatever they hold (R93,
R94). -/
def State.decodeAt (s : State) (gk pid pc loc : Nat) : Fetched :=
  let w := s.word loc 8
  if pc % 32 + 8 > 32 then .trap ⟨.alignFetch, pc / 32 * 32⟩
  else
    match Len.ofCode (w % 4) with
    | none => .trap ⟨.ill, 1⟩
    | some n =>
      if pc % 32 + n.bytes > 32 then .trap ⟨.alignFetch, pc / 32 * 32⟩
      else
        let ext := s.word (loc + 8) (n.bytes - 8)
        match decode w ext with
        | .ok i => .instr i
        | .error e => .trap ⟨.ill, s.rejectDetail gk pid w ext e⟩

/-- A fetch at a path's PC (log 47, DEDUCED). -/
def State.fetch (s : State) (gk pid : Nat) (g : Group) (pc : Pc) : Fetched × State :=
  let l := s.launch g.launch
  match s.place (quarterOf gk) l.part l.asid (s.isSys g) .fetch pc.toNat with
  | (.fault k, s) => (.park k, s)
  | (.at loc h _, s) =>
    let s := if h = .cacheable then s.toRows loc 4 else s
    (if (s.poisoned loc 1).isSome then .trap ⟨.mchk, pc.toNat⟩ else s.decodeAt gk pid pc.toNat loc, s)
  | (_, s) => (.trap ⟨.prot, pc.toNat⟩, s)

/-- What a quarter's turn leads to: an instruction to execute for a path, or nothing more. -/
inductive Turn where
  | run (gk pid : Nat) (i : Instr)
  | over
  deriving DecidableEq, Repr

/-- The latches are lost when the quarter issues from another path (R44). -/
def State.loseLatches (s : State) (q gk pid : Nat) : State :=
  let x := s.quarter q
  match x.chain with
  | some k => if k.isOf gk pid then s else s.setQuarter q { x with chain := none, latch := [] }
  | none => s

/-- A quarter's turn: the chosen path takes the WATCHDOG that its group has waited with (R263), or its instruction is fetched. A fetch that faults strikes the
path where it stands, inside its chain or not (R44) (log 87, DESIGN CHOICE). -/
def State.turn (s : State) (q : Nat) : Turn × State :=
  let s : State := { s with lastQ := q }
  match s.pick q with
  | none => (.over, s)
  | some c =>
    match mget? s.groups c.gk with
    | none => (.over, s)
    | some g =>
      match mget? g.paths c.pid with
      | none => (.over, s)
      | some p =>
        if g.wdDue && g.handler.isNone then
          (.over, (s.modGroup c.gk (fun g => { g with wdDue := false })).trapAt c.gk c.pid ⟨.watchdog, g.watchdog⟩ g.lastPc p.pc)
        else
          match (s.loseLatches q c.gk c.pid).fetch c.gk c.pid g p.pc with
          | (.instr i, s) => (.run c.gk c.pid i, { s with cur := some ⟨c.gk, c.pid⟩ })
          | (.trap t, s) => (.over, s.trapAt c.gk c.pid t p.pc p.pc)
          | (.park k, s) => (.over, s.park c.gk c.pid 3 p.pc p.mask [(p.pc.toNat, p.mask, k)])

end Sys2Proof.Machine
end

