-- ==== Sys2Proof/Machine/Trace.lean ====
section
/-! DEFINITION. The trace core of a die (R415 to R430): its registers, the filter, the trigger sequencer, the ring, stall samples, and holding one path. -/

namespace Sys2Proof.Machine

/-! ### The filter (R426 to R428) -/

/-- Bytes of a filter instruction; none for an opcode that there is not. -/
def filterLen (op : Nat) : Option Nat :=
  if op > 0x17 then none
  else if op == 0x01 then some 5
  else if op == 0x00 || op == 0x11 || op == 0x12 || op == 0x13 || op == 0x16 then some 2
  else some 1

/-- Starts and jump targets of the instructions from byte `at` on; none for a program with an instruction that R426 refuses. -/
def filterScan (prog : List Byte) : Nat → Nat → Option (List Nat × List Nat)
  | 0, _ => some ([], [])
  | fuel + 1, pc =>
    if pc ≥ prog.length then some ([], [])
    else
      let op := (listGet 0 prog pc).toNat
      let arg := (listGet 0 prog (pc + 1)).toNat
      match filterLen op with
      | none => none
      | some n =>
        if pc + n > prog.length || (op == 0 && arg > 15) || ((op == 0x13 || op == 0x16) && arg > 3) then none
        else
          match filterScan prog fuel (pc + n) with
          | none => none
          | some (st, tg) => some (pc :: st, if op == 0x11 || op == 0x12 then (pc + n + arg) :: tg else tg)

/-- A program that R426 accepts. -/
def filterOk (prog : List Byte) : Bool :=
  match filterScan prog prog.length 0 with
  | none => false
  | some (st, tg) => tg.all (fun t => t == prog.length || st.contains t)

inductive Verdict where
  | keep | drop | trig
  deriving DecidableEq, Repr

/-- The place of a running filter: its next byte, its stack with the top first, and TFC0 to TFC3. -/
structure Filter where
  pc : Nat
  stack : List W32
  cnt : Map W32
  deriving DecidableEq, Repr

def boolWord (b : Bool) : W32 := if b then 1 else 0

/-- A two-operand operation, `a` the top and `b` the word below it. -/
def filterAlu (op : Nat) (a b : W32) : W32 :=
  match op with
  | 0x05 => b + a
  | 0x06 => b - a
  | 0x07 => b &&& a
  | 0x08 => b ||| a
  | 0x09 => b ^^^ a
  | 0x0B => b <<< (a.toNat % 32)
  | 0x0C => b >>> (a.toNat % 32)
  | 0x0D => boolWord (b == a)
  | 0x0E => boolWord (b != a)
  | 0x0F => boolWord (decide (b.toNat < a.toNat))
  | _ => boolWord (decide (b.toNat ≥ a.toNat))

/-- A push, refused on a stack of 16. -/
def Filter.push (f : Filter) (v : W32) : Option Filter := if f.stack.length ≥ 16 then none else some { f with stack := v :: f.stack }

/-- One instruction of a filter program: its next place or its verdict; none is a fault (R428). -/
def Filter.next (prog : List Byte) (word : BitVec 512) (f : Filter) : Option (Filter × Option Verdict) :=
  let op := (listGet 0 prog f.pc).toNat
  let arg := (listGet 0 prog (f.pc + 1)).toNat
  let f' : Filter := { f with pc := f.pc + (filterLen op).getD 1 }
  let go := fun (x : Option Filter) => x.map (fun y => (y, (none : Option Verdict)))
  match op, f.stack with
  | 0x00, _ => go (f'.push (BitVec.ofNat 32 (bits word.toNat (32 * arg) 32)))
  | 0x01, _ => go (f'.push (BitVec.ofNat 32 (leNat ((prog.drop (f.pc + 1)).take 4))))
  | 0x02, a :: _ => go (f'.push a)
  | 0x03, _ :: l => some ({ f' with stack := l }, none)
  | 0x04, a :: b :: l => some ({ f' with stack := b :: a :: l }, none)
  | 0x0A, a :: l => some ({ f' with stack := ~~~a :: l }, none)
  | 0x11, a :: l => some ({ f' with stack := l, pc := if a = 0 then f'.pc + arg else f'.pc }, none)
  | 0x12, _ => some ({ f' with pc := f'.pc + arg }, none)
  | 0x13, _ => go (f'.push (zget f.cnt arg))
  | 0x14, _ => some (f', some .keep)
  | 0x15, _ => some (f', some .drop)
  | 0x16, _ => some ({ f' with cnt := zset f.cnt arg (zget f.cnt arg + 1) }, some .drop)
  | 0x17, _ => some (f', some .trig)
  | 0x02, [] => none
  | 0x03, [] => none
  | 0x0A, [] => none
  | 0x11, [] => none
  | _, a :: b :: l => some ({ f' with stack := filterAlu op a b :: l }, none)
  | _, _ => none

/-- A program's run of at most 256 steps: the verdict, the counters, and whether it faulted. -/
def Filter.run (prog : List Byte) (word : BitVec 512) : Nat → Filter → Verdict × Map W32 × Bool
  | fuel, f =>
    if f.pc ≥ prog.length then (.keep, f.cnt, false)
    else
      match fuel with
      | 0 => (.keep, f.cnt, true)
      | fuel + 1 =>
        match f.next prog word with
        | none => (.keep, f.cnt, true)
        | some (f', some v) => (v, f'.cnt, false)
        | some (f', none) => Filter.run prog word fuel f'

/-! ### Registers (R416, R417, R422 to R424, R426) -/

def TraceCore.seqN (t : TraceCore) : Nat := bits t.tseqn.toNat 0 16
def TraceCore.post (t : TraceCore) : Nat := bits t.tseqn.toNat 16 16
def TraceCore.nctr (t : TraceCore) : Nat := bits t.tseq.toNat 24 2
def TraceCore.bset (t : TraceCore) : Nat := bits t.tseq.toNat 16 8
def TraceCore.aset (t : TraceCore) : Nat := bits t.tseq.toNat 8 8
def TraceCore.seqHold (t : TraceCore) : Bool := t.tseq.getLsbD 6
def TraceCore.fb (t : TraceCore) : Bool := t.tseq.getLsbD 5
def TraceCore.freeze (t : TraceCore) : Bool := t.tseq.getLsbD 4
def TraceCore.ring (t : TraceCore) : Nat := 2 ^ (t.log2n.toNat + 6)

/-- The value of counter k is key 2k + 1 of `tcnt`, its control key 2k. -/
def TraceCore.counter (t : TraceCore) (k : Nat) : W32 := zget t.tcnt (2 * k + 1)
def TraceCore.setCounter (t : TraceCore) (k : Nat) (v : W32) : TraceCore := { t with tcnt := zset t.tcnt (2 * k + 1) v }

/-- COUNT is entered, and with N = 0 CAPTURE at once (R425). -/
def TraceCore.toCapture (t : TraceCore) : TraceCore := { t with st := .capture, p := t.post }
def TraceCore.toCount (t : TraceCore) : TraceCore :=
  let t := { t.setCounter t.nctr 0 with st := .count }
  if t.seqN = 0 then t.toCapture else t

/-- GO = 1 (R424, R425). -/
def TraceCore.go (t : TraceCore) : TraceCore :=
  match t.st with
  | .idle => if t.aset = 0 && t.seqN = 0 then t.toCount else { t with st := .armed }
  | .capture => { t with st := .idle, frozen := false }
  | _ => t

/-- Fields of TSEQ that software keeps. -/
def seqMask : W32 := 0x03FFFF70

def TraceCore.writeSeq (t : TraceCore) (v : W32) : TraceCore :=
  let t := if t.st = .idle then { t with tseq := v &&& seqMask } else t
  if v.getLsbD 3 then t.go else t

def TraceCore.readSeq (t : TraceCore) : W32 := t.tseq ||| BitVec.ofNat 32 (t.frozen.toNat * 4 + t.st.code)

/-- LOAD = 1: `len` bytes read by physical address, checked and taken into force (R426). Bytes outside the owner's memory, or poisoned, refuse the program. -/
def State.loadFilter (s : State) (die : Nat) : State :=
  let t := s.trace die
  let pa := t.tfp.toNat
  let there := match listGet none s.pkg.town die with
    | some p => t.len ≥ 1 && t.len ≤ 1024 && (List.range t.len).all (fun i => (s.rangeOf p (pa + i)).isSome && (s.poisoned (s.phys (pa + i)) 1).isNone)
    | none => false
  let prog := (List.range t.len).map (fun i => s.byte (s.phys (pa + i)))
  if there && filterOk prog then s.setTrace die { t with prog := prog, bad := false } else s.setTrace die { t with bad := true }

/-- A write of TFLEN. -/
def State.writeFilter (s : State) (die : Nat) (v : W32) : State :=
  let s := s.setTrace die { s.trace die with len := bits v.toNat 0 11, on := v.getLsbD 17 }
  if v.getLsbD 16 then s.loadFilter die else s

/-! ### Holding one path (R429) -/

/-- A held path is ready with a new stamp; a hold that has not yet come about is dropped. -/
def State.unholdPath (s : State) (gk pid : Nat) : State :=
  s.modPath gk pid (fun p => if p.st = .held then { p with hold := false }.wake (s.coreCycle (coreOf gk)) true else { p with hold := false })

/-- The live path that the fields of a THOLD value name, in the partition that owns the trace core. -/
def State.namedPath (s : State) (p v : Nat) : Option (Nat × Nat) :=
  let core := bits v 0 7 + 96 * bits v 7 1
  let gk := (core * 4 + bits v 8 2) * 16 + bits v 10 4
  if bits v 0 7 ≥ 96 then none
  else
    match mget? s.groups gk with
    | none => none
    | some g =>
      if (s.launch g.launch).part != p || g.dead then none
      else ((g.paths.find? (fun x => x.2.entry == some (bits v 14 3))).map (fun x => (gk, x.1)))

/-- A write of THOLD. -/
def State.thold (s : State) (die v : Nat) : State :=
  match listGet none s.pkg.town die with
  | none => s
  | some p =>
    if bit v 17 == bit v 18 then s
    else
      match s.namedPath p v with
      | none => s
      | some (gk, pid) => if bit v 17 then s.holdPath gk pid else s.unholdPath gk pid

/-! ### Reads and writes of the trace registers -/

/-- What a trace register reads; none for a number that names none. THOLD is write-only. -/
def TraceCore.read (t : TraceCore) (n : Nat) : Option W32 :=
  if n = 0x200 then some t.tctl
  else if n = 0x201 then some t.readSeq
  else if n = 0x202 then some t.tseqn
  else if n = 0x203 then some (t.tbase.setWidth 32)
  else if n = 0x204 then some ((t.tbase >>> 32).setWidth 32)
  else if n = 0x205 then some (t.tail.setWidth 32 <<< 16 ||| t.log2n.setWidth 32)
  else if n = 0x206 then some (t.head.setWidth 32)
  else if n = 0x207 then some t.drop
  else if 0x220 ≤ n && n < 0x260 && (n - 0x220) % 8 < 5 then some (zget t.tcmp (n - 0x220))
  else if 0x260 ≤ n && n < 0x268 then some (zget t.tcnt (n - 0x260))
  else if n = 0x280 then some (t.tfp.setWidth 32)
  else if n = 0x281 then some ((t.tfp >>> 32).setWidth 32)
  else if n = 0x282 then some (BitVec.ofNat 32 (t.len + t.on.toNat * 2 ^ 17 + t.bad.toNat * 2 ^ 18))
  else if 0x284 ≤ n && n < 0x288 then some (zget t.tfc (n - 0x284))
  else if n = 0x288 then some t.tferr
  else if n = 0x290 then some 0
  else none

/-- The low or high word of a 64-bit register replaced. -/
def putLow (w : W64) (v : W32) : W64 := (w >>> 32) <<< 32 ||| v.setWidth 64
def putHigh (w : W64) (v : W32) : W64 := (w.setWidth 32).setWidth 64 ||| v.setWidth 64 <<< 32

/-- A write of a trace register that touches only the trace core; reserved bits are discarded (R5, R466). -/
def TraceCore.write (t : TraceCore) (n : Nat) (v : W32) : TraceCore :=
  if n = 0x200 then { t with tctl := v &&& 0xFF }
  else if n = 0x201 then t.writeSeq v
  else if n = 0x202 then { t with tseqn := v }
  else if n = 0x203 then { t with tbase := putLow t.tbase (v &&& 0xFFFFF000) }
  else if n = 0x204 then { t with tbase := putHigh t.tbase v }
  else if n = 0x205 then { t with log2n := BitVec.ofNat 4 (min 9 (v.toNat % 16)) }
  else if n = 0x206 then { t with head := v.setWidth 16 }
  else if n = 0x207 then { t with drop := v }
  else if 0x220 ≤ n && n < 0x260 && (n - 0x220) % 8 < 5 then
    { t with tcmp := zset t.tcmp (n - 0x220) (if (n - 0x220) % 8 = 0 then v &&& 0xF else v) }
  else if 0x260 ≤ n && n < 0x268 then { t with tcnt := zset t.tcnt (n - 0x260) (if n % 2 = 0 then v &&& 0x1FF else v) }
  else if n = 0x280 then { t with tfp := putLow t.tfp v }
  else if n = 0x281 then { t with tfp := putHigh t.tfp v }
  else if 0x284 ≤ n && n < 0x288 then { t with tfc := zset t.tfc (n - 0x284) v }
  else if n = 0x288 then { t with tferr := v }
  else t

/-- A write of a trace register of a die. -/
def State.traceWrite (s : State) (die n : Nat) (v : W32) : State :=
  if n = 0x282 then s.writeFilter die v
  else if n = 0x290 then s.thold die v.toNat
  else s.setTrace die ((s.trace die).write n v)

/-! ### The trigger sequencer (R422, R423, R425) -/

/-- What a comparator of a type compares of a record (R422). -/
def comparand (type w : Nat) : Nat :=
  match type with
  | 0 => bits w 192 56
  | 1 => bits w 384 64
  | 2 => bits w 32 32 + bits w 0 32 * 2 ^ 32
  | _ => bits w 0 32 + bits w 256 32 * 2 ^ 32

/-- Comparator n matches a record. -/
def TraceCore.matches (t : TraceCore) (w n : Nat) : Bool :=
  let r := fun k => (zget t.tcmp (8 * n + k)).toNat
  let mask := r 3 + r 4 * 2 ^ 32
  bit (r 0) 2 && xor (comparand (r 0 % 4) w &&& mask == (r 1 + r 2 * 2 ^ 32) &&& mask) (bit (r 0) 3)

def TraceCore.anyMatch (t : TraceCore) (w set : Nat) : Bool := (List.range 8).any (fun n => bit set n && t.matches w n)

/-- The counters that count a record: not the sequencer's own while it counts. -/
def TraceCore.count (t : TraceCore) (w : Nat) : TraceCore :=
  (List.range 4).foldl (fun t k =>
    let c := (zget t.tcnt (2 * k)).toNat
    if bit c 8 && t.anyMatch w (bits c 0 8) && !(t.st = .count && t.nctr = k) then t.setCounter k (t.counter k + 1) else t) t

/-- A record's step in COUNT (log 50, DEDUCED). -/
def TraceCore.countStep (t : TraceCore) (b : Bool) : TraceCore :=
  if b then
    let t := t.setCounter t.nctr (t.counter t.nctr + 1)
    if (t.counter t.nctr).toNat ≥ t.seqN then t.toCapture else t
  else t

/-- A record's step of the sequencer (R425) (log 50, DEDUCED). -/
def TraceCore.seqStep (t : TraceCore) (a b : Bool) : TraceCore :=
  match t.st with
  | .idle => t
  | .armed =>
    if t.aset = 0 then
      let t := t.toCount
      if t.st = .count then t.countStep b else t
    else if a then t.toCount else t
  | .count => t.countStep b
  | .capture => t

/-- The state is a writing state. -/
def TraceCore.writes (t : TraceCore) : Bool :=
  match t.st with
  | .idle => false
  | .armed => t.freeze
  | .count => t.freeze
  | .capture => !t.frozen

def TraceCore.lose (t : TraceCore) : TraceCore := { t with drop := if t.drop.toNat + 1 < 2 ^ 32 then t.drop + 1 else t.drop }

/-- A record that the trace core takes in, for the owner `p` of die `die`: the filter, the counters, the sequencer and the ring. -/
def State.traceTake (s : State) (die p : Nat) (r : TraceRec) : State :=
  let t0 := s.trace die
  let (v, cnt, bad) := if t0.on then Filter.run t0.prog r.word 256 { pc := 0, stack := [], cnt := t0.tfc } else (.keep, t0.tfc, false)
  let word := if bad then r.word ||| BitVec.ofNat 512 (2 ^ 22) else r.word
  let w := word.toNat
  let t := { t0 with tfc := cnt, tferr := if bad then t0.tferr + 1 else t0.tferr }
  let a := t.anyMatch w t.aset
  let b := t.anyMatch w t.bset || (t.fb && v = .trig)
  let t := (t.count w).seqStep a b
  let entering := t0.st != .capture && t.st = .capture
  if t.writes && v != .drop then
    let full := (t.tail - t.head).toNat ≥ t.ring
    if full && !t.freeze then s.setTrace die t0.lose
    else
      let s := s.physWrite p (t.tbase.toNat + 64 * (t.tail.toNat % t.ring)) (natLe 64 w)
      let left := if t.st = .capture && !entering then t.p - 1 else t.p
      let s := s.setTrace die
        { t with tail := t.tail + 1, head := if full then t.head + 1 else t.head, p := left, frozen := t.frozen || (t.st = .capture && left = 0) }
      (match r.path with | some (gk, pid) => if entering && t.seqHold then s.holdPath gk pid else s | none => s)
  else
    let s := s.setTrace die t
    (match r.path with | some (gk, pid) => if entering && t.seqHold then s.holdPath gk pid else s | none => s)

/-- TRACE_RECORD: the oldest record of a source reaches the trace core (R419, R425, R430). -/
def execTraceRecord (die src : Key) (s : State) : Host.Outcome State Fault Refusal :=
  .next
    (let t := s.trace die
     match listGet none s.pkg.town die, mgetD t.queues src [] with
     | some p, r :: l =>
       if !t.tctl.getLsbD 0 then s
       else
         let t := { t with queues := if l.isEmpty then merase t.queues src else mset t.queues src l }
         match s.spend p 2 die with
         | none => s.setTrace die t.lose
         | some s => (s.setTrace die t).traceTake die p r
     | _, _ => s)

/-- TRACE_GO (R424). -/
def execTraceGo (die : Key) (s : State) : Host.Outcome State Fault Refusal := .next (s.setTrace die (s.trace die).go)

/-- FILTER_LOAD: a write of TFLEN with LOAD = 1 (R426). -/
def execFilterLoad (die : Key) (v : W32) (s : State) : Host.Outcome State Fault Refusal := .next (s.writeFilter die (v ||| 0x10000))

/-- THOLD_SET and THOLD_CLR: writes of THOLD with the one bit or the other (R429). -/
def execTholdSet (die : Key) (v : W32) (s : State) : Host.Outcome State Fault Refusal := .next (s.thold die (bits v.toNat 0 17 + 2 ^ 17))
def execTholdClr (die : Key) (v : W32) (s : State) : Host.Outcome State Fault Refusal := .next (s.thold die (bits v.toNat 0 17 + 2 ^ 18))

/-! ### Ownership (R415, R439) -/

/-- A partition may own a die's trace core: it has cores there and is there (R415). -/
def State.mayOwn (s : State) (p d : Nat) : Bool := (s.part p).st != .free && s.partOnDie p d

/-- A die's trace core changes its owner, and with it returns to its reset values; the same owner changes nothing. -/
def State.setOwner (s : State) (d : Nat) (o : Option Nat) : State :=
  if listGet none s.pkg.town d = o then s
  else { s with pkg := { s.pkg with town := listSet s.pkg.town d o }, traces := merase s.traces d }

/-! ### Stall samples (R421) -/

/-- The access sets for which a fence can hold an instruction back (R115, R194). -/
def fenceSetsOf : Instr → Nat
  | .ld _ _ _ _ => setR
  | .lds _ _ => setR
  | .ldv _ _ => setR
  | .ldrg _ _ _ => setR
  | .dstat _ _ => setR
  | .mld _ _ => setR
  | .mperm _ _ => setR
  | .recv _ _ => setR
  | .recvTry _ _ => setR
  | .st _ _ _ _ => setW
  | .sts _ _ => setW
  | .stv _ _ => setW
  | .cctlWb _ _ => setW
  | .cctlInv _ _ => setW
  | .cctlWbinv _ _ => setW
  | .send _ _ => setW
  | .sendr _ _ => setW
  | .mcst _ _ => setW
  | .atom _ _ _ _ => setA
  | .atoms _ _ _ _ => setA
  | .datom _ _ => setA
  | .dflush _ _ => setA
  | .radd _ _ => setA
  | .rmerge _ _ => setA
  | .tld _ _ => setE
  | .tldTrn _ _ => setE
  | .tst _ _ => setE
  | .job _ => setE
  | .cmaskS _ => setE
  | .cmaskV _ => setE
  | .cmaskM _ => setE
  | _ => 0

/-- The channel of a send. -/
def sendOn : Instr → Option (BitVec 6)
  | .send ch _ => some ch
  | .sendr ch _ => some ch
  | .mcst ch _ => some ch
  | _ => none

/-- The next instruction of a path needs a structure that has no room for it (R254): a fence that holds it, the queue of MMAs, or allowances of its channel. -/
def Ctx.lacksRoom (c : Ctx) : Bool :=
  c.g.fenceHolds (fenceSetsOf c.i) || (match c.i with | .mma _ _ _ _ => c.quarter.mmaFull | .job _ => decide (c.s.openJobs c.die ≥ 1024) | _ => false)
    || (match sendOn c.i with
        | some ch => c.isProducerOf ch.toNat && ((c.launch.chanOf ch.toNat).allow.any (· == 0))
        | none => false)

/-- The next instruction of a path, fetched without a trace. -/
def State.nextCtx (s : State) (gk pid : Nat) (g : Group) (p : Path) : Option Ctx :=
  match s.fetch gk pid g p.pc with
  | (.instr i, _) => ({ s with cur := some ⟨gk, pid⟩ } : State).ctx i
  | _ => none

/-- CODE and PPC of a ready path that did not issue: what its next instruction waits for, else the path chosen instead. -/
def State.readyCode (s : State) (gk pid : Nat) (g : Group) (p : Path) (ppc : Nat) : Nat × Nat :=
  match s.nextCtx gk pid g p with
  | none => (7, ppc)
  | some c =>
    match minBy? (fun x => x.reg) ((s.outstanding g).filter (fun x => c.pendingKeys.contains x.reg)) with
    | some x => (1, x.pc.toNat)
    | none => if c.lacksRoom then (2, 0) else (7, ppc)

/-- CODE and PPC of a sampled path (R421); `ppc` is the PC of the path that issues in the cycle. -/
def State.stallCode (s : State) (gk pid : Nat) (g : Group) (p : Path) (ppc : Nat) : Nat × Nat :=
  if g.park.isSome then (5, 0)
  else
    match p.st with
    | .blocked _ => (3, 0)
    | .parked _ => (4, 0)
    | .held => (6, 0)
    | .waiting (.regs ks) => (1, ((minBy? (fun x => x.reg) ((s.outstanding g).filter (fun x => ks.contains x.reg))).map (fun x => x.pc.toNat)).getD 0)
    | .waiting _ => (2, 0)
    | .ready => s.readyCode gk pid g p ppc

/-- Paths of a quarter other than the one that issues, with what R259 orders them by (log 51, DESIGN CHOICE). -/
def State.samples (s : State) (q : Nat) (but : Option (Nat × Nat)) : List (Nat × Nat × Group × Path) :=
  (s.groups.filter (fun x => quarterOf x.1 == q && !x.2.dead)).flatMap (fun x =>
    (x.2.paths.filter (fun y => but != some (x.1, y.1))).map (fun y => (x.1, y.1, x.2, y.2)))

def sampleBefore (a b : Nat × Nat × Group × Path) : Bool :=
  if a.2.2.2.stamp != b.2.2.2.stamp then decide (a.2.2.2.stamp < b.2.2.2.stamp)
  else if a.1 != b.1 then decide (a.1 < b.1)
  else decide (a.2.2.2.entry.getD 8 ≤ b.2.2.2.entry.getD 8)

def oldestSample : List (Nat × Nat × Group × Path) → Option (Nat × Nat × Group × Path)
  | [] => none
  | a :: l =>
    match oldestSample l with
    | none => some a
    | some b => if sampleBefore a b then some a else some b

/-- The sample of a quarter at cycle `now`, in which it issues `but`. -/
def State.sample (s : State) (q now : Nat) (but : Option (Nat × Nat)) : State :=
  match oldestSample (s.samples q but) with
  | none => s
  | some (gk, pid, g, p) =>
    let ppc := match but with | some b => (s.pcOf b.1 b.2).toNat | none => 0
    let (code, ppc) := s.stallCode gk pid g p ppc
    let l := s.launch g.launch
    s.postTrace (dieOf gk) q l.part
      { word := traceWord 1 code l.asid (pathSource gk (p.entry.getD (Config.newPathIndex s.tick % 8))) 0 now p.pc.toNat p.mask.toNat ppc 0,
        path := some (gk, pid) }

/-- Multiples of a period from one count up to another, which is not among them. -/
def multiples (per a b : Nat) : List Nat := (List.range ((b + per - 1) / per - (a + per - 1) / per)).map (fun k => per * ((a + per - 1) / per + k))

/-- The die's quarters take stall samples: the period (R417). -/
def State.samplePeriod (s : State) (die : Nat) : Option Nat :=
  let t := s.trace die
  if t.tctl.getLsbD 3 then some (2 ^ (bits t.tctl.toNat 4 4 + 8)) else none

/-- The samples of a quarter at the cycles of this step that it has not yet sampled; `but` is the path that issues in the first of them (log 51, DESIGN
CHOICE). -/
def State.takeSamples (s : State) (q : Nat) (but : Option (Nat × Nat)) : State :=
  match s.samplePeriod (dieOfCore (q / 4)) with
  | none => s
  | some per =>
    let now := s.coreCycle (q / 4)
    let fin := Config.unitCycle (q / 4) (s.tick + 1)
    let s := (multiples per (max now (s.quarter q).sampled) fin).foldl (fun s m => s.sample q m (if m = now then but else none)) s
    s.setQuarter q { s.quarter q with sampled := fin }

/-- STALL_SAMPLE: a quarter that issues in no cycle of this step takes its samples (R421). The other quarters' come at the end of every step. -/
def execStallSample (q : Key) (s : State) : Host.Outcome State Fault Refusal := .next (s.takeSamples q none)

/-- Every quarter with a group takes its samples of the step that ends (R421). -/
def State.sampleAll (s : State) (but : Option (Nat × Nat)) : State :=
  let dies := [0, 1].filter (fun d => (s.samplePeriod d).isSome)
  if dies.isEmpty then s
  else
    (((s.groups.filter (fun x => dies.contains (dieOf x.1))).map (fun x => quarterOf x.1)).eraseDups).foldl (fun s q =>
      s.takeSamples q (but.bind (fun b => if quarterOf b.1 = q then some b else none))) s

end Sys2Proof.Machine
end

