-- ==== Sys2Proof/Machine/System.lean ====
section
/-! DEFINITION. System registers (R247, R359, R416, R439), the global ring step and the sweeps that keep it (R380 to R390), decay entries (R384), trace events
of software (R249) and CLOCK (R250). -/

namespace Sys2Proof.Machine

/-! ### System registers (R247) -/

/-- Numbers that some chapter assigns. -/
def sysAssigned (n : Nat) : Bool :=
  n ≤ 4 || n == 0x10 || n == 0x100 || (TraceCore.reset.read n).isSome || (0x300 ≤ n && n < 0x308)

/-- The system register number an instruction names. -/
def Ctx.sysNo (c : Ctx) : Nat := imm32 c.o.imm

/-- The group may not reach the register (R247, R415, R439). -/
def Ctx.sysPriv (c : Ctx) (n : Nat) : Bool :=
  n ≥ 0x100
    && (!c.sys || (0x200 ≤ n && n < 0x300 && listGet none c.s.pkg.town c.die != some c.part)
      || (n ≥ 0x300 && c.s.partOfStack (n - 0x300) != some c.part))

/-- Read-only registers of software. -/
def sysReadOnly (n : Nat) : Bool := n == 4 || n == 0x10

/-- What SYSR reads. -/
def Ctx.sysValue (c : Ctx) (n : Nat) : W32 :=
  if n = 0 then boolWord c.g.dz
  else if n = 1 then c.g.key.setWidth 32
  else if n = 2 then (c.g.key >>> 32).setWidth 32
  else if n = 3 then c.g.ctr
  else if n = 4 then c.g.ofs
  else if n = 0x10 then c.quarter.lost
  else if n = 0x100 then boolWord (c.s.pdie c.part c.die).bkhold
  else if n ≥ 0x300 then (c.s.saggar (n - 0x300)).rstale
  else ((c.s.trace c.die).read n).getD 0

/-- What SYSW does: DZ is cleared by a written 1, reserved bits are discarded (R5). -/
def Ctx.sysPut (c : Ctx) (n : Nat) (v : W32) : State :=
  if n = 0 then c.s.modGroup c.gk (fun g => { g with dz := g.dz && !v.getLsbD 0 })
  else if n = 1 then c.s.modGroup c.gk (fun g => { g with key := putLow g.key v })
  else if n = 2 then c.s.modGroup c.gk (fun g => { g with key := putHigh g.key v })
  else if n = 3 then c.s.modGroup c.gk (fun g => { g with ctr := v })
  else if n = 0x100 then c.s.setPdie c.part c.die { c.s.pdie c.part c.die with bkhold := v.getLsbD 0 }
  else if n ≥ 0x300 then c.s.setSaggar (n - 0x300) { c.s.saggar (n - 0x300) with rstale := v }
  else c.s.traceWrite c.die n v

def Ctx.sysDetail (c : Ctx) : Option Nat := if c.actsOnce && !sysAssigned c.sysNo then some 10 else none

def execSysr (o : Ops) : State → Host.Outcome State Fault Refusal :=
  perform (.sysr o) Ctx.sysDetail (fun c => c.actsOnce && c.sysPriv c.sysNo)
    (fun c => c.once (fun c => c.s.setUniform c.gk c.o.d 1 (c.sysValue c.sysNo).toNat))

def execSysw (o : Ops) : State → Host.Outcome State Fault Refusal :=
  perform (.sysw o) Ctx.sysDetail (fun c => c.actsOnce && (c.sysPriv c.sysNo || sysReadOnly c.sysNo))
    (fun c => c.once (fun c => c.sysPut c.sysNo (BitVec.ofNat 32 (c.val c.o.a 1 c.lead))))

/-! ### EVT and CLOCK (R249, R250) -/

/-- The record of a software event (R420): with SWEV set. -/
def Ctx.evtRecord (c : Ctx) : TraceRec :=
  { word := traceWord 0 (imm32 c.o.imm) c.asid (pathSource c.gk (c.p.entry.getD 0)) (c.val c.o.a 1 c.lead) c.now c.p.pc.toNat c.p.mask.toNat 0 0
    path := some (c.gk, c.pid) }

def execEvt (o : Ops) : State → Host.Outcome State Fault Refusal :=
  perform (.evt o) (fun c => if imm32 c.o.imm ≥ 0x8000 then some 10 else none) noPriv
    (fun c => c.once (fun c => if (c.s.trace c.die).tctl.getLsbD 2 then c.s.postTrace c.die c.q c.part c.evtRecord else c.s))

def execClock (o : Ops) : State → Host.Outcome State Fault Refusal :=
  perform (.clock o) noDetail noPriv (fun c => c.once' (fun c =>
    if c.s.quietFor c.gk then c.advance (c.s.setUniform c.gk c.o.d 2 (c.now % 2 ^ 64))
    else c.block c.s (.clock (c.s.openItems c.gk) c.g.openPaths c.o.d)))

/-! ### Ring regions (R386) -/

/-- The step keeper's stack (R381). -/
def State.keeper (s : State) (p : Nat) : Option Nat := (List.range 8).find? (fun k => s.partOfStack k == some p)

/-- A region's entry as the keeper reads it, 32 bytes at a physical address. -/
def regionBase (e : Nat) : Nat := bits e 0 64
def regionSize (e : Nat) : Nat := bits e 64 64
def regionValid (e : Nat) : Bool := bit e 192
def regionStep (e : Nat) : Nat := bits e 224 24
/-- A nonzero reserved bit, or a misaligned BASE or LEN. -/
def regionBad (e : Nat) : Bool := bits e 248 8 != 0 || bits e 194 30 != 0 || bits e 128 64 != 0 || regionBase e % 64 != 0 || regionSize e % 64 != 0

def regionAt (r : AsidRec) (k : Nat) : Nat := r.rrtab.toNat + 32 * k
def State.region (s : State) (r : AsidRec) (k : Nat) : Nat := s.physWord (regionAt r k) 32

/-- The entries that a STEP and a round start heed. -/
def State.regions (s : State) (r : AsidRec) : List (Nat × Nat) :=
  ((List.range r.nreg).map (fun k => (k, s.region r k))).filter (fun x => regionValid x.2 && !regionBad x.2)

/-- Event 0x8201 for each entry that is ignored for its form (R386). -/
def State.badRegions (s : State) (p asid : Nat) (r : AsidRec) : State :=
  match s.keeper p with
  | none => s
  | some st =>
    (List.range r.nreg).foldl (fun s k =>
      let e := s.region r k
      if regionValid e && regionBad e then s.unitEvent (st / 4) (10000 + st) p asid 0x8201 k 0 (s.stackCycle st) else s) s

/-- A round of region `k` starts at the present step: ROUND is set (R388). -/
def State.startRound (s : State) (p asid k : Nat) : State :=
  let r := s.asidRec p asid
  let e := s.region r k
  let x : SweepRound := { s0 := r.gstep, base := regionBase e, len := regionSize e, pos := 0, ent := regionAt r k }
  let s := s.physWrite p (regionAt r k + 24) [BitVec.ofNat 8 (bits e 192 8 ||| 2)]
  s.setAsidRec p asid { s.asidRec p asid with rounds := mset r.rounds k x }

/-! ### STEP (R248, R380, R381, R387) -/

/-- The keeper performs a STEP: whether it succeeds, and what it leaves. First rounds of regions start; a region that is no longer valid begins anew when it is
again (log 53, DEDUCED). -/
def State.keeperStep (s : State) (p asid : Nat) : Bool × State :=
  let r := s.asidRec p asid
  let s := s.badRegions p asid r
  let es := s.regions r
  let ok := es.all (fun x => stepDiff (r.gstep.toNat + 1) (regionStep x.2) ≤ 2 ^ 22)
  let valid := fun k => es.any (fun x => x.1 == k)
  let s := s.setAsidRec p asid { r with gstep := if ok then r.gstep + 1 else r.gstep, last := r.last.filter (fun x => valid x.1) }
  (ok, es.foldl (fun s x => if (mget? r.rounds x.1).isNone && (mget? r.last x.1).isNone then s.startRound p asid x.1 else s) s)

/-- The units that a new step goes to (R381): those of the partition's stacks but the keeper, and the quarters of its groups. -/
def State.stepUnits (s : State) (p : Nat) : List Nat :=
  (List.range 8).filter (fun k => s.partOfStack k == some p && s.keeper p != some k)
def State.stepQuarters (s : State) (p : Nat) : List Nat :=
  ((s.groups.filter (fun x => (s.launch x.2.launch).part == p)).map (fun x => quarterOf x.1)).eraseDups

/-- STEPs of a partition that have reached the keeper, as group and path with the cycle they blocked at. -/
def State.stepsWaiting (s : State) (p : Nat) : List (Nat × Nat × Nat) :=
  (s.groups.filter (fun x => !x.2.dead && (s.launch x.2.launch).part == p)).flatMap (fun x =>
    x.2.paths.filterMap (fun y => match y.2.st with
      | .blocked (.step a j _) => if s.released a j then some (x.1, y.1, y.2.since) else none
      | _ => none))

/-- A predicate written in every active lane of a path. -/
def Group.answer (g : Group) (x : Sel) (m : Mask) (b : Bool) : Group :=
  match x with
  | .p n => (lanes m).foldl (fun g i => g.setPred n.toNat i b) g
  | _ => g

/-- The issuing path of a STEP is answered, and goes on (R248). -/
def State.answerStep (s : State) (gk pid : Nat) (ok : Bool) : State :=
  match (mget? s.groups gk).bind (fun g => mget? g.paths pid) with
  | none => s
  | some x =>
    match x.st with
    | .blocked (.step _ _ d) => (s.modGroup gk (fun g => g.answer d x.mask ok)).release gk pid
    | _ => s

def execStep (o : Ops) : State → Host.Outcome State Fault Refusal :=
  perform (.step o) noDetail (fun c => c.actsOnce && !c.launch.step) (fun c => c.once' (fun c =>
    let w := c.unreleased
    c.block c.s (.step w.1 w.2 c.o.d)))

/-- One element of a list taken out: which is free, since nothing orders the units (R381) (log 21, DESIGN CHOICE). -/
def takeAny (n : Nat) (l : List Nat) : List Nat := l.eraseIdx (Config.unitChoice n % l.length)

/-- A new step reaches one more unit, the saggar units before any quarter; with the last the STEP is answered (R381). -/
def State.stepOn (s : State) (p asid : Nat) (f : StepFlight) : State :=
  let r := s.asidRec p asid
  let g := if f.units.isEmpty then { f with quarters := takeAny s.tick f.quarters } else { f with units := takeAny s.tick f.units }
  if g.units.isEmpty && g.quarters.isEmpty then (s.setAsidRec p asid { r with flight := none }).answerStep f.gk f.pid true
  else s.setAsidRec p asid { r with flight := some g }

/-- The keeper takes the STEP of a path: it is refused, or its new value goes out. -/
def State.stepStart (s : State) (p gk pid : Nat) : State :=
  match mget? s.groups gk with
  | none => s
  | some g =>
    let asid := (s.launch g.launch).asid
    let (ok, s) := s.keeperStep p asid
    if !ok then s.answerStep gk pid false
    else
      let r := s.asidRec p asid
      s.setAsidRec p asid { r with flight := some { units := s.stepUnits p, quarters := s.stepQuarters p, gk := gk, pid := pid } }

/-- STEP_PERFORM: the STEP in progress of a partition goes on, or the oldest that has reached the keeper begins (R381) (log 21, DESIGN CHOICE). -/
def execStepPerform (p : Key) (s : State) : Host.Outcome State Fault Refusal :=
  .next
    (match (s.part p).asids.findSome? (fun a => a.2.flight.map (fun f => (a.1, f))) with
     | some (asid, f) => s.stepOn p asid f
     | none =>
       match minBy? (fun x => x.2.2) (s.stepsWaiting p) with
       | some (gk, pid, _) => s.stepStart p gk pid
       | none => s)

/-! ### Sweeps (R388, R389) -/

/-- Whether a later round of region `k` may start (R388). -/
def State.mayRound (s : State) (p asid k : Nat) : Bool :=
  let r := s.asidRec p asid
  match mget? r.last k with
  | some l => (mget? r.rounds k).isNone && l.frec.isNone && l.s0 != r.gstep && decide (k < r.nreg) && regionValid (s.region r k) && !regionBad (s.region r k)
  | none => false

def execSweepRoundStart (p asid k : Key) (s : State) : Host.Outcome State Fault Refusal :=
  .next
    (if s.mayRound p asid k then (s.badRegions p asid (s.asidRec p asid)).startRound p asid k else s)

/-- The page that holds an address of a region, for the keeper: its storage address, or the CAUSE and first address of a page that ends the round. -/
def State.sweepPlace (s : State) (p asid va : Nat) : Except (Nat × Nat) Nat × State :=
  let u := match s.keeper p with | some k => saggarUnit k | none => saggarUnit 0
  if va ≥ 2 ^ 56 then (.error (1, va / 65536 * 65536), s)
  else if va ≥ windowBase then (.error (3, va / 65536 * 65536), s)
  else
    match s.translate u p asid va with
    | (.error c, s) => (.error (c, va / 65536 * 65536), s)
    | (.ok (l, page), s) =>
      if l.peer || !l.ms || (s.rangeOf p (l.frame + (va - page))).isNone then (.error (3, page), s) else (.ok (s.phys (l.frame + (va - page))), s)

/-- One word of a block rebased: a poisoned one is left. -/
def State.rebaseWord (s : State) (p asid stack loc va : Nat) : State :=
  if (s.poisoned loc 8).isSome then s
  else
    match s.ringRebase stack p asid (s.word loc 8) with
    | none => s
    | some (v, stale) =>
      let s := s.quietWrite loc (natLe 8 v)
      if stale then s.ringStale p asid stack va else s

/-- The block of a round that stands next, when it lies in a stack. -/
def State.sweepBlock (s : State) (p asid stack : Nat) (x : SweepRound) : Option Nat :=
  if x.pos ≥ x.len then none
  else
    match s.sweepPlace p asid (x.base + x.pos) with
    | (.ok loc, _) => if stackOf loc = stack then some loc else none
    | _ => none

/-- Rounds whose next block lies in a stack: key, identifier, entry and place. -/
def State.sweepsAt (s : State) (p stack : Nat) : List (Nat × Nat × Nat × Nat) :=
  (s.part p).asids.flatMap (fun a =>
    a.2.rounds.filterMap (fun x => (s.sweepBlock p a.1 stack x.2).map (fun loc => (16 * a.1 + x.1, a.1, x.1, loc))))

/-- SWEEP_BEAT: the unit of a stack visits the next block of the region whose turn it is (R388, R389) (log 53, DEDUCED). -/
def execSweepBeat (stack : Key) (s : State) : Host.Outcome State Fault Refusal :=
  .next
    (match s.partOfStack stack with
     | none => s
     | some p =>
       let xs := s.sweepsAt p stack
       let last := (s.saggar stack).swept
       match (xs.find? (fun x => decide (x.1 > last))).or xs.head? with
       | none => s
       | some (key, asid, k, loc) =>
         match s.spend p 1 stack with
         | none => s
         | some s =>
           let r := s.asidRec p asid
           match mget? r.rounds k with
           | none => s
           | some x =>
             let va := x.base + x.pos
             let s := (s.sweepPlace p asid va).2
             let s := (List.range 8).foldl (fun s i => s.rebaseWord p asid stack (loc + 8 * i) (va + 8 * i)) s
             let s := s.setSaggar stack { s.saggar stack with swept := key }
             let r := s.asidRec p asid
             s.setAsidRec p asid { r with rounds := mset r.rounds k { x with pos := x.pos + 64 } })

/-- A round is over: its region is done, or a page ends it (R388). -/
def State.endRound (s : State) (p asid k : Nat) (x : SweepRound) (frec : Option Nat) : State :=
  let b := bits (s.physWord (x.ent + 24) 1) 0 8
  let s := s.physWrite p (x.ent + 24) [BitVec.ofNat 8 (b / 4 * 4 + b % 2)]
  let s := if frec.isNone then s.physWrite p (x.ent + 28) (natLe 3 x.s0.toNat) else s
  let r := s.asidRec p asid
  s.setAsidRec p asid { r with rounds := merase r.rounds k, last := mset r.last k { s0 := x.s0, frec := frec } }

/-- SWEEP_ROUND_END (R388). -/
def execSweepRoundEnd (p asid k : Key) (s : State) : Host.Outcome State Fault Refusal :=
  .next
    (match mget? (s.asidRec p asid).rounds k with
     | none => s
     | some x =>
       if x.pos ≥ x.len then s.endRound p asid k x none
       else
         match s.sweepPlace p asid (x.base + x.pos) with
         | (.ok _, _) => s
         | (.error (c, va), s) =>
           let die := match s.keeper p with | some st => st / 4 | none => 0
           let (id, s) := s.postFault
             { id := 0, part := p, die := die, kind := 4, cause := c, asid := asid, gk := none, mask := 0, pc := 0, va := va, posted := false }
           s.endRound p asid k x (some id))

/-! ### Decay entries (R383, R384) -/

/-- λ within [+0, 1.0], −0 taken as +0; none for another. -/
def lambdaOf (v : W32) : Option W32 := if v = 0x80000000 then some 0 else if v.toNat ≤ 0x3F800000 then some v else none

/-- POW0 to POW22. -/
def powersOf : Nat → W32 → List W32
  | 0, _ => []
  | n + 1, v => v :: powersOf n (rne32 ((f32 v).mul (f32 v)))

/-- The 128 bytes of an entry, SET included. -/
def decayEntry (v : W32) : List Byte := (powersOf 23 v).flatMap (fun w => natLe 4 w.toNat) ++ List.replicate 32 0 ++ [1, 0, 0, 0]

def State.setDecayw (s : State) (p : Nat) (x : Decayw) : State := s.setPart p { s.part p with decayw := x }

/-- A write of DECAYW: its fields are taken; GO starts the computation of the entry they name, and is ignored while one runs (R384) (log 52, DEDUCED). -/
def State.writeDecayw (s : State) (p : Nat) (v : W64) : State :=
  let d := (s.part p).decayw
  let n := { d with asid := bits v.toNat 40 12, cls := BitVec.ofNat 8 (bits v.toNat 32 8), lambda := v.setWidth 32 }
  if v.getLsbD 63 && d.run.isNone then
    match lambdaOf n.lambda with
    | none => s.setDecayw p { n with err := true }
    | some _ => s.setDecayw p { n with run := some (n.asid, n.cls, n.lambda), err := false }
  else s.setDecayw p n

def execDecaywGo (p : Key) (v : W64) (s : State) : Host.Outcome State Fault Refusal := .next (s.writeDecayw p (v ||| 0x8000000000000000))

/-- DECAYW_DONE: the entry is written whole (R384). -/
def execDecaywDone (p : Key) (s : State) : Host.Outcome State Fault Refusal :=
  .next
    (let d := (s.part p).decayw
     match d.run with
     | none => s
     | some (asid, cls, lambda) =>
       match lambdaOf lambda with
       | none => s
       | some v => (s.physWrite p ((s.asidRec p asid).dtab.toNat + 128 * cls.toNat) (decayEntry v)).setDecayw p { d with run := none })

end Sys2Proof.Machine
end

