-- ==== Sys2Proof/Machine/Faults.lean ====
section
/-! DEFINITION. Fault queues and the resolution of fault records (R345 to R347), generations and shoot-downs (R338 to R341), and peer access (R342, R343). -/

namespace Sys2Proof.Machine

/-! ### Fault queues (R345) -/

/-- Records of a fault queue's ring. -/
def faultRing (log2n : BitVec 4) : Nat := 2 ^ (min log2n.toNat 9 + 6)

/-- The 32 bytes of a record. -/
def FRec.word (f : FRec) : Nat :=
  let g := f.gk.getD 0
  let core := if f.gk.isSome then coreOf g % 96 else 0
  let die := if f.gk.isSome then dieOf g else f.die
  f.va % 2 ^ 64 + f.pc % 2 ^ 64 * 2 ^ 64 + f.mask.toNat * 2 ^ 128 + f.asid % 4096 * 2 ^ 196 + f.kind % 16 * 2 ^ 208 + f.cause % 256 * 2 ^ 212 + core * 2 ^ 222
    + die * 2 ^ 229 + quarterOf g % 4 * 2 ^ 230 + g % 16 * 2 ^ 232 + f.id % 2 ^ 16 * 2 ^ 240

/-- Kinds that are dropped, and counted, when the ring is full. -/
def FRec.drops (f : FRec) : Bool := 10 ≤ f.kind && f.kind ≤ 12

/-- FAULT_RECORD_POST: the record is written, then TAIL advances; a full ring keeps it waiting or drops it. Records that nobody resolves are over with it. -/
def execFaultRecordPost (id : Key) (s : State) : Host.Outcome State Fault Refusal :=
  .next
    (match mget? s.frecs id with
     | none => s
     | some f =>
       if f.posted then s
       else
         let d := s.pdie f.part f.die
         let q := d.fq
         let gone := { s with frecs := merase s.frecs id }
         if (q.tail - q.head).toNat ≥ faultRing q.log2n then
           if f.drops then gone.setPdie f.part f.die { d with fq := { q with drop := if q.drop.toNat + 1 < 2 ^ 16 then q.drop + 1 else q.drop } } else s
         else
           let s := s.physWrite f.part (q.base.toNat + 32 * (q.tail.toNat % faultRing q.log2n)) (natLe 32 f.word)
           let s := if f.kind ≤ 5 then { s with frecs := mset s.frecs id { f with posted := true } } else { s with frecs := merase s.frecs id }
           let d := s.pdie f.part f.die
           s.setPdie f.part f.die { d with fq := { q with tail := q.tail + 1 } })

/-! ### Resolving (R346, R347) -/

/-- The lowest lane of a mask. -/
def lowLane (m : Mask) : Nat := (lanes m).headD 63

/-- A park with one of its records resolved. -/
def Park.resolve (p : Park) (f : FRec) (action : Nat) : Park :=
  let lane := lowLane f.mask
  let p := { p with recs := p.recs.filter (fun r => r != f.id) }
  if action > p.worst || (action = p.worst && action > 0 && lane < p.lane) then { p with worst := action, lane := lane, va := f.va, pc := f.pc } else p

def Group.parkResolve (g : Group) (f : FRec) (action : Nat) : Group :=
  match g.park with
  | some p => if p.recs.contains f.id then { g with park := some (p.resolve f action) } else g
  | none => g

/-- And the groups of a team that is saved: it takes effect at restore (R347). -/
def Saved.parkResolve (x : Saved) (f : FRec) (action : Nat) : Saved := { x with groups := x.groups.map (fun y => (y.1, y.2.parkResolve f action)) }

/-- A group whose records are all resolved goes on: its ready paths with fresh stamps (R259), or with the trap that the worst action asks for. -/
def State.unpark (s : State) (gk : Nat) : State :=
  match mget? s.groups gk with
  | none => s
  | some g =>
    match g.park with
    | none => s
    | some p =>
      if !p.recs.isEmpty || g.stopped then s
      else
        let now := s.coreCycle (coreOf gk)
        let s := s.modGroup gk (fun g =>
          { g with park := none, paths := g.paths.map (fun x => (x.1, if x.2.st = .ready then { x.2 with stamp := now, since := now } else x.2)) })
        let pc := s.pcOf gk p.pid
        if p.worst = 1 then s.trapAt gk p.pid ⟨.prot, p.va⟩ (BitVec.ofNat 56 p.pc) pc
        else if p.worst = 2 then s.trapAt gk p.pid ⟨.mchk, p.va⟩ (BitVec.ofNat 56 p.pc) pc
        else s

/-- A resolved record's effect on a node that waits for it. -/
def State.resolveNodes (s : State) (f action : Nat) : State :=
  match (s.insts.flatMap (fun i => (i.2.nodes.filter (fun n => n.2.frec == some f)).map (fun n => (i.1, n.1, n.2)))).head? with
  | some (i, a, n) => s.nodeResolved i a n action
  | none => s

/-- And on an instance whose status record waits: it is tried again, or lost. -/
def State.resolveStatus (s : State) (f action : Nat) : State :=
  match s.insts.find? (fun i => i.2.frec == some f) with
  | some (i, x) => if action = 0 then s.modInst i (fun x => { x with frec := none }) else s.endRoot i x
  | none => s

/-- And on a coil operation. -/
def State.resolveCoil (s : State) (f va action : Nat) : State :=
  match s.coilq.find? (fun c => c.2.frec == some f) with
  | some (id, r) => s.coilResolved id r va action
  | none => s

/-- And on an engine job: it goes on, or fails with cause 2 or 3. -/
def State.resolveJob (s : State) (f action : Nat) : State :=
  match s.jobs.find? (fun j => j.2.frec == some f) with
  | some (id, j) => if action = 0 then s.setJob id { j with frec := none } else s.failJob id (action + 1)
  | none => s

/-- And on a region whose next round it blocks. -/
def SweepLast.resolve (l : SweepLast) (f : Nat) : SweepLast := if l.frec == some f then { l with frec := none } else l

def State.resolveSweeps (s : State) (f : Nat) : State :=
  { s with parts := s.parts.map (fun p => (p.1, { p.2 with asids := p.2.asids.map (fun a =>
      (a.1, { a.2 with last := a.2.last.map (fun l => (l.1, l.2.resolve f)) })) })) }

/-- RESOLVE written on a die of a partition; an unknown ID, or an action of 3, is discarded. -/
def State.resolveRecord (s : State) (p die id action : Nat) : State :=
  match s.frecs.find? (fun f => f.2.posted && f.2.part == p && f.2.die == die && f.1 % 2 ^ 16 == id % 2 ^ 16) with
  | none => s
  | some (k, f) =>
    if action ≥ 3 then s
    else
      let s := { s with frecs := merase s.frecs k }
      let gks := mkeys s.groups (fun _ g => match g.park with | some x => x.recs.contains k | none => false)
      let gs : Map Group := s.groups.map (fun x => (x.1, x.2.parkResolve f action))
      let sv : Map Saved := s.saved.map (fun x => (x.1, x.2.parkResolve f action))
      let s : State := { s with groups := gs, saved := sv }
      let s := (((s.resolveJob k action).resolveNodes k action).resolveStatus k action).resolveCoil k f.va action
      gks.foldl State.unpark (s.resolveSweeps k)

def execResolveReplay (p die id : Key) (s : State) : Host.Outcome State Fault Refusal := .next (s.resolveRecord p die id 0)
def execResolveProtection (p die id : Key) (s : State) : Host.Outcome State Fault Refusal := .next (s.resolveRecord p die id 1)
def execResolveMchk (p die id : Key) (s : State) : Host.Outcome State Fault Refusal := .next (s.resolveRecord p die id 2)

/-! ### Generations (R338, R339) -/

/-- Entries of an identifier invalidated in every TLB and walk cache of its partition. -/
def State.dropTlbs (s : State) (p asid : Nat) : State :=
  { s with
    tlbs := s.tlbs.map (fun u => (u.1, u.2.filter (fun e => !(e.part == p && e.asid == asid))))
    walks := s.walks.map (fun u => (u.1, u.2.filter (fun e => !(e.part == p && e.asid == asid)))) }

/-- Children of a position of the sharing list that exist (R340). -/
def childrenOf (i n : Nat) : List Nat := ((List.range 8).map (fun k => 8 * i + 1 + k)).filter (fun k => k ≤ n)

/-- Messages to other packages join those sent. -/
def State.send (s : State) (ms : List PkgMsg) : State := { s with outbox := s.outbox ++ ms }

/-- A raise begins: it goes to every translating unit, and as a shoot-down to the children; a wrap invalidates first. -/
def State.raise (s : State) (p asid : Nat) (shoot : Option Shoot) : State :=
  let r := s.asidRec p asid
  let s := if r.gen = 0xFFFF then s.dropTlbs p asid else s
  let s := match shoot with | some x => s.send (x.children.map (fun c => .shoot p asid c (x.depth + 1))) | none => s
  s.setAsidRec p asid { r with busy := true, next := some (r.gen + 1), shoot := shoot }

/-- GEN + 1 written, with a shoot-down across the sharing list of a shared space; nothing while BUSY. -/
def State.genRaise (s : State) (p asid : Nat) : State :=
  let r := s.asidRec p asid
  if r.busy then s
  else s.raise p asid (if r.shared then some { depth := 0, since := s.mboelCycle, children := childrenOf 0 r.nshare, acks := [], silent := [], here := false } else none)

/-- GEN_RAISE (log 55, DEDUCED). -/
def execGenRaise (p asid : Key) (s : State) : Host.Outcome State Fault Refusal := .next (s.genRaise p asid)

/-- Packages that a shoot-down has accounted for at this one. -/
def Shoot.count (x : Shoot) : Nat := x.here.toNat + (x.acks.map (fun (a : Nat × Nat) => a.2)).sum

/-- A shoot-down is over here: a package that is not the initiator acknowledges once it and its children have; the initiator once every package has. -/
def AsidRec.settle (r : AsidRec) : AsidRec :=
  match r.shoot with
  | none => { r with busy := r.next.isSome }
  | some x =>
    if !x.here || x.acks.length < x.children.length then r
    else if x.depth = 0 && x.count < r.nshare + 1 then r
    else { r with shoot := none, busy := false }

/-- The acknowledgement of a package that is not the initiator: its count, and the children that it or another names silent (R340). -/
def Shoot.answer (x : Shoot) (p asid : Nat) : List PkgMsg :=
  if x.depth = 0 then [] else [.ack p asid x.count (x.silent ++ x.children.filter (fun c => (mget? x.acks c).isNone))]

/-- A record with news of its shoot-down: where that is over, its parent hears of it. -/
def State.settleRec (s : State) (p asid : Nat) (r : AsidRec) : State :=
  let s := s.setAsidRec p asid r.settle
  match r.shoot, r.settle.shoot with
  | some x, none => s.send (x.answer p asid)
  | _, _ => s

def Shoot.arrived (x : Shoot) : Shoot := { x with here := true }

/-- GEN_RAISE_DONE: every unit has taken the new generation (log 21, DESIGN CHOICE); a wrap leaves no entry of the identifier (R339). -/
def execGenRaiseDone (p asid : Key) (s : State) : Host.Outcome State Fault Refusal :=
  .next
    (let r := s.asidRec p asid
     match r.next with
     | none => s
     | some g =>
       let s := if g = 0 then s.dropTlbs p asid else s
       s.settleRec p asid { r with gen := g, next := none, shoot := r.shoot.map Shoot.arrived })

/-! ### Shoot-downs (R340, R341) -/

/-- SHOOTDOWN_RECEIVE: a package at depth 1 to 5 raises its own generation and forwards to its children; one that arrives during a raise waits (log 55, DEDUCED). -/
def execShootdownReceive (p asid depth : Key) (children : List Key) (s : State) : Host.Outcome State Fault Refusal :=
  .next
    (let r := s.asidRec p asid
     if r.busy || depth < 1 || depth > 5 then s
     else s.raise p asid (some { depth := depth, since := s.mboelCycle, children := if depth = 5 then [] else children.take 8, acks := [], silent := [], here := false }))

/-- SHOOTDOWN_ACK: a child's count, with the children that it names silent. -/
def execShootdownAck (p asid child count : Key) (silent : List Key) (s : State) : Host.Outcome State Fault Refusal :=
  .next
    (let r := s.asidRec p asid
     match r.shoot with
     | none => s
     | some x =>
       if !x.children.contains child || (mget? x.acks child).isSome then s
       else s.settleRec p asid { r with shoot := some { x with acks := mset x.acks child count, silent := x.silent ++ silent } })

/-- SHOOTDOWN_CHILD_TIMEOUT: after (5 − d) × 8,000,000 cycles a package that is not the initiator acknowledges with what it has (R340) (log 5, DESIGN CHOICE). -/
def execShootdownChildTimeout (p asid : Key) (s : State) : Host.Outcome State Fault Refusal :=
  .next
    (let r := s.asidRec p asid
     match r.shoot with
     | none => s
     | some x =>
       if x.depth = 0 || !x.here || decide (s.mboelCycle - x.since < (5 - x.depth) * 8000000) then s
       else (s.setAsidRec p asid { r with shoot := none, busy := false }).send (x.answer p asid))

/-- Positions of a subtree of the sharing list: `fuel` levels below a position. -/
def subtree (n : Nat) : Nat → Nat → List Nat
  | 0, i => [i]
  | fuel + 1, i => i :: (childrenOf i n).flatMap (subtree n fuel)

/-- A package number of the sharing list. -/
def State.shareAt (s : State) (r : AsidRec) (i : Nat) : Nat := s.physWord (r.sladdr.toNat + 2 * (i - 1)) 2

/-- The lowest die of a partition, whose queue takes the records of no die of their own. -/
def State.firstDie (s : State) (p : Nat) : Nat := if s.partOnDie p 0 then 0 else 1

/-- The lowest free entry of the fence table (R343). -/
def State.freeFence (s : State) (p : Nat) : Option Nat :=
  (List.range 4096).find? (fun k => !bit (s.physWord ((s.part p).fence.toNat + 8 * k) 8) 63)

/-- A package is fenced off from an address space (R341, R343). -/
def State.fenceOff (s : State) (p asid pkg : Nat) : State :=
  let at0 := (s.part p).fence.toNat
  let (cause, s) := match s.freeFence p with
    | some k => (0, s.physWrite p (at0 + 8 * k) (natLe 8 (2 ^ 63 + asid * 2 ^ 48 + pkg)))
    | none =>
      let b := s.physWord (at0 + 32768 + pkg / 8) 1
      (1, s.physWrite p (at0 + 32768 + pkg / 8) [BitVec.ofNat 8 (b ||| 2 ^ (pkg % 8))])
  (s.postFault
    { id := 0, part := p, die := s.firstDie p, kind := 12, cause := cause, asid := asid, gk := none, mask := 0, pc := 0, va := pkg, posted := false }).2

/-- SHOOTDOWN_TIMEOUT: after 50,000,000 cycles the initiator fences every package it cannot account for (R340, R341) (log 5, DESIGN CHOICE). -/
def execShootdownTimeout (p asid : Key) (s : State) : Host.Outcome State Fault Refusal :=
  .next
    (let r := s.asidRec p asid
     match r.shoot with
     | none => s
     | some x =>
       if x.depth != 0 || !x.here || decide (s.mboelCycle - x.since < 50000000) then s
       else
         let lost := ((x.children.filter (fun c => (mget? x.acks c).isNone)) ++ x.silent).flatMap (subtree r.nshare 5)
         let s := s.setAsidRec p asid { r with shoot := none, busy := false, fenced := r.fenced || !lost.isEmpty }
         (lost.map (s.shareAt r)).foldl (fun s k => s.fenceOff p asid k) s)

/-! ### Peer access at the target (R342, R343) -/

def peerWrites : PeerDo → Bool
  | .load => false
  | .ldrg => false
  | _ => true

def peerKind : PeerDo → AccKind
  | .load => .load
  | .ldrg => .load
  | .store _ => .store
  | _ => .atomic

def peerRing : PeerDo → Bool
  | .ldrg => true
  | .radd _ => true
  | .rmerge _ => true
  | _ => false

/-- Package `pkg` is fenced off from an address space of the partition; an entry's reserved bits are ignored (R343) (log 104, DESIGN CHOICE). -/
def State.isFenced (s : State) (p asid pkg : Nat) : Bool :=
  let at0 := (s.part p).fence.toNat
  bit (s.physWord (at0 + 32768 + pkg / 8) 1) (pkg % 8)
    || (List.range 4096).any (fun k =>
      let e := s.physWord (at0 + 8 * k) 8
      bit e 63 && bits e 48 12 == asid && bits e 0 16 == pkg)

/-- What an inbound access gives back, and what it leaves at its place in this package (log 56, DEDUCED). -/
def State.peerDo (s : State) (p asid loc va len : Nat) (cacheable : Bool) (w : PeerDo) : Nat × State :=
  let ring := fun (v : Nat) (x : Nat × Bool) =>
    let s := s.write loc (natLe 8 x.1)
    (v, if x.2 then s.ringStale p asid (stackOf loc) va else s)
  match w with
  | .load => (s.word loc len, if cacheable then s.toRows loc len else s)
  | .ldrg =>
    let (v, stale) := s.ringRead (stackOf loc) p asid (s.word loc 8)
    (v.toNat, if stale then s.ringStale p asid (stackOf loc) va else s)
  | .store bs => (0, s.homeWrite cacheable true loc (bs.take len))
  | .atomic op w64 b c =>
    let n := if w64 then 8 else 4
    (s.word loc n, s.homeWrite cacheable true loc (natLe n (atomNew op w64 (s.word loc n) b.toNat c.toNat)))
  | .radd u => ring 0 (s.ringAdd (stackOf loc) p asid (s.word loc 8) u)
  | .rmerge o => ring 0 (s.ringMerge p asid (s.word loc 8) o.toNat)

/-- The bytes an inbound access reaches. -/
def peerBytes (r : PeerReq) : Nat :=
  match r.what with
  | .atomic _ w64 _ _ => if w64 then 8 else 4
  | .load => r.len
  | .store bs => bs.length
  | _ => 8

/-- The aperture entry of a frame that lets the access in (R343): its address space and page. -/
def State.aperture (s : State) (r : PeerReq) : Option (Nat × Nat) :=
  let x := s.part r.part
  let e := s.physWord (x.aper.toNat + 8 * r.frame) 8
  if r.frame ≥ x.naper || !bit e 63 || bits e 56 6 != 0 || bits e 12 4 != 0 || (peerWrites r.what && !bit e 62) || !(s.asidRec r.part (bits e 0 12)).en then none
  else some (bits e 0 12, bits e 16 40 * 65536)

/-- An access that cannot be completed is answered with its peer cause, and posts a record of kind 6 (R342). -/
def State.peerRefuse (s : State) (r : PeerReq) (asid cause va : Nat) : State :=
  ((s.postFault
      { id := 0, part := r.part, die := s.firstDie r.part, kind := 6, cause := cause, asid := asid, gk := none, mask := 0, pc := 0, va := va, posted := false }).2).send
    [.reply r.pkg cause 0]

/-- PEER_INBOUND: translated, performed and answered, or refused with a peer cause; one that the copies of its sector hold up comes again (R293) (log 56,
DEDUCED). -/
def execPeerInbound (r : PeerReq) (s : State) : Host.Outcome State Fault Refusal :=
  .next
    (let st := (s.part r.part).st
     if st = .free || st = .stopped then s.peerRefuse r 0 5 0
     else
       match s.aperture r with
       | none => s.peerRefuse r 0 2 0
       | some (asid, page) =>
         let va := page + r.ofs % 65536
         if s.isFenced r.part asid r.pkg then s.peerRefuse r asid 3 va
         else
           match s.place (collectiveUnit (s.firstDie r.part)) r.part asid false (peerKind r.what) va with
           | (.fault _, s) => s.peerRefuse r asid 1 va
           | (.at loc h _, s) =>
             let n := peerBytes r
             if (peerRing r.what && h != .ms) || r.ofs % 65536 + n > 65536 then s.peerRefuse r asid 2 va
             else if (match r.what with | .store _ => false | _ => (s.poisoned loc n).isSome) then s.peerRefuse r asid 4 va
             else if h = .cacheable && (if peerWrites r.what then !s.mayWrite (stackOf loc / 4) loc n else !s.mayRead (stackOf loc / 4) loc n) then s
             else
               let (v, s) := s.peerDo r.part asid loc va n (h = .cacheable) r.what
               s.send [.reply r.pkg 0 v]
           | (_, s) => s.peerRefuse r asid 2 va)

/-! ### Peer access at the initiator (R182, R342) -/

/-- A remote trap of an instruction is due: it is raised when the path waits for nothing but its replies, and no other path's handler runs. -/
def State.remoteTrap (s : State) (id : Nat) (o : PeerOut) (t : Trap) : State :=
  { s with peers := mset s.peers id { o with fail := some (o.fail.getD t) } }

/-- The value that a reply gives a lane. -/
def Access.replied (a : Access) (d : Nat) : Nat :=
  match a.op with
  | .load sz => extend sz (natLe a.len d)
  | .atomic _ w64 _ _ => d % 2 ^ (if w64 then 64 else 32)
  | .ldrg => d % 2 ^ 32
  | _ => 0

/-- A job's source bytes have come from a peer, or bytes of W are written there: the piece is over with its last acknowledgement. -/
def State.jobReply (s : State) (jid : Nat) (a : Access) (d : Nat) : State :=
  match mget? s.jobs jid with
  | none => s
  | some j =>
    match a.op with
    | .store bs =>
      let s := s.jobLand j bs.length
      if s.peers.any (fun x => x.2.job == some jid) then s else s.jobStep jid j.wrote
    | _ => s.setJob jid { j with got := (a.va, natLe a.len d) :: j.got }

/-- PEER_REPLY: a reply that completes the access, or names the cause for which it could not be. -/
def execPeerReply (id cause : Key) (data data2 : W64) (s : State) : Host.Outcome State Fault Refusal :=
  .next
    (match mget? s.peers id with
     | none => s
     | some o =>
       let d := data.toNat + data2.toNat * 2 ^ 64
       let done := { s with peers := merase s.peers id }
       match o.job with
       | some j => if cause = 0 then done.jobReply j o.acc d else done.failJob j 4
       | none =>
         if o.fail.isSome then s
         else if cause != 0 then s.remoteTrap id o ⟨.remoteFault, cause % 256 + o.pkg * 65536⟩
         else
           let s := done.gotLane o.acc.iid o.acc.lane o.acc.word (o.acc.replied d) none
           let s := if s.peerPath o && !s.owesPeer o.gk o.pid then s.releaseOld o.gk o.pid else s
           s.loadDone o.acc.iid)

/-- Cycles that a peer access has waited for its reply, by its initiator's counter: the issuing core's, or the die's for an engine (R8). -/
def State.peerAge (s : State) (o : PeerOut) : Nat :=
  match o.job.bind (fun j => mget? s.jobs j) with
  | some j => s.dieCycle j.die - o.since
  | none => s.coreCycle (coreOf o.gk) - o.since

/-- REMOTE_TIMEOUT: an access without an answer for 2,000,000 cycles (R8, R342). -/
def execRemoteTimeout (id : Key) (s : State) : Host.Outcome State Fault Refusal :=
  .next
    (match mget? s.peers id with
     | none => s
     | some o =>
       if s.peerAge o < 2000000 || o.fail.isSome then s
       else
         match o.job with
         | some j => ({ s with peers := merase s.peers id }).failJob j 4
         | none => s.remoteTrap id o ⟨.remoteTimeout, o.pkg * 65536⟩)

end Sys2Proof.Machine
end

