-- ==== Sys2Proof/Machine/Integer.lean ====
section
/-! DEFINITION. The integer, logic and move instructions (R147 to R152). -/

namespace Sys2Proof.Machine

/-- A two-source instruction on values of `w` registers. -/
def bin (i : Instr) (w : Nat) (signed : Bool) (f : Nat → Nat → Nat) : State → Host.Outcome State Fault Refusal :=
  perform i noDetail noPriv (fun c => c.result w (fun l => f (c.src c.o.a false signed w l) (c.src c.o.b true signed w l)))

/-- A one-source instruction from `w` registers to `wd`. -/
def una (i : Instr) (w wd : Nat) (signed : Bool) (f : Nat → Nat) : State → Host.Outcome State Fault Refusal :=
  perform i noDetail noPriv (fun c => c.result wd (fun l => f (c.src c.o.a true signed w l)))

def execIadd (t : ITy) (o : Ops) : State → Host.Outcome State Fault Refusal :=
  bin (.iadd t o) t.words (itySigned t) (fun a b => (a + b) % 2 ^ (32 * t.words))

def execIsub (t : ITy) (o : Ops) : State → Host.Outcome State Fault Refusal :=
  bin (.isub t o) t.words (itySigned t) (fun a b => wrap (32 * t.words) ((a : Int) - b))

def execImul (t : ITy) (o : Ops) : State → Host.Outcome State Fault Refusal :=
  bin (.imul t o) t.words (itySigned t) (fun a b => a * b % 2 ^ (32 * t.words))

/-- The high half of the product of two readings (R147). -/
def mulHigh (signed : Bool) (n a b : Nat) : Nat := wrap n (readInt signed n a * readInt signed n b / 2 ^ n)

def execImulh (t : ITy) (o : Ops) : State → Host.Outcome State Fault Refusal :=
  bin (.imulh t o) t.words (itySigned t) (mulHigh (itySigned t) (32 * t.words))

def execImad (t : ITy) (o : Ops) : State → Host.Outcome State Fault Refusal :=
  perform (.imad t o) noDetail noPriv (fun c =>
    let w := t.words
    let sg := itySigned t
    c.result w (fun l => (c.src o.a false sg w l * c.src o.b false sg w l + c.src c.cSel true sg w l) % 2 ^ (32 * w)))

/-- Truncating division and its remainder; by zero both are all ones (R62). -/
def divTrunc (signed : Bool) (n a b : Nat) : Nat := if b = 0 then 2 ^ n - 1 else wrap n (Int.tdiv (readInt signed n a) (readInt signed n b))
def remTrunc (signed : Bool) (n a b : Nat) : Nat := if b = 0 then 2 ^ n - 1 else wrap n (Int.tmod (readInt signed n a) (readInt signed n b))

/-- IDIV and IREM: a division by zero in a lane where the instruction acts sets DZ (R148). -/
def divide (i : Instr) (t : ITy) (f : Bool → Nat → Nat → Nat → Nat) : State → Host.Outcome State Fault Refusal :=
  perform i noDetail noPriv (fun c =>
    let w := t.words
    let sg := itySigned t
    let s := c.write w (fun l => f sg (32 * w) (c.src c.o.a false sg w l) (c.src c.o.b true sg w l))
    c.advance (if c.actLanes.any (fun l => c.src c.o.b true sg w l == 0) then s.setDz c.gk else s))

def execIdiv (t : ITy) (o : Ops) : State → Host.Outcome State Fault Refusal := divide (.idiv t o) t divTrunc
def execIrem (t : ITy) (o : Ops) : State → Host.Outcome State Fault Refusal := divide (.irem t o) t remTrunc

def lesser (signed : Bool) (n a b : Nat) : Nat := if readInt signed n a ≤ readInt signed n b then a else b
def greater (signed : Bool) (n a b : Nat) : Nat := if readInt signed n a ≤ readInt signed n b then b else a

def execImin (t : ITy) (o : Ops) : State → Host.Outcome State Fault Refusal :=
  bin (.imin t o) t.words (itySigned t) (lesser (itySigned t) (32 * t.words))

def execImax (t : ITy) (o : Ops) : State → Host.Outcome State Fault Refusal :=
  bin (.imax t o) t.words (itySigned t) (greater (itySigned t) (32 * t.words))

def execIabs (t : SITy) (o : Ops) : State → Host.Outcome State Fault Refusal :=
  una (.iabs t o) t.words t.words true (fun a => wrap (32 * t.words) (sext a (32 * t.words)).natAbs)

def execIneg (t : SITy) (o : Ops) : State → Host.Outcome State Fault Refusal :=
  una (.ineg t o) t.words t.words true (fun a => wrap (32 * t.words) (-(a : Int)))

def execShadd (t : ITy) (sh : BitVec 3) (o : Ops) : State → Host.Outcome State Fault Refusal :=
  bin (.shadd t sh o) t.words (itySigned t) (fun a b => (a * 2 ^ sh.toNat + b) % 2 ^ (32 * t.words))

def execAnd (t : BTy) (o : Ops) : State → Host.Outcome State Fault Refusal := bin (.and t o) t.words false (fun a b => a &&& b)
def execOr (t : BTy) (o : Ops) : State → Host.Outcome State Fault Refusal := bin (.or t o) t.words false (fun a b => a ||| b)
def execXor (t : BTy) (o : Ops) : State → Host.Outcome State Fault Refusal := bin (.xor t o) t.words false (fun a b => a ^^^ b)
def execNot (t : BTy) (o : Ops) : State → Host.Outcome State Fault Refusal :=
  una (.not t o) t.words t.words false (fun a => 2 ^ (32 * t.words) - 1 - a)

/-! ### Shifts and bit fields (R149) -/

/-- A shift: the amount is a 32-bit value. -/
def shift (i : Instr) (t : ITy) (f : Nat → Nat → Nat) : State → Host.Outcome State Fault Refusal :=
  perform i noDetail noPriv (fun c =>
    c.result t.words (fun l => f (c.src c.o.a false (itySigned t) t.words l) (c.src c.o.b true (itySigned t) 1 l)))

def shiftLeft (n a k : Nat) : Nat := if k ≥ n then 0 else a * 2 ^ k % 2 ^ n
def shiftRight (n a k : Nat) : Nat := if k ≥ n then 0 else a / 2 ^ k
def shiftArith (n a k : Nat) : Nat := wrap n (sext a n / 2 ^ (min k n))

def execShl (t : ITy) (o : Ops) : State → Host.Outcome State Fault Refusal := shift (.shl t o) t (shiftLeft (32 * t.words))
def execShr (t : ITy) (o : Ops) : State → Host.Outcome State Fault Refusal := shift (.shr t o) t (shiftRight (32 * t.words))
def execSar (t : ITy) (o : Ops) : State → Host.Outcome State Fault Refusal := shift (.sar t o) t (shiftArith (32 * t.words))

/-- Number of 1 bits among the low `n`. -/
def popCount (a n : Nat) : Nat := ((List.range n).filter (fun i => bit a i)).length

/-- Zero bits above the highest 1 bit of an `n`-bit value. -/
def leadZeros (a n : Nat) : Nat := if a = 0 then n else n - 1 - a.log2

/-- The low `n` bits reversed. -/
def revBits (a n : Nat) : Nat := (List.range n).foldl (fun r i => r + if bit a i then 2 ^ (n - 1 - i) else 0) 0

def execPopc (t : BTy) (o : Ops) : State → Host.Outcome State Fault Refusal := una (.popc t o) t.words 1 false (fun a => popCount a (32 * t.words))
def execClz (t : BTy) (o : Ops) : State → Host.Outcome State Fault Refusal := una (.clz t o) t.words 1 false (fun a => leadZeros a (32 * t.words))
def execBrev (t : BTy) (o : Ops) : State → Host.Outcome State Fault Refusal := una (.brev t o) t.words t.words false (fun a => revBits a (32 * t.words))

/-- The field that a control operand names: position and length (R149). -/
def fieldPos (b : Nat) : Nat := b % 256
def fieldLen (b : Nat) : Nat := b / 256 % 256

def extractField (n a b : Nat) : Nat := if fieldLen b = 0 ∨ fieldPos b ≥ n then 0 else a / 2 ^ fieldPos b % 2 ^ fieldLen b

/-- The old value with the field replaced; bits at and beyond the width are not written. -/
def insertField (n a b old : Nat) : Nat :=
  if fieldLen b = 0 ∨ fieldPos b ≥ n then old
  else
    let len := min (fieldLen b) (n - fieldPos b)
    let hi := old / 2 ^ (fieldPos b + len) * 2 ^ (fieldPos b + len)
    hi + a % 2 ^ len * 2 ^ fieldPos b + old % 2 ^ fieldPos b

def execBfx (t : BTy) (o : Ops) : State → Host.Outcome State Fault Refusal :=
  perform (.bfx t o) noDetail noPriv (fun c =>
    c.result t.words (fun l => extractField (32 * t.words) (c.src o.a false false t.words l) (c.src o.b true false 1 l)))

def execBfi (t : BTy) (o : Ops) : State → Host.Outcome State Fault Refusal :=
  perform (.bfi t o) noDetail noPriv (fun c =>
    c.result t.words (fun l => insertField (32 * t.words) (c.src o.a false false t.words l) (c.src o.b false false 1 l) (c.src c.cSel true false t.words l)))

/-! ### Comparison, selection, moves (R147, R150) -/

def execIcmp (t : ITy) (r : Cmp) (o : Ops) : State → Host.Outcome State Fault Refusal :=
  perform (.icmp t r o) noDetail noPriv (fun c =>
    let w := t.words
    let sg := itySigned t
    c.advance (c.writePred o.d (lanes c.acts) (fun l =>
      cmpHolds r (readInt sg (32 * w) (c.src o.a false sg w l)) (readInt sg (32 * w) (c.src o.b true sg w l)))))

def execSel (t : BTy) (o : Ops) : State → Host.Outcome State Fault Refusal :=
  perform (.sel t o) noDetail noPriv (fun c =>
    c.result t.words (fun l => if c.val c.cSel 1 l == 1 then c.src o.a false false t.words l else c.src o.b true false t.words l))

def execMov (t : MTy) (o : Ops) : State → Host.Outcome State Fault Refusal := una (.mov t o) t.words t.words false (fun a => a)

/-- MOVI's constant: IMM64, or IMM32 sign-extended (R147). -/
def moviValue (w : Nat) : Imm → Nat
  | .i64 v => v.toNat
  | .i32 v => immWords v.toNat 32 w true
  | .none => 0

def execMovi (t : BTy) (o : Ops) : State → Host.Outcome State Fault Refusal :=
  perform (.movi t o) noDetail noPriv (fun c => c.result t.words (fun _ => moviValue t.words o.imm))

def execPlop (tt : BitVec 4) (o : Ops) : State → Host.Outcome State Fault Refusal :=
  perform (.plop tt o) noDetail noPriv (fun c =>
    c.advance (c.writePred o.d (lanes c.acts) (fun l => bit tt.toNat (2 * c.val o.a 1 l + c.val o.b 1 l))))

/-! ### Moving values between lanes (R151) -/

/-- A shuffle: lane `l` reads lane `f l b` where that lane is usable, and its own value otherwise. -/
def shuffle (i : Instr) (t : BTy) (f : Int → Int → Int) : State → Host.Outcome State Fault Refusal :=
  perform i noDetail noPriv (fun c =>
    c.result t.words (fun l =>
      let s := f l (c.src c.o.b true false 1 l)
      let src := if decide (0 ≤ s) && decide (s < c.g.width) && c.acts.getLsbD s.toNat then s.toNat else l
      c.val c.o.a t.words src))

def execShflIdx (t : BTy) (o : Ops) : State → Host.Outcome State Fault Refusal := shuffle (.shflIdx t o) t (fun _ b => b)
def execShflUp (t : BTy) (o : Ops) : State → Host.Outcome State Fault Refusal := shuffle (.shflUp t o) t (fun l b => l - b)
def execShflDown (t : BTy) (o : Ops) : State → Host.Outcome State Fault Refusal := shuffle (.shflDown t o) t (fun l b => l + b)
def execShflXor (t : BTy) (o : Ops) : State → Host.Outcome State Fault Refusal :=
  shuffle (.shflXor t o) t (fun l b => ((l.toNat ^^^ b.toNat : Nat) : Int))

def execBcst (t : BTy) (o : Ops) : State → Host.Outcome State Fault Refusal :=
  perform (.bcst t o) noDetail noPriv (fun c =>
    let b := c.src o.b true false 1 c.lead
    let k := if b < c.g.width && c.acts.getLsbD b then b else (lanes c.acts).headD 0
    c.result t.words (fun _ => c.val o.a t.words k))

/-- A uniform result of an instruction that acts once per path: sD unless NWB, and the latch in every active lane when LE (R98). -/
def Ctx.writeOnce (c : Ctx) (w v : Nat) : State :=
  let h := c.o.hdr
  let s := if h.nwb then c.s else c.s.setUniform c.gk c.o.d w v
  if h.le then s.setQuarter c.q ((s.quarter c.q).setLatch h.lq.toNat (lanes c.p.mask) (fun _ => v)) else s

def execRdln (t : BTy) (o : Ops) : State → Host.Outcome State Fault Refusal :=
  perform (.rdln t o) noDetail noPriv (fun c => c.once (fun c =>
    let b := c.src o.b true false 1 c.lead
    let k := if b < c.g.width && c.acts.getLsbD b then b else c.lead
    c.writeOnce t.words (c.val o.a t.words k)))

/-! ### Special registers (R48 to R50, R152) -/

def execRdsp (o : Ops) : State → Host.Outcome State Fault Refusal :=
  perform (.rdsp o) noDetail noPriv (fun c => c.result 1 (fun l => c.val o.a 1 l))

def execWrsp (o : Ops) : State → Host.Outcome State Fault Refusal :=
  perform (.wrsp o)
    (fun c => if c.actsOnce && o.d == .sp .fmt && !fmtOk (BitVec.ofNat 32 (c.src o.a true false 1 c.lead)) then some 10 else none)
    (fun c => c.actsOnce && o.d == .sp .prio && c.src o.a true false 1 c.lead > c.launch.prio)
    (fun c => c.once (fun c =>
      let v := c.src o.a true false 1 c.lead
      if o.d == .sp .prio then c.s.modGroup c.gk (fun g => { g with prio := v })
      else c.s.modPath c.gk c.pid (fun p => { p with fmt := BitVec.ofNat 32 v })))

/-! ### Affine instructions (R153) -/

/-- An affine register written. -/
def Ctx.setAffine (c : Ctx) (x : Affine) : State :=
  match c.o.d with
  | .a n => c.s.modGroup c.gk (fun g => { g with a := if x.base = 0 ∧ x.stride = 0 then merase g.a n.toNat else mset g.a n.toNat x })
  | _ => c.s

/-- The affine register that A names. -/
def Ctx.affineA (c : Ctx) : Affine :=
  match c.o.a with
  | .a n => c.g.aff n.toNat
  | _ => { base := 0, stride := 0 }

def execAset (o : Ops) : State → Host.Outcome State Fault Refusal :=
  perform (.aset o) noDetail noPriv (fun c => c.once (fun c =>
    let base := match o.imm with | .i64 v => v | _ => BitVec.ofNat 64 (c.val o.a 2 c.lead)
    c.setAffine { base := base, stride := BitVec.ofNat 32 (c.src o.b true false 1 c.lead) }))

def execAadd (o : Ops) : State → Host.Outcome State Fault Refusal :=
  perform (.aadd o) noDetail noPriv (fun c => c.once (fun c =>
    let x := c.affineA
    c.setAffine { x with base := BitVec.ofNat 64 (wrap 64 ((x.base.toNat : Int) + sext (c.src o.b true false 1 c.lead) 32)) }))

def execAscl (o : Ops) : State → Host.Outcome State Fault Refusal :=
  perform (.ascl o) noDetail noPriv (fun c => c.once (fun c =>
    let x := c.affineA
    let k := sext (c.src o.b true false 1 c.lead) 32
    c.setAffine { base := BitVec.ofNat 64 (wrap 64 ((x.base.toNat : Int) * k)), stride := BitVec.ofNat 32 (wrap 32 ((x.stride.toNat : Int) * k)) }))

def execAmat (h : AHalf) (o : Ops) : State → Host.Outcome State Fault Refusal :=
  perform (.amat h o) noDetail noPriv (fun c =>
    c.result 1 (fun l => match h with | .lo => c.affineA.at l % 2 ^ 32 | .hi => c.affineA.at l / 2 ^ 32))

def execAget (h : APart) (o : Ops) : State → Host.Outcome State Fault Refusal :=
  perform (.aget h o) noDetail noPriv (fun c => c.once (fun c =>
    let x := c.affineA
    c.s.setUniform c.gk o.d 1 (match h with | .lo => x.base.toNat % 2 ^ 32 | .hi => x.base.toNat / 2 ^ 32 | .stride => x.stride.toNat)))

end Sys2Proof.Machine
end

