-- ==== Sys2Proof/Machine/Migrate.lean ====
section
/-! DEFINITION. Migration of pages between stacks (R348, R349). -/

namespace Sys2Proof.Machine

/-! ### The thrash table (R348) -/

/-- The entry of a page, as it stands at cycle `now`: a window that is over counts no more. -/
def Saggar.thrashAt (g : Saggar) (asid vpage now : Nat) : Thrash :=
  match g.thrash.find? (fun t => t.asid == asid && t.vpage == vpage) with
  | some t => if t.pinned.isNone && now - t.start ≥ 2 ^ 30 then { t with count := 0, start := now } else t
  | none => { asid := asid, vpage := vpage, count := 0, start := now, pinned := none }

/-- The table with an entry put in: in place of the page's own, of the oldest window when the table is full. -/
def putThrash (l : List Thrash) (t : Thrash) : List Thrash :=
  let l := l.filter (fun x => !(x.asid == t.asid && x.vpage == t.vpage))
  if l.length < 4096 then l ++ [t]
  else
    match minBy? (fun x => x.start) l with
    | some o => l.filter (fun x => !(x.asid == o.asid && x.vpage == o.vpage)) ++ [t]
    | none => [t]

def State.putThrash (s : State) (stack : Nat) (t : Thrash) : State :=
  s.setSaggar stack { s.saggar stack with thrash := Sys2Proof.Machine.putThrash (s.saggar stack).thrash t }

/-- The unit turns the command down, and pins the page. -/
def State.throttled (s : State) (stack thr asid vpage : Nat) : Option State :=
  let now := s.stackCycle stack
  let t := (s.saggar stack).thrashAt asid vpage now
  if t.pinned.isSome then some s
  else if t.count ≥ thr then some (s.putThrash stack { t with pinned := some now })
  else none

/-- PIN_EXPIRE: a pin ends 2^32 of the unit's cycles after it began. -/
def execPinExpire (stack asid vpage : Key) (s : State) : Host.Outcome State Fault Refusal :=
  .next
    (match (s.saggar stack).thrash.find? (fun t => t.asid == asid && t.vpage == vpage) with
     | some t =>
       match t.pinned with
       | some c =>
         if s.stackCycle stack - c ≥ 2 ^ 32 then
           s.setSaggar stack { s.saggar stack with thrash := (s.saggar stack).thrash.filter (fun x => !(x.asid == asid && x.vpage == vpage)) }
         else s
       | none => s
     | none => s)

/-! ### MOVE (R349) -/

def overlaps (a b : Redirect) : Bool :=
  rangesMeet a.dst a.size b.src b.size || rangesMeet a.dst a.size b.dst b.size

/-- Redirects in force. -/
def State.allRedirects (s : State) : List Redirect := s.redirects.map (fun r => r.2)

/-- Step 1: the page and its destination, or the status with which the command is refused. -/
def State.moveTarget (s : State) (p asid : Nat) (va dst : Nat) : Except Nat Redirect :=
  let page := bits va 16 40 * 65536
  let frame := bits dst 16 40 * 65536
  match walk s page 5 (s.asidRec p asid).root.toNat with
  | .error _ => .error 2
  | .ok l =>
    if l.peer || l.size ≥ 2 ^ 30 || page % l.size != 0 then .error 2
    else
      let r : Redirect := { src := l.frame, dst := frame, size := l.size, asid := asid, vpage := page / 65536 }
      if frame % l.size != 0 || stackOf frame == stackOf (s.phys l.frame) || (s.rangeOf p frame).isNone || s.allRedirects.any (overlaps r) then .error 3
      else .ok r

def State.setMig (s : State) (p die : Nat) (m : Migrate) : State := s.setPdie p die { s.pdie p die with mig := m }

/-- MIGRATE_MOVE: a write of MIGCMD with GO and OP MOVE. The command waits, copies, and is over with MIGRATE_COPY_DONE. -/
def State.migrateMove (s : State) (p die asid : Nat) : State :=
  let m := { (s.pdie p die).mig with asid := asid, op := 0 }
  match s.moveTarget p asid m.va.toNat m.dst.toNat with
  | .error e => s.setMig p die { m with status := e }
  | .ok r =>
    let stack := stackOf (s.phys r.src)
    match s.throttled stack (s.pdie p (stack / 4)).mig.thr.toNat asid r.vpage with
    | some s => s.setMig p die { m with status := 1 }
    | none => s.setMig p die { m with busy := true, copying := some r, left := r.size / 64 }

/-- RELEASE: the redirect of the source frame that MIGDST names ends. -/
def State.migrateRelease (s : State) (p die : Nat) : State :=
  let m := { (s.pdie p die).mig with op := 1 }
  let frame := bits m.dst.toNat 16 40 * 65536
  match s.redirects.find? (fun r => r.1 / 16 == die && r.2.src == frame && (s.rangeOf p r.2.src).isSome) with
  | some r => { s with redirects := merase s.redirects r.1 }.setMig p die { m with status := 0 }
  | none => s.setMig p die { m with status := 3 }

def execMigrateMove (p die asid : Key) (s : State) : Host.Outcome State Fault Refusal :=
  .next (if (s.pdie p die).mig.busy then s else s.migrateMove p die asid)

def execMigrateRelease (p die : Key) (s : State) : Host.Outcome State Fault Refusal :=
  .next (if (s.pdie p die).mig.busy then s else s.migrateRelease p die)

/-! ### The copy -/

/-- Memory with the `n` bytes at `src` copied to `dst`. -/
def copyRange (m : List Host.Cell) (src dst n : Nat) : List Host.Cell :=
  let moved := (m.filter (fun c => decide (src ≤ c.1) && decide (c.1 < src + n))).map (fun c => (c.1 - src + dst, c.2))
  m.filter (fun c => decide (c.1 < dst)) ++ moved ++ m.filter (fun c => decide (dst + n ≤ c.1))

/-- Poisoned lines with those of the source copied. -/
def copyPoison (l : List Nat) (src dst n : Nat) : List Nat :=
  let moved := (l.filter (fun k => decide (src ≤ 32 * k) && decide (32 * k < src + n))).map (fun k => k - src / 32 + dst / 32)
  moved.foldl (fun l k => insertLine k l) (l.filter (fun k => !(decide (dst ≤ 32 * k) && decide (32 * k < dst + n))))

/-- A storage address after the page has moved. -/
def Redirect.to (r : Redirect) (loc : Nat) : Nat := if r.src ≤ loc && loc < r.src + r.size then loc - r.src + r.dst else loc

def Access.moved (r : Redirect) (a : Access) : Access := if a.peer.isSome then a else { a with loc := r.to a.loc }
def Xfer.moved (r : Redirect) (x : Xfer) : Xfer := { x with runs := x.runs.map (fun y => { y with loc := r.to y.loc }) }
def Watch.moved (r : Redirect) (w : Watch) : Watch := { w with word := r.to w.word }
def Core.moved (r : Redirect) (c : Core) : Core :=
  { c with
    frames := c.frames.filter (fun f => !rangesMeet (512 * f.tag) 512 r.dst r.size)
    watches := c.watches.map (fun w => (w.1, w.2.moved r)) }
def GNode.moved (r : Redirect) (n : GNode) : GNode := { n with watch := n.watch.map (fun w => (r.to w.1, w.2)) }
def GInst.moved (r : Redirect) (i : GInst) : GInst := { i with nodes := i.nodes.map (fun n => (n.1, n.2.moved r)) }
/-- What coil slots may still read of the page is read at its destination (R379). -/
def movedImages (r : Redirect) (m : Map (List (Nat × List Byte))) : Map (List (Nat × List Byte)) :=
  (m.filter (fun x => !(decide (r.dst ≤ 16 * x.1) && decide (16 * x.1 < r.dst + r.size)))).foldl (fun m x => mset m (r.to (16 * x.1) / 16) x.2) []
def CoilReq.moved (r : Redirect) (x : CoilReq) : CoilReq := { x with dst := x.dst.map r.to }
def LaunchReq.moved (r : Redirect) (x : LaunchReq) : LaunchReq := { x with node := r.to x.node }

/-- Words of the page that its unit tracks for deterministic atomics go to the unit of the destination. -/
def State.moveTracked (s : State) (r : Redirect) : State :=
  let a := stackOf r.src
  let b := stackOf r.dst
  let here := fun (k : Nat) => r.src ≤ k % 2 ^ 40 && k % 2 ^ 40 < r.src + r.size
  let ws := (s.saggar a).words.filter (fun w => here w.1)
  let s := s.setSaggar a { s.saggar a with words := (s.saggar a).words.filter (fun w => !here w.1) }
  s.setSaggar b { s.saggar b with words := ws.foldl (fun m w => mset m (w.1 / 2 ^ 40 * 2 ^ 40 + r.to (w.1 % 2 ^ 40)) w.2) (s.saggar b).words }

/-- Steps 4 to 6 at once: sectors and replicas of the page go, its bytes are copied, and every access under way reaches the destination (log 57, DESIGN CHOICE). -/
def State.movePage (s : State) (r : Redirect) : State :=
  let secs := sectorsIn r.src r.size
  let far := fun (k : Nat) => !(decide (secs.headD 0 ≤ k) && decide (k < secs.headD 0 + secs.length))
  let s := s.moveTracked r
  { s with
    mem := copyRange s.mem r.src r.dst r.size
    poison := copyPoison s.poison r.src r.dst r.size
    dirty := s.dirty.filter far
    replicas := s.replicas.filter (fun k => far (k.1 % 2 ^ 40))
    columns := s.columns.filter (fun c => far c.1)
    accesses := s.accesses.map (fun a => (a.1, a.2.moved r))
    xfers := s.xfers.map (fun x => (x.1, x.2.moved r))
    cores := s.cores.map (fun c => (c.1, c.2.moved r))
    insts := s.insts.map (fun i => (i.1, i.2.moved r))
    images := movedImages r s.images
    coilq := s.coilq.map (fun c => (c.1, c.2.moved r))
    launchReqs := s.launchReqs.map (fun x => (x.1, x.2.moved r)) }

/-- A copy whose beats are paid is over, and its redirect in force. -/
def State.migrateEnd (s : State) (p die i : Nat) (r : Redirect) : State :=
  let stack := stackOf (s.phys r.src)
  let t := (s.saggar stack).thrashAt r.asid r.vpage (s.stackCycle stack)
  let s := (s.putThrash stack { t with count := t.count + 1 }).movePage { r with src := s.phys r.src }
  { s with redirects := mset (s.redirects.filter (fun x => x.2.src != r.src)) (16 * die + i) r }.setMig p die
    { (s.pdie p die).mig with busy := false, status := 0, copying := none, left := 0 }

/-- MIGRATE_COPY_DONE: the source's unit moves the beats that the MIGRATE budget pays (R453), and after the last of them, with one of the die's 16 redirects
free, the copy is over; or it has failed (log 57, DESIGN CHOICE). -/
def execMigrateCopyDone (p die : Key) (failed : Bool) (s : State) : Host.Outcome State Fault Refusal :=
  .next
    (let m := (s.pdie p die).mig
     match m.copying, (List.range 16).find? (fun i => (mget? s.redirects (16 * die + i)).isNone) with
     | some r, some i =>
       if failed then s.setMig p die { m with busy := false, status := 4, copying := none, left := 0 }
       else
         let stack := stackOf (s.phys r.src)
         let n := min m.left (s.unspent p 3 stack)
         let s := if n = 0 then s else s.pay p 3 stack n
         if n < m.left then s.setMig p die { m with left := m.left - n } else s.migrateEnd p die i r
     | _, _ => s)

end Sys2Proof.Machine
end

