-- ==== Sys2Proof/Machine/Preempt.lean ====
section
/-! DEFINITION. Pre-emption (R353 to R357): requests, stops, saving a team, restoring it; and the reset of a cluster (R358, R215). -/

namespace Sys2Proof.Machine

/-! ### Requests (R353) -/

/-- Cores of a die that hold a team of a partition that a test names. -/
def State.teamCores (s : State) (p die : Nat) (f : Team → Launch → Bool) : List Nat :=
  s.cores.filterMap (fun c => match c.2.team with
    | some t => if dieOfCore c.1 == die && (s.launch t.launch).part == p && f t (s.launch t.launch) then some c.1 else none
    | none => none)

def State.modTeam (s : State) (core : Nat) (f : Team → Team) : State := s.setCore core { s.core core with team := (s.core core).team.map f }

/-- PREEMPT written with GO: the named teams are to stop; ignored while a request runs. -/
def State.preemptGo (s : State) (p die : Nat) (all : Bool) : State :=
  let d := s.pdie p die
  if d.pre.run.isSome then s
  else
    let (n, s) := s.fresh
    let s := s.setPdie p die { d with pre := { d.pre with teams := 0, fail := false, done := false, all := all, run := some n, runAll := all, runA := d.pre.a } }
    (s.teamCores p die (fun _ l => all || l.desc == d.pre.a.toNat)).foldl
      (fun s c => s.modTeam c (fun t => { t with preempt := some n, since := s.dieCycle die })) s

def execPreemptGo (p die : Key) (all : Bool) (s : State) : Host.Outcome State Fault Refusal := .next (s.preemptGo p die all)

/-! ### Stops (R354) -/

/-- A path waits at a stop point: BWAIT, GROW, FUSE, TASKGET or RECV. -/
def State.atStopPoint (s : State) (p : Path) : Bool :=
  match p.st with
  | .blocked (.barrier rid) => (match mget? s.barReqs rid with | some r => (match r.op with | .wait _ _ => true | _ => false) | none => false)
  | .blocked (.grow _) => true
  | .blocked (.fuse _) => true
  | .blocked (.recv _ _ _ _) => true
  | .blocked (.taskget _ _ _) => true
  | _ => false

/-- The group's team is being pre-empted, and the group has still to stop: since which cycle of the die (log 58, DESIGN CHOICE). -/
def State.toStop (s : State) (gk : Nat) (g : Group) : Option Nat :=
  match (s.core (coreOf gk)).team with
  | some t => if t.preempt.isSome && !g.stopped && !g.dead then some t.since else none
  | none => none

def State.mayStop (s : State) (gk : Nat) (g : Group) : Bool :=
  (s.toStop gk g).isSome && (g.park.isSome || g.paths.any (fun x => s.atStopPoint x.2))

/-- PREEMPT_STOP: at a waiting point or a fault park; TILEB and YIELD stop their group themselves. -/
def execPreemptStop (gk : Key) (s : State) : Host.Outcome State Fault Refusal :=
  .next
    (match mget? s.groups gk with
     | some g => if s.mayStop gk g then s.preStop gk else s
     | none => s)

/-- PREEMPT_STOP_BOUND: after 100,000 cycles of the die's counter, at the next instruction boundary. -/
def execPreemptStopBound (gk : Key) (s : State) : Host.Outcome State Fault Refusal :=
  .next
    (match mget? s.groups gk with
     | some g =>
       match s.toStop gk g with
       | some c => if s.dieCycle (dieOf gk) - c ≥ 100000 then s.preStop gk else s
       | none => s
     | none => s)

/-! ### Saving (R355, R357) -/

/-- Nothing that has to end before the save is under way in the team on a core (R354, R355). -/
def State.settled (s : State) (core : Nat) : Bool :=
  let here := fun (gk : Nat) => coreOf gk == core
  (s.teamGroups core).all (fun x => x.2.dead || (x.2.stopped && x.2.paths.all (fun y => match y.2.st with
      | .blocked (.step _ _ _) => false | .blocked (.peer _) => false | _ => true)))
    && !s.loads.any (fun l => here l.2.gk) && !s.accesses.any (fun a => here a.2.gk) && !s.xfers.any (fun x => x.2.core == core)
    && !s.coilq.any (fun c => here c.2.gk) && (List.range 4).all (fun k => (s.quarter (core * 4 + k)).mmaq.isEmpty)
    && !s.jobs.any (fun j => j.2.core == some core && j.2.st == .running && s.jobHeld j.2)

/-- The unfinished jobs of the team on a core, in submission order: cards to be saved. -/
def State.cardsOf (s : State) (core : Nat) : List (Nat × Job) :=
  (s.jobs.filter (fun j => j.2.core == some core && (j.2.st == .waiting || j.2.st == .stopped) && s.jobHeld j.2)).foldl
    (fun l x =>
      (l.filter (fun y => decide (y.2.seq < x.2.seq))) ++ [x] ++ l.filter (fun y => !decide (y.2.seq < x.2.seq))) []

/-- A card with RESTART at the bytes written. -/
def Job.savedCard (j : Job) : List Byte :=
  let w := j.card.toNat
  natLe 64 (w - bits w 448 32 * 2 ^ 448 + j.pos % 2 ^ 32 * 2 ^ 448)

/-- `n` bytes of an internal layout (log 7, DESIGN CHOICE). -/
def State.internal (s : State) (ofs n : Nat) : List Byte := (List.range n).map (fun i => Config.internalByte s.tick (ofs + i))

/-- Scratch and TOB banks of a launch, ascending. -/
def Launch.savedBanks (l : Launch) : List Nat := (List.range 32).filter (fun b => bits l.banks.toNat (2 * b) 2 == 1 || bits l.banks.toNat (2 * b) 2 == 2)

def List.indexed {α : Type} (l : List α) : List (Nat × α) := (List.range l.length).zip l

/-- Groups of a team that have not stopped for good, in rank order. -/
def byRank (gs : List (Nat × Group)) : List (Nat × Group) :=
  (gs.filter (fun x => !x.2.dead)).foldl (fun l x =>
    l.filter (fun y => decide (y.2.rank ≤ x.2.rank)) ++ [x] ++ l.filter (fun y => !decide (y.2.rank ≤ x.2.rank))) []

/-- Bytes of a group's vector registers in use. -/
def Group.vecSize (g : Group) : Nat := 32 * g.blocks * g.width

/-- Their image: register by register, the lanes of each in order (log 7, DESIGN CHOICE). -/
def Group.vecImage (g : Group) : List Byte :=
  (List.range (8 * g.blocks)).flatMap (fun r => (List.range g.width).flatMap (fun i => natLe 4 (zget g.v (64 * r + i)).toNat))

/-- And the registers read back from an image. -/
def Group.withVecs (g : Group) (bs : List Byte) : Group :=
  { g with v := (List.range (8 * g.blocks * g.width)).foldl (fun m k =>
      zset m (64 * (k / g.width) + k % g.width) (BitVec.ofNat 32 (leNat ((bs.drop (4 * k)).take 4)))) [] }

/-- Offsets in the record of the groups' vector registers, group by group, each with its group. -/
def vecParts : Nat → List (Nat × Group) → List (Nat × Nat × Group)
  | _, [] => []
  | ofs, x :: l => (ofs, x.1, x.2) :: vecParts (ofs + x.2.vecSize) l

def vecBase : Nat := 0xE1000
def bankImages : Nat := 0x161000

/-- A bank's image. What the scratch banks hold behind the declared bytes, spill entries and channel slots (R268), has no stated layout: free values (log 7,
DESIGN CHOICE). -/
def State.bankImage (s : State) (core : Nat) (l : Launch) (b : Nat) : List Byte :=
  let bs := s.bytes (bankLoc core b 0) 32768
  match (banksOf l.banks 1).idxOf? b with
  | none => bs
  | some i =>
    let keep := min 32768 (l.scratch - 32768 * i)
    let used := min 32768 (l.scratchUse - 32768 * i)
    bs.take keep ++ s.internal (bankImages + 32768 * b + keep) (used - keep) ++ bs.drop (max keep used)

/-- What a save writes: offsets in the record with their bytes (R357). -/
def State.savedParts (s : State) (core : Nat) (l : Launch) : List (Nat × List Byte) :=
  let gs := byRank (s.teamGroups core)
  [(0, s.internal 0 4096)]
    ++ gs.map (fun x => (0x11000 + 8192 * x.2.rank, s.internal (0x11000 + 8192 * x.2.rank) 8192))
    ++ (List.range 4).map (fun k => (0x91000 + 81920 * k, s.internal (0x91000 + 81920 * k) 81920))
    ++ (vecParts vecBase gs).map (fun x => (x.1, x.2.2.vecImage))
    ++ (List.indexed l.savedBanks).map (fun b => (bankImages + 32768 * b.1, s.bankImage core l b.2))
    ++ (List.indexed (s.cardsOf core)).map (fun j => (0x261000 + 64 * j.1, j.2.2.savedCard))

/-- The storage ranges of each part, or the address that cannot be written. -/
def State.partLocs (s : State) (core : Nat) (l : Launch) (k : AccKind) (base : Nat) :
    List (Nat × Nat) → Except Nat (List (List Spot)) × State
  | [] => (.ok [], s)
  | (ofs, n) :: rest =>
    match s.range (mouldUnit core) l.part l.asid true k (base + ofs) n with
    | (.error e, s) => (.error e.1, s)
    | (.ok ls, s) =>
      match State.partLocs s core l k base rest with
      | (.ok r, s) => (.ok (ls :: r), s)
      | (.error e, s) => (.error e, s)

/-- Poison of lines from one place on, carried to ranges that hold a copy of them. -/
def State.carryPoison (s : State) (src : Nat) : List Spot → State
  | [] => s
  | ⟨a, n, _⟩ :: rest =>
    let ls := s.poison.filter (fun k => decide (src ≤ 32 * k) && decide (32 * k < src + n))
    (ls.foldl (fun s k => s.poisonLine (32 * k - src + a)) s).carryPoison (src + n) rest

/-- The team leaves its core; what it holds there waits to be restored. -/
def State.stow (s : State) (core : Nat) (t : Team) : State :=
  let l := s.launch t.launch
  let cards := s.cardsOf core
  let (id, s) := s.fresh
  let x : Saved :=
    { launch := t.launch, clid := t.clid, idx := t.idx, core := core, groups := (s.teamGroups core).map (fun g => (g.1 % 64, { g.2 with v := [] })),
      quarters := (List.range 4).map (fun k => (k, s.quarter (core * 4 + k))), watches := (s.core core).watches, cards := cards.map (fun j => j.1),
      resume := false, move := false }
  let s := cards.foldl (fun s j => s.setJob j.1 { j.2 with st := .stopped }) s
  let s := { s with saved := mset s.saved id x, groups := s.groups.filter (fun g => !(coreOf g.1 == core)) }
  let s := s.setCore core { s.core core with team := none, watches := [] }
  let d := s.pdie l.part (dieOfCore core)
  s.setPdie l.part (dieOfCore core) { d with pre := { d.pre with teams := d.pre.teams + 1 } }

/-- The team runs on from where it stopped (R357). -/
def State.unstop (s : State) (core : Nat) : State :=
  let gks := (s.teamGroups core).map (fun g => g.1)
  let s := s.modTeam core (fun t => { t with preempt := none, paid := 0 })
  let s := gks.foldl (fun s gk => (s.modGroup gk (fun g => { g with stopped := false })).unpark gk) s
  { s with jobs := s.jobs.map (fun j => (j.1, if j.2.core == some core && j.2.st == .stopped then { j.2 with st := .waiting } else j.2)) }

/-- A team saved; one whose record cannot be written runs on, with a record of kind 7 and FAIL (R357). -/
def State.saveTeam (s : State) (core : Nat) : State :=
  match (s.core core).team with
  | none => s
  | some t =>
    let l := s.launch t.launch
    let base := s.saveBase core
    let parts := s.savedParts core l
    match s.partLocs core l .store base (parts.map (fun x => (x.1, x.2.length))) with
    | (.ok ls, s) =>
      let s := (parts.zip ls).foldl (fun s x => s.writeLocs x.2 x.1.2) s
      let s := ((parts.zip ls).filter (fun x => decide (bankImages ≤ x.1.1) && decide (x.1.1 < 0x261000))).foldl (fun s x =>
        match l.savedBanks[(x.1.1 - bankImages) / 32768]? with
        | some b => s.carryPoison (bankLoc core b 0) x.2
        | none => s) s
      s.stow core t
    | (.error va, s) =>
      let die := dieOfCore core
      let (_, s) := s.postFault
        { id := 0, part := l.part, die := die, kind := 7, cause := 2, asid := l.asid, gk := none, mask := 0, pc := 0, va := va, posted := false }
      let d := s.pdie l.part die
      (s.setPdie l.part die { d with pre := { d.pre with fail := true } }).unstop core

/-- Cores whose teams a running request has still to save. -/
def State.toSave (s : State) (p die n : Nat) : List Nat := s.teamCores p die (fun t _ => t.preempt == some n)

/-- Beats of 64 bytes in the record of the team on a core. -/
def State.saveBeats (s : State) (core : Nat) (t : Team) : Nat := ((s.savedParts core (s.launch t.launch)).map (fun x => x.2.length / 64)).sum

/-- The core's save port moves the beats of the record that the SAVE budget pays (R453). -/
def State.paySave (s : State) (core : Nat) : State :=
  match (s.core core).team with
  | none => s
  | some t =>
    let p := (s.launch t.launch).part
    let n := min (s.saveBeats core t - t.paid) (s.unspent p 4 core)
    if n = 0 then s else (s.pay p 4 core n).modTeam core (fun t => { t with paid := t.paid + n })

/-- The whole record is paid for. -/
def State.savePaid (s : State) (core : Nat) : Bool :=
  match (s.core core).team with
  | some t => decide (s.saveBeats core t ≤ t.paid)
  | none => true

/-- PREEMPT_DONE: every named team has stopped and its jobs have ended, the budget has paid for their records, and all are saved (log 58, DESIGN CHOICE). -/
def execPreemptDone (p die : Key) (s : State) : Host.Outcome State Fault Refusal :=
  .next
    (match (s.pdie p die).pre.run with
     | none => s
     | some n =>
       let cs := s.toSave p die n
       if !cs.all s.settled then s
       else
         let s := cs.foldl State.paySave s
         if !cs.all s.savePaid then s
         else
           let s := cs.foldl State.saveTeam s
           let d := s.pdie p die
           s.setPdie p die { d with pre := { d.pre with done := true, run := none } })

/-! ### Restoring (R353, R356) -/

/-- RESUMEA written: the saved teams of the grid, on this die, are to be placed; bit 0 lets them move. -/
def State.resume (s : State) (p die : Nat) (v : Nat) : State :=
  { s with saved := s.saved.map (fun x =>
      (x.1, if (s.launch x.2.launch).part == p && (s.launch x.2.launch).desc == v / 2 * 2 && dieOfCore x.2.core == die then
        { x.2 with resume := true, move := bit v 0 } else x.2)) }

def execResumeaWrite (p die : Key) (v : W64) (s : State) : Host.Outcome State Fault Refusal := .next (s.resume p die v.toNat)

/-- The core of team `t` of a cluster whose team `i` is on a core; none where it lies outside the die. -/
def mateCore (w core i t : Nat) : Option Nat :=
  let x := core % 12 + t % w
  let y := core % 96 / 12 + t / w
  if x < i % w || y < i / w || x - i % w ≥ 12 || y - i / w ≥ 8 then none else some (dieOfCore core * 96 + (y - i / w) * 12 + (x - i % w))

/-- Saved teams of a cluster that are to be restored, with the cores they go to when team `i` goes to `core`; none where one cannot. -/
def State.clusterSpots (s : State) (lid : Nat) (l : Launch) (clid i core : Nat) (taken : List Nat) : Option (List (Nat × Nat)) :=
  let w := max 1 l.clw
  let mates := s.saved.filter (fun x => x.2.launch == lid && x.2.clid == clid)
  let spots := mates.map (fun x => (x.1, x.2, mateCore w core i x.2.idx))
  let ok := spots.all (fun x => x.2.1.resume && (match x.2.2 with
    | some c => s.coreFree l.part s.hasTeam c && !taken.contains c && (x.2.1.move || c == x.2.1.core)
    | none => false))
  let inside := (List.range (l.clw * l.clh)).all (fun t => (mateCore w core i t).isSome)
  let with' := s.cores.all (fun c => match c.2.team with
    | some t => t.launch != lid || t.clid != clid || mateCore w core i t.idx == some c.1
    | none => true)
  if ok && inside && with' && (l.diesFor clid).contains (dieOfCore core) && !s.placeHeld l (dieOfCore core) then
    some (spots.filterMap (fun x => x.2.2.map (fun c => (x.1, c))))
  else none

/-- The other clusters of a co-scheduled grid, each at its own cores, or where it finds room. -/
def State.otherSpots (s : State) (lid : Nat) (l : Launch) : List Nat → List (Nat × Nat) → Option (List (Nat × Nat))
  | [], acc => some acc
  | c :: rest, acc =>
    let taken := acc.map (fun x => x.2)
    match s.saved.find? (fun x => x.2.launch == lid && x.2.clid == c) with
    | none => s.otherSpots lid l rest acc
    | some (_, x) =>
      let spots :=
        if x.move then
          (s.findRect l c (fun k => s.hasTeam k || taken.contains k) true).bind (fun r => s.clusterSpots lid l c 0 (r.1 * 96 + r.2.1 * 12 + r.2.2) taken)
        else s.clusterSpots lid l c x.idx x.core taken
      match spots with
      | some ps => s.otherSpots lid l rest (acc ++ ps)
      | none => none

/-- The watch re-armed on a core: it fires once, and its address is translated anew (R210, R356). -/
def State.rearm (s : State) (l : Launch) (old new : Nat) (w : Watch) : Watch × State :=
  match s.place (quarterOf (new * 64)) l.part l.asid true .load w.va with
  | (.at loc _ _, s) => ({ w with obj := w.obj - bankLoc old 0 0 + bankLoc new 0 0, word := loc / 8 * 8, hit := true }, s)
  | (_, s) => ({ w with obj := w.obj - bankLoc old 0 0 + bankLoc new 0 0, hit := true }, s)

def State.rearmAll (s : State) (l : Launch) (old new : Nat) (ws : Map Watch) : State :=
  ws.foldl (fun s w =>
    let (x, s) := s.rearm l old new w.2
    let c := s.core new
    s.setCore new { c with watches := mset c.watches (x.obj * 4 + x.idx) x }) s

/-- A group as it goes on after a restore: its watchdog count is zero (R263). -/
def Group.restored (g : Group) (now : Nat) : Group :=
  { g with
    stopped := false
    watchdog := 0
    lastIssue := now
    wdDue := false
    handler := g.handler.map (fun h => { h with since := now })
    paths := g.paths.map (fun x => (x.1, { x.2 with stamp := now, since := now })) }

/-- A job goes back to its scheduler, on the core the team now has (R356). -/
def State.resubmit (s : State) (old new : Nat) (id : Nat) (card : List Byte) : State :=
  match mget? s.jobs id with
  | none => s
  | some j =>
    if j.st != .stopped then s
    else
      let (n, s) := s.fresh
      let c := leNat card
      s.setJob id
        { j with
          seq := n, st := .waiting, card := BitVec.ofNat 512 c, pos := bits c 448 32, gk := j.gk.map (fun g => new * 64 + g % 64), core := some new
          bar := j.bar.map (fun b => b - bankLoc old 0 0 + bankLoc new 0 0) }

/-- Groups of a saved team that run their trap handler: their frames are in the record. -/
def Saved.handled (x : Saved) : List (Nat × Group) := (byRank x.groups).filter (fun g => g.2.handler.isSome)

/-- The parts of a saved team's record that a restore reads, as offset and length: banks, vector registers, trap frames, cards. -/
def Saved.parts (x : Saved) (l : Launch) : List (Nat × Nat) :=
  (List.indexed l.savedBanks).map (fun b => (bankImages + 32768 * b.1, 32768))
    ++ (vecParts vecBase (byRank x.groups)).map (fun v => (v.1, v.2.2.vecSize))
    ++ x.handled.map (fun g => (0x1000 + 1024 * g.2.rank, 896))
    ++ (List.range x.cards.length).map (fun i => (0x261000 + 64 * i, 64))

/-- Their storage ranges; none while a page of the record cannot be read. -/
def State.recordLocs (s : State) (core : Nat) (l : Launch) (x : Saved) : Except Nat (List (List Spot)) × State :=
  s.partLocs core l .load (l.save + 2 ^ 22 * (x.clid * (l.clw * l.clh) + x.idx)) (x.parts l)

/-- A trap frame that a restore refuses stops its group for good, with a record of kind 8 (R38, R352). -/
def State.frameCheck (s : State) (gk : Nat) (w : Nat) : State :=
  match mget? s.groups gk with
  | none => s
  | some g =>
    if frameLaidOut w && (rejOf g.width (bits w 1024 6144) 0 8).isSome then s
    else
      match g.handler with
      | some h => (s.stopGroup gk h.pid 8 3 (s.pcOf gk h.pid) 0).teamCheck (coreOf gk)
      | none => s

/-- A saved team on its core again: banks and watches, quarters and groups with their registers and frames, then its cards (R356). -/
def State.restoreTeam (s : State) (id core : Nat) : State :=
  match mget? s.saved id with
  | none => s
  | some x =>
    let l := s.launch x.launch
    match s.recordLocs core l x with
    | (.error _, s) => s
    | (.ok ls, s) =>
      let banks := l.savedBanks
      let vecs := byRank x.groups
      let s := s.clearCore core l.banks
      let s := (banks.zip ls).foldl (fun s b =>
        let s := s.write (bankLoc core b.1 0) (s.readLocs b.2)
        (b.2.foldl (fun (y : Nat × State) r => (y.1 + r.len, y.2.carryPoison r.loc [⟨bankLoc core b.1 y.1, r.len, false⟩])) (0, s)).2) s
      let ls := ls.drop banks.length
      let s := s.setCore core { s.core core with team := some { launch := x.launch, clid := x.clid, idx := x.idx, preempt := none, since := 0 } }
      let s := s.rearmAll l x.core core x.watches
      let s := x.quarters.foldl (fun s q =>
        let cur := s.quarter (core * 4 + q.1)
        s.setQuarter (core * 4 + q.1) { cur with gang := q.2.gang, acc := q.2.acc, slots := q.2.slots }) s
      let now := s.coreCycle core
      let s := x.groups.foldl (fun s g => { s with groups := mset s.groups (core * 64 + g.1) (g.2.restored now) }) s
      let s := (vecs.zip ls).foldl (fun s v => s.modGroup (core * 64 + v.1.1) (fun g => g.withVecs (s.readLocs v.2))) s
      let ls := ls.drop vecs.length
      let frames := x.handled.zip (ls.map (fun f => leNat (s.readLocs f)))
      let s := (x.cards.zip (ls.drop x.handled.length)).foldl (fun s c => s.resubmit x.core core c.1 (s.readLocs c.2)) s
      let s : State := { s with saved := merase s.saved id }
      let s := frames.foldl (fun s f => s.frameCheck (core * 64 + f.1.1) f.2) s
      x.groups.foldl (fun s g => s.unpark (core * 64 + g.1)) s

/-- The record of a saved team can be read. -/
def State.recordReady (s : State) (id core : Nat) : Bool :=
  match mget? s.saved id with
  | none => false
  | some x =>
    match s.recordLocs core (s.launch x.launch) x with
    | (.ok _, _) => true
    | _ => false

/-- Where the teams that are restored with team `i` go when it goes to a core. -/
def State.restoreSpots (s : State) (i core : Nat) : Option (List (Nat × Nat)) :=
  match mget? s.saved i with
  | none => none
  | some x =>
    let l := s.launch x.launch
    if !x.resume || !s.goesNow x.launch l then none
    else
      match s.clusterSpots x.launch l x.clid x.idx core [] with
      | none => none
      | some ps =>
        if l.cosched then
          s.otherSpots x.launch l
            (((s.saved.filter (fun y => y.2.launch == x.launch && y.2.clid != x.clid)).map (fun y => y.2.clid)).eraseDups) ps
        else some ps

/-- TEAM_RESTORE: the saved teams of a cluster, or of a co-scheduled grid, are placed and restored (R353, R356). -/
def execTeamRestore (i core : Key) (s : State) : Host.Outcome State Fault Refusal :=
  .next
    (match s.restoreSpots i core with
     | none => s
     | some ps => if ps.all (fun x => s.recordReady x.1 x.2) then ps.foldl (fun s x => s.restoreTeam x.1 x.2) s else s)

/-! ### CRESET (R358, R215) -/

/-- A path that waits on a broken channel: its instruction raises CHAN_BROKEN at once, or when its group may issue it again. -/
def State.breakWait (s : State) (gk pid ch : Nat) : State :=
  match mget? s.groups gk with
  | none => s
  | some g => if g.stopped then s.wakePath gk pid true else s.trapWait gk pid ⟨.chanBroken, ch⟩

/-- Paths of a launch that wait on a channel. -/
def State.chanWaits (s : State) (lid ch : Nat) : List (Nat × Nat) :=
  (s.groups.filter (fun x => x.2.launch == lid && !x.2.dead)).flatMap (fun x =>
    x.2.paths.filterMap (fun y => match y.2.st with
      | .blocked (.recv _ c _ _) => if c = ch then some (x.1, y.1) else none
      | .waiting (.send id) => (match mget? s.sends id with | some r => if r.ch = ch && r.launch = lid then some (x.1, y.1) else none | none => none)
      | _ => none))

/-- A channel of a launch with an end in a cluster that is reset. -/
def State.breakChan (s : State) (lid clid : Nat) (r : ChanRec) : State :=
  if r.pcl != clid && !r.cons.any (fun c => c.1 == clid) then s
  else
    let x := (s.launch lid).chanOf r.id
    let gone := fun (k : Nat) => (listGet (0, 0) r.cons k).1 == clid
    let s := s.setChan lid r.id
      { allow := (List.indexed x.allow).map (fun a => if gone a.1 then r.slots else a.2)
        filled := (List.indexed x.filled).map (fun f => if gone f.1 then [] else f.2)
        broken := true }
    let waits := s.chanWaits lid r.id
    let ids := (s.sends.filter (fun y => y.2.launch == lid && y.2.ch == r.id)).map (fun y => y.1)
    let packets := s.packets.filter (fun y => !(y.2.launch == lid && y.2.ch == r.id))
    let s : State := { s with sends := s.sends.filter (fun y => !ids.contains y.1), packets := packets }
    waits.foldl (fun s w => s.breakWait w.1 w.2 r.id) s

/-- A team of the cluster on a core goes, with nothing of it saved (log 59, DEDUCED). -/
def State.killTeam (s : State) (lid core : Nat) : State :=
  let gks := (s.teamGroups core).map (fun g => g.1)
  let s := gks.foldl (fun s gk => (s.returnTasks gk).orphan gk) s
  let groups := s.groups.filter (fun g => !(coreOf g.1 == core))
  let s : State := { s with
    groups := groups, xfers := s.xfers.filter (fun x => x.2.core != core), launchReqs := s.launchReqs.filter (fun r => coreOf r.2.gk != core),
    peers := s.peers.filter (fun o => o.2.job.isSome || coreOf o.2.gk != core), sends := s.sends.filter (fun r => !gks.contains r.2.gk),
    loads := s.loads.filter (fun l => !gks.contains l.2.gk) }
  let s := s.setCore core { s.core core with team := none, watches := [] }
  let s := (List.range 4).foldl (fun s k =>
    s.setQuarter (core * 4 + k) { s.quarter (core * 4 + k) with mmaq := [], round := none, chain := none, latch := [], growq := [], gang := 0 }) s
  s.modLaunch lid (fun l => { l with teams := l.teams - 1, failed := true })

/-- The jobs of a launch's team on a core fail with cause 5 (R333). -/
def State.cancelJobs (s : State) (lid core : Nat) : State :=
  (mkeys s.jobs (fun _ j => j.launch == some lid && j.core == some core && !j.st.over)).foldl (fun s j => s.failJob j 5) s

/-- CRESET written on a die: the cluster of the grid there stops at once (log 59, DEDUCED). -/
def State.creset (s : State) (p die desc clid : Nat) : State :=
  match s.launches.find? (fun x => x.2.part == p && x.2.desc == desc
      && (s.cores.any (fun c => match c.2.team with | some t => t.launch == x.1 && t.clid == clid && dieOfCore c.1 == die | none => false)
        || s.saved.any (fun y => y.2.launch == x.1 && y.2.clid == clid && dieOfCore y.2.core == die))) with
  | none => s
  | some (lid, l) =>
    let cs := s.teamCores p die (fun t _ => t.launch == lid && t.clid == clid)
    let sv := s.saved.filter (fun y => y.2.launch == lid && y.2.clid == clid)
    let s := (cs ++ sv.map (fun y => y.2.core)).foldl (fun s c => s.cancelJobs lid c) s
    let s := cs.foldl (fun s c => s.killTeam lid c) s
    let s : State := { s with saved := s.saved.filter (fun y => !(y.2.launch == lid && y.2.clid == clid)) }
    let s := (sv.flatMap (fun y => y.2.groups.flatMap (fun g => g.2.tasks))).foldl State.returnTask s
    let s := s.modLaunch lid (fun l => { l with teams := l.teams - sv.length, failed := true })
    l.chans.foldl (fun s r => s.breakChan lid clid r) s

def execCreset (p die desc clid : Key) (s : State) : Host.Outcome State Fault Refusal := .next (s.creset p die desc clid)

end Sys2Proof.Machine
end

