-- ==== Sys2Proof/Machine/Partition.lean ====
section
/-! DEFINITION. Partitions (R431 to R439): shapes, ranges, boundaries, the commands of PCMD, and the owners of the trace cores. -/

namespace Sys2Proof.Machine

/-! ### Shapes and ranges (R433 to R435) -/

/-- The shapes a partition may have (R433). -/
def legalShape (r : Nat) : Bool := [1, 2, 4, 8, 3, 12, 15].contains r

/-- Slices of a die that a set of regions holds. -/
def slicesOf (regions die : Nat) : Nat :=
  (if bit regions (2 * die) then 2 ^ 24 - 1 else 0) + (if bit regions (2 * die + 1) then (2 ^ 24 - 1) * 2 ^ 24 else 0)

def coresOf (regions : Nat) : List Nat := (List.range 192).filter (fun c => bit regions (regionOfCore c))

/-- BNDCTL for the partitions that there are (R434). -/
def State.bounds (s : State) : Nat :=
  let one := fun (m : Nat) => s.parts.any (fun p => p.2.st != .free && p.2.regions &&& m == m)
  (one 3).toNat + (one 12).toNat * 2 + (one 15).toNat * 4

def State.setPkg (s : State) (f : Package → Package) : State := { s with pkg := f s.pkg }

/-- Mboel carries out commands: it has power, and the package is not in safe mode, in which it serves status, logs and firmware update alone (R444). -/
def Package.serves (k : Package) : Bool := k.powered && !k.safe
/-- A partition command finds Mboel ready to carry it out (R436, R461). -/
def State.pcmdReady (s : State) : Bool := s.pkg.serves && !s.pkg.pcmd.busy

/-- Word 1 of the PACKAGE record: enabled cores, vault MiB, HBM4 GiB and spare core sites left (R12, R441). -/
def State.packageWord (s : State) : Nat :=
  let n := 192 - (mkeys s.cores (fun _ c => c.gone)).length
  n + 2 * n * 2 ^ 16 + 512 * 2 ^ 32 + s.pkg.coreSpares.sum * 2 ^ 48
def State.rebound (s : State) : State := s.setPkg (fun k => { k with bndctl := s.bounds })

/-- A range that R435 allows beside the others, all but the one it replaces. -/
def State.rangeLegal (s : State) (rng : Nat) (w : BitVec 128) : Bool :=
  let n := w.toNat
  let rsvd := bits n 89 39 != 0 || bits n 73 7 != 0 || bits n 57 7 != 0 || bits n 54 2 != 0 || bits n 49 3 != 0
  let regions := (s.part (mirPart w)).regions
  let ks := (List.range 8).filter (fun k => mirBase w / 64 ≤ k && k ≤ mirLim w / 64)
  !rsvd && (!mirV w ||
    (mirBase w ≤ mirLim w && (s.part (mirPart w)).st != .free && ks.all (fun k => k / 4 == mirDie w && bit regions (k / 2))
      && mirSlices w != 0 && mirSlices w &&& slicesOf regions (mirDie w) == mirSlices w
      && (s.pkg.mir.filter (fun x => decide (x.1 < 16) && x.1 != rng && mirV x.2)).all (fun x => mirLim x.2 < mirBase w || mirLim w < mirBase x.2)))

/-- A range's PART replaced. -/
def setMirPart (w : BitVec 128) (p : Nat) : BitVec 128 := BitVec.ofNat 128 (w.toNat - bits w.toNat 52 2 * 2 ^ 52 + p * 2 ^ 52)
def clearMirV (w : BitVec 128) : BitVec 128 := if mirV w then BitVec.ofNat 128 (w.toNat - 2 ^ 56) else w

def State.mapMir (s : State) (f : BitVec 128 → BitVec 128) : State :=
  s.setPkg (fun k => { k with mir := (List.range 16).foldl (fun m i => if f (mgetD k.mir i 0) = mgetD k.mir i 0 then m else mset m i (f (mgetD k.mir i 0))) k.mir })

def State.setLsl (s : State) (p d v : Nat) : State := s.setPkg (fun k => { k with lsl := zset k.lsl (2 * p + d) (BitVec.ofNat 48 v) })
def State.lsl (s : State) (p d : Nat) : Nat := (zget s.pkg.lsl (2 * p + d)).toNat

/-! ### What a command does to a partition's work -/

/-- The vaults of some regions are zero (R273). -/
def State.zeroVaults (s : State) (regions : Nat) : State := (coresOf regions).foldl (fun s c => s.zeroBytes (vaultLoc (c / 96) (c % 96) 0) (2 ^ 21)) s

/-- Everything that runs, waits or is bound in a partition is gone (log 62, DEDUCED). -/
def State.clearPart (s : State) (p : Nat) : State :=
  let mine := fun (lid : Nat) => (s.launch lid).part == p && (mget? s.launches lid).isSome
  let gone := fun (gk : Nat) => match mget? s.groups gk with | some g => mine g.launch | none => false
  let cores := coresOf (s.part p).regions
  let groups := s.groups.filter (fun g => !mine g.2.launch)
  let quarters := s.quarters.filter (fun q => !cores.contains (q.1 / 4))
  let cs := s.cores.map (fun c => (c.1, if cores.contains c.1 then { Core.idle with gone := c.2.gone } else c.2))
  let t : State := { s with
    groups := groups, quarters := quarters, cores := cs, accesses := s.accesses.filter (fun a => a.2.part != p),
    loads := s.loads.filter (fun l => !gone l.2.gk), xfers := s.xfers.filter (fun x => !mine x.2.launch),
    barReqs := s.barReqs.filter (fun b => !gone b.2.gk), sends := s.sends.filter (fun x => !mine x.2.launch),
    packets := s.packets.filter (fun x => !mine x.2.launch), returns := s.returns.filter (fun x => !mine x.2.1),
    peers := s.peers.filter (fun x => x.2.acc.part != p), launchReqs := s.launchReqs.filter (fun x => !gone x.2.gk),
    launches := s.launches.filter (fun l => l.2.part != p), insts := s.insts.filter (fun i => i.2.part != p),
    jobs := s.jobs.filter (fun j => j.2.part != p), frecs := s.frecs.filter (fun f => f.2.part != p), coil := s.coil.filter (fun c => c.2.part != p),
    coilq := s.coilq.filter (fun c => c.2.part != p), grove := s.grove.filter (fun t => t.2.part != p), decs := s.decs.filter (fun d => d.2.part != p),
    saved := s.saved.filter (fun x => !mine x.2.launch), tlbs := s.tlbs.map (fun u => (u.1, u.2.filter (fun e => e.part != p))),
    walks := s.walks.map (fun u => (u.1, u.2.filter (fun e => e.part != p))), ccores := s.ccores.filter (fun c => !(s.part p).regions.testBit (c.1 / 4)) }
  t

/-- GEN raised, with every unit's agreement, on one record at a count of the management controller (R338, R437). -/
def AsidRec.raised (now : Nat) (r : AsidRec) : AsidRec :=
  { r with
    gen := (r.next.getD r.gen) + 1
    next := none
    busy := r.shared
    shoot := if r.shared then some { depth := 0, since := now, children := childrenOf 0 r.nshare, acks := [], silent := [], here := true } else none }

/-- What other packages are told of it: the answer to a shoot-down that it ends, and a shoot-down of a shared space (R340). -/
def AsidRec.raisedMsgs (p a : Nat) (r : AsidRec) : List PkgMsg :=
  (match r.shoot with | some x => x.answer p a | none => []) ++ (if r.shared then (childrenOf 0 r.nshare).map (fun c => .shoot p a c 1) else [])

/-- GEN raised on every record of a partition's table; where it wraps, no entry of the identifier is left (R339). -/
def State.raiseAll (s : State) (p : Nat) : State :=
  let x := s.part p
  let old := fun (a : Nat) => mgetD x.asids a AsidRec.reset
  let wraps := fun (a : Nat) => (old a).next.getD (old a).gen == 0xFFFF
  let s := s.setPart p { x with asids := (List.range 4096).map (fun a => (a, (old a).raised s.mboelCycle)) }
  let s := s.send (x.asids.flatMap (fun y => y.2.raisedMsgs p y.1))
  { s with
    tlbs := s.tlbs.map (fun u => (u.1, u.2.filter (fun e => !(e.part == p && wraps e.asid))))
    walks := s.walks.map (fun u => (u.1, u.2.filter (fun e => !(e.part == p && wraps e.asid)))) }

/-- EN bits of a partition's queues, as die × 64 + queue. -/
def Part.enabled (x : Part) : List Nat := x.dies.flatMap (fun d => (d.2.queues.filter (fun q => q.2.en)).map (fun q => d.1 * 64 + q.1))

def PDie.setEn (d : PDie) (die : Nat) (on : List Nat) : PDie := { d with queues := d.queues.map (fun q => (q.1, { q.2 with en := on.contains (die * 64 + q.1) })) }
def Part.setEn (x : Part) (on : List Nat) : Part := { x with dies := x.dies.map (fun d => (d.1, d.2.setEn d.1 on)) }

/-- No queue of a partition is BUSY (R316). -/
def Part.drained (x : Part) : Bool := x.dies.all (fun d => d.2.queues.all (fun q => !q.2.busy))

/-- QUIESCING, with EN = 0 on every queue. -/
def State.quiesce (s : State) (p : Nat) : State := s.setPart p { (s.part p).setEn [] with st := .quiescing }
/-- RUNNING again, with the EN bits as they were. -/
def State.requicken (s : State) (p : Nat) (on : List Nat) : State := s.setPart p { (s.part p).setEn on with st := .running }

/-! ### PCMD (R436) -/

def State.pcmdEnd (s : State) (status : Nat) : State := s.setPkg (fun k => { k with pcmd := { k.pcmd with busy := false, status := status } })

/-- The fields of the command as it starts (log 34, DEDUCED). -/
def State.pcmdBegin (s : State) (op first t regions rng : Nat) : State :=
  s.setPkg (fun k => { k with pcmd := { busy := true, status := 0, rng := rng, regions := regions, t := t, op := op, first := first, saved := [], since := s.mboelCycle } })

/-- A die's trace core goes to another partition, or to none, where its owner has come to an end or moved. -/
def State.retown (s : State) (f : Nat → Nat → Option Nat) : State :=
  [0, 1].foldl (fun s d => match listGet none s.pkg.town d with
    | some p => if f p d = some p then s else s.setOwner d (f p d)
    | none => s) s

/-- A partition as it is created over regions (R436). -/
def State.found (s : State) (t regions : Nat) : State :=
  let s := s.setPart t
    { Part.reset with st := .starting, regions := regions, aper := Config.aperTable t, naper := min (2 ^ 24) (Config.aperEntries t), fence := Config.fenceTable t,
                      cap := s.packageWord }
  let mine := fun (k n : Nat) => bit regions (2 * (k / n) + (if k % n < n / 2 then 0 else 1))
  { s with grove := s.grove.filter (fun e => !mine e.1 8192), coil := s.coil.filter (fun e => !mine e.1 1024) }

/-- CREATE T (log 61, DEDUCED), after the end of the bridge too (log 105, DESIGN CHOICE). -/
def State.pcmdCreate (s : State) (t regions : Nat) : State :=
  let s := s.pcmdBegin 1 0 t regions 0
  if (s.part t).st != .free then s.pcmdEnd 3
  else if !legalShape regions then s.pcmdEnd 2
  else if (List.range 4).any (fun r => bit regions r && (s.partOfRegion r).isSome) then s.pcmdEnd 3
  else ((((s.found t regions).zeroVaults regions).rebound).pcmdEnd 0)

def execPcmdCreate (t regions : Key) (s : State) : Host.Outcome State Fault Refusal :=
  .next (if !s.pcmdReady then s else s.pcmdCreate (t % 4) (regions % 16))

/-- EN bits of two partitions, those of the second marked. -/
def State.savedEn (s : State) (a b : Nat) : List Nat := (s.part a).enabled ++ (if a = b then [] else (s.part b).enabled.map (fun k => k + 1000))

/-- MERGE S, T up to the quiesce (R437) (log 61, DEDUCED). -/
def State.pcmdMerge (s : State) (a b : Nat) : State :=
  let s := s.pcmdBegin 2 a b 0 0
  if a = b || (s.part a).st != .running || (s.part b).st != .running then s.pcmdEnd 3
  else if !legalShape ((s.part a).regions ||| (s.part b).regions) then s.pcmdEnd 2
  else
    let on := s.savedEn a b
    let s := s.setPkg (fun k => { k with pcmd := { k.pcmd with saved := on } })
    (s.quiesce a).quiesce b

def execPcmdMerge (a b : Key) (s : State) : Host.Outcome State Fault Refusal := .next (if !s.pcmdReady then s else s.pcmdMerge (a % 4) (b % 4))

/-- A range with slices, or stacks, on both sides of a split. -/
def splitsRange (regions : Nat) (w : BitVec 128) : Bool :=
  let sl := slicesOf regions (mirDie w)
  let ks := (List.range 8).filter (fun k => mirBase w / 64 ≤ k && k ≤ mirLim w / 64)
  let some' := mirSlices w &&& sl != 0
  let all := mirSlices w &&& sl == mirSlices w
  (some' && !all) || (all && !ks.all (fun k => bit regions (k / 2))) || (!some' && ks.any (fun k => bit regions (k / 2)))

/-- SPLIT S, T up to the quiesce. -/
def State.pcmdSplit (s : State) (a b regions : Nat) : State :=
  let s := s.pcmdBegin 3 a b regions 0
  let r := (s.part a).regions
  if (s.part a).st != .running || (s.part b).st != .free then s.pcmdEnd 3
  else if !legalShape regions || regions &&& r != regions || !legalShape (r - regions) then s.pcmdEnd 2
  else if s.pkg.mir.any (fun x => decide (x.1 < 16) && mirV x.2 && mirPart x.2 == a && splitsRange regions x.2) then s.pcmdEnd 5
  else
    let on := s.savedEn a a
    (s.setPkg (fun k => { k with pcmd := { k.pcmd with saved := on } })).quiesce a

def execPcmdSplit (a b regions : Key) (s : State) : Host.Outcome State Fault Refusal :=
  .next (if !s.pcmdReady then s else s.pcmdSplit (a % 4) (b % 4) (regions % 16))

/-- STOP S up to the quiesce. -/
def State.pcmdStop (s : State) (a : Nat) : State :=
  let s := s.pcmdBegin 4 a 0 0 0
  if (s.part a).st = .free then s.pcmdEnd 3 else s.quiesce a

def execPcmdStop (a : Key) (s : State) : Host.Outcome State Fault Refusal := .next (if !s.pcmdReady then s else s.pcmdStop (a % 4))

/-- Sectors of a range leave the LLC, written back (R436). -/
def State.dropRange (s : State) (w : BitVec 128) : State :=
  if !mirV w then s
  else
    let out := fun (x : Nat) => !(isHbm (x * 1024) && mirBase w ≤ x * 1024 / 2 ^ 30 && x * 1024 / 2 ^ 30 ≤ mirLim w)
    { s with dirty := s.dirty.filter out, replicas := s.replicas.filter (fun k => out (k.1 % 2 ^ 40)), columns := s.columns.filter (fun c => out c.1) }

/-- RERANGE RNG: the value staged in MIRSTG. -/
def State.pcmdRerange (s : State) (rng : Nat) : State :=
  let s := s.pcmdBegin 5 0 0 0 rng
  let w := mgetD s.pkg.mir 16 0
  if !s.rangeLegal rng w then s.pcmdEnd 5
  else (((s.dropRange (mgetD s.pkg.mir rng 0)).dropRange w).setPkg (fun k => { k with mir := mset k.mir rng w })).pcmdEnd 0

def execPcmdRerange (rng : Key) (s : State) : Host.Outcome State Fault Refusal := .next (if !s.pcmdReady then s else s.pcmdRerange (rng % 16))

/-! ### After the quiesce (R436, R437) -/

/-- MERGE: what was T's is S's. -/
def State.mergeEnd (s : State) (a b : Nat) (on : List Nat) : State :=
  let r := (s.part a).regions ||| (s.part b).regions
  let s := s.mapMir (fun w => if mirPart w = b then setMirPart w a else w)
  let s := [0, 1].foldl (fun s d => if bits r (2 * d) 2 = 0 then s else (s.setLsl a d (slicesOf r d)).setLsl b d 0) s
  let s := ((s.zeroVaults r).raiseAll a).raiseAll b
  let x := s.part a
  let y := s.part b
  let s := s.setPart a { x with regions := r, st := .running, cap := s.packageWord }
  let s := s.setPart b
    { y with st := .free, regions := 0, asids := y.asids.map (fun z => (z.1, { z.2 with en := false })),
             dies := y.dies.map (fun d => (d.1, { d.2 with queues := [], rr := [], fq := Ring.reset })) }
  let s : State := { s with
    tlbs := s.tlbs.map (fun u => (u.1, u.2.filter (fun e => e.part != b))), walks := s.walks.map (fun u => (u.1, u.2.filter (fun e => e.part != b))), coil := s.coil.map (fun c => (c.1, if c.2.part = b then { c.2 with part := a } else c.2)),
    grove := s.grove.map (fun t => (t.1, if t.2.part = b then { t.2 with part := a } else t.2)),
    decs := s.decs.map (fun d => (d.1, if d.2.part = b then { d.2 with part := a } else d.2))
    coilq := s.coilq.map (fun c => (c.1, if c.2.part = b then { c.2 with part := a } else c.2)) }
  let s := [0, 1].foldl (fun s d => match listGet none s.pkg.town d with
    | some p => if p = a || p = b then { s.setOwner d none with pkg := { s.pkg with town := listSet s.pkg.town d (some a) } } else s
    | none => s) s
  ((s.requicken a on).rebound).pcmdEnd 0

/-- The partition that holds the region of a numbered entry: `n` entries a die, the lower half its west region's. -/
def State.holderOf (s : State) (k n p : Nat) : Nat := (s.partOfRegion (2 * (k / n) + (if k % n < n / 2 then 0 else 1))).getD p

/-- SPLIT: regions of S are T's. -/
def State.splitEnd (s : State) (a b regions : Nat) (on : List Nat) : State :=
  let old := (s.part a).regions
  let s := s.mapMir (fun w => if mirV w && mirPart w = a && mirSlices w &&& slicesOf regions (mirDie w) == mirSlices w then setMirPart w b else w)
  let s := [0, 1].foldl (fun s d => s.setLsl a d (s.lsl a d &&& slicesOf (old - regions) d)) s
  let s := (s.zeroVaults old).raiseAll a
  let x := s.part a
  let held := fun (d : Nat) => bits (old - regions) (2 * d) 2 != 0
  let s := s.setPart a { x with regions := old - regions, st := .running, dies := x.dies.filter (fun d => held d.1), cap := s.packageWord }
  let s := s.setPart b
    { Part.reset with st := .starting, regions := regions, aper := Config.aperTable b, naper := min (2 ^ 24) (Config.aperEntries b), fence := Config.fenceTable b,
                      cap := s.packageWord }
  let s : State := { s with
    coil := s.coil.map (fun c => (c.1, if c.2.part = a then { c.2 with part := s.holderOf c.1 1024 a } else c.2)),
    grove := s.grove.map (fun t => (t.1, if t.2.part = a then { t.2 with part := s.holderOf t.1 8192 a } else t.2)) }
  let s := s.retown (fun p d => if p = a && !held d then none else some p)
  ((s.requicken a on).rebound).pcmdEnd 0

/-- STOP: the regions are free. -/
def State.stopEnd (s : State) (a : Nat) : State :=
  let r := (s.part a).regions
  let s := (s.clearPart a).zeroVaults r
  let s := s.mapMir (fun w => if mirPart w = a then clearMirV w else w)
  let s := (s.setLsl a 0 0).setLsl a 1 0
  let s := s.setPart a Part.reset
  let s := s.retown (fun p _ => if p = a then none else some p)
  s.rebound.pcmdEnd 0

/-- The command's partitions are drained. -/
def State.quiet (s : State) : Bool :=
  let c := s.pkg.pcmd
  c.busy && (s.part c.first).drained && (c.op != 2 || (s.part c.t).drained)

/-- The command goes on after its quiesce. -/
def State.pcmdGoOn (s : State) : State :=
  let c := s.pkg.pcmd
  if c.op = 2 then s.mergeEnd c.first c.t (c.saved.filter (fun k => decide (k < 1000)))
  else if c.op = 3 then s.splitEnd c.first c.t c.regions c.saved
  else s.stopEnd c.first

/-- QUIESCE_DRAINED. -/
def execQuiesceDrained (s : State) : Host.Outcome State Fault Refusal := .next (if s.quiet then s.pcmdGoOn else s)

/-- QBOUND of the management controller's cycles have passed since the command began (R437). -/
def State.quiesceDue (s : State) : Bool := decide (s.pkg.qbound.toNat ≤ s.mboelCycle - s.pkg.pcmd.since)

/-- QUIESCE_TIMEOUT: QBOUND is over with a queue still BUSY; STOP has no bound. -/
def execQuiesceTimeout (s : State) : Host.Outcome State Fault Refusal :=
  .next
    (let c := s.pkg.pcmd
     if !c.busy || c.op = 4 || !s.quiesceDue then s
     else if s.quiet then s.pcmdGoOn
     else
       let s := s.requicken c.first (c.saved.filter (fun k => decide (k < 1000)))
       let s := if c.op = 2 then s.requicken c.t ((c.saved.filter (fun k => decide (k ≥ 1000))).map (fun k => k - 1000)) else s
       s.pcmdEnd 4)

/-- PARTITION_BOOT: the partition's control cores have booted. -/
def execPartitionBoot (p : Key) (s : State) : Host.Outcome State Fault Refusal :=
  .next (if (s.part p).st = .starting then s.setPart p { s.part p with st := .running } else s)

/-! ### Trace owners (R439) -/

/-- The owner of a die that a value of TOWN names. -/
def townOf (v d : Nat) : Option Nat := if bit v (4 * d + 2) then some (bits v (4 * d) 2) else none

/-- TOWN written; a value that names an owner without cores on its die is discarded. -/
def State.writeTown (s : State) (v : Nat) : State :=
  if [0, 1].all (fun d => match townOf v d with | some p => s.mayOwn p d | none => true) then
    (s.setOwner 0 (townOf v 0)).setOwner 1 (townOf v 1)
  else s

/-- TRACE_OWNER: Mboel's management command writes TOWN. -/
def execTraceOwner (v : W64) (s : State) : Host.Outcome State Fault Refusal := .next (if s.pkg.serves then s.writeTown v.toNat else s)

end Sys2Proof.Machine
end

