-- ==== Sys2Proof/Machine/Quarter.lean ====
section
/-! DEFINITION. What a quarter does of its own accord: path spills and fills (R256), grants of GROW (R144), boosts (R260), interrupted chains (R261), the
watchdog check (R263) and reports of long handlers (R351). -/

namespace Sys2Proof.Machine

/-! ### Fills (R256) -/

def PState.isBlockedOnly : PState → Bool
  | .blocked _ => true
  | _ => false

/-- The oldest ready spilled path of a group. -/
def Group.oldestSpilled (g : Group) : Option (Nat × Path) :=
  minBy? (fun x => x.2.stamp) (g.paths.filter (fun x => x.2.entry.isNone && x.2.st == .ready))

/-- The table entry a filled path takes, and the path that leaves it. -/
def Group.fillEntry (g : Group) : Option (Nat × Option Nat) :=
  match g.freeEntry with
  | some e => some (e, none)
  | none => ((g.lowest (fun p => p.st.isParked)).or (g.lowest (fun p => p.st.isBlockedOnly))).map (fun x => (x.1, some x.2))

/-- PATH_FILL: a path that comes back takes the lowest free index, or exchanges with a parked or blocked one, which spills. -/
def execPathFill (gk : Key) (s : State) : Host.Outcome State Fault Refusal :=
  .next
    (match mget? s.groups gk with
     | none => s
     | some g =>
       match g.oldestSpilled, g.fillEntry with
       | some (pid, _), some (e, none) => s.modPath gk pid (fun p => { p with entry := some e })
       | some (pid, _), some (e, some v) =>
         ((s.pathEvent gk v 0x8003 e 0).modPath gk v (fun p => { p with entry := none })).modPath gk pid (fun p => { p with entry := some e })
       | _, _ => s)

/-! ### GROW (R144) -/

/-- GROW_GRANT: the oldest request is granted when it fits, or leaves with REG_RANGE when the allocation has grown too far meanwhile. -/
def execGrowGrant (q : Key) (s : State) : Host.Outcome State Fault Refusal :=
  .next
    (let x := s.quarter q
     match x.growq with
     | [] => s
     | r :: l =>
       let out := s.setQuarter q { x with growq := l }
       match mget? s.groups r.gk with
       | none => out
       | some g =>
         if g.blocks + r.n > 32 then out.trapWait r.gk r.pid ⟨.regRange, 8 * (g.blocks + r.n) - 1⟩
         else if g.width * r.n ≤ s.freeBlocks q then (out.modGroup r.gk (fun g => g.grow r.n)).release r.gk r.pid
         else s)

/-! ### Boosts and chains (R260, R261) -/

/-- PATH_BOOST: a path ready for 4,096 cycles. -/
def execPathBoost (gk pid : Key) (s : State) : Host.Outcome State Fault Refusal :=
  .next
    (match mget? s.groups gk with
     | none => s
     | some g =>
       match mget? g.paths pid with
       | none => s
       | some p => if p.st = .ready && g.readyFor pid (s.coreCycle (coreOf gk)) p ≥ 4096 then s.modPath gk pid (fun p => { p with boosted := true }) else s)

/-- CHAIN_INTERRUPT: the next member of the chain in progress has not been ready for 4,096 cycles (R261): its path waits, or has still to hear from a peer. -/
def execChainInterrupt (q : Key) (s : State) : Host.Outcome State Fault Refusal :=
  .next
    (match (s.quarter q).chain with
     | none => s
     | some k =>
       match mget? s.groups k.gk with
       | none => s
       | some g =>
         match mget? g.paths k.pid with
         | none => s
         | some p =>
           if s.inside k k.gk k.pid && p.st != .ready && p.noCut != some k.head && s.coreCycle (coreOf k.gk) - k.since ≥ 4096 then
             let now := s.coreCycle (coreOf k.gk)
             let s := match p.st with | .waiting (.send id) => { s with sends := merase s.sends id } | _ => s
             (s.interrupt k.gk k.pid).modPath k.gk k.pid (fun p =>
               { (match p.st with | .waiting _ => p.wake now false | _ => p) with noCut := some k.head })
           else s)

/-! ### The watchdog (R263) -/

/-- Another resident group of the quarter has a path that has been ready for 65,536 cycles without an issue of its group. -/
def State.starves (s : State) (gk : Nat) : Bool :=
  let now := s.coreCycle (coreOf gk)
  s.groups.any (fun x => quarterOf x.1 == quarterOf gk && x.1 != gk && decide (now - x.2.lastIssue ≥ 65536)
    && x.2.paths.any (fun y => x.2.runs y.1 && y.2.st == .ready && decide (now - y.2.since ≥ 65536)))

/-- The path that a watchdog trap strikes: the one that issued last, or another that can go on when that one is blocked, parked or gone (log 54, DEDUCED). -/
def Group.struck (g : Group) : Option Nat :=
  let goes := fun (p : Path) => match p.st with | .ready => true | .waiting _ => true | _ => false
  match mget? g.paths g.lastPid with
  | some p => if goes p then some g.lastPid else (g.paths.find? (fun x => goes x.2)).map (fun x => x.1)
  | none => (g.paths.find? (fun x => goes x.2)).map (fun x => x.1)

/-- WATCHDOG: the check of a group whose count stands at 2^20 or a further multiple of 2^16; where no path can take the trap, the first to be chosen will (log
54, DEDUCED). -/
def execWatchdog (gk : Key) (s : State) : Host.Outcome State Fault Refusal :=
  .next
    (match mget? s.groups gk with
     | none => s
     | some g =>
       if g.watchdog ≥ 2 ^ 20 && g.watchdog % 2 ^ 16 = 0 && g.handler.isNone && !g.dead && !g.stopped && s.starves gk then
         match (if g.park.isSome then none else g.struck) with
         | none => s.modGroup gk (fun g => { g with wdDue := true })
         | some pid => s.trapAt gk pid ⟨.watchdog, g.watchdog⟩ g.lastPc (s.pcOf gk pid)
       else s)

/-! ### Long handlers (R351) -/

/-- LONG_HANDLER: one record of kind 11 for a handler beyond 1,000,000 cycles. -/
def execLongHandler (gk : Key) (s : State) : Host.Outcome State Fault Refusal :=
  .next
    (match mget? s.groups gk with
     | none => s
     | some g =>
       match g.handler with
       | none => s
       | some h =>
         if !h.reported && s.coreCycle (coreOf gk) - h.since > 1000000 then
           let mask := ((mget? g.paths h.pid).map (fun p => p.mask)).getD 0
           let (_, s) := s.groupFault gk 11 0 mask (s.pcOf gk h.pid) 0
           s.modGroup gk (fun g => { g with handler := some { h with reported := true } })
         else s)

end Sys2Proof.Machine
end

