-- ==== Sys2Proof/Machine/Reduce.lean ====
section
/-! DEFINITION. Reductions, scans, sampling, the random stream and vocabulary masking (R228 to R232). -/

namespace Sys2Proof.Machine

/-! ### Nodes of the fixed trees (R74, R75, R228) -/

def addNode (t : RTy) (a b : Nat) : Nat :=
  match t with
  | .f32 => fadd a (BitVec.ofNat 32 b)
  | _ => (a + b) % 2 ^ 32

def pickNode (wantMax : Bool) (t : RTy) (a b : Nat) : Nat :=
  match t with
  | .f32 => (fMinMax false wantMax (BitVec.ofNat 32 a) (BitVec.ofNat 32 b)).toNat
  | .i32 => if wantMax then greater true 32 a b else lesser true 32 a b
  | .n32 => if wantMax then max a b else min a b

/-- REDT: the tree of R74 over the acting lanes, its root written in each of them. -/
def redt (i : Instr) (f : Nat → Nat → Nat) : State → Host.Outcome State Fault Refusal :=
  perform i noDetail noPriv (fun c =>
    let r := (tree f 7 ((lanes c.acts).map (c.val c.o.a 1))).headD 0
    c.result 1 (fun _ => r))

def execRedtAdd (t : RTy) (o : Ops) : State → Host.Outcome State Fault Refusal := redt (.redtAdd t o) (addNode t)
def execRedtMax (t : RTy) (o : Ops) : State → Host.Outcome State Fault Refusal := redt (.redtMax t o) (pickNode true t)
def execRedtMin (t : RTy) (o : Ops) : State → Host.Outcome State Fault Refusal := redt (.redtMin t o) (pickNode false t)

/-- One step of the scan of R75 at distance `d`: each element joins the one `d` before it, both as the previous step left them. -/
def scanStep (f : Nat → Nat → Nat) (d : Nat) (l : List Nat) : List Nat := l.take d ++ List.zipWith f (l.drop d) l

/-- The inclusive scan of R75. -/
def scanAll (f : Nat → Nat → Nat) : Nat → Nat → List Nat → List Nat
  | 0, _, l => l
  | n + 1, d, l => if d < l.length then scanAll f n (2 * d) (scanStep f d l) else l

/-- The scan's value for a lane of the acting lanes. -/
def Ctx.scanned (c : Ctx) (f : Nat → Nat → Nat) : List (Nat × Nat) :=
  (lanes c.acts).zip (scanAll f 7 1 ((lanes c.acts).map (c.val c.o.a 1)))

def execScan (t : RTy) (o : Ops) : State → Host.Outcome State Fault Refusal :=
  perform (.scan t o) noDetail noPriv (fun c =>
    let ps := c.scanned (addNode t)
    c.result 1 (fun l => match ps.find? (fun x => x.1 == l) with | some x => x.2 | none => 0))

/-! ### SAMPLE (R229) -/

/-- The lane that SAMPLE chooses from the prefix sums of the acting lanes and `u`. -/
def sampleLane (ps : List (Nat × Nat)) (u : Nat) : Nat :=
  let un := f32 (BitVec.ofNat 32 u)
  match ps.getLast? with
  | none => 0xFFFFFFFF
  | some (last, w) =>
    let t := f32 (BitVec.ofNat 32 w)
    if un.isNaN || un.lt (.zero false) || !(un.lt one) || !((Num.zero false).lt t) then 0xFFFFFFFF
    else
      let x := fmul32 un t
      match ps.find? (fun p => x.lt (f32 (BitVec.ofNat 32 p.2))) with
      | some p => p.1
      | none => last

def execSample (o : Ops) : State → Host.Outcome State Fault Refusal :=
  perform (.sample o) noDetail noPriv (fun c =>
    let s := sampleLane (c.scanned (addNode .f32)) (c.src o.b true false 1 c.lead)
    c.result 1 (fun _ => s))

/-! ### The stream (R230, R231) -/

def execRngk (o : Ops) : State → Host.Outcome State Fault Refusal :=
  perform (.rngk o) noDetail noPriv (fun c => c.once (fun c =>
    let k := BitVec.ofNat 64 (c.val o.a 2 c.lead)
    let n := BitVec.ofNat 32 (c.src o.b true false 1 c.lead)
    c.s.modGroup c.gk (fun g => { g with key := k, ctr := n })))

/-- Results drawn from the stream; the counter advances only when a lane acts (R231). -/
def Ctx.drawing (c : Ctx) (k : Nat) (f : Nat → Nat) : State :=
  let s := c.write 1 f
  c.advance (if (lanes c.acts).isEmpty then s else s.drawn c.gk k)

/-- floor(word / 2^8) × 2^−24. -/
def unit24 (w : Nat) : Num := .ofInt (w / 256) (-24)

def execRngu (t : UTy) (o : Ops) : State → Host.Outcome State Fault Refusal :=
  perform (.rngu t o) noDetail noPriv (fun c =>
    c.drawing 1 (fun l => match t with | .n32 => c.stream 0 l | .f32 => (rne32 (unit24 (c.stream 0 l))).toNat))

/-- The normal variate of two words (R231). -/
def normal (w0 w1 : Nat) : Nat :=
  let l := log2e32 (.ofInt (w0 / 256 + 1) (-24))
  let x := fmul32 (fmul32 l ln2c) (.ofInt (-2))
  (rne32 ((r32 x.sqrt).mul (cos32 ((unit24 w1).scale 1)))).toNat

def execRngn (o : Ops) : State → Host.Outcome State Fault Refusal :=
  perform (.rngn o) noDetail noPriv (fun c => c.drawing 2 (fun l => normal (c.stream 0 l) (c.stream 1 l)))

/-! ### VMASK (R232) -/

/-- The scratch address of a lane's mask byte, and the bit in it. -/
def Ctx.maskByte (c : Ctx) (l : Nat) : Nat × Nat :=
  let t := (c.src c.cSel true false 1 c.lead + l) % 2 ^ 32
  (c.val c.o.b 1 c.lead + t / 8, t % 8)

def execVmask (o : Ops) : State → Host.Outcome State Fault Refusal :=
  perform (.vmask o) noDetail noPriv (fun c =>
    let ls := lanes c.acts
    let at? := fun l => match c.scratchPlace (c.maskByte l).1 1 with | .at a _ _ => some a | _ => none
    match ls.find? (fun l => (at? l).isNone) with
    | some l => c.trap ⟨.prot, (c.maskByte l).1⟩
    | none =>
      match ls.find? (fun l => match at? l with | some a => (c.s.poisoned a 1).isSome | none => false) with
      | some l => c.trap ⟨.mchk, (c.maskByte l).1⟩
      | none =>
        let own := fun (x : Nat × Access) => x.2.gk == c.gk && ls.any (fun l => match at? l with | some a => rangesMeet x.2.loc x.2.len a 1 | none => false)
        let w := (c.s.accesses.filter own).map (·.1)
        if !w.isEmpty then c.wait (.accesses w)
        else
          c.result 1 (fun l =>
            match at? l with
            | some a => if bit (c.s.byte a).toNat (c.maskByte l).2 then c.val o.a 1 l else 0xFF800000
            | none => 0xFF800000))

end Sys2Proof.Machine
end

