-- ==== Sys2Proof/Machine/Crypto.lean ====
section
/-! DEFINITION. What attestation computes (R445 to R447): SHA-256, HMAC and HKDF with it (RFC 5869), and ECDSA on P-256 with the k of RFC 6979. -/

namespace Sys2Proof

/-- The number whose bytes, most significant first, are these (log 66, DEDUCED). -/
def beNat (bs : List Byte) : Nat := bs.foldl (fun n b => 256 * n + b.toNat) 0

/-- The `n` bytes of a number, most significant first. -/
def natBe (n x : Nat) : List Byte := (natLe n x).reverse

/-- The bytes of a text. -/
def textBytes (t : String) : List Byte := t.toList.map (fun c => BitVec.ofNat 8 c.toNat)

/-! ### SHA-256 (FIPS 180-4) -/

/-- The primes below 312, of which there are 64. -/
def shaPrimes : List Nat :=
  let small := [2, 3, 5, 7, 11, 13, 17]
  small ++ (List.range 312).filter (fun n => decide (17 < n) && small.all (fun d => n % d != 0))

/-- `r` with the lower `b` bits added, from the highest on, that keep its power `e` within `n`: from 0, the root of `n` rounded down. -/
def shaRoot (e n : Nat) : Nat → Nat → Nat
  | 0, r => r
  | b + 1, r => shaRoot e n b (if (r + 2 ^ b) ^ e ≤ n then r + 2 ^ b else r)

/-- The first 32 bits of the fraction of a prime's root: FIPS 180-4 takes its constants from these. -/
def rootFraction (e p : Nat) : W32 := BitVec.ofNat 32 (shaRoot e (p * 2 ^ (32 * e)) 35 0)

/-- The 64 round constants, from cube roots. -/
def shaK : List W32 := shaPrimes.map (rootFraction 3)

/-- The starting hash value, from the square roots of the first eight primes. -/
def shaStart : List W32 := (shaPrimes.take 8).map (rootFraction 2)

/-- The sixteen words of a block. -/
def shaWords (bs : List Byte) : List W32 := (List.range 16).map (fun i => BitVec.ofNat 32 (beNat ((bs.drop (4 * i)).take 4)))

/-- The exclusive or of a word turned right by each of these counts. -/
def turnedXor (x : W32) (ks : List Nat) : W32 := ks.foldl (fun y k => y ^^^ x.rotateRight k) 0

/-- The message schedule: `w` holds the words so far, oldest first, and each further one is appended. -/
def shaSchedule : Nat → List W32 → List W32
  | 0, w => w
  | n + 1, w =>
    let back := fun (k : Nat) => listGet (0 : W32) w (w.length - k)
    let far := turnedXor (back 15) [7, 18] ^^^ (back 15 >>> 3)
    let near := turnedXor (back 2) [17, 19] ^^^ (back 2 >>> 10)
    shaSchedule n (w ++ [back 16 + back 7 + far + near])

/-- A round on the eight working variables, in the order of their letters: each moves on by one place, the fourth with the round's sum added. -/
def shaRound (v : List W32) (kw : W32) : List W32 :=
  let x := listGet (0 : W32) v
  let choice := x 6 ^^^ (x 4 &&& (x 5 ^^^ x 6))
  let majority := (x 0 &&& (x 1 ||| x 2)) ||| (x 1 &&& x 2)
  let sum := x 7 + kw + choice + turnedXor (x 4) [6, 11, 25]
  ((sum + majority + turnedXor (x 0) [2, 13, 22]) :: v.take 7).set 4 (x 3 + sum)

def shaBlock (h : List W32) (bs : List Byte) : List W32 :=
  let w := shaSchedule 48 (shaWords bs)
  let v := (List.zipWith (· + ·) shaK w).foldl shaRound h
  List.zipWith (· + ·) h v

def shaBlocks : Nat → List Byte → List W32 → List W32
  | 0, _, h => h
  | n + 1, bs, h => shaBlocks n (bs.drop 64) (shaBlock h bs)

def sha256 (m : List Byte) : List Byte :=
  let z := (119 - m.length % 64) % 64
  let bs := m ++ [0x80] ++ List.replicate z 0 ++ natBe 8 (8 * m.length)
  (shaBlocks (bs.length / 64) bs shaStart).flatMap (fun w => natBe 4 w.toNat)

/-! ### HMAC and HKDF -/

def hmac (key m : List Byte) : List Byte :=
  let k := if key.length > 64 then sha256 key else key
  let k := k ++ List.replicate (64 - k.length) 0
  sha256 (k.map (· ^^^ 0x5c) ++ sha256 (k.map (· ^^^ 0x36) ++ m))

/-- Blocks `i` and on of HKDF's expansion, `t` the block before. -/
def hkdfBlocks (prk info : List Byte) : Nat → Nat → List Byte → List Byte
  | 0, _, _ => []
  | n + 1, i, t =>
    let t := hmac prk (t ++ info ++ [BitVec.ofNat 8 i])
    t ++ hkdfBlocks prk info n (i + 1) t

def hkdf (ikm salt info : List Byte) (len : Nat) : List Byte := (hkdfBlocks (hmac salt ikm) info ((len + 31) / 32) 1 []).take len

/-! ### P-256 -/

def ecP : Nat := 0xffffffff00000001000000000000000000000000ffffffffffffffffffffffff
def ecN : Nat := 0xffffffff00000000ffffffffffffffffbce6faada7179e84f3b9cac2fc632551
def ecG : Option (Nat × Nat) :=
  some (0x6b17d1f2e12c4247f8bce6e563a440f277037d812deb33a0f4a13945d898c296, 0x4fe342e2fe1a7f9b8ee7eb4a7c0f9e162bce33576b315ececbb6406837bf51f5)

/-- b^e modulo m, for an exponent of at most `f` bits. -/
def modPow (m b : Nat) : Nat → Nat → Nat
  | 0, _ => 1 % m
  | f + 1, e =>
    let h := modPow m (b * b % m) f (e / 2)
    if e % 2 = 1 then b * h % m else h

/-- The inverse modulo a prime of at most 256 bits. -/
def modInv (m b : Nat) : Nat := modPow m (b % m) 256 (m - 2)
def modSub (m a b : Nat) : Nat := (a + (m - b % m)) % m

/-- The point with slope `l` through two points. -/
def ecChord (l x1 y1 x2 : Nat) : Option (Nat × Nat) :=
  let x := modSub ecP (modSub ecP (l * l % ecP) x1) x2
  some (x, modSub ecP (l * modSub ecP x1 x % ecP) y1)

def ecAdd : Option (Nat × Nat) → Option (Nat × Nat) → Option (Nat × Nat)
  | none, b => b
  | a, none => a
  | some (x1, y1), some (x2, y2) =>
    if x1 = x2 then
      if (y1 + y2) % ecP = 0 then none
      else ecChord (modSub ecP (3 * x1 * x1 % ecP) 3 * modInv ecP (2 * y1) % ecP) x1 y1 x2
    else ecChord (modSub ecP y2 y1 * modInv ecP (modSub ecP x2 x1) % ecP) x1 y1 x2

/-- k times a point, for a k of at most `f` bits. -/
def ecMul (q : Option (Nat × Nat)) : Nat → Nat → Option (Nat × Nat)
  | 0, _ => none
  | f + 1, k =>
    let h := ecMul (ecAdd q q) f (k / 2)
    if k % 2 = 1 then ecAdd q h else h

/-! ### ECDSA with the k of RFC 6979 -/

/-- The signature of a digest with one k, where that k gives one. -/
def ecdsaTry (d z k : Nat) : Option (Nat × Nat) :=
  if k = 0 || k ≥ ecN then none
  else
    match ecMul ecG 256 k with
    | none => none
    | some (x, _) =>
      let r := x % ecN
      let s := modInv ecN k * ((z + r * d) % ecN) % ecN
      if r = 0 || s = 0 then none else some (r, s)

/-- RFC 6979 3.2 step h, from K and V on. -/
def ecdsaLoop (d z : Nat) : Nat → List Byte → List Byte → Nat × Nat
  | 0, _, _ => (0, 0)
  | n + 1, k, v =>
    let v := hmac k v
    match ecdsaTry d z (beNat v) with
    | some x => x
    | none =>
      let k := hmac k (v ++ [0])
      ecdsaLoop d z n k (hmac k v)

/-- r and s for a private scalar and a message (R445). The loop tries at most 256 values of k (log 66, DEDUCED). -/
def ecdsaSign (d : Nat) (m : List Byte) : Nat × Nat :=
  let z := beNat (sha256 m) % ecN
  let x := natBe 32 d ++ natBe 32 z
  let v := List.replicate 32 1
  let k := hmac (List.replicate 32 0) (v ++ [0] ++ x)
  let v := hmac k v
  let k := hmac k (v ++ [1] ++ x)
  ecdsaLoop d z 256 k (hmac k v)

end Sys2Proof
end

