-- ==== Sys2Proof/Machine/Start.lean ====
section
/-! DEFINITION. Starting (R443, R444), measurement and keys (R445, R446), the capability list's counts (R12, R441) and attestation reports (R447). -/

namespace Sys2Proof.Machine

/-! ### What a start keeps -/

/-- The package after a reset: BOOTSTAT, the repair map with the spares it has used, Mboel's flash and the power are kept; a warm start keeps the bridge's
training as well, and a cold one assigns the regions of the coil engines (R373). -/
def Package.restart (k : Package) (cold : Bool) (now : Nat) : Package :=
  { Package.reset with
    phase := 1, cause := k.cause, safe := k.safe, cfail := k.cfail, wfail := k.wfail, warm := !cold, starting := true, phaseAt := now, trained := k.trained,
    lanes := k.lanes, laneSpares := k.laneSpares, bridgeDown := k.bridgeDown, coreSpares := k.coreSpares, retire := k.retire,
    rowSpares := k.rowSpares, chanSpares := k.chanSpares, sramSpares := k.sramSpares, repairs := k.repairs, portsDown := k.portsDown, ccoresDown := k.ccoresDown,
    firmware := k.firmware, sites := k.sites,
    coilAt := if cold then [Config.coilRegion 0, Config.coilRegion 1] else k.coilAt, powered := true }

/-- Core positions without a site. -/
def State.goneCores (s : State) : List Nat := mkeys s.cores (fun _ c => c.gone)
def goneMap (l : List Nat) : Map Core := l.foldl (fun m c => mset m c { Core.idle with gone := true }) []

/-- An island without power, and the islands of positions without a site (R26). -/
def Island.off : Island := { freq := 0, volt := 0, on := false }
def goneIslands (l : List Nat) : Map Island := l.foldl (fun m c => mset m c Island.off) []

/-- The package reset and a start begun at phase 1: vaults and banks are zero, HBM4 is kept until phase 5 (R273, R443) (log 65, DEDUCED). -/
def State.restart (s : State) (cold : Bool) : State :=
  { State.reset with
    tick := s.tick
    agenda := s.agenda
    nextId := s.nextId
    mem := s.mem.filter (fun c => isHbm c.1)
    poison := s.poison.filter (fun l => isHbm (32 * l))
    cores := goneMap s.goneCores
    pkg := { s.pkg.restart cold s.mboelCycle with islands := goneIslands s.goneCores } }

/-! ### Measurement and keys -/

def fwReset (kind : Nat) : Firmware := { active := false, a := Config.firmwareImage kind 0, b := Config.firmwareImage kind 1 }
def Package.fw (k : Package) (kind : Nat) : Firmware := mgetD k.firmware kind (fwReset kind)
/-- The image in force. -/
def Firmware.image (f : Firmware) : List Byte := if f.active then f.b else f.a

/-- MEAS ← SHA-256(MEAS ‖ SHA-256(image)) (R446). -/
def Package.extend (k : Package) (n : Nat) (image : List Byte) : Package :=
  { k with meas := listSet k.meas n (sha256 (listGet [] k.meas n ++ sha256 image)) }

/-- Phase 6. -/
def Package.measure (k : Package) : Package :=
  let k := ((k.extend 0 (k.fw 0).image).extend 1 (k.fw 1).image).extend 2 (k.fw 2).image
  (k.extend 3 (Config.fuseImage 0)).extend 3 (Config.repairImage k.repairs)

/-- A private scalar of R445 from its info: UDS and z are read most significant byte first. -/
def keyOf (info : List Byte) : Nat := 1 + beNat (hkdf (natBe 32 (Config.uds % 2 ^ 256)) Config.serial info 40) % (ecN - 1)
/-- IDK, whose certificate has no register (log 67, DEDUCED). -/
def identityKey : Nat := keyOf (textBytes "YQ id")
/-- AK, from MEAS0 as it is. -/
def Package.attestKey (k : Package) : Nat := keyOf (textBytes "YQ ak" ++ listGet [] k.meas 0)

/-! ### The phases -/

/-- What the phase that runs does. -/
def State.phaseWork (s : State) : State :=
  let k := s.pkg
  match k.phase with
  | 4 =>
    if k.warm then s
    else
      let out := s.goneCores ++ k.retire
      { s with cores := goneMap out, pkg := { k with retire := [], islands := goneIslands out } }
  | 5 => if k.warm then s else { s with mem := s.mem.filter (fun c => !isHbm c.1), poison := s.poison.filter (fun l => !isHbm (32 * l)),
                                        pkg := { k with lanes := [64, 64], bridgeDown := false, trained := k.repairs } }
  | 6 => { s with pkg := k.measure }
  | 7 => { s with pkg := { k with wfail := 0, cfail := 0, starting := false } }
  | _ => s

/-- A start has failed (R444): warm again after a first failed warm start, cold after a second; after a third failed cold start, safe mode (log 63, DESIGN CHOICE). -/
def State.startFailed (s : State) : State :=
  let s := s.setPkg (fun k => { k with cause := k.phase })
  if s.pkg.warm then
    if s.pkg.wfail = 0 then (s.setPkg (fun k => { k with wfail := 1 })).restart false
    else (s.setPkg (fun k => { k with wfail := min 3 (k.wfail + 1) })).restart true
  else
    let n := min 3 (s.pkg.cfail + 1)
    let s := s.setPkg (fun k => { k with cfail := n })
    if n ≥ 3 then s.setPkg (fun k => { k with safe := true, starting := false }) else s.restart true

/-- Bound of a phase, in cycles of the management controller (R443). -/
def phaseBound : Nat → Nat
  | 1 => 1000000
  | 2 => 10000000
  | 3 => 60000000000
  | 4 => 100000000
  | 5 => 30000000000
  | 6 => 1000000000
  | _ => 10000000

/-- The phase after a phase: a warm start skips phase 3. -/
def nextPhase (warm : Bool) (p : Nat) : Nat := if warm && p = 2 then 4 else min 7 (p + 1)

/-- The phase that runs has exceeded its bound. -/
def State.phaseLate (s : State) : Bool := decide (phaseBound s.pkg.phase < s.mboelCycle - s.pkg.phaseAt)

/-- A start in progress completes a phase and reaches the next, or fails where the phase has exceeded its bound (log 63, DESIGN CHOICE). -/
def State.startOn (s : State) : State :=
  if !s.pkg.starting then s
  else if s.phaseLate then s.startFailed
  else s.phaseWork.setPkg (fun k => { k with phase := nextPhase k.warm s.pkg.phase, phaseAt := s.mboelCycle })

/-- COLD_START: any reset but WARM's. In safe mode only START leaves it. -/
def execColdStart (s : State) : Host.Outcome State Fault Refusal := .next (if s.pkg.safe then s else s.restart true)

/-- The training records may be used: their digest and serial match (log 64, DEDUCED), and the repair map is as it was when they were made (R443). -/
def Package.warmOk (k : Package) (recordsValid : Bool) : Bool := recordsValid && decide (k.repairs = k.trained)

/-- WARM: with valid training records a warm start, else a cold one. -/
def execWarm (recordsValid : Bool) (s : State) : Host.Outcome State Fault Refusal :=
  .next (if !s.pkg.serves then s else s.restart (!s.pkg.warmOk recordsValid))

/-- START. -/
def execStart (s : State) : Host.Outcome State Fault Refusal :=
  .next (if !s.pkg.powered then s else (s.setPkg (fun k => { k with cfail := 0, safe := false })).restart true)

/-- START_PHASE_TIMEOUT: the phase that runs fails, or exceeds its bound. -/
def execStartPhaseTimeout (s : State) : Host.Outcome State Fault Refusal := .next (if s.pkg.starting then s.startFailed else s)

/-- POWER_FAIL: everything stops and is lost but what fuses and flash hold (log 65, DEDUCED). -/
def execPowerFail (s : State) : Host.Outcome State Fault Refusal :=
  .next
    (let t := s.restart true
     { t with
       mem := []
       poison := []
       pkg := { t.pkg with phase := 0, cause := 0, safe := false, cfail := 0, wfail := 0, warm := false, starting := false, coilAt := [], powered := false } })

/-! ### BOOTSTAT and the PARTITION record (R441, R444) -/

def Package.bootstat (k : Package) : Nat :=
  k.phase + k.warm.toNat * 2 ^ 4 + k.wfail * 2 ^ 5 + k.cfail * 2 ^ 7 + k.safe.toNat * 2 ^ 9 + k.cause * 2 ^ 16

/-- Word 1 of the PARTITION record. -/
def State.partitionWord (s : State) (p : Nat) : Nat := p + (s.part p).regions * 16

/-! ### Attestation (R447) -/

/-- Bytes 0 to 191 of a report, from the nonce and the words of the PARTITION and PACKAGE records. -/
def State.reportBody (s : State) (nonce : List W64) (partWord packWord : Nat) : List Byte :=
  nonce.flatMap (fun w => natLe 8 w.toNat) ++ s.pkg.meas.flatten ++ natLe 8 partWord ++ natLe 8 s.pkg.bootstat ++ natLe 8 packWord ++ natLe 8 0

/-- A body with AK's signature. -/
def State.signReport (s : State) (body : List Byte) : List Byte :=
  let x := ecdsaSign s.pkg.attestKey body
  body ++ natBe 32 x.1 ++ natBe 32 x.2

def State.setAttn (s : State) (p : Nat) (x : Attn) : State := s.setPart p { s.part p with attn := x }

/-- GO written; a second one while a request runs is discarded. -/
def State.attest (s : State) (p : Nat) : State :=
  let x := (s.part p).attn
  if x.run.isSome then s else s.setAttn p { x with run := some (x.nonce, x.out) }

/-- A management port's request takes the place of a fifth partition's (log 108, DESIGN CHOICE). -/
def State.portAttest (s : State) : State :=
  if !s.pkg.powered || s.pkg.portAttn.isSome then s
  else s.setPkg (fun k => { k with portAttn := some ((List.range 4).map (fun i => Config.portNonce s.tick i)) })

/-- ATTEST_GO: a partition asks for a report through its attestation block, or a management port does. -/
def execAttestGo (p : Key) (s : State) : Host.Outcome State Fault Refusal :=
  .next (if p = 4 then s.portAttest else if (s.part p).st = .free then s else s.attest p)

/-- The report that a management port has asked for goes out by it, with a partition word of zero. -/
def State.portReport (s : State) : State :=
  match s.pkg.portAttn with
  | none => s
  | some nonce =>
    let s := s.setPkg (fun k => { k with portAttn := none })
    { s with outbox := s.outbox ++ [.report (s.signReport (s.reportBody nonce 0 s.packageWord))] }

/-- ATTEST_DONE: the report is at ATTOUT, then the bit is clear. -/
def execAttestDone (p : Key) (s : State) : Host.Outcome State Fault Refusal :=
  .next
    (if p = 4 then s.portReport
     else
       let x := (s.part p).attn
       match x.run with
       | none => s
       | some (nonce, out) =>
         (s.physWrite p out.toNat (s.signReport (s.reportBody nonce (s.partitionWord p) (s.part p).cap))).setAttn p { x with run := none })

end Sys2Proof.Machine
end

