-- ==== Sys2Proof/Machine/Repair.lean ====
section
/-! DEFINITION. Errors, patrol and the error log (R448 to R451), repair (R454 to R460), firmware (R462), shadow regions (R463), heartbeats (R464) and the
power controller (R27, R465). -/

namespace Sys2Proof.Machine

/-! ### The error log (R451) -/

/-- UNIT: die, class and index (log 68, DEDUCED). -/
def unitOf (die cls idx : Nat) : Nat := die * 2 ^ 15 + cls * 2 ^ 8 + idx

/-- The unit that holds a byte: a stack, a vault or a core. -/
def unitOfLoc (loc : Nat) : Nat :=
  if isHbm loc then unitOf (stackOf loc / 4) 3 (stackOf loc)
  else if loc < bankBase then unitOf ((loc - vaultBase) / 2 ^ 28) 1 ((loc - vaultBase) / 2 ^ 21 % 128)
  else unitOf ((loc - bankBase) / 2 ^ 20 / 96) 0 ((loc - bankBase) / 2 ^ 20 % 96)

def ErrRec.word (r : ErrRec) : Nat := r.cycle % 2 ^ 32 + r.unit * 2 ^ 32 + r.kind * 2 ^ 48 + r.count * 2 ^ 56 + r.pa % 2 ^ 40 * 2 ^ 88

/-- A record at the ring's tail; a full ring loses its oldest (log 68, DEDUCED). -/
def State.logError (s : State) (pa kind unit : Nat) : State :=
  let k := s.pkg
  let r : ErrRec := { pa := pa, count := mgetD k.errCounts unit 0, kind := kind, unit := unit, cycle := s.mboelCycle }
  let tail := k.errTail + 1
  let head := if tail = k.errHead then k.errHead + 1 else k.errHead
  s.setPkg (fun k => { k with errlog := mset k.errlog k.errTail.toNat r, errTail := tail, errHead := head })

/-- The key of the unit's latest record: the one nearest the tail. -/
def Package.latest (k : Package) (unit : Nat) : Option Nat :=
  let age := fun (i : Nat) => (k.errTail - 1 - BitVec.ofNat 8 i).toNat
  minBy? age (mkeys k.errlog (fun _ r => r.unit == unit))

/-- A corrected error counted in its unit, and in the unit's latest record. -/
def State.countError (s : State) (unit : Nat) : State :=
  s.setPkg (fun k =>
    let n := min (2 ^ 32 - 1) (mgetD k.errCounts unit 0 + 1)
    let log := match k.latest unit with | some i => mmodify k.errlog i (fun r => { r with count := n }) | none => k.errlog
    { k with errCounts := mset k.errCounts unit n, errlog := log })

/-- An error in a byte's 4 KiB block: its first writes a record. -/
def State.blockError (s : State) (loc kind : Nat) : State :=
  if s.pkg.errBlocks.contains (loc / 4096) then s
  else (s.setPkg (fun k => { k with errBlocks := loc / 4096 :: k.errBlocks })).logError (loc / 4096 * 4096) kind (unitOfLoc loc)

/-! ### Repairs (R454, R455) -/

/-- Lane groups from a die that live. -/
def Package.live (k : Package) (dir : Nat) : Nat := listGet 0 k.lanes dir

/-- The SRAM structure and row of R455's TARGET that holds a vault's or bank's byte. -/
def sramTarget (loc : Nat) : Nat :=
  let x := if loc < bankBase then ((loc - vaultBase) / 2 ^ 28, (loc - vaultBase) / 2 ^ 21 % 128)
    else ((loc - bankBase) / 2 ^ 20 / 96, 144 + (loc - bankBase) / 2 ^ 20 % 96)
  x.1 + x.2 * 2 + Config.sramRow loc % 65536 * 2 ^ 16

/-- Which repair's targets are in range (log 70, DEDUCED). -/
def State.targetOk (s : State) (op t : Nat) : Bool :=
  match op with
  | 1 => t < 256 && t % 128 < 96 && !(s.core (t / 128 * 96 + t % 128)).gone
  | 2 => isHbm t
  | 3 => isHbm t
  | 4 => t < 2 ^ 32 && bits t 9 7 == 0 && decide (bits t 1 8 < 240) && decide (bits t 16 16 < Config.sramRows)
  | 5 => t < 256 && decide (t / 2 < 64)
  | 6 => t < 8 && !s.pkg.portsDown.contains t
  | _ => t < 16 && !s.pkg.ccoresDown.contains t

/-- The region of a position, 2 × die and 1 more for its east half. -/
def retireCoreOf (t : Nat) : Nat := t / 128 * 96 + t % 128

/-- A spare is left for a repair. -/
def State.spareLeft (s : State) (op t : Nat) : Bool :=
  let k := s.pkg
  match op with
  | 1 => listGet 0 k.coreSpares (regionOfCore (retireCoreOf t)) > 0
  | 2 => decide (mgetD k.rowSpares (Config.hbmChannel t) 0 < 4)
  | 3 => decide (mgetD k.chanSpares (stackOf t) 0 < 1)
  | 4 => decide (mgetD k.sramSpares (t % 512) 0 < 32)
  | 5 => listGet 0 k.laneSpares (t % 2) > 0
  | 6 => !k.portsDown.contains (if t % 2 = 0 then t + 1 else t - 1)
  | _ => (List.range 4).any (fun i => t / 4 * 4 + i != t && !k.ccoresDown.contains (t / 4 * 4 + i))

def State.rcmdEnd (s : State) (status : Nat) : State := s.setPkg (fun k => { k with rcmd := { k.rcmd with busy := false, status := status } })

/-- The command starts: refused, or busy with its blocks to move (log 70, DEDUCED). -/
def State.repair (s : State) (op t : Nat) : State :=
  let s := s.setPkg (fun k => { k with rcmd := { busy := false, status := 0, target := t, op := op, left := 0 } })
  if op = 0 || op ≥ 8 then s.rcmdEnd 1
  else if !s.targetOk op t then s.rcmdEnd 2
  else if !s.spareLeft op t then
    (if op = 1 then s.setPkg (fun k => { k with retire := retireCoreOf t :: k.retire }) else s).rcmdEnd 3
  else
    let s := s.setPkg (fun k => { k with rcmd := { k.rcmd with busy := true, left := if 2 ≤ op && op ≤ 4 then Config.repairBlocks op t else 0 } })
    if op = 1 then
      match s.partOfCore (retireCoreOf t) with
      | some p => s.preemptGo p (t / 128) true
      | none => s
    else s

/-- A repair's command: discarded while one runs, or while Mboel carries out none. -/
def repairCommand (op t : Nat) (s : State) : Host.Outcome State Fault Refusal := .next (if s.pkg.rcmd.busy || !s.pkg.serves then s else s.repair op t)

/-- See log 71, DEDUCED. -/
def execRetireCore (die idx : Key) (s : State) : Host.Outcome State Fault Refusal := repairCommand 1 (die % 2 * 128 + idx % 128) s
def execHbmRow (pa : Key) (s : State) : Host.Outcome State Fault Refusal := repairCommand 2 (pa % 2 ^ 40) s
def execHbmChannel (pa : Key) (s : State) : Host.Outcome State Fault Refusal := repairCommand 3 (pa % 2 ^ 40) s
def execSramRow (die str row : Key) (s : State) : Host.Outcome State Fault Refusal :=
  repairCommand 4 (die % 2 + str % 256 * 2 + row % 65536 * 2 ^ 16) s
def execLane (dir grp : Key) (s : State) : Host.Outcome State Fault Refusal := repairCommand 5 (dir % 2 + grp % 128 * 2) s
def execPort (n : Key) (s : State) : Host.Outcome State Fault Refusal := repairCommand 6 (n % 2 ^ 40) s
def execCcore (n : Key) (s : State) : Host.Outcome State Fault Refusal := repairCommand 7 (n % 2 ^ 40) s

/-- The partition whose REPAIR budget a copy spends, with the unit that copies. -/
def State.repairUnit (s : State) (op t : Nat) : Option Nat × Nat :=
  if op = 4 then
    let x := bits t 1 8
    let die := t % 2
    if x < 96 then (s.partOfCore (die * 96 + x), 100 + die)
    else if x < 144 then (s.partOfRegion (2 * die + (if x - 96 < 24 then 0 else 1)), 100 + die)
    else (s.partOfCore (die * 96 + (x - 144)), 200 + die * 96 + (x - 144))
  else (s.partOfStack (stackOf t), stackOf t)

/-- REPAIR_BLOCK_MOVE (R456): a block is on the spare, with its bytes and poison, and the budget has paid a beat. -/
def execRepairBlockMove (s : State) : Host.Outcome State Fault Refusal :=
  .next
    (let r := s.pkg.rcmd
     if !r.busy || r.left = 0 then s
     else
       let u := s.repairUnit r.op r.target
       match (match u.1 with | some p => s.spend p 5 u.2 | none => some s) with
       | some s => s.setPkg (fun k => { k with rcmd := { k.rcmd with left := k.rcmd.left - 1 } })
       | none => s)

/-! ### What a repair leaves (R456 to R460) -/

/-- Partitions of the whole package stop: the bridge is down (R456) (log 62, DEDUCED). -/
def State.bridgeFails (s : State) : State :=
  let ps := mkeys s.parts (fun _ p => p.regions == 15 && p.st != .free)
  let s := s.setPkg (fun k => { k with bridgeDown := true })
  ps.foldl (fun s p => (s.clearPart p).setPart p { s.part p with st := .stopped }) s

/-- A lane group replaced by a spare, or lost where none is left (R456, R459) (log 69, DEDUCED). -/
def State.spareLane (s : State) (dir grp : Nat) : State :=
  let k := s.pkg
  let n := listGet 0 k.laneSpares dir
  let s := if n > 0 then s.setPkg (fun k => { k with laneSpares := listSet k.laneSpares dir (n - 1), repairs := k.repairs ++ [(5, dir + grp * 2)] })
    else s.setPkg (fun k => { k with lanes := listSet k.lanes dir (k.live dir - 1) })
  let s := s.setPkg (fun k => { k with laneFails := merase k.laneFails (dir + grp * 2) })
  let s := s.logError 0 3 (unitOf dir 4 dir)
  if s.pkg.live dir ≤ 48 && !s.pkg.bridgeDown then s.bridgeFails else s

/-- Records of a removed control core's HOST ring go to another's, in order (R327); none where they find no room. -/
def State.moveHost (s : State) (p c d : Nat) : Option State :=
  let a := s.hostRing c
  let b := s.hostRing d
  if a.held = 0 then some s
  else if b.base == 0 || b.held + a.held > b.size then none
  else
    let s := (List.range a.held).foldl (fun s i =>
      let src := a.base.toNat + 32 * ((a.head.toNat + i) % a.size)
      s.physWrite p (b.base.toNat + 32 * ((b.tail.toNat + i) % b.size)) (natLe 32 (s.physWord src 32))) s
    let ring := mset (mset s.pkg.host c { a with head := a.tail }) d { b with tail := b.tail + BitVec.ofNat 16 a.held }
    some (s.setPkg (fun k => { k with host := ring }))

/-- A control core out of service. -/
def State.dropCcore (s : State) (c : Nat) : Option State :=
  let s := s.setPkg (fun k => { k with ccoresDown := c :: k.ccoresDown })
  match s.partOfRegion (c / 4) with
  | none => some s
  | some p =>
    match (s.liveCcores p).head? with
    | some d => s.moveHost p c d
    | none => some s

/-- The teams of a retired core's partition are saved, as far as they can be (log 71, DEDUCED). -/
def State.retireReady (s : State) (t : Nat) : Bool :=
  match s.partOfCore (retireCoreOf t) with
  | some p => (s.pdie p (t / 128)).pre.run.isNone
  | none => true

/-- The site that a repair brings into service: the region's next spare. -/
def State.nextSpare (s : State) (c : Nat) : Nat :=
  let r := regionOfCore c
  Config.spareSite r (2 - listGet 0 s.pkg.coreSpares r) % 100

/-- The spare site takes the position and its island is brought up in the retired one's place (R26): a team it could not save goes with its cluster, and the
vault's contents are lost, which the owning partition is told (R19; log 96, DESIGN CHOICE). -/
def State.retireDone (s : State) (t : Nat) : State :=
  let c := retireCoreOf t
  let s := match (s.core c).team, s.partOfCore c with
    | some x, some p => s.creset p (t / 128) (s.launch x.launch).desc x.clid
    | _, _ => s
  let base := vaultLoc (t / 128) (t % 128) 0
  let s := s.zeroBytes base (2 ^ 21)
  let s := s.rewrite base ((Config.newVault s.tick).take (2 ^ 21))
  let s := match s.partOfCore c with
    | some p => s.setPart p { s.part p with vaultsLost := (s.part p).vaultsLost ++ [c] }
    | none => s
  let site := s.nextSpare c
  s.setPkg (fun k => { k with
    coreSpares := listSet k.coreSpares (regionOfCore c) (listGet 0 k.coreSpares (regionOfCore c) - 1)
    sites := mset k.sites c site
    islands := merase k.islands c })

/-- What a repair that is done has changed; none where it has still to wait. -/
def State.repaired (s : State) (op t : Nat) : Option State :=
  let count := fun (m : Map Nat) (i : Nat) => mset m i (mgetD m i 0 + 1)
  match op with
  | 1 => if s.retireReady t then some (s.retireDone t) else none
  | 2 => some (s.setPkg (fun k => { k with rowSpares := count k.rowSpares (Config.hbmChannel t) }))
  | 3 => some (s.setPkg (fun k => { k with chanSpares := count k.chanSpares (stackOf t) }))
  | 4 => some (s.setPkg (fun k => { k with sramSpares := count k.sramSpares (t % 512), rowErrs := merase k.rowErrs t }))
  | 5 => some (s.spareLane (t % 2) (t / 2))
  | 6 => some (s.setPkg (fun k => { k with portsDown := t :: k.portsDown }))
  | _ => s.dropCcore t

/-- REPAIR_DONE: a repair is over, its mapping recorded in the repair map; one that has failed changes nothing (R455). -/
def execRepairDone (ok : Bool) (s : State) : Host.Outcome State Fault Refusal :=
  .next
    (let r := s.pkg.rcmd
     if !r.busy then s
     else if !ok then s.rcmdEnd 4
     else if r.left > 0 then s
     else
       match s.repaired r.op r.target with
       | some s =>
         (if r.op = 5 then s else s.setPkg (fun k => { k with repairs := k.repairs ++ [(r.op, r.target)] })).rcmdEnd 0
       | none => s)

/-! ### Errors (R448) -/

/-- The part's own SRAM_ROW repair of a row that has logged 16 corrected errors (R454). -/
def State.rowError (s : State) (loc : Nat) : State :=
  if isHbm loc then s
  else
    let t := sramTarget loc
    let n := mgetD s.pkg.rowErrs t 0 + 1
    let s := s.setPkg (fun k => { k with rowErrs := mset k.rowErrs t n })
    if n ≥ 16 && !s.pkg.rcmd.busy then s.repair 4 t else s

/-- ECC_CORRECTED: nothing changes but the counts. -/
def execEccCorrected (e : EccSite) (s : State) : Host.Outcome State Fault Refusal :=
  .next
    (match e with
     | .line loc => ((s.blockError loc 0).countError (unitOfLoc loc)).rowError loc
     | .register gk _ =>
       let u := unitOf (dieOf gk) 0 (coreOf gk % 96)
       (if (s.pkg.latest u).isNone then s.logError 0 0 u else s).countError u)

/-- A path that reads its registers: not blocked, and free to take a trap. -/
def State.reads (s : State) (gk pid : Nat) : Bool :=
  match mget? s.groups gk with
  | none => false
  | some g =>
    !g.dead && !g.stopped && g.park.isNone && !s.trapHeld gk pid &&
      (match mget? g.paths pid with | some p => p.entry.isSome && (match p.st with | .ready => true | .waiting _ => true | _ => false) | none => false)

/-- ECC_UNCORRECTABLE: a line is poisoned, or the reading instruction raises MCHK with ADDR 0 (log 72, DEDUCED). -/
def execEccUncorrectable (e : EccSite) (s : State) : Host.Outcome State Fault Refusal :=
  .next
    (match e with
     | .line loc => (s.poisonLine loc).blockError loc 1
     | .register gk pid =>
       if s.reads gk pid then
         let s := s.logError 0 2 (unitOf (dieOf gk) 0 (coreOf gk % 96))
         s.trapWait gk pid ⟨.mchk, 0⟩
       else s)

/-- FLIT_CRC_ERROR: the flit is sent again; the eighth failure of a lane group spares it (R448, R456) (log 69, DEDUCED). -/
def execFlitCrcError (dir grp : Key) (s : State) : Host.Outcome State Fault Refusal :=
  .next
    (let k := dir % 2 + grp % 64 * 2
     let n := mgetD s.pkg.laneFails k 0 + 1
     if n < 8 then s.setPkg (fun x => { x with laneFails := mset x.laneFails k n }) else s.spareLane (dir % 2) (grp % 64))

/-- Bytes that a unit patrols: a stack (units 0 to 7) or a canopy (8 and 9), its vaults and then its slices (R450). -/
def patrolSize (u : Nat) : Nat := if u < 8 then 2 ^ 36 else 144 * 2 ^ 21

/-- The partition whose SCRUB budget a beat at a position spends (log 73, DEDUCED). -/
def State.patrolPart (s : State) (u pos : Nat) : Option Nat :=
  if u < 8 then s.partOfStack u
  else
    let v := pos / 2 ^ 21
    if v < 96 then s.partOfCore ((u - 8) * 96 + v) else s.partOfRegion (2 * (u - 8) + (if v - 96 < 24 then 0 else 1))

/-- SCRUB_BEAT (R450): the patrol visits its next block. A correctable error there, or an uncorrectable one, is the event of R448 (log 73, DEDUCED). -/
def execScrubBeat (unit : Key) (s : State) : Host.Outcome State Fault Refusal :=
  .next
    (let u := unit % 10
     let pos := mgetD s.pkg.patrol u 0
     match (match s.patrolPart u pos with | some p => s.spend p 0 (300 + u) | none => some s) with
     | some s => s.setPkg (fun k => { k with patrol := mset k.patrol u ((pos + 64) % patrolSize u) })
     | none => s)

/-! ### Firmware (R462) -/

/-- Units with microcode: the coil engines, the saggar units and the trace cores. -/
def microUnits : List Nat := [coilUnit 0, coilUnit 1] ++ (List.range 8).map saggarUnit ++ [3300, 3301]

/-- FIRMWARE_UPDATE: the image is in the inactive slot; with its signature good the slots switch, the image is measured, and the units are to load
microcode. -/
def execFirmwareUpdate (kind : Key) (image : List Byte) (sigOk : Bool) (s : State) : Host.Outcome State Fault Refusal :=
  .next
    (if kind ≥ 3 || !s.pkg.powered then s
     else
       let f := s.pkg.fw kind
       let f : Firmware := if f.active then { f with a := image } else { f with b := image }
       if !sigOk then s.setPkg (fun k => { k with firmware := mset k.firmware kind f })
       else
         let s := s.setPkg (fun k => { k with firmware := mset k.firmware kind { f with active := !f.active } })
         let s := if kind = 2 then s.setPkg (fun k => { k with microcode := microUnits }) else s
         if s.pkg.phase = 7 && !s.pkg.starting && !s.pkg.safe then s.setPkg (fun k => k.extend kind image) else s)

/-- MICROCODE_LOAD: a unit has the new image; its results are as before. -/
def execMicrocodeLoad (unit : Key) (s : State) : Host.Outcome State Fault Refusal :=
  .next (s.setPkg (fun k => { k with microcode := k.microcode.filter (fun u => u != unit) }))

/-! ### Shadow regions (R463) -/

/-- SHADOW_ACK: the buddy has the oldest write of the region's queue. -/
def execShadowAck (p i : Key) (s : State) : Host.Outcome State Fault Refusal :=
  .next (s.setPkg (fun k => { k with shadows := mmodify k.shadows (4 * p + i) (fun r => { r with queue := r.queue.drop 1 }) }))

/-- SHADOW_MIRROR_RECEIVE: a write of another package's shadow region is performed in this package's copy, and acknowledged. -/
def execShadowMirrorReceive (pkg p i pa : Key) (data : List Byte) (s : State) : Host.Outcome State Fault Refusal :=
  .next (if s.pkg.failed.contains pkg || pa + data.length > 2 ^ 39 || p ≥ 4 || i ≥ 4 then s else (s.write (s.phys pa) data).send [.mirrored pkg p i])

/-! ### Heartbeats (R464) -/

/-- The shared address spaces: partition and identifier. -/
def State.sharedSpaces (s : State) : List (Nat × Nat) :=
  s.parts.flatMap (fun p => (mkeys p.2.asids (fun _ r => r.shared)).map (fun a => (p.1, a)))

/-- A failed package is fenced from every shared address space (R341) (log 74, DEDUCED). -/
def State.fenceAll (s : State) (pkg : Nat) : State :=
  s.sharedSpaces.foldl (fun s x =>
    let s := s.fenceOff x.1 x.2 pkg
    s.setAsidRec x.1 x.2 { s.asidRec x.1 x.2 with fenced := true }) s

/-- Cycles between two heartbeats. -/
def beatPeriod : Nat := 10000000

/-- The package's parent and children in the tree of R340 of each shared address space: positions 1 to 8 of its sharing list are children (log 107, DESIGN
CHOICE). -/
def State.neighbours (s : State) : List Nat :=
  (s.sharedSpaces.flatMap (fun x => let r := s.asidRec x.1 x.2; Config.treeParent x.1 x.2 :: (childrenOf 0 r.nshare).map (s.shareAt r))).eraseDups

/-- HEARTBEAT: 10,000,000 cycles after the last one, one is sent to each of the tree's neighbours. -/
def execHeartbeat (s : State) : Host.Outcome State Fault Refusal :=
  .next
    (if s.mboelCycle - s.pkg.beatAt < beatPeriod || !s.pkg.powered then s
     else (s.setPkg (fun k => { k with beats := k.beats + 1, beatAt := s.mboelCycle })).send (s.neighbours.map (fun n => .beat n)))

/-- HEARTBEAT_RECEIVE: the neighbour's count starts anew. -/
def execHeartbeatReceive (pkg : Key) (s : State) : Host.Outcome State Fault Refusal :=
  .next (s.setPkg (fun k => { k with missed := merase k.missed pkg, heard := mset k.heard pkg s.mboelCycle }))

/-- HEARTBEAT_MISS: a heartbeat's time has passed without one from the neighbour; the fifth in a row declares it failed (log 74, DEDUCED). -/
def execHeartbeatMiss (pkg : Key) (s : State) : Host.Outcome State Fault Refusal :=
  .next
    (if s.pkg.failed.contains pkg || decide (s.mboelCycle - mgetD s.pkg.heard pkg 0 < beatPeriod) then s
     else
       let n := mgetD s.pkg.missed pkg 0 + 1
       if n < 5 then s.setPkg (fun k => { k with missed := mset k.missed pkg n, heard := mset k.heard pkg s.mboelCycle })
       else (s.setPkg (fun k => { k with missed := merase k.missed pkg, failed := pkg :: k.failed })).fenceAll pkg)

/-- BUDDY_MAP: the copy of a failed package's shadow region stands behind an aperture frame of a partition. -/
def execBuddyMap (pkg p i frame asid vpage : Key) (s : State) : Host.Outcome State Fault Refusal :=
  .next
    (if !s.pkg.failed.contains pkg || i ≥ 4 || frame ≥ (s.part p).naper then s
     else s.physWrite p ((s.part p).aper.toNat + 8 * frame) (natLe 8 (2 ^ 63 + 2 ^ 62 + vpage % 2 ^ 40 * 2 ^ 16 + asid % 4096)))

/-! ### Power (R27, R465) -/

/-- An island as it starts, and as it is now. -/
def Island.start (n : Nat) : Island := { freq := Config.islandFreq n, volt := Config.islandVolt n (Config.islandFreq n), on := true }
def State.island (s : State) (n : Nat) : Island := mgetD s.pkg.islands n (Island.start n)

/-- POWER_THROTTLE: an island with power changes its frequency, its voltage with it, and of the rest wall time alone. -/
def execPowerThrottle (island freq : Key) (s : State) : Host.Outcome State Fault Refusal :=
  .next
    (if island < 224 && (s.island island).on then
       s.setPkg (fun k => { k with islands := mset k.islands island { freq := freq, volt := Config.islandVolt island freq, on := true } })
     else s)

end Sys2Proof.Machine
end

