-- ==== Sys2Proof/Machine/Registers.lean ====
section
/-! DEFINITION. Control spaces (R431): the package registers that Mboel reaches, a partition's registers that its control cores reach, by the access types
of R5 and with the alignment of R466; and the capability list (R440, R441). The base addresses within a partition's space are the model's (log 43, PRESUMED). -/

namespace Sys2Proof.Machine

/-- A value with its low `k` bits clear (R466). -/
def alignDown (v k : Nat) : Nat := v / 2 ^ k * 2 ^ k

/-! ### Package control space -/

/-- PCMD written (R436) (log 34, DEDUCED) (log 75, DEDUCED). -/
def State.writePcmd (s : State) (v first : Nat) : State :=
  if s.pkg.pcmd.busy then s
  else
    let t := bits v 8 2
    let regions := bits v 16 4
    let rng := bits v 20 4
    let op := bits v 0 3
    if !bit v 63 then s.setPkg (fun k => { k with pcmd := { k.pcmd with rng := rng, regions := regions, t := t, op := op } })
    else
      let s := match op with
        | 1 => s.pcmdCreate t regions
        | 2 => s.pcmdMerge (first % 4) t
        | 3 => s.pcmdSplit (first % 4) t regions
        | 4 => s.pcmdStop (first % 4)
        | 5 => s.pcmdRerange rng
        | _ => (s.pcmdBegin op (first % 4) t regions rng).pcmdEnd 1
      s.setPkg (fun k => { k with pcmd := { k.pcmd with rng := rng, regions := regions, t := t, op := op } })

/-- RCMD written (R454) (log 75, DEDUCED). -/
def State.writeRcmd (s : State) (v : Nat) : State :=
  if s.pkg.rcmd.busy then s
  else if bit v 63 then s.repair (bits v 0 4) (bits v 8 40)
  else s.setPkg (fun k => { k with rcmd := { k.rcmd with target := bits v 8 40, op := bits v 0 4 } })

/-- A word of a shadow region's register written (R463). -/
def Shadow.write (x : Shadow) (k v : Nat) : Shadow :=
  match k with
  | 0 => { x with base := bits v 0 40 }
  | 1 => { x with len := bits v 0 32 }
  | 2 => { x with buddy := bits v 0 16 }
  | _ => { x with v := bit v 63 }

def Shadow.none' : Shadow := { base := 0, len := 0, buddy := 0, v := false, queue := [] }

/-- A 64-bit half of a 128-bit register replaced. -/
def putHalf (w : BitVec 128) (k v : Nat) : BitVec 128 :=
  if k = 0 then BitVec.ofNat 128 (w.toNat / 2 ^ 64 * 2 ^ 64 + v % 2 ^ 64) else BitVec.ofNat 128 (v % 2 ^ 64 * 2 ^ 64 + w.toNat % 2 ^ 64)

/-- A write of package control space: by address, to the registers that are not read-only. MIRSTG keeps the reserved bits written to it, which RERANGE then
refuses with the value (log 100, DESIGN CHOICE). -/
def State.writePackage (s : State) (a v first : Nat) : State :=
  if a = 0x10 then s.writeTown v
  else if a = 0x1000 then s.writePcmd v first
  else if a = 0x1008 then s.setPkg (fun k => { k with qbound := BitVec.ofNat 32 v })
  else if a = 0x2000 then s.writeRcmd v
  else if 0x30100 ≤ a && a < 0x30110 then s.setPkg (fun k => { k with mir := mset k.mir 16 (putHalf (mgetD k.mir 16 0) ((a - 0x30100) / 8) v) })
  else if 0x40000 ≤ a && a < 0x40040 then
    let i := (a - 0x40000) / 8
    s.setLsl (i / 2) (i % 2) (bits v 0 48 &&& slicesOf (s.part (i / 2)).regions (i % 2))
  else if 0x50000 ≤ a && a < 0x50100 && (a - 0x50000) / 8 % 8 < 6 then
    let i := (a - 0x50000) / 8
    s.setBudget (i / 8) (i % 8) { s.budget (i / 8) (i % 8) with grant := min 65536 (bits v 0 17) }
  else if a = 0x62000 then s.setPkg (fun k => { k with errHead := BitVec.ofNat 8 v })
  else if 0x70000 ≤ a && a < 0x70200 then
    let i := (a - 0x70000) / 32
    s.setPkg (fun k => { k with shadows := mset k.shadows i ((mgetD k.shadows i Shadow.none').write (a / 8 % 4) v) })
  else s

def partStCode : PartSt → Nat
  | .free => 0 | .starting => 1 | .running => 2 | .quiescing => 3 | .stopped => 4

/-- A read of package control space; a write-only bit reads as zero, and so does an address that no register occupies. -/
def State.readPackage (s : State) (a : Nat) : Nat :=
  let k := s.pkg
  if a = 8 then k.bootstat
  else if a = 0x10 then
    let o := fun (d : Nat) => match listGet none k.town d with | some p => p + 4 | none => 0
    o 0 + o 1 * 16
  else if a = 0x1000 then
    k.pcmd.op + k.pcmd.t * 2 ^ 8 + k.pcmd.regions * 2 ^ 16 + k.pcmd.rng * 2 ^ 20 + k.pcmd.status * 2 ^ 48 + k.pcmd.busy.toNat * 2 ^ 62
  else if a = 0x1008 then k.qbound.toNat
  else if a = 0x2000 then k.rcmd.op + k.rcmd.target * 2 ^ 8 + k.rcmd.status * 2 ^ 48 + k.rcmd.busy.toNat * 2 ^ 62
  else if 0x10000 ≤ a && a < 0x10020 then (s.part ((a - 0x10000) / 8)).regions + partStCode (s.part ((a - 0x10000) / 8)).st * 2 ^ 8
  else if a = 0x20000 then k.bndctl
  else if 0x30000 ≤ a && a < 0x30110 then bits (mgetD k.mir ((a - 0x30000) / 16) 0).toNat (64 * (a / 8 % 2)) 64
  else if 0x40000 ≤ a && a < 0x40040 then s.lsl ((a - 0x40000) / 16) ((a - 0x40000) / 8 % 2)
  else if 0x50000 ≤ a && a < 0x50100 && (a - 0x50000) / 8 % 8 < 6 then
    let b := s.budget ((a - 0x50000) / 64) ((a - 0x50000) / 8 % 8)
    b.grant + s.used ((a - 0x50000) / 64) ((a - 0x50000) / 8 % 8) * 2 ^ 32
  else if 0x60000 ≤ a && a < 0x62000 then
    match mget? k.errlog ((a - 0x60000) / 32) with
    | some r => bits r.word (64 * (a / 8 % 4)) 64
    | none => 0
  else if a = 0x62000 then k.errHead.toNat + k.errTail.toNat * 2 ^ 8
  else if a = 0x62008 then k.live 0 + k.live 1 * 2 ^ 8
  else if 0x70000 ≤ a && a < 0x70200 then
    let x := mgetD k.shadows ((a - 0x70000) / 32) Shadow.none'
    match a / 8 % 4 with
    | 0 => x.base
    | 1 => x.len
    | 2 => x.buddy
    | _ => x.v.toNat * 2 ^ 63
  else 0

/-! ### Partition control space -/

/-- Base addresses in every partition's space (log 43, PRESUMED). -/
def queueBase (d : Nat) : Nat := 0x1000 + 0x400 * d
def pageBase (d : Nat) : Nat := 0x2000 + 0x1000 * d
def decaywAddr : Nat := 0x4000
def attestBase : Nat := 0x4040
def astabBase : Nat := 0x40000

/-- A word of a queue's block written (R316). -/
def HwQueue.write (q : HwQueue) (k v : Nat) : HwQueue :=
  if k = 0 then if q.busy then q else { q with base := BitVec.ofNat 64 (alignDown v 12) }
  else
    { q with
      tail := if q.dev then q.tail else BitVec.ofNat 16 (bits v 16 16)
      log2n := if q.busy then q.log2n else BitVec.ofNat 4 (bits v 32 4)
      en := bit v 36
      serial := bit v 37
      dev := bit v 38 }

def HwQueue.read (q : HwQueue) (k : Nat) : Nat :=
  if k = 0 then q.base.toNat
  else
    q.head.toNat + q.tail.toNat * 2 ^ 16 + min 11 q.log2n.toNat * 2 ^ 32 + q.en.toNat * 2 ^ 36 + q.serial.toNat * 2 ^ 37 + q.dev.toNat * 2 ^ 38
      + q.busy.toNat * 2 ^ 39

/-- A word of a fault queue's block written (R345). -/
def Ring.writeFault (r : Ring) (k v : Nat) : Ring :=
  if k = 0 then { r with base := BitVec.ofNat 64 (alignDown v 12) }
  else { r with head := BitVec.ofNat 16 v, log2n := BitVec.ofNat 4 (bits v 32 4), drop := r.drop &&& ~~~BitVec.ofNat 16 (bits v 48 16) }

/-- A word of a HOST queue's block written (R327). -/
def Ring.writeHost (r : Ring) (k v : Nat) : Ring :=
  if k = 0 then if r.head == r.tail then { r with base := BitVec.ofNat 64 (alignDown v 12) } else r
  else { r with head := BitVec.ofNat 16 v, log2n := if r.head == r.tail then BitVec.ofNat 4 (bits v 32 4) else r.log2n }

def Ring.read (r : Ring) (k top : Nat) : Nat :=
  if k = 0 then r.base.toNat else r.head.toNat + r.tail.toNat * 2 ^ 16 + min top r.log2n.toNat * 2 ^ 32 + r.drop.toNat * 2 ^ 48

/-- MIGCMD written (R349). -/
def State.writeMigcmd (s : State) (p d v : Nat) : State :=
  let m := (s.pdie p d).mig
  let asid := bits v 16 12
  if !bit v 63 then s.setMig p d { m with asid := asid, op := bits v 0 2 }
  else if m.busy then s
  else
    match bits v 0 2 with
    | 0 => s.migrateMove p d asid
    | 1 => (s.setMig p d { m with asid := asid }).migrateRelease p d
    | n => s.setMig p d { m with asid := asid, op := n, status := 5 }

/-- PREEMPT written (R353). -/
def State.writePreempt (s : State) (p d v : Nat) : State :=
  let x := s.pdie p d
  let s := s.setPdie p d { x with pre := { x.pre with all := bit v 1 } }
  if bit v 0 then s.preemptGo p d (bit v 1) else s

/-- The action that RESOLVE names (R346). -/
def State.writeResolve (s : State) (p d v : Nat) : State := if bits v 16 2 = 3 then s else s.resolveRecord p d (bits v 0 16) (bits v 16 2)

/-- A register of a die's control page written (R441). -/
def State.writePage (s : State) (p d ofs v : Nat) : State :=
  let x := s.pdie p d
  let mask := bits v 16 40 * 2 ^ 16
  match ofs with
  | 0x00 => s.setPdie p d { x with fq := x.fq.writeFault 0 v }
  | 0x08 => s.setPdie p d { x with fq := x.fq.writeFault 1 v }
  | 0x10 => s.writeResolve p d v
  | 0x18 => s.writePreempt p d v
  | 0x20 => s.setPdie p d { x with pre := { x.pre with a := BitVec.ofNat 64 v } }
  | 0x28 => s.resume p d v
  | 0x30 => s.creset p d (bits v 0 56) (bits v 56 8)
  | 0x38 => s.setMig p d { x.mig with va := BitVec.ofNat 64 mask }
  | 0x40 => s.setMig p d { x.mig with dst := BitVec.ofNat 64 mask }
  | 0x48 => s.writeMigcmd p d v
  | 0x50 => s.setMig p d { x.mig with thr := BitVec.ofNat 8 v }
  | _ =>
    let c := 8 * d + (ofs - 0x80) / 16
    if 0x80 ≤ ofs && ofs < 0x100 && s.partOfRegion (c / 4) == some p then
      s.setPkg (fun k => { k with host := mset k.host c ((s.hostRing c).writeHost (ofs / 8 % 2) v) })
    else s

/-- A register of a die's control page read; RESOLVE, RESUMEA and CRESET read as zero (log 101, DESIGN CHOICE for the last two). -/
def State.readPage (s : State) (p d ofs : Nat) : Nat :=
  let x := s.pdie p d
  match ofs with
  | 0x00 => x.fq.read 0 9
  | 0x08 => x.fq.read 1 9
  | 0x18 => x.pre.all.toNat * 2 + x.pre.done.toNat * 4 + x.pre.fail.toNat * 8 + x.pre.teams.toNat * 2 ^ 32
  | 0x20 => x.pre.a.toNat
  | 0x38 => x.mig.va.toNat
  | 0x40 => x.mig.dst.toNat
  | 0x48 => x.mig.op + x.mig.asid * 2 ^ 16 + x.mig.status * 2 ^ 48 + x.mig.busy.toNat * 2 ^ 62
  | 0x50 => x.mig.thr.toNat
  | _ =>
    let c := 8 * d + (ofs - 0x80) / 16
    if 0x80 ≤ ofs && ofs < 0x100 && s.partOfRegion (c / 4) == some p then (s.hostRing c).read (ofs / 8 % 2) 11 else 0

/-- Words 2 and 4 to 7 of an address-space record written; ROOT, SLADDR and GEN stand in `State.writeAsid` (R334, R382). -/
def AsidRec.write (r : AsidRec) (k v : Nat) : AsidRec :=
  let dtab := r.dtab.toNat
  let rrtab := r.rrtab.toNat
  match k with
  | 2 =>
    { r with
      nshare := if r.busy then r.nshare else bits v 32 15
      shared := if r.busy then r.shared else bit v 62
      en := bit v 60
      fenced := r.fenced && !bit v 61 }
  | 4 => if r.en then r else { r with gstep := BitVec.ofNat 24 v }
  | 5 => { r with dtab := BitVec.ofNat 64 (alignDown (dtab / 2 ^ 40 * 2 ^ 40 + bits v 24 40) 15) }
  | 6 =>
    { r with
      dtab := BitVec.ofNat 64 (dtab % 2 ^ 40 + bits v 0 16 * 2 ^ 40)
      nreg := if bits v 32 5 ≤ 16 then bits v 32 5 else r.nreg
      rrtab := BitVec.ofNat 64 (alignDown (rrtab / 2 ^ 24 * 2 ^ 24 + bits v 40 24) 6) }
  | 7 => { r with rrtab := BitVec.ofNat 64 (rrtab % 2 ^ 24 + bits v 0 32 * 2 ^ 24) }
  | _ => r

def AsidRec.read (r : AsidRec) (k : Nat) : Nat :=
  let dtab := r.dtab.toNat
  let rrtab := r.rrtab.toNat
  match k with
  | 0 => r.root.toNat
  | 1 => r.sladdr.toNat
  | 2 => r.nshare * 2 ^ 32 + r.en.toNat * 2 ^ 60 + r.fenced.toNat * 2 ^ 61 + r.shared.toNat * 2 ^ 62 + r.busy.toNat * 2 ^ 63
  | 3 => r.gen.toNat
  | 4 => r.gstep.toNat
  | 5 => dtab % 2 ^ 40 * 2 ^ 24
  | 6 => dtab / 2 ^ 40 % 2 ^ 16 + r.nreg * 2 ^ 32 + rrtab % 2 ^ 24 * 2 ^ 40
  | 7 => rrtab / 2 ^ 24 % 2 ^ 32
  | _ => 0

/-- A word of an address-space record written. -/
def State.writeAsid (s : State) (p asid k v : Nat) : State :=
  let r := s.asidRec p asid
  match k with
  | 0 => if r.busy then s else s.setAsidRec p asid { r with root := BitVec.ofNat 64 (alignDown v 11) }
  | 1 => if r.busy then s else s.setAsidRec p asid { r with sladdr := BitVec.ofNat 64 (alignDown v 6) }
  | 3 => if BitVec.ofNat 16 v = r.gen + 1 then s.genRaise p asid else s
  | _ => s.setAsidRec p asid (r.write k v)

/-- A word of the attestation block written (R447) (log 52, DEDUCED). -/
def State.writeAttest (s : State) (p k v : Nat) : State :=
  let x := (s.part p).attn
  if k < 4 then s.setAttn p { x with nonce := listSet x.nonce k (BitVec.ofNat 64 v) }
  else if k = 4 then s.setAttn p { x with out := BitVec.ofNat 64 (alignDown v 6) }
  else if bit v 0 then s.attest p
  else s

/-! ### The capability list (R440, R441) -/

/-- A record's header word: the record lies at word `w` and has `len` words; it is followed by another unless it is the last. -/
def capHeader (id len w : Nat) (last : Bool) : Nat := id + 2 ^ 16 + len * 2 ^ 24 + (if last then 0 else w + len) * 2 ^ 32

/-- Records laid out one after another from word `w`. -/
def capLayout : Nat → List (Nat × List Nat) → List Nat
  | _, [] => []
  | w, (id, body) :: l => capHeader id (body.length + 1) w l.isEmpty :: body ++ capLayout (w + body.length + 1) l

/-- The words of a partition's list, from address 0. -/
def State.capWords (s : State) (p : Nat) : List Nat :=
  let x := s.part p
  let held := fun (d a : Nat) => if s.partOnDie p d then a else 0
  capLayout 0
    ([(1, [x.cap, 0x4880]), (2, [s.partitionWord p]), (3, [held 0 (queueBase 0), held 1 (queueBase 1)]), (4, [astabBase]),
      (5, [held 0 (pageBase 0), held 1 (pageBase 1)]), (6, [decaywAddr]), (7, [attestBase]), (8, [x.aper.toNat, x.naper, x.fence.toNat])]
     ++ (List.range 9).map (fun k => (0x10 + k, [])))

/-- A write of a partition's control space. -/
def State.writePartition (s : State) (p a v : Nat) : State :=
  if (s.part p).st = .free then s
  else if a = decaywAddr then s.writeDecayw p (BitVec.ofNat 64 v)
  else if attestBase ≤ a && a < attestBase + 48 then s.writeAttest p ((a - attestBase) / 8) v
  else if astabBase ≤ a && a < astabBase + 0x40000 then s.writeAsid p ((a - astabBase) / 64) (a / 8 % 8) v
  else if queueBase 0 ≤ a && a < queueBase 2 && s.partOnDie p ((a - queueBase 0) / 0x400) then
    let d := (a - queueBase 0) / 0x400
    let q := a / 16 % 64
    s.setQueue p d q ((s.queue p d q).write (a / 8 % 2) v)
  else if pageBase 0 ≤ a && a < pageBase 2 && s.partOnDie p ((a - pageBase 0) / 0x1000) then s.writePage p ((a - pageBase 0) / 0x1000) (a % 0x1000) v
  else s

/-- An aligned write of it by one of the partition's control cores. -/
def State.writeControl (s : State) (p a : Nat) (v : W64) : State := if a % 8 = 0 then s.writePartition p a v.toNat else s

/-- A read of a partition's control space. -/
def State.readPartition (s : State) (p a : Nat) : Nat :=
  if (s.part p).st = .free then 0
  else if a < 8 * (s.capWords p).length then listGet 0 (s.capWords p) (a / 8)
  else if a = decaywAddr then
    let d := (s.part p).decayw
    d.lambda.toNat + d.cls.toNat * 2 ^ 32 + d.asid * 2 ^ 40 + d.err.toNat * 2 ^ 61 + d.run.isSome.toNat * 2 ^ 62
  else if attestBase ≤ a && a < attestBase + 48 then
    let x := (s.part p).attn
    let k := (a - attestBase) / 8
    if k < 4 then (listGet 0 x.nonce k).toNat else if k = 4 then x.out.toNat else x.run.isSome.toNat * 2
  else if astabBase ≤ a && a < astabBase + 0x40000 then (s.asidRec p ((a - astabBase) / 64)).read (a / 8 % 8)
  else if queueBase 0 ≤ a && a < queueBase 2 && s.partOnDie p ((a - queueBase 0) / 0x400) then
    (s.queue p ((a - queueBase 0) / 0x400) (a / 16 % 64)).read (a / 8 % 2)
  else if pageBase 0 ≤ a && a < pageBase 2 && s.partOnDie p ((a - pageBase 0) / 0x1000) then s.readPage p ((a - pageBase 0) / 0x1000) (a % 0x1000)
  else 0

/-- A control core's earlier accesses that one of its control space comes after: those in-die, but no store before a read (R295, R431). -/
def State.controlAfter (s : State) (c : Nat) (write : Bool) : List Nat :=
  mkeys s.accesses (fun _ a => a.gk == ccoreKey c && !a.crossing && (write || !a.op.isStore))

/-- The next operation of a control core of a partition, an access of its control space, is performed once it may be, and later ones are issued after it
(log 106, DESIGN CHOICE). -/
def State.controlOn (s : State) (c p : Nat) : State :=
  let x := mgetD s.ccores c { ops := [], vals := [] }
  match x.ops with
  | .control a v :: l =>
    if (s.controlAfter c v.isSome).isEmpty then
      match v with
      | some v => (s.setCcore c { x with ops := l }).writeControl p a v
      | none => s.setCcore c { ops := l, vals := x.vals ++ [if a % 8 = 0 then s.readPartition p a else 0] }
    else s
  | _ => s

/-- Every control core of a partition that has come to an access of its control space. -/
def State.controlsOn (s : State) : State :=
  (mkeys s.ccores (fun _ x => !x.ops.isEmpty)).foldl (fun s c => match s.partOfRegion (c / 4) with | some p => s.controlOn c p | none => s) s

/-- REGISTER_WRITE: an aligned 8-byte access of a control space (R431) is performed; Mboel acts while it has power, in safe mode on its error log alone
(R444). -/
def execRegisterWrite (w : CsWrite) (s : State) : Host.Outcome State Fault Refusal :=
  .next
    (match w.part with
     | none => if w.addr % 8 = 0 && (s.pkg.serves || (s.pkg.powered && w.addr = 0x62000)) then s.writePackage w.addr w.val.toNat w.first else s
     | some p => if p < 4 then s.writeControl p w.addr w.val else s)

end Sys2Proof.Machine
end

