-- ==== Sys2Proof/Machine/Dispatch.lean ====
section
/-! DEFINITION. One arm per instruction and machine event: a direct call of its meaning. -/

namespace Sys2Proof.Machine

/-- What an instruction, or a machine event, does to the machine. -/
def exec (i : Instr) (s : State) : Host.Outcome State Fault Refusal :=
  match i with
  | .nop o => Sys2Proof.Machine.execNop o s
  | .bra o => Sys2Proof.Machine.execBra o s
  | .brp o => Sys2Proof.Machine.execBrp o s
  | .brx o => Sys2Proof.Machine.execBrx o s
  | .call o => Sys2Proof.Machine.execCall o s
  | .ret o => Sys2Proof.Machine.execRet o s
  | .jarm k o => Sys2Proof.Machine.execJarm k o s
  | .join k o => Sys2Proof.Machine.execJoin k o s
  | .jdrop k o => Sys2Proof.Machine.execJdrop k o s
  | .loop o => Sys2Proof.Machine.execLoop o s
  | .loopx o => Sys2Proof.Machine.execLoopx o s
  | .yield o => Sys2Proof.Machine.execYield o s
  | .exit o => Sys2Proof.Machine.execExit o s
  | .tileb o => Sys2Proof.Machine.execTileb o s
  | .trap n o => Sys2Proof.Machine.execTrap n o s
  | .eret o => Sys2Proof.Machine.execEret o s
  | .bkpt n o => Sys2Proof.Machine.execBkpt n o s
  | .voteAll o => Sys2Proof.Machine.execVoteAll o s
  | .voteAny o => Sys2Proof.Machine.execVoteAny o s
  | .voteBallot o => Sys2Proof.Machine.execVoteBallot o s
  | .fuse o => Sys2Proof.Machine.execFuse o s
  | .split o => Sys2Proof.Machine.execSplit o s
  | .grow n o => Sys2Proof.Machine.execGrow n o s
  | .growNb n o => Sys2Proof.Machine.execGrowNb n o s
  | .shrink n o => Sys2Proof.Machine.execShrink n o s
  | .gang o => Sys2Proof.Machine.execGang o s
  | .pathqLive o => Sys2Proof.Machine.execPathqLive o s
  | .pathqMlo o => Sys2Proof.Machine.execPathqMlo o s
  | .pathqMhi o => Sys2Proof.Machine.execPathqMhi o s
  | .iadd t o => Sys2Proof.Machine.execIadd t o s
  | .isub t o => Sys2Proof.Machine.execIsub t o s
  | .imul t o => Sys2Proof.Machine.execImul t o s
  | .imulh t o => Sys2Proof.Machine.execImulh t o s
  | .imad t o => Sys2Proof.Machine.execImad t o s
  | .idiv t o => Sys2Proof.Machine.execIdiv t o s
  | .irem t o => Sys2Proof.Machine.execIrem t o s
  | .imin t o => Sys2Proof.Machine.execImin t o s
  | .imax t o => Sys2Proof.Machine.execImax t o s
  | .iabs t o => Sys2Proof.Machine.execIabs t o s
  | .ineg t o => Sys2Proof.Machine.execIneg t o s
  | .shadd t sh o => Sys2Proof.Machine.execShadd t sh o s
  | .and t o => Sys2Proof.Machine.execAnd t o s
  | .or t o => Sys2Proof.Machine.execOr t o s
  | .xor t o => Sys2Proof.Machine.execXor t o s
  | .not t o => Sys2Proof.Machine.execNot t o s
  | .shl t o => Sys2Proof.Machine.execShl t o s
  | .shr t o => Sys2Proof.Machine.execShr t o s
  | .sar t o => Sys2Proof.Machine.execSar t o s
  | .popc t o => Sys2Proof.Machine.execPopc t o s
  | .clz t o => Sys2Proof.Machine.execClz t o s
  | .brev t o => Sys2Proof.Machine.execBrev t o s
  | .bfx t o => Sys2Proof.Machine.execBfx t o s
  | .bfi t o => Sys2Proof.Machine.execBfi t o s
  | .icmp t r o => Sys2Proof.Machine.execIcmp t r o s
  | .sel t o => Sys2Proof.Machine.execSel t o s
  | .mov t o => Sys2Proof.Machine.execMov t o s
  | .movi t o => Sys2Proof.Machine.execMovi t o s
  | .plop tt o => Sys2Proof.Machine.execPlop tt o s
  | .shflIdx t o => Sys2Proof.Machine.execShflIdx t o s
  | .shflUp t o => Sys2Proof.Machine.execShflUp t o s
  | .shflDown t o => Sys2Proof.Machine.execShflDown t o s
  | .shflXor t o => Sys2Proof.Machine.execShflXor t o s
  | .bcst t o => Sys2Proof.Machine.execBcst t o s
  | .rdln t o => Sys2Proof.Machine.execRdln t o s
  | .rdsp o => Sys2Proof.Machine.execRdsp o s
  | .wrsp o => Sys2Proof.Machine.execWrsp o s
  | .aset o => Sys2Proof.Machine.execAset o s
  | .aadd o => Sys2Proof.Machine.execAadd o s
  | .ascl o => Sys2Proof.Machine.execAscl o s
  | .amat h o => Sys2Proof.Machine.execAmat h o s
  | .aget h o => Sys2Proof.Machine.execAget h o s
  | .fadd o => Sys2Proof.Machine.execFadd o s
  | .fsub o => Sys2Proof.Machine.execFsub o s
  | .fmul o => Sys2Proof.Machine.execFmul o s
  | .ffma o => Sys2Proof.Machine.execFfma o s
  | .fmin o => Sys2Proof.Machine.execFmin o s
  | .fmax o => Sys2Proof.Machine.execFmax o s
  | .fabs o => Sys2Proof.Machine.execFabs o s
  | .fneg o => Sys2Proof.Machine.execFneg o s
  | .fcmp r o => Sys2Proof.Machine.execFcmp r o s
  | .frcp o => Sys2Proof.Machine.execFrcp o s
  | .frsq o => Sys2Proof.Machine.execFrsq o s
  | .fsqrt o => Sys2Proof.Machine.execFsqrt o s
  | .fdiv o => Sys2Proof.Machine.execFdiv o s
  | .fexp2 o => Sys2Proof.Machine.execFexp2 o s
  | .flog2 o => Sys2Proof.Machine.execFlog2 o s
  | .fsin o => Sys2Proof.Machine.execFsin o s
  | .fcos o => Sys2Proof.Machine.execFcos o s
  | .ftanh o => Sys2Proof.Machine.execFtanh o s
  | .fsigm o => Sys2Proof.Machine.execFsigm o s
  | .frnd r o => Sys2Proof.Machine.execFrnd r o s
  | .fclass o => Sys2Proof.Machine.execFclass o s
  | .fscl o => Sys2Proof.Machine.execFscl o s
  | .cvt src dst o => Sys2Proof.Machine.execCvt src dst o s
  | .cvtb dst o => Sys2Proof.Machine.execCvtb dst o s
  | .cvtn o => Sys2Proof.Machine.execCvtn o s
  | .cvtx src o => Sys2Proof.Machine.execCvtx src o s
  | .redtAdd t o => Sys2Proof.Machine.execRedtAdd t o s
  | .redtMax t o => Sys2Proof.Machine.execRedtMax t o s
  | .redtMin t o => Sys2Proof.Machine.execRedtMin t o s
  | .scan t o => Sys2Proof.Machine.execScan t o s
  | .sample o => Sys2Proof.Machine.execSample o s
  | .rngk o => Sys2Proof.Machine.execRngk o s
  | .rngu t o => Sys2Proof.Machine.execRngu t o s
  | .rngn o => Sys2Proof.Machine.execRngn o s
  | .vmask o => Sys2Proof.Machine.execVmask o s
  | .dorg idx o => Sys2Proof.Machine.execDorg idx o s
  | .dset f o => Sys2Proof.Machine.execDset f o s
  | .dadd f o => Sys2Proof.Machine.execDadd f o s
  | .dsub f o => Sys2Proof.Machine.execDsub f o s
  | .dmul f o => Sys2Proof.Machine.execDmul f o s
  | .dfma f o => Sys2Proof.Machine.execDfma f o s
  | .ddiv f o => Sys2Proof.Machine.execDdiv f o s
  | .drcp f o => Sys2Proof.Machine.execDrcp f o s
  | .dsqrt f o => Sys2Proof.Machine.execDsqrt f o s
  | .dexp f o => Sys2Proof.Machine.execDexp f o s
  | .dlog f o => Sys2Proof.Machine.execDlog f o s
  | .dtanh f o => Sys2Proof.Machine.execDtanh f o s
  | .dsigm f o => Sys2Proof.Machine.execDsigm f o s
  | .dmax f o => Sys2Proof.Machine.execDmax f o s
  | .dmin f o => Sys2Proof.Machine.execDmin f o s
  | .dscl f o => Sys2Proof.Machine.execDscl f o s
  | .dvar f o => Sys2Proof.Machine.execDvar f o s
  | .dstd f o => Sys2Proof.Machine.execDstd f o s
  | .dsens idx o => Sys2Proof.Machine.execDsens idx o s
  | .dindep o => Sys2Proof.Machine.execDindep o s
  | .dtrk o => Sys2Proof.Machine.execDtrk o s
  | .dcvt n f o => Sys2Proof.Machine.execDcvt n f o s
  | .dred f o => Sys2Proof.Machine.execDred f o s
  | .ld sc rh sz o => Sys2Proof.Machine.execLd sc rh sz o s
  | .st sc rh sz o => Sys2Proof.Machine.execSt sc rh sz o s
  | .lds sz o => Sys2Proof.Machine.execLds sz o s
  | .sts sz o => Sys2Proof.Machine.execSts sz o s
  | .ldv sz o => Sys2Proof.Machine.execLdv sz o s
  | .stv sz o => Sys2Proof.Machine.execStv sz o s
  | .pref sc rh o => Sys2Proof.Machine.execPref sc rh o s
  | .cctlWb sc o => Sys2Proof.Machine.execCctlWb sc o s
  | .cctlInv sc o => Sys2Proof.Machine.execCctlInv sc o s
  | .cctlWbinv sc o => Sys2Proof.Machine.execCctlWbinv sc o s
  | .ldrg sc rh o => Sys2Proof.Machine.execLdrg sc rh o s
  | .fence sc o => Sys2Proof.Machine.execFence sc o s
  | .fenceSc sc o => Sys2Proof.Machine.execFenceSc sc o s
  | .atom sc w64 op o => Sys2Proof.Machine.execAtom sc w64 op o s
  | .atoms sc w64 op o => Sys2Proof.Machine.execAtoms sc w64 op o s
  | .datom sc o => Sys2Proof.Machine.execDatom sc o s
  | .dflush sc o => Sys2Proof.Machine.execDflush sc o s
  | .dstat sc o => Sys2Proof.Machine.execDstat sc o s
  | .radd sc o => Sys2Proof.Machine.execRadd sc o s
  | .rmerge sc o => Sys2Proof.Machine.execRmerge sc o s
  | .binit sc o => Sys2Proof.Machine.execBinit sc o s
  | .barr o => Sys2Proof.Machine.execBarr o s
  | .barrBytes o => Sys2Proof.Machine.execBarrBytes o s
  | .bexp o => Sys2Proof.Machine.execBexp o s
  | .bwait o => Sys2Proof.Machine.execBwait o s
  | .btry o => Sys2Proof.Machine.execBtry o s
  | .watch idx o => Sys2Proof.Machine.execWatch idx o s
  | .send ch o => Sys2Proof.Machine.execSend ch o s
  | .recv ch o => Sys2Proof.Machine.execRecv ch o s
  | .recvTry ch o => Sys2Proof.Machine.execRecvTry ch o s
  | .sendr ch o => Sys2Proof.Machine.execSendr ch o s
  | .mcst ch o => Sys2Proof.Machine.execMcst ch o s
  | .chqFree ch o => Sys2Proof.Machine.execChqFree ch o s
  | .chqFilled ch o => Sys2Proof.Machine.execChqFilled ch o s
  | .mld m o => Sys2Proof.Machine.execMld m o s
  | .tld m o => Sys2Proof.Machine.execTld m o s
  | .tldTrn m o => Sys2Proof.Machine.execTldTrn m o s
  | .tst m o => Sys2Proof.Machine.execTst m o s
  | .mma acc mb ma o => Sys2Proof.Machine.execMma acc mb ma o s
  | .mzero acc o => Sys2Proof.Machine.execMzero acc o s
  | .mrd acc o => Sys2Proof.Machine.execMrd acc o s
  | .mwr acc o => Sys2Proof.Machine.execMwr acc o s
  | .mperm m o => Sys2Proof.Machine.execMperm m o s
  | .mqry o => Sys2Proof.Machine.execMqry o s
  | .job o => Sys2Proof.Machine.execJob o s
  | .jqry o => Sys2Proof.Machine.execJqry o s
  | .launch o => Sys2Proof.Machine.execLaunch o s
  | .gsig o => Sys2Proof.Machine.execGsig o s
  | .taskget o => Sys2Proof.Machine.execTaskget o s
  | .taskgetNb o => Sys2Proof.Machine.execTaskgetNb o s
  | .taskdone o => Sys2Proof.Machine.execTaskdone o s
  | .taskadd o => Sys2Proof.Machine.execTaskadd o s
  | .cbind o => Sys2Proof.Machine.execCbind o s
  | .cmaskS o => Sys2Proof.Machine.execCmaskS o s
  | .cmaskV o => Sys2Proof.Machine.execCmaskV o s
  | .cmaskM o => Sys2Proof.Machine.execCmaskM o s
  | .cfeed o => Sys2Proof.Machine.execCfeed o s
  | .cfork o => Sys2Proof.Machine.execCfork o s
  | .croll o => Sys2Proof.Machine.execCroll o s
  | .cdrop o => Sys2Proof.Machine.execCdrop o s
  | .csave o => Sys2Proof.Machine.execCsave o s
  | .cload o => Sys2Proof.Machine.execCload o s
  | .cstat o => Sys2Proof.Machine.execCstat o s
  | .sysr o => Sys2Proof.Machine.execSysr o s
  | .sysw o => Sys2Proof.Machine.execSysw o s
  | .step o => Sys2Proof.Machine.execStep o s
  | .evt o => Sys2Proof.Machine.execEvt o s
  | .clock o => Sys2Proof.Machine.execClock o s
  | .pathFill g => Sys2Proof.Machine.execPathFill g s
  | .growGrant q => Sys2Proof.Machine.execGrowGrant q s
  | .mmaStart q => Sys2Proof.Machine.execMmaStart q s
  | .mmaComplete q => Sys2Proof.Machine.execMmaComplete q s
  | .mouldTransferDone id => Sys2Proof.Machine.execMouldTransferDone id s
  | .loadReturn iid => Sys2Proof.Machine.execLoadReturn iid s
  | .accessPerform id => Sys2Proof.Machine.execAccessPerform id s
  | .replicaInvalidate die sector => Sys2Proof.Machine.execReplicaInvalidate die sector s
  | .sectorConvert sector cols wide => Sys2Proof.Machine.execSectorConvert sector cols wide s
  | .datomArrival id => Sys2Proof.Machine.execDatomArrival id s
  | .dflushPerform id => Sys2Proof.Machine.execDflushPerform id s
  | .barrierUnitOp rid => Sys2Proof.Machine.execBarrierUnitOp rid s
  | .engineBytesLand job n => Sys2Proof.Machine.execEngineBytesLand job n s
  | .watchFire core idx => Sys2Proof.Machine.execWatchFire core idx s
  | .fenceComplete g p => Sys2Proof.Machine.execFenceComplete g p s
  | .sendInject id => Sys2Proof.Machine.execSendInject id s
  | .channelPacketArrive id => Sys2Proof.Machine.execChannelPacketArrive id s
  | .allowanceReturn id => Sys2Proof.Machine.execAllowanceReturn id s
  | .faultRecordPost id => Sys2Proof.Machine.execFaultRecordPost id s
  | .resolveReplay p die id => Sys2Proof.Machine.execResolveReplay p die id s
  | .resolveProtection p die id => Sys2Proof.Machine.execResolveProtection p die id s
  | .resolveMchk p die id => Sys2Proof.Machine.execResolveMchk p die id s
  | .longHandler g => Sys2Proof.Machine.execLongHandler g s
  | .watchdog g => Sys2Proof.Machine.execWatchdog g s
  | .pathBoost g p => Sys2Proof.Machine.execPathBoost g p s
  | .chainInterrupt q => Sys2Proof.Machine.execChainInterrupt q s
  | .stallSample q => Sys2Proof.Machine.execStallSample q s
  | .traceRecord die src => Sys2Proof.Machine.execTraceRecord die src s
  | .traceGo die => Sys2Proof.Machine.execTraceGo die s
  | .filterLoad die v => Sys2Proof.Machine.execFilterLoad die v s
  | .tholdSet die v => Sys2Proof.Machine.execTholdSet die v s
  | .tholdClr die v => Sys2Proof.Machine.execTholdClr die v s
  | .traceOwner v => Sys2Proof.Machine.execTraceOwner v s
  | .queueTailWrite p die q tail => Sys2Proof.Machine.execQueueTailWrite p die q tail s
  | .dispatchEntry p die q => Sys2Proof.Machine.execDispatchEntry p die q s
  | .launchEnqueue id => Sys2Proof.Machine.execLaunchEnqueue id s
  | .kernelNodeStart inst node => Sys2Proof.Machine.execKernelNodeStart inst node s
  | .clusterPlace launch => Sys2Proof.Machine.execClusterPlace launch s
  | .coschedPlace launch => Sys2Proof.Machine.execCoschedPlace launch s
  | .jobsetNode inst node => Sys2Proof.Machine.execJobsetNode inst node s
  | .condNode inst node => Sys2Proof.Machine.execCondNode inst node s
  | .loopNodeIteration inst node => Sys2Proof.Machine.execLoopNodeIteration inst node s
  | .graphNode inst node => Sys2Proof.Machine.execGraphNode inst node s
  | .eventNode inst node => Sys2Proof.Machine.execEventNode inst node s
  | .hostNodePost inst node => Sys2Proof.Machine.execHostNodePost inst node s
  | .hostDone inst node v => Sys2Proof.Machine.execHostDone inst node v s
  | .nodeComplete inst node => Sys2Proof.Machine.execNodeComplete inst node s
  | .jobStart job => Sys2Proof.Machine.execJobStart job s
  | .jobComplete job => Sys2Proof.Machine.execJobComplete job s
  | .jobFail job cause => Sys2Proof.Machine.execJobFail job cause s
  | .jobStop job => Sys2Proof.Machine.execJobStop job s
  | .genRaise p asid => Sys2Proof.Machine.execGenRaise p asid s
  | .genRaiseDone p asid => Sys2Proof.Machine.execGenRaiseDone p asid s
  | .shootdownReceive p asid depth children => Sys2Proof.Machine.execShootdownReceive p asid depth children s
  | .shootdownAck p asid child count silent => Sys2Proof.Machine.execShootdownAck p asid child count silent s
  | .shootdownChildTimeout p asid => Sys2Proof.Machine.execShootdownChildTimeout p asid s
  | .shootdownTimeout p asid => Sys2Proof.Machine.execShootdownTimeout p asid s
  | .peerInbound r => Sys2Proof.Machine.execPeerInbound r s
  | .peerReply id cause data data2 => Sys2Proof.Machine.execPeerReply id cause data data2 s
  | .remoteTimeout id => Sys2Proof.Machine.execRemoteTimeout id s
  | .migrateMove p die asid => Sys2Proof.Machine.execMigrateMove p die asid s
  | .migrateRelease p die => Sys2Proof.Machine.execMigrateRelease p die s
  | .migrateCopyDone p die failed => Sys2Proof.Machine.execMigrateCopyDone p die failed s
  | .pinExpire stack asid vpage => Sys2Proof.Machine.execPinExpire stack asid vpage s
  | .preemptGo p die all => Sys2Proof.Machine.execPreemptGo p die all s
  | .preemptStop g => Sys2Proof.Machine.execPreemptStop g s
  | .preemptStopBound g => Sys2Proof.Machine.execPreemptStopBound g s
  | .preemptDone p die => Sys2Proof.Machine.execPreemptDone p die s
  | .resumeaWrite p die v => Sys2Proof.Machine.execResumeaWrite p die v s
  | .teamRestore idx core => Sys2Proof.Machine.execTeamRestore idx core s
  | .creset p die desc clid => Sys2Proof.Machine.execCreset p die desc clid s
  | .groveDecrement id => Sys2Proof.Machine.execGroveDecrement id s
  | .coilMaskWalk die => Sys2Proof.Machine.execCoilMaskWalk die s
  | .coilFeedWalk die => Sys2Proof.Machine.execCoilFeedWalk die s
  | .maskUnitLand id unit => Sys2Proof.Machine.execMaskUnitLand id unit s
  | .stepPerform p => Sys2Proof.Machine.execStepPerform p s
  | .sweepRoundStart p asid k => Sys2Proof.Machine.execSweepRoundStart p asid k s
  | .sweepBeat stack => Sys2Proof.Machine.execSweepBeat stack s
  | .sweepRoundEnd p asid k => Sys2Proof.Machine.execSweepRoundEnd p asid k s
  | .decaywGo p v => Sys2Proof.Machine.execDecaywGo p v s
  | .decaywDone p => Sys2Proof.Machine.execDecaywDone p s
  | .budgetPeriod p a => Sys2Proof.Machine.execBudgetPeriod p a s
  | .pcmdCreate t regions => Sys2Proof.Machine.execPcmdCreate t regions s
  | .pcmdMerge first t => Sys2Proof.Machine.execPcmdMerge first t s
  | .pcmdSplit first t regions => Sys2Proof.Machine.execPcmdSplit first t regions s
  | .pcmdStop first => Sys2Proof.Machine.execPcmdStop first s
  | .pcmdRerange rng => Sys2Proof.Machine.execPcmdRerange rng s
  | .quiesceDrained => Sys2Proof.Machine.execQuiesceDrained s
  | .quiesceTimeout => Sys2Proof.Machine.execQuiesceTimeout s
  | .partitionBoot p => Sys2Proof.Machine.execPartitionBoot p s
  | .coldStart => Sys2Proof.Machine.execColdStart s
  | .warm recordsValid => Sys2Proof.Machine.execWarm recordsValid s
  | .start => Sys2Proof.Machine.execStart s
  | .startPhaseTimeout => Sys2Proof.Machine.execStartPhaseTimeout s
  | .attestGo p => Sys2Proof.Machine.execAttestGo p s
  | .attestDone p => Sys2Proof.Machine.execAttestDone p s
  | .retireCore die idx => Sys2Proof.Machine.execRetireCore die idx s
  | .hbmRow pa => Sys2Proof.Machine.execHbmRow pa s
  | .hbmChannel pa => Sys2Proof.Machine.execHbmChannel pa s
  | .sramRow die str row => Sys2Proof.Machine.execSramRow die str row s
  | .lane dir grp => Sys2Proof.Machine.execLane dir grp s
  | .port n => Sys2Proof.Machine.execPort n s
  | .ccore n => Sys2Proof.Machine.execCcore n s
  | .repairBlockMove => Sys2Proof.Machine.execRepairBlockMove s
  | .repairDone ok => Sys2Proof.Machine.execRepairDone ok s
  | .eccCorrected e => Sys2Proof.Machine.execEccCorrected e s
  | .eccUncorrectable e => Sys2Proof.Machine.execEccUncorrectable e s
  | .flitCrcError dir grp => Sys2Proof.Machine.execFlitCrcError dir grp s
  | .scrubBeat unit => Sys2Proof.Machine.execScrubBeat unit s
  | .heartbeat => Sys2Proof.Machine.execHeartbeat s
  | .heartbeatMiss pkg => Sys2Proof.Machine.execHeartbeatMiss pkg s
  | .shadowAck p idx => Sys2Proof.Machine.execShadowAck p idx s
  | .buddyMap pkg p idx frame asid vpage => Sys2Proof.Machine.execBuddyMap pkg p idx frame asid vpage s
  | .firmwareUpdate kind image sigOk => Sys2Proof.Machine.execFirmwareUpdate kind image sigOk s
  | .microcodeLoad unit => Sys2Proof.Machine.execMicrocodeLoad unit s
  | .powerThrottle island freq => Sys2Proof.Machine.execPowerThrottle island freq s
  | .registerWrite w => Sys2Proof.Machine.execRegisterWrite w s
  | .shadowMirrorReceive pkg p idx pa data => Sys2Proof.Machine.execShadowMirrorReceive pkg p idx pa data s
  | .heartbeatReceive pkg => Sys2Proof.Machine.execHeartbeatReceive pkg s
  | .powerFail => Sys2Proof.Machine.execPowerFail s

end Sys2Proof.Machine
end

