-- ==== Sys2Proof/Machine/Policy.lean ====
section
/-! DEFINITION. Which move a step makes (log 2, log 4, DESIGN CHOICE), and a program placed for the next step (log 12, DESIGN CHOICE). -/

namespace Sys2Proof.Machine

/-- What an event does to the machine, with what it acts on given. -/
abbrev Meaning := State → Host.Outcome State Fault Refusal

/-- What stands between an access and its performing: replicas, and a sector held by columns (R276, R293). -/
def State.clearing (s : State) (a : Access) : List Meaning :=
  if !a.cacheable || a.op.loose then []
  else
    let k := sectorOf a.loc
    (if s.inColumns k then [execSectorConvert k false false] else [])
      ++ (if a.op.isLoad then [] else ([0, 1].filter (fun d => s.replicaOn d k)).map (fun d => execReplicaInvalidate d k))

def State.accessMoves (s : State) : List Meaning :=
  s.accesses.flatMap (fun x => s.clearing x.2 ++
    [match x.2.op with | .datom _ _ => execDatomArrival x.1 | .dflush _ => execDflushPerform x.1 | _ => execAccessPerform x.1])

/-- What a group may have to do of itself. -/
def groupMoves (gk : Nat) (g : Group) : List Meaning :=
  execPathFill gk :: execPreemptStop gk ::
    g.paths.flatMap (fun p => match p.2.st with | .blocked (.fence _ _ _ _ _ _) => [execFenceComplete gk p.1] | .ready => [execPathBoost gk p.1] | _ => [])

def quarterMoves (q : Nat) (x : Quarter) : List Meaning :=
  (if x.growq.isEmpty then [] else [execGrowGrant q]) ++ (if x.mmaq.isEmpty then [] else [execMmaStart q, execMmaComplete q])
    ++ (if x.chain.isSome then [execChainInterrupt q] else [])

/-- What a node may do next, by its kind. -/
def nodeMoves (i a : Nat) (n : GNode) : List Meaning :=
  execNodeComplete i a ::
    (match n.kind with
     | 0 => [execKernelNodeStart i a]
     | 1 => [execJobsetNode i a]
     | 2 => [execCondNode i a]
     | 3 => [execLoopNodeIteration i a]
     | 4 => [execGraphNode i a]
     | 5 => [execEventNode i a]
     | _ => [execHostNodePost i a])

def jobMoves (j : Nat) : List Meaning := [execJobStart j, execJobStop j, execEngineBytesLand j 4096, execJobComplete j]

/-- What an address-space record may have under way. -/
def asidMoves (p a : Nat) (r : AsidRec) : List Meaning :=
  (if r.next.isSome then [execGenRaiseDone p a] else []) ++ (if r.shoot.isSome then [execShootdownChildTimeout p a, execShootdownTimeout p a] else []) ++ r.rounds.map (fun x => execSweepRoundEnd p a x.1) ++ r.last.map (fun x => execSweepRoundStart p a x.1)

def State.partMoves (s : State) (p : Nat) (x : Part) : List Meaning :=
  (if x.st = .starting then [execPartitionBoot p] else []) ++ (if x.decayw.run.isSome then [execDecaywDone p] else [])
    ++ (if x.attn.run.isSome then [execAttestDone p] else []) ++ [execStepPerform p] ++ x.asids.flatMap (fun a => asidMoves p a.1 a.2)
    ++ [0, 1].flatMap (fun d =>
      (match s.nextQueue p d with | some q => [execDispatchEntry p d q] | none => [])
        ++ (if (x.die d).pre.run.isSome then [execPreemptDone p d] else []) ++ (if (x.die d).mig.copying.isSome then [execMigrateCopyDone p d false] else []))

/-- Where a saved team may be restored. -/
def savedMoves (i : Nat) (x : Saved) : List Meaning :=
  if !x.resume then [] else execTeamRestore i x.core :: (if x.move then (List.range 192).map (fun c => execTeamRestore i c) else [])

/-- What Mboel and the saggar units may do. -/
def State.packageMoves (s : State) : List Meaning :=
  let k := s.pkg
  (if k.powered && k.phase = 0 && !k.starting && !k.safe then [execColdStart] else []) ++ (if k.portAttn.isSome then [execAttestDone 4] else []) ++ (if k.pcmd.busy then [execQuiesceDrained] else [])
    ++ (if k.rcmd.busy then [execRepairBlockMove, execRepairDone true] else []) ++ k.microcode.map (fun u => execMicrocodeLoad u)
    ++ (if s.parts.any (fun p => p.2.asids.any (fun a => !a.2.rounds.isEmpty)) then (List.range 8).map (fun d => execSweepBeat d) else [])

/-- Periods that have to end for an activity to go on (R452). -/
def State.periods (s : State) : List Meaning :=
  (s.pkg.budgets.filter (fun b => b.2.spent.any (fun x => decide (x.2.n ≥ s.grant (b.1 / 8) (b.1 % 8))))).map (fun b => execBudgetPeriod (b.1 / 8) (b.1 % 8))

/-- Machine events that may have something to do, in the model's own order. -/
def State.candidates (s : State) : List Meaning :=
  s.loads.map (fun x => execLoadReturn x.1) ++ s.accessMoves ++ s.barReqs.map (fun x => execBarrierUnitOp x.1)
    ++ s.cores.flatMap (fun c => (c.2.watches.filter (fun w => w.2.hit)).map (fun w => execWatchFire c.1 w.1))
    ++ s.sends.map (fun x => execSendInject x.1) ++ s.packets.map (fun x => execChannelPacketArrive x.1) ++ s.returns.map (fun x => execAllowanceReturn x.1)
    ++ s.xfers.map (fun x => execMouldTransferDone x.1) ++ s.quarters.flatMap (fun q => quarterMoves q.1 q.2) ++ s.groups.flatMap (fun g => groupMoves g.1 g.2)
    ++ (s.frecs.filter (fun f => !f.2.posted)).map (fun f => execFaultRecordPost f.1)
    ++ s.traces.flatMap (fun t => (t.2.queues.filter (fun q => !q.2.isEmpty)).map (fun q => execTraceRecord t.1 q.1))
    ++ s.launchReqs.map (fun x => execLaunchEnqueue x.1)
    ++ s.coilq.flatMap (fun x => x.2.units.map (fun u => execMaskUnitLand x.1 u))
    ++ (if s.coilq.isEmpty then [] else [execCoilMaskWalk 0, execCoilMaskWalk 1, execCoilFeedWalk 0, execCoilFeedWalk 1]) ++ s.decs.map (fun x => execGroveDecrement x.1)
    ++ (s.jobs.filter (fun j => !j.2.st.over)).flatMap (fun j => jobMoves j.1) ++ s.parts.flatMap (fun p => s.partMoves p.1 p.2)
    ++ s.insts.flatMap (fun i => i.2.nodes.flatMap (fun n => nodeMoves i.1 n.1 n.2))
    ++ s.launches.flatMap (fun l => if l.2.waits then [execClusterPlace l.1, execCoschedPlace l.1] else []) ++ s.saved.flatMap (fun x => savedMoves x.1 x.2)
    ++ s.peers.map (fun x => execRemoteTimeout x.1) ++ s.packageMoves ++ s.periods

/-- An event changes something. -/
def State.acts (s : State) (e : Meaning) : Bool := match e s with | .next t => t != s | _ => false

/-- The first event that has something to do. -/
def State.firstEvent (s : State) : Option Meaning := s.candidates.find? s.acts

/-- The quarter whose turn it is: the next, in cyclic order, from which a path may issue. -/
def State.nextQuarter (s : State) : Option Nat :=
  let may := fun (x : Nat × Group) => x.2.paths.any (fun y => x.2.mayIssue y.1 y.2) && (s.pick (quarterOf x.1)).isSome
  let later := s.groups.find? (fun x => decide (quarterOf x.1 > s.lastQ) && may x)
  (later.or (s.groups.find? may)).map (fun x => quarterOf x.1)

/-- Where a placed program lies, by physical and virtual address alike. -/
def progBase : Nat := 0x10000

/-- Address of the level-5 table that a placed program's address space uses. -/
def progRoot : Nat := 0x100000

/-- A program's bytes placed at `progBase`, in partition 0 with an address space that maps the first 1 GiB to itself, and a team of one group of 8 lanes on
core 0 that is about to issue at it (log 12, DESIGN CHOICE). -/
def State.withProgram (s : State) (bs : List Byte) : State :=
  let s := s.write progBase bs
  let s := s.writeNat progRoot 8 (1 + (progRoot + 0x1000))
  let s := s.writeNat (progRoot + 0x1000) 8 (1 + (progRoot + 0x2000))
  let s := s.writeNat (progRoot + 0x2000) 8 0x1F
  let ar : AsidRec := { AsidRec.reset with root := BitVec.ofNat 64 progRoot, en := true }
  let part : Part := { Part.reset with st := .running, regions := 15, asids := mset [] 1 ar, cap := s.packageWord }
  let l : Launch :=
    { Launch.empty with entry := BitVec.ofNat 56 progBase, fmt := 0x000FC000, regs := 32, width := 8, ngroups := 1, clw := 1, clh := 1, grid := 1, dies := 1, asid := 1, nextCl := 1, teams := 1 }
  let p : Path :=
    { entry := some 0, mask := fullMask 8, pc := BitVec.ofNat 56 progBase, fmt := 0x000FC000, loops := [], st := .ready, stamp := 0, since := 0, idle := 0, boosted := false,
      ilen := 0, ipc := 0, back := none, lastCh := false, noCut := none, hold := false }
  let g : Group :=
    { launch := 0, rank := 0, width := 8, base := 32, blocks := 32, v := [], s := [], a := [], p := [], rejoin := [], paths := [(0, p)], nextPid := 1,
      live := fullMask 8, spill := 0, prio := 0, pending := [], key := 0, ctr := 0, ofs := 0, dz := false, cycap := 0, seq := 0, watchdog := 0, wdDue := false, handler := none,
      park := none, unfinished := [], dead := false, stopped := false, tasks := [], lastIssue := 0,
      lastPid := 0, lastPc := 0 }
  let t : Team := { launch := 0, clid := 0, idx := 0, preempt := none, since := 0 }
  { s with
    agenda := [.issue 0]
    parts := mset s.parts 0 part
    launches := mset s.launches 0 l
    groups := mset s.groups 0 g
    cores := mset s.cores 0 { s.core 0 with team := some t }
    pkg := { s.pkg with mir := mset s.pkg.mir 0 (BitVec.ofNat 128 (2 ^ 56 + (2 ^ 48 - 1))) } }

end Sys2Proof.Machine
end

