-- ==== Sys2Proof/Machine/Step.lean ====
section
/-! DEFINITION. One step of the machine: the next move (log 2, log 4, DESIGN CHOICE) is an issue of a quarter or a machine event; what follows of itself is settled after
it. -/

namespace Sys2Proof.Machine

/-- What every step ends with: waits that are over end, quarters take the samples that are due, no path issues any more, time passes. -/
def State.after (s : State) : State :=
  let t := (State.settle { s.controlsOn with cur := none }).sampleAll (s.cur.map (fun c => (c.gk, c.pid)))
  { t with cur := none, tick := s.tick + 1 }

def afterStep : Host.Outcome State Fault Refusal → Host.Outcome State Fault Refusal
  | .next s => .next s.after
  | .fault r => .fault r
  | .refused r => .refused r

/-- The turn of a quarter. -/
def issueAt (q : Nat) (s : State) : Host.Outcome State Fault Refusal :=
  match s.turn q with
  | (.run _ _ i, s) => exec i s
  | (.over, s) => .next s

/-- The move that the machine makes: the agenda's first; else the first event of its own that has something to do; else an issue; else a start in progress
goes on (R443). -/
def move (s : State) : Host.Outcome State Fault Refusal :=
  match s.agenda with
  | .event e :: l => exec e { s with agenda := l }
  | .issue q :: l => issueAt q { s with agenda := l }
  | .ccore c x :: l => .next (({ s with agenda := l } : State).ccoreTake c x)
  | [] =>
    match s.firstEvent with
    | some e => e s
    | none =>
      match s.nextQuarter with
      | some q => issueAt q s
      | none => .next s.startOn

def step (s : State) : Host.Outcome State Fault Refusal := afterStep (move s)

/-- `s` with an instruction placed where the next step fetches it (log 12, DESIGN CHOICE). -/
def State.withFetchWord (s : State) (nbits w : Nat) : State := s.withProgram (natLe 16 (w % 2 ^ max nbits 128))

end Sys2Proof.Machine
end

