-- ==== Sys2Proof/Safety.lean ====
section
/-! DEFINITION. What a safe run is, and the terms the statements are made in: when an instruction issues with nothing holding it up (R51), and what an
instruction that is complete has written and has left alone. -/

namespace Sys2Proof.Machine

/-- The state's memory lists rising addresses and no zero byte. -/
def State.memOk (s : State) : Prop := Memory.wf s.mem = true

/-- A step that ends in a next state. -/
def goesOn (o : Host.Outcome State Fault Refusal) : Prop := ∃ s, o = .next s

/-- A safe state: its memory is canonical and the next step goes on. -/
def State.safe (s : State) : Prop := s.memOk ∧ goesOn (step s)

/-- The well-formed instruction `i` is issued by the current path of `s` and none of the checks of R51 that are common to all instructions holds it up: no
register it names waits for a write (R255), the chain rules hold (R42, R43), it does not end a loop body wrongly (R132), and its vector registers are
allocated (R34), which PREF does not ask (R190). `c` is the instruction with its path, its chain entered; `e` the same with %cycle captured where the instruction reads it (R49), which is
where its sources are read. -/
def Issues (i : Instr) (s : State) (c e : Ctx) : Prop :=
  i.WF = true ∧ (∃ c0, s.ctx i = some c0 ∧ c = c0.enter) ∧ c.pendingKeys = [] ∧ c.latchWait = none ∧ c.chainBad = false ∧ c.loopEndBad = false ∧
    (neverFaults i = true ∨ c.outside = none) ∧ e = c.capture

/-- What a complete instruction writes into its group's registers and its quarter's latches, and what it changes of the rest of its group, its path and its
quarter. -/
structure Writes where
  /-- By lane and register. -/
  vec : Nat → Nat → Option W32 := fun _ _ => none
  uni : Nat → Option W32 := fun _ => none
  /-- By predicate and lane. -/
  pred : Nat → Nat → Option Bool := fun _ _ => none
  aff : Nat → Option Affine := fun _ => none
  /-- By latch and lane. -/
  latch : Nat → Nat → Option W32 := fun _ _ => none
  group : Group → Group := fun g => g
  path : Path → Path := fun p => p
  quarter : Quarter → Quarter := fun q => q

/-- Word `k` of a value. -/
def wordAt (v k : Nat) : W32 := BitVec.ofNat 32 (v / 2 ^ (32 * k))

/-- `w` vector registers from the destination on, in the lanes `on`: the zero register discards (R31). -/
def vecWrites (d : Sel) (on : Nat → Bool) (w : Nat) (f : Nat → Nat) (l r : Nat) : Option W32 :=
  match d with
  | .v n => if on l && r != 255 && decide (n.toNat ≤ r) && decide (r < n.toNat + w) then some (wordAt (f l) (r - n.toNat)) else none
  | _ => none

/-- `w` uniform registers from the destination on. -/
def uniWrites (d : Sel) (on : Bool) (w v r : Nat) : Option W32 :=
  match d with
  | .s n => if on && decide (n.toNat ≤ r) && decide (r < n.toNat + w) then some (wordAt v (r - n.toNat)) else none
  | _ => none

/-- One latch in the lanes `on`. -/
def latchWrites (q : Nat) (on : Nat → Bool) (f : Nat → Nat) (k l : Nat) : Option W32 := if k == q && on l then some (wordAt (f l) 0) else none

/-- Results of `w` registers (R30, R98, R125): D is written in the lanes where the instruction acts, or once when U = 1, unless NWB; the latch LQ too when
LE. -/
def Writes.result (e : Ctx) (w : Nat) (f : Nat → Nat) : Writes :=
  let h := e.o.hdr
  { vec := vecWrites e.o.d (fun l => !h.u && !h.nwb && e.acts.getLsbD l) w f
    uni := uniWrites e.o.d (h.u && !h.nwb && e.actsOnce) w (f e.lead)
    latch := latchWrites h.lq.toNat (fun l => h.le && (if h.u then e.actsOnce && e.p.mask.getLsbD l else e.acts.getLsbD l))
      (fun l => if h.u then f e.lead else f l) }

/-- A predicate written in the lanes of a mask; p7 discards (R31). -/
def Writes.predicate (e : Ctx) (m : Mask) (f : Nat → Bool) : Writes :=
  { pred := fun k l => match e.o.d with | .p n => if k == n.toNat && k != 7 && m.getLsbD l then some (f l) else none | _ => none }

/-- `w` uniform registers written once. -/
def Writes.uniform (e : Ctx) (w v : Nat) : Writes := { uni := uniWrites e.o.d true w v }

/-- An affine register written. -/
def Writes.affine (e : Ctx) (x : Affine) : Writes := { aff := fun k => match e.o.d with | .a n => if k == n.toNat then some x else none | _ => none }

/-- The registers after an instruction: those written hold what was written, all others what they held. -/
def Registers (e : Ctx) (w : Writes) (g : Group) (q : Quarter) : Prop :=
  (∀ l < 64, ∀ r < 256, g.vec l r = (w.vec l r).getD (e.g.vec l r)) ∧ (∀ r < 64, g.uni r = (w.uni r).getD (e.g.uni r)) ∧
  (∀ n < 8, ∀ l < 64, g.pred n l = (w.pred n l).getD (e.g.pred n l)) ∧ (∀ n < 16, g.aff n = (w.aff n).getD (e.g.aff n)) ∧
  (∀ k < 4, ∀ l < 64, q.latchAt k l = (w.latch k l).getD (e.quarter.latchAt k l))

/-- The state but for the issuing group, its quarter and the agenda: memory, poison, every unit and every other group are as they were. -/
def Elsewhere (s : State) (gk : Nat) (t : State) : Prop :=
  t = { s with groups := t.groups, quarters := t.quarters, agenda := t.agenda } ∧ (∀ a, t.byte a = s.byte a) ∧
  (∀ k, k ≠ gk → mget? t.groups k = mget? s.groups k) ∧ (∀ q, q ≠ quarterOf gk → mget? t.quarters q = mget? s.quarters q)

/-- An issue's own traces in its group besides its registers: the watchdog's count and what it samples, and fault progress (R263, R347). -/
def Group.withIssue (g h : Group) : Group :=
  { g with watchdog := h.watchdog, lastIssue := h.lastIssue, lastPid := h.lastPid, lastPc := h.lastPc, unfinished := h.unfinished }

/-- The path after an issue: its PC and loop stack, and the counts of its issue; mask, %fmt, state and stamp as they were. -/
def Path.withIssue (p q : Path) : Path :=
  { p with pc := q.pc, loops := q.loops, since := q.since, idle := q.idle, boosted := q.boosted, ilen := q.ilen, ipc := q.ipc, back := q.back,
           lastCh := q.lastCh, noCut := q.noCut }

/-- The instruction of `e`, issued in `s`, is complete in `t`: it has written `w` and nothing else, and its path continues at `pc` with loop stack `loops`. -/
def Done (s : State) (e : Ctx) (w : Writes) (pc : Pc) (loops : List Loop) (t : State) : Prop :=
  Elsewhere s e.gk t ∧ ∃ g p, mget? t.groups e.gk = some g ∧ mget? g.paths e.pid = some p ∧
    g = { ((w.group e.g).withIssue g) with v := g.v, s := g.s, a := g.a, p := g.p, paths := g.paths } ∧
    Registers e w g (t.quarter e.q) ∧ (∀ k, k ≠ e.pid → mget? g.paths k = mget? e.g.paths k) ∧ p = (w.path e.p).withIssue p ∧ p.pc = pc ∧ p.loops = loops ∧
    t.quarter e.q = { (w.quarter e.quarter) with chain := (t.quarter e.q).chain, latch := (t.quarter e.q).latch }

/-- As `Done`, the path continuing at the following instruction, or where a loop body that ends here sends it (R132). -/
def DoneNext (s : State) (e : Ctx) (w : Writes) (t : State) : Prop :=
  Done s e w (loopStep (w.path e.p) e.p.pc e.seqPc).pc (loopStep (w.path e.p) e.p.pc e.seqPc).loops t

/-- `i` completes in `s` with the writes `w`. -/
def Completes (i : Instr) (s : State) (e : Ctx) (w : Writes) : Prop := ∃ t, exec i s = .next t ∧ DoneNext s e w t

/-- `i` completes in `s` with the writes `w`, its path continuing at `pc` with its loop stack as it was. -/
def Jumps (i : Instr) (s : State) (e : Ctx) (w : Writes) (pc : Pc) : Prop := ∃ t, exec i s = .next t ∧ Done s e w pc e.p.loops t

/-! ### Effects beyond the group -/

/-- `i` completes in `s` with the writes `w`, the machine outside its group being `s1`. -/
def CompletesIn (i : Instr) (s s1 : State) (e : Ctx) (w : Writes) : Prop := ∃ t, exec i s = .next t ∧ DoneNext s1 e w t

/-- An instruction that acts once per path does nothing where its guard is false (R125). -/
def Idle (i : Instr) (s : State) (e : Ctx) : Prop := e.actsOnce = false → Completes i s e {}

/-- The instruction of `e` has issued and its path is blocked at it (R254), the machine outside its group being `s1`, but for the event of a chain that the
wait interrupts (R261, R420). -/
def Blocked (s1 : State) (e : Ctx) (b : Block) (t : State) : Prop :=
  Elsewhere { s1 with traces := t.traces } e.gk t ∧ (e.o.hdr.ch = false → t.traces = s1.traces) ∧ ∃ g p, mget? t.groups e.gk = some g ∧ mget? g.paths e.pid = some p ∧ p.st = .blocked b ∧ p.mask = e.p.mask ∧ p.fmt = e.p.fmt ∧
    p.loops = e.p.loops ∧ (e.o.hdr.ch = false → p.pc = e.p.pc) ∧ (∀ k, k ≠ e.pid → mget? g.paths k = mget? e.g.paths k) ∧ g.v = e.g.v ∧ g.s = e.g.s ∧
    g.a = e.g.a ∧ g.p = e.g.p ∧ g.live = e.g.live

/-- `i` blocks its path with `b`. -/
def Blocks (i : Instr) (s s1 : State) (e : Ctx) (b : Block) : Prop := ∃ t, exec i s = .next t ∧ Blocked s1 e b t

/-- Entries numbered below `n` are the same in both maps. -/
def Below {α : Type} (n : Nat) (m m' : Map α) : Prop := ∀ k < n, mget? m' k = mget? m k

/-! ### Accesses -/

/-- Lanes looked up in ascending order, each in the state that the one before leaves: `p` says where they lie and `s'` is the state after them. -/
def Placed (f : Nat → State → Place × State) : List Nat → State → (Nat → Place) → State → Prop
  | [], s, _, s' => s' = s
  | l :: ls, s, p, s' => ∃ s1, f l s = (p l, s1) ∧ Placed f ls s1 p s'

/-- A lane's place in this package: its storage address, its kind and its die. -/
structure Site where
  loc : Nat
  home : Home
  die : Nat

def Site.place (x : Site) : Place := .at x.loc x.home x.die

/-- Every acting lane's access of `n` bytes may go (R180 to R182): no earlier try has performed any, no fence holds its sets, it is aligned and lies in this
package, and what it reads is not poisoned. -/
def Reaches (e : Ctx) (f : Nat → State → Place × State) (n sets : Nat) (reads : Bool) (x : Nat → Site) (s' : State) : Prop :=
  e.doneLanes = 0 ∧ e.g.fenceHolds sets = false ∧ (∀ l ∈ e.actLanes, e.ea l % n = 0) ∧ Placed f e.actLanes e.s (fun l => (x l).place) s' ∧
    (reads = true → ∀ l ∈ e.actLanes, s'.poisoned (x l).loc n = none)

/-- An access of the issuing team's own scratch, which is performed at issue (R186). -/
def Ctx.ownLoc (e : Ctx) (loc : Nat) : Prop := bankBase ≤ loc ∧ bankCore loc = e.core

/-- A lane's access. -/
def Ctx.accessOf (e : Ctx) (n : Nat) (sc : Scope) (rh : Retain) (op : Nat → Op) (x : Nat → Site) (l : Nat) : Access :=
  { iid := e.s.nextId, gk := e.gk, launch := e.g.launch, part := e.part, asid := e.asid, die := e.die, core := e.core, lane := l, op := op l, scope := sc,
    rh := rh, loc := (x l).loc, len := n, va := e.ea l, cacheable := decide ((x l).home = .cacheable),
    crossing := crosses e.die e.core (x l).loc (x l).home (x l).die, home := (x l).die, word := 0, relied := none, claimed := false, peer := none }

/-- The accesses of the lanes that act: one each, but two words for 16 bytes of a memory-side page (R280). -/
def Ctx.accessesOf (e : Ctx) (n : Nat) (sc : Scope) (rh : Retain) (op : Nat → Op) (x : Nat → Site) : List Access :=
  e.actLanes.flatMap (fun l =>
    let a := e.accessOf n sc rh op x l
    if (x l).home = .ms ∧ n = 16 then [{ a with op := (op l).half 0, len := 8 },
      { a with op := (op l).half 1, loc := a.loc + 8, len := 8, va := a.va + 8, word := 1 }] else [a])

/-- Lanes with a second word among some accesses. -/
def secondWords (as : List Access) : Mask := maskFilter (fullMask 64) (fun i => as.any (fun a => a.lane == i && a.word == 1))

/-- What translations may change: the units' TLBs and walk caches, and the orientation of sectors that a walk reads, which are written back first (R276,
R338). -/
def State.translations (s s' : State) : State := { s with tlbs := s'.tlbs, walks := s'.walks, columns := s'.columns, dirty := s'.dirty }

/-- The lanes that act, as a mask. -/
def Ctx.actMask (e : Ctx) : Mask := maskFilter (fullMask 64) (fun i => e.actLanes.contains i)

/-- The results an instruction is to get: `d` of `w` registers, or none. -/
def Ctx.awaited (e : Ctx) (as : List Access) (d : Sel) (w : Nat) (nwb : Bool) : LoadI :=
  { gk := e.gk, pid := e.pid, pc := e.p.pc, mask := e.actMask, dst := d, words := w, uni := e.o.hdr.u, nwb := nwb,
    latch := if e.o.hdr.le then some e.o.hdr.lq.toNat else none, back := e.restart e.s, left := e.actMask, upper := secondWords as, got := [], poison := none }

/-- `i` issues with one access in flight for each acting lane (R181, R255): memory and registers are as they were, the registers it will write are pending, and
its path goes on; `more` is what else the instruction changes of its group. -/
def SendsWith (more : Group → Group) (i : Instr) (s : State) (e : Ctx) (s' : State) (as : List Access) (ret : Option (Sel × Nat)) (tracked : Bool) : Prop :=
  ∃ t accs loads, exec i s = .next t ∧ Below s.nextId s.accesses accs ∧ Below s.nextId s.loads loads ∧
    (∀ k < as.length, mget? accs (s.nextId + 1 + k) = as[k]?) ∧
    (tracked = true → as ≠ [] → mget? loads s.nextId = some (e.awaited as (ret.getD (.zero, 1)).1 (ret.getD (.zero, 1)).2 (e.o.hdr.nwb || ret.isNone))) ∧
    DoneNext { (s.translations s') with accesses := accs, loads := loads, nextId := s.nextId + 1 + as.length } e
      { group := fun g => { more g with pending := g.pending ++ (match ret with
          | some d => if e.o.hdr.nwb || as.isEmpty then [] else (selKeys d.1 d.2).map (fun k => { reg := k, pc := e.p.pc, iid := s.nextId })
          | none => []) } } t

/-- As `SendsWith`, with nothing else changed. -/
def Sends (i : Instr) (s : State) (e : Ctx) (s' : State) (as : List Access) (ret : Option (Sel × Nat)) (tracked : Bool) : Prop :=
  SendsWith (fun g => g) i s e s' as ret tracked

/-- The value of a performed access has joined the results of its instruction: the lane is done, or its upper word is (R255, R280). -/
def Got (s t : State) (a : Access) (v : Nat) : Prop := ∀ l, mget? s.loads a.iid = some l →
  mget? t.loads a.iid = some
    { l with left := if a.word = 0 then l.left &&& ~~~(1#64 <<< a.lane) else l.left,
             upper := if a.word = 0 then l.upper else l.upper &&& ~~~(1#64 <<< a.lane),
             got := mset l.got a.lane (mgetD l.got a.lane 0 + v * 2 ^ (64 * a.word)) }

/-- Results that a load of own scratch writes at once: registers as any results, a latch where it stands in a chain. -/
def Writes.loaded (e : Ctx) (iid w : Nat) (f : Nat → Nat) : Writes :=
  { Writes.result e w f with
    latch := fun k l => if e.o.hdr.ch then (Writes.result e w f).latch k l else none
    group := fun g => { g with pending := g.pending.filter (fun p => p.iid != iid) } }

/-- A source operand of `w` registers in a lane, as a word of its width. -/
def Ctx.opd (e : Ctx) (x : Sel) (last signed : Bool) (w l : Nat) : BitVec (32 * w) := BitVec.ofNat (32 * w) (e.src x last signed w l)

/-- A word as a signed integer or an unsigned one. -/
def asInt (signed : Bool) {n : Nat} (x : BitVec n) : Int := if signed then x.toInt else x.toNat

/-- The lane a shuffle reads: the one named, where it lies in the group and the instruction acts in it; else the lane itself (R151). -/
def shuffleLane (e : Ctx) (l : Nat) (k : Int) : Nat := if 0 ≤ k ∧ k < e.g.width ∧ e.acts.getLsbD k.toNat then k.toNat else l

/-- The affine register that operand A names. -/
def affineOf (e : Ctx) (o : Ops) : Affine := match o.a with | .a n => e.g.aff n.toNat | _ => { base := 0, stride := 0 }

/-- The class of an FP32 word by its fields (R160). -/
def classOf32 (w : W32) : Nat :=
  let x := (w.extractLsb' 23 8).toNat
  let m := (w.extractLsb' 0 23).toNat
  let neg := w.getLsbD 31
  if x = 255 then (if m ≠ 0 then 256 else if neg then 1 else 128)
  else if x = 0 then (if m = 0 then (if neg then 8 else 16) else if neg then 4 else 32)
  else if neg then 2 else 64

/-- The group after a rounding instruction: under SR with a lane acting, one word of the stream is drawn (R67). -/
def Ctx.drew (e : Ctx) (g : Group) : Group := if e.rnd = .sr ∧ e.actLanes ≠ [] then { g with ctr := g.ctr + 1 } else g

/-- Results that round under the path's RND. -/
def Writes.rounded (e : Ctx) (w : Nat) (f : Nat → Nat) : Writes := { Writes.result e w f with group := e.drew }

end Sys2Proof.Machine

namespace Sys2Proof

/-- The rational number that an exact number stands for. -/
def Q.rat (q : Q) : ℚ := (if q.neg then -1 else 1) * ((q.num : ℚ) / q.den) * (2 : ℚ) ^ q.e

end Sys2Proof
end

