-- ==== Sys2Proof/Certificates/Slice0/Obligations.lean ====
section
/-! DEFINITION. The statements for the provers, from the numbered rules of the manual. -/

open Sys2Proof Sys2Proof.Machine

/-! ### Integer, logic and move instructions (R147 to R153) -/

/-- IADD, ISUB, IMUL, IMULH, IMAD, IMIN, IMAX, IABS, INEG and SHADD of every type: each completes in every lane where it acts with the result of R147's table,
exact modulo 2^w, and changes nothing else. IDIV and IREM (R62, R148): the quotient truncates toward zero and the remainder takes the dividend's sign; by
zero both are all ones, and a zero divisor in a lane where the instruction acts sets the sticky DZ bit, which nothing else here changes. -/
def Obligations.IntegerArithmetic : Prop :=
  (∀ (s : State) (c e : Ctx) (o : Ops),
    (∀ t, Issues (.iadd t o) s c e →
      Completes (.iadd t o) s e (Writes.result e t.words (fun l =>
        (e.opd o.a false (itySigned t) t.words l + e.opd o.b true (itySigned t) t.words l).toNat))) ∧
    (∀ t, Issues (.isub t o) s c e →
      Completes (.isub t o) s e (Writes.result e t.words (fun l =>
        (e.opd o.a false (itySigned t) t.words l - e.opd o.b true (itySigned t) t.words l).toNat))) ∧
    (∀ t, Issues (.imul t o) s c e →
      Completes (.imul t o) s e (Writes.result e t.words (fun l =>
        (e.opd o.a false (itySigned t) t.words l * e.opd o.b true (itySigned t) t.words l).toNat))) ∧
    (∀ t, Issues (.imulh t o) s c e →
      Completes (.imulh t o) s e (Writes.result e t.words (fun l =>
        (BitVec.ofInt (32 * t.words) (asInt (itySigned t) (e.opd o.a false (itySigned t) t.words l) *
          asInt (itySigned t) (e.opd o.b true (itySigned t) t.words l) / 2 ^ (32 * t.words))).toNat))) ∧
    (∀ t, Issues (.imad t o) s c e →
      Completes (.imad t o) s e (Writes.result e t.words (fun l =>
        (e.opd o.a false (itySigned t) t.words l * e.opd o.b false (itySigned t) t.words l + e.opd o.c.asSel true (itySigned t) t.words l).toNat))) ∧
    (∀ t, Issues (.imin t o) s c e →
      Completes (.imin t o) s e (Writes.result e t.words (fun l =>
        let a := e.opd o.a false (itySigned t) t.words l
        let b := e.opd o.b true (itySigned t) t.words l
        (if asInt (itySigned t) a ≤ asInt (itySigned t) b then a else b).toNat))) ∧
    (∀ t, Issues (.imax t o) s c e →
      Completes (.imax t o) s e (Writes.result e t.words (fun l =>
        let a := e.opd o.a false (itySigned t) t.words l
        let b := e.opd o.b true (itySigned t) t.words l
        (if asInt (itySigned t) a ≤ asInt (itySigned t) b then b else a).toNat))) ∧
    (∀ t, Issues (.iabs t o) s c e →
      Completes (.iabs t o) s e (Writes.result e t.words (fun l =>
        let a := e.opd o.a true true t.words l
        (if a.toInt < 0 then -a else a).toNat))) ∧
    (∀ t, Issues (.ineg t o) s c e →
      Completes (.ineg t o) s e (Writes.result e t.words (fun l => (-(e.opd o.a true true t.words l)).toNat))) ∧
    (∀ t sh, Issues (.shadd t sh o) s c e →
      Completes (.shadd t sh o) s e (Writes.result e t.words (fun l =>
        ((e.opd o.a false (itySigned t) t.words l <<< sh.toNat) + e.opd o.b true (itySigned t) t.words l).toNat)))) ∧
  (∀ (s : State) (c e : Ctx) (o : Ops) (t : ITy),
    let a := fun l => e.opd o.a false (itySigned t) t.words l
    let b := fun l => e.opd o.b true (itySigned t) t.words l
    let dz : Group → Group := fun g => { g with dz := g.dz || decide (∃ l ∈ e.actLanes, b l = 0) }
    (Issues (.idiv t o) s c e →
      Completes (.idiv t o) s e { Writes.result e t.words (fun l =>
        (if b l = 0 then BitVec.allOnes _ else if itySigned t then (a l).sdiv (b l) else (a l) / (b l)).toNat) with group := dz }) ∧
    (Issues (.irem t o) s c e →
      Completes (.irem t o) s e { Writes.result e t.words (fun l =>
        (if b l = 0 then BitVec.allOnes _ else if itySigned t then (a l).srem (b l) else (a l) % (b l)).toNat) with group := dz }))

/-- AND, OR, XOR, NOT, POPC, CLZ and BREV (R147) on 32 and 64 bits. MOV and MOVI of every width (R147): MOVI takes IMM64, or IMM32, sign-extended to 64 bits. -/
def Obligations.LogicAndMoves : Prop :=
  (∀ (s : State) (c e : Ctx) (o : Ops) (t : BTy),
    let a := fun l => e.opd o.a false false t.words l
    let b := fun l => e.opd o.b true false t.words l
    let x := fun l => e.opd o.a true false t.words l
    (Issues (.and t o) s c e → Completes (.and t o) s e (Writes.result e t.words (fun l => (a l &&& b l).toNat))) ∧
    (Issues (.or t o) s c e → Completes (.or t o) s e (Writes.result e t.words (fun l => (a l ||| b l).toNat))) ∧
    (Issues (.xor t o) s c e → Completes (.xor t o) s e (Writes.result e t.words (fun l => (a l ^^^ b l).toNat))) ∧
    (Issues (.not t o) s c e → Completes (.not t o) s e (Writes.result e t.words (fun l => (~~~(x l)).toNat))) ∧
    (Issues (.popc t o) s c e →
      Completes (.popc t o) s e (Writes.result e 1 (fun l => (List.range (32 * t.words)).countP (fun i => (x l).getLsbD i)))) ∧
    (Issues (.clz t o) s c e → Completes (.clz t o) s e (Writes.result e 1 (fun l => 32 * t.words - (x l).toNat.size))) ∧
    (Issues (.brev t o) s c e → Completes (.brev t o) s e (Writes.result e t.words (fun l => (x l).reverse.toNat)))) ∧
  (∀ (s : State) (c e : Ctx) (o : Ops),
    (∀ t, Issues (.mov t o) s c e → Completes (.mov t o) s e (Writes.result e t.words (fun l => (e.opd o.a true false t.words l).toNat))) ∧
    (∀ t v, o.imm = .i32 v → Issues (.movi t o) s c e →
      Completes (.movi t o) s e (Writes.result e t.words (fun _ => (v.signExtend (32 * t.words)).toNat))) ∧
    (∀ v, o.imm = .i64 v → Issues (.movi .b64 o) s c e → Completes (.movi .b64 o) s e (Writes.result e 2 (fun _ => v.toNat))))

/-- SHL, SHR, SAR, BFX and BFI for every amount, position and length (R149): shifts by the width or more give zero, or the sign for SAR; a field that starts at
or beyond the width, or has no length, reads as zero and writes nothing. -/
def Obligations.ShiftsAndFields : Prop :=  ∀ (s : State) (c e : Ctx) (o : Ops),
    (∀ t, Issues (.shl t o) s c e →
      Completes (.shl t o) s e (Writes.result e t.words (fun l =>
        (e.opd o.a false (itySigned t) t.words l <<< (e.opd o.b true (itySigned t) 1 l).toNat).toNat))) ∧
    (∀ t, Issues (.shr t o) s c e →
      Completes (.shr t o) s e (Writes.result e t.words (fun l =>
        (e.opd o.a false (itySigned t) t.words l >>> (e.opd o.b true (itySigned t) 1 l).toNat).toNat))) ∧
    (∀ t, Issues (.sar t o) s c e →
      Completes (.sar t o) s e (Writes.result e t.words (fun l =>
        ((e.opd o.a false (itySigned t) t.words l).sshiftRight (e.opd o.b true (itySigned t) 1 l).toNat).toNat))) ∧
    (∀ t, Issues (.bfx t o) s c e →
      Completes (.bfx t o) s e (Writes.result e t.words (fun l =>
        let k := e.opd o.b true false 1 l
        let pos := (k.extractLsb' 0 8).toNat
        let len := (k.extractLsb' 8 8).toNat
        ((e.opd o.a false false t.words l >>> pos) &&& BitVec.ofNat (32 * t.words) (2 ^ len - 1)).toNat))) ∧
    (∀ t, Issues (.bfi t o) s c e →
      Completes (.bfi t o) s e (Writes.result e t.words (fun l =>
        let k := e.opd o.b false false 1 l
        let pos := (k.extractLsb' 0 8).toNat
        let len := (k.extractLsb' 8 8).toNat
        let m := BitVec.ofNat (32 * t.words) (2 ^ len - 1) <<< pos
        ((e.opd o.c.asSel true false t.words l &&& ~~~m) ||| ((e.opd o.a false false t.words l <<< pos) &&& m)).toNat)))

/-- ICMP, SEL and PLOP (R150): ICMP and PLOP write the predicate in every lane where they act and nowhere else; p7 discards. SUB values 110 and 111 on ICMP and
IMC = 1 on SEL are no instructions: their words decode to none, and a fetch of one raises ILL with detail 3. -/
def Obligations.PredicatesAndSelection : Prop :=  ∀ (s : State) (c e : Ctx) (o : Ops),
    (∀ t r, Issues (.icmp t r o) s c e →
      Completes (.icmp t r o) s e (Writes.predicate e e.acts (fun l =>
        let a := asInt (itySigned t) (e.opd o.a false (itySigned t) t.words l)
        let b := asInt (itySigned t) (e.opd o.b true (itySigned t) t.words l)
        match r with
        | .eq => decide (a = b) | .ne => decide (a ≠ b) | .lt => decide (a < b) | .le => decide (a ≤ b) | .gt => decide (a > b) | .ge => decide (a ≥ b)))) ∧
    (∀ t n, o.c = .sel (.p n) → Issues (.sel t o) s c e →
      Completes (.sel t o) s e (Writes.result e t.words (fun l =>
        if e.g.pred n.toNat l then (e.opd o.a false false t.words l).toNat else (e.opd o.b true false t.words l).toNat))) ∧
    (∀ tt m n, o.a = .p m → o.b = .p n → Issues (.plop tt o) s c e →
      Completes (.plop tt o) s e (Writes.predicate e e.acts (fun l => tt.getLsbD (2 * (e.g.pred m.toNat l).toNat + (e.g.pred n.toNat l).toNat)))) ∧
  (∀ w ext, w % 4 < 2 → (Fields.unpack w).op = 0x38 → 6 ≤ (Fields.unpack w).m / 32 → decode w ext = .error .modifier) ∧
  (∀ w ext, w % 4 < 2 → (Fields.unpack w).op = 0x39 → (Fields.unpack w).m / 16 % 2 = 1 → decode w ext = .error .modifier) ∧
  (∀ (m : State) (gk pid pc loc : Nat) (n : Len), Len.ofCode (m.word loc 8 % 4) = some n → pc % 32 + n.bytes ≤ 32 →
    decode (m.word loc 8) (m.word (loc + 8) (n.bytes - 8)) = .error .modifier →
    m.decodeAt gk pid pc loc = .trap ⟨.ill, 3⟩)

/-- SHFL in its four forms, BCST and RDLN (R151): all reads take place before any write, since every lane's result is read in the context before. VOTE and PATHQ
(R141): VOTE.ALL and VOTE.ANY write their predicate in every active lane, VOTE.BALLOT one uniform register, or two when the group has 64 lanes; PATHQ gives
the number of live paths and the halves of the path's mask. -/
def Obligations.LaneMovesAndVotes : Prop :=
  (∀ (s : State) (c e : Ctx) (o : Ops) (t : BTy),
    let b := fun l => (e.opd o.b true false 1 l).toNat
    let a := fun k => e.val o.a t.words k
    (Issues (.shflIdx t o) s c e → Completes (.shflIdx t o) s e (Writes.result e t.words (fun l => a (shuffleLane e l (b l))))) ∧
    (Issues (.shflUp t o) s c e → Completes (.shflUp t o) s e (Writes.result e t.words (fun l => a (shuffleLane e l ((l : Int) - b l))))) ∧
    (Issues (.shflDown t o) s c e → Completes (.shflDown t o) s e (Writes.result e t.words (fun l => a (shuffleLane e l ((l : Int) + b l))))) ∧
    (Issues (.shflXor t o) s c e → Completes (.shflXor t o) s e (Writes.result e t.words (fun l => a (shuffleLane e l ((l ^^^ b l : Nat) : Int))))) ∧
    (Issues (.bcst t o) s c e →
      Completes (.bcst t o) s e (Writes.result e t.words (fun _ =>
        a (if b e.lead < e.g.width ∧ e.acts.getLsbD (b e.lead) then b e.lead else (lanes e.acts).headD 0)))) ∧
    (Issues (.rdln t o) s c e →
      let v := a (if b e.lead < e.g.width ∧ e.acts.getLsbD (b e.lead) then b e.lead else e.lead)
      Completes (.rdln t o) s e
        { uni := uniWrites o.d (e.actsOnce && !o.hdr.nwb) t.words v
          latch := latchWrites o.hdr.lq.toNat (fun l => e.actsOnce && o.hdr.le && e.p.mask.getLsbD l) (fun _ => v) })) ∧
  (∀ (s : State) (c e : Ctx) (o : Ops),
    (∀ n, o.a = .p n →
      (Issues (.voteAll o) s c e →
        Completes (.voteAll o) s e (Writes.predicate e e.p.mask (fun _ => (List.range 64).all (fun l => !e.p.mask.getLsbD l || e.g.pred n.toNat l)))) ∧
      (Issues (.voteAny o) s c e →
        Completes (.voteAny o) s e (Writes.predicate e e.p.mask (fun _ => (List.range 64).any (fun l => e.p.mask.getLsbD l && e.g.pred n.toNat l)))) ∧
      (Issues (.voteBallot o) s c e → ¬(c.g.width = 64 ∧ Sel.oddUni o.d = true) →
        Completes (.voteBallot o) s e (Writes.uniform e (if e.g.width = 64 then 2 else 1) (maskFilter e.p.mask (e.g.pred n.toNat)).toNat))) ∧
    (Issues (.pathqLive o) s c e → Completes (.pathqLive o) s e (Writes.uniform e 1 e.g.paths.length)) ∧
    (Issues (.pathqMlo o) s c e → Completes (.pathqMlo o) s e (Writes.uniform e 1 (e.p.mask.extractLsb' 0 32).toNat)) ∧
    (Issues (.pathqMhi o) s c e → Completes (.pathqMhi o) s e (Writes.uniform e 1 (e.p.mask.extractLsb' 32 32).toNat)))

/-- RDSP and WRSP (R48, R50, R152): RDSP gives a special register's value, per lane where it is one; WRSP of %fmt writes the issuing path's alone, and of %prio
the group's, up to its launch's, where the guard of the lowest active lane holds. A %prio above the launch's raises PRIV, a %fmt that R40 refuses ILL with
detail 10. ASET, AADD, ASCL, AMAT and AGET (R153): bases modulo 2^64, strides modulo 2^32; lane L of an affine register reads base + stride × L. -/
def Obligations.SpecialAndAffineRegisters : Prop :=
  (∀ (s : State) (c e : Ctx) (o : Ops),
    (∀ r, o.a = .sp r → Issues (.rdsp o) s c e → Completes (.rdsp o) s e (Writes.result e 1 (fun l => e.special l r % 2 ^ 32))) ∧
    (∀ l, e.special l .lane = l ∧ e.special l .gwidth = e.g.width ∧ e.special l .group = e.gk % 64 ∧ e.special l .core = e.core % 96 ∧
      e.special l .quarter = e.q % 4 ∧ e.special l .die = e.die ∧ e.special l .prio = e.g.prio ∧ e.special l .fmt = e.p.fmt.toNat ∧
      e.special l .asid = e.asid ∧ e.special l .gang = e.quarter.gang.toNat) ∧
    (o.d = .sp .fmt → (c.actsOnce = true → fmtOk (c.opd o.a true false 1 c.lead) = true) → Issues (.wrsp o) s c e →
      Completes (.wrsp o) s e { path := fun p => if e.actsOnce then { p with fmt := e.opd o.a true false 1 e.lead } else p }) ∧
    (o.d = .sp .prio → (c.actsOnce = true → (c.opd o.a true false 1 c.lead).toNat ≤ c.launch.prio) → Issues (.wrsp o) s c e →
      Completes (.wrsp o) s e { group := fun g => if e.actsOnce then { g with prio := (e.opd o.a true false 1 e.lead).toNat } else g }) ∧
    (o.d = .sp .fmt → c.actsOnce = true → fmtOk (c.opd o.a true false 1 c.lead) = false → Issues (.wrsp o) s c e →
      exec (.wrsp o) s = .next (c.trap ⟨.ill, 10⟩)) ∧
    (o.d = .sp .prio → c.actsOnce = true → c.launch.prio < (c.opd o.a true false 1 c.lead).toNat → Issues (.wrsp o) s c e →
      exec (.wrsp o) s = .next (c.trap ⟨.priv, 0⟩))) ∧
  (∀ (s : State) (c e : Ctx) (o : Ops),
    let k := e.opd o.b true false 1 e.lead
    let x := affineOf e o
    let on := fun (y : Affine) => if e.actsOnce then Writes.affine e y else {}
    (∀ v, o.imm = .i64 v → Issues (.aset o) s c e → Completes (.aset o) s e (on { base := v, stride := k })) ∧
    ((∀ v, o.imm ≠ .i64 v) → Issues (.aset o) s c e →
      Completes (.aset o) s e (on { base := BitVec.ofNat 64 (e.val o.a 2 e.lead), stride := k })) ∧
    (Issues (.aadd o) s c e → Completes (.aadd o) s e (on { x with base := x.base + k.signExtend 64 })) ∧
    (Issues (.ascl o) s c e → Completes (.ascl o) s e (on { base := x.base * k.signExtend 64, stride := x.stride * k })) ∧
    (∀ h, Issues (.amat h o) s c e →
      Completes (.amat h o) s e (Writes.result e 1 (fun l =>
        let v := x.base + x.stride.signExtend 64 * BitVec.ofNat 64 l
        (match h with | .lo => v.extractLsb' 0 32 | .hi => v.extractLsb' 32 32).toNat))) ∧
    (∀ h, Issues (.aget h o) s c e →
      Completes (.aget h o) s e (if e.actsOnce then
        Writes.uniform e 1 (match h with | .lo => x.base.extractLsb' 0 32 | .hi => x.base.extractLsb' 32 32 | .stride => x.stride).toNat else {})))

/-! ### Control (R126 to R146) -/

/-- NOP, BRA, BRX, CALL and RET: the target is the PC plus the sign-extended IMM32, or a register pair (R129); a transfer unwinds the loop stack (R128) where it
enters no body but at its start, and otherwise raises ILL with detail 10, as a misaligned or too wide register target does; CALL links the address after it;
CALL and RET leave the loop stack alone. BRP (R129, R130): with no lane branching the path goes on, with all of them it branches, and otherwise it splits: a
new path takes the lanes that branch, at the target and with the issuing path's %fmt, and the issuing path keeps the rest; a group without room for another
path raises PATH_OVERFLOW. -/
def Obligations.Branches : Prop :=
  (∀ (s : State) (c e : Ctx) (o : Ops),
    let tgt : Pc := e.p.pc + (BitVec.ofNat 32 (imm32 o.imm)).signExtend 56
    let reg : Nat := c.val o.a 2 0
    (Issues (.nop o) s c e → Completes (.nop o) s e {}) ∧
    (Issues (.bra o) s c e → ∀ l, unwind e.p.loops e.p.pc tgt = some l → ∃ t, exec (.bra o) s = .next t ∧ Done s e {} tgt l t) ∧
    (Issues (.bra o) s c e → unwind e.p.loops e.p.pc tgt = none → exec (.bra o) s = .next (c.trap ⟨.ill, 10⟩)) ∧
    (Issues (.brx o) s c e → reg % 4 = 0 → reg < 2 ^ 56 → ∀ l, unwind e.p.loops e.p.pc (BitVec.ofNat 56 reg) = some l →
      ∃ t, exec (.brx o) s = .next t ∧ Done s e {} (BitVec.ofNat 56 reg) l t) ∧
    (Issues (.brx o) s c e → (reg % 4 ≠ 0 ∨ 2 ^ 56 ≤ reg ∨ unwind e.p.loops e.p.pc (BitVec.ofNat 56 reg) = none) →
      exec (.brx o) s = .next (c.trap ⟨.ill, 10⟩)) ∧
    (Issues (.call o) s c e → Jumps (.call o) s e (Writes.uniform e 2 (e.p.pc + 12).toNat) tgt) ∧
    (Issues (.ret o) s c e → reg % 4 = 0 → reg < 2 ^ 56 → Jumps (.ret o) s e {} (BitVec.ofNat 56 reg)) ∧
    (Issues (.ret o) s c e → (reg % 4 ≠ 0 ∨ 2 ^ 56 ≤ reg) → exec (.ret o) s = .next (c.trap ⟨.ill, 10⟩))) ∧
  (∀ (s : State) (c e : Ctx) (o : Ops), Issues (.brp o) s c e →
    let tgt : Pc := e.p.pc + (BitVec.ofNat 32 (imm32 o.imm)).signExtend 56
    let next := loopStep e.p e.p.pc e.seqPc
    (e.acts = 0 → Completes (.brp o) s e {}) ∧
    (e.acts ≠ 0 → unwind e.p.loops e.p.pc tgt = none → exec (.brp o) s = .next (c.trap ⟨.ill, 10⟩)) ∧
    (∀ l, unwind e.p.loops e.p.pc tgt = some l →
      (e.acts ≠ 0 → e.acts = e.p.mask → ∃ t, exec (.brp o) s = .next t ∧ Done s e {} tgt l t) ∧
      (e.acts ≠ 0 → e.acts ≠ e.p.mask → 8 + e.g.spill ≤ e.g.paths.length → exec (.brp o) s = .next (e.trap ⟨.pathOverflow, e.g.paths.length⟩)) ∧
      (e.acts ≠ 0 → e.acts ≠ e.p.mask → e.g.paths.length < 8 + e.g.spill → mget? e.g.paths e.g.nextPid = none → ∀ k, e.g.freeEntry = some k →
        ∃ t g p q, exec (.brp o) s = .next t ∧ Elsewhere s e.gk t ∧ mget? t.groups e.gk = some g ∧
          mget? g.paths e.pid = some p ∧ p.mask = e.p.mask &&& ~~~e.acts ∧ p.pc = next.pc ∧ p.loops = next.loops ∧ p.fmt = e.p.fmt ∧
          mget? g.paths e.g.nextPid = some q ∧ q.mask = e.acts ∧ q.pc = tgt ∧ q.loops = l ∧ q.fmt = e.p.fmt ∧ q.st = .ready ∧ q.entry = some k ∧
          (∀ j, j ≠ e.pid → j ≠ e.g.nextPid → mget? g.paths j = mget? e.g.paths j) ∧ g.v = e.g.v ∧ g.s = e.g.s ∧ g.a = e.g.a ∧ g.p = e.g.p ∧ g.live = e.g.live)))

/-- LOOP and LOOPX (R131) complete: LOOP with a nonzero count pushes an entry whose body begins after it and ends with the instruction at PC + IMM32, and reads
nothing there; LOOPX drops the top entry. A fifth entry, a distance below 12 as a signed number (log 88, DEDUCED) or misaligned, and LOOPX on an empty stack
raise ILL with detail 10. A count of zero pushes nothing: the path goes on after the instruction at PC + IMM32, by the LEN of the 8 bytes there, read as a
fetch; a translation fault parks the group at the LOOP with a record of kind 3 for each page that faults, a refusal raises PROT and poison MCHK with that
address, and a LEN of 11 raises ILL with detail 10. -/
def Obligations.Loops : Prop :=  ∀ (s : State) (c e : Ctx) (o : Ops),
    let n := e.val o.a 1 0 % 2 ^ 24
    let k := imm32 o.imm
    let ok : Prop := 12 ≤ (BitVec.ofNat 32 k).toInt ∧ k % 4 = 0 ∧ e.p.loops.length < 4
    let z : Pc := e.p.pc + BitVec.ofNat 56 k
    (Issues (.loop o) s c e → ok → n ≠ 0 →
      ∃ t, exec (.loop o) s = .next t ∧
        Done s e {} (e.p.pc + 12) (e.p.loops ++ [{ start := e.p.pc + 12, endofs := BitVec.ofNat 32 (k - 12), count := BitVec.ofNat 24 n }]) t) ∧
    (Issues (.loop o) s c e → ok → n = 0 →
      ∀ ls s', e.s.rangeAll e.q e.part e.asid e.sys .fetch z.toNat 8 = (.ok ls, s') → s'.poisonedLocs ls = false →
        (∀ len, Len.ofCode (leNat (s'.readLocs ls) % 4) = some len → exec (.loop o) s = .next (e.jump s' (z + BitVec.ofNat 56 len.bytes))) ∧
        (Len.ofCode (leNat (s'.readLocs ls) % 4) = none → exec (.loop o) s = .next (({ e with s := s' } : Ctx).trap ⟨.ill, 10⟩))) ∧
    (Issues (.loop o) s c e → ok → n = 0 → ∀ s',
      (∀ a f l, e.s.rangeAll e.q e.part e.asid e.sys .fetch z.toNat 8 = (.error ((a, .fault f) :: l), s') →
        exec (.loop o) s = .next (e.parkAll s' 3 ((a, f) :: l.filterMap (fun x => match x.2 with | .fault g => some (x.1, g) | _ => none)))) ∧
      (∀ a r l, e.s.rangeAll e.q e.part e.asid e.sys .fetch z.toNat 8 = (.error ((a, r) :: l), s') → (r = .prot ∨ ∃ x y d, r = .peer x y d) →
        exec (.loop o) s = .next (({ e with s := s' } : Ctx).trap ⟨.prot, z.toNat⟩)) ∧
      (∀ ls, e.s.rangeAll e.q e.part e.asid e.sys .fetch z.toNat 8 = (.ok ls, s') → s'.poisonedLocs ls = true →
        exec (.loop o) s = .next (({ e with s := s' } : Ctx).trap ⟨.mchk, z.toNat⟩))) ∧
    (Issues (.loop o) s c e → ¬ok → exec (.loop o) s = .next (c.trap ⟨.ill, 10⟩)) ∧
    (Issues (.loopx o) s c e → e.p.loops ≠ [] → ∃ t, exec (.loopx o) s = .next t ∧ Done s e {} (e.p.pc + 8) e.p.loops.dropLast t) ∧
    (Issues (.loopx o) s c e → e.p.loops = [] → exec (.loopx o) s = .next (c.trap ⟨.ill, 10⟩))

/-- The end of a loop body (R132): after the last instruction of the top entry's body the path returns to its start with the count one less, or with the entry
popped goes on at the next instruction when the count is 1; after any other instruction it goes on. JARM, JOIN and JDROP (R134, R135, R137): arming records
target, expected lanes, %fmt and loop stack; a path that joins parks until the last expected lane has arrived, when one path with the whole mask goes on
after the JOIN under the recorded %fmt and loop stack; dropping releases the parked paths unmerged. -/
def Obligations.LoopEndsAndRejoining : Prop :=
  (∀ (p : Machine.Path) (pc next : Pc),
    (p.loops = [] → loopStep p pc next = { p with pc := next }) ∧
    (∀ l x, p.loops = l ++ [x] →
      (x.start + x.endofs.setWidth 56 ≠ pc → (loopStep p pc next).pc = next ∧ (loopStep p pc next).loops = p.loops) ∧
      (x.start + x.endofs.setWidth 56 = pc → 1 < x.count.toNat →
        (loopStep p pc next).pc = x.start ∧ (loopStep p pc next).loops = l ++ [{ x with count := x.count - 1 }]) ∧
      (x.start + x.endofs.setWidth 56 = pc → x.count.toNat ≤ 1 → (loopStep p pc next).pc = next ∧ (loopStep p pc next).loops = l)) ∧
    (loopStep p pc next).mask = p.mask ∧ (loopStep p pc next).fmt = p.fmt ∧ (loopStep p pc next).st = p.st) ∧
  (∀ (s : State) (c e : Ctx) (o : Ops) (k : BitVec 3),
    let j := e.g.rej k.toNat
    let x : Mask := if o.a = Sel.zero then e.p.mask else BitVec.ofNat 64 (e.val o.a 2 0)
    let tgt : Pc := e.p.pc + (BitVec.ofNat 32 (imm32 o.imm)).signExtend 56
    let a := j.arrived ||| e.p.mask
    (Issues (.jarm k o) s c e → ¬(j.armed = true ∧ j.arrived ≠ 0) → x ≠ 0 → x &&& ~~~fullMask e.g.width = 0 →
      Jumps (.jarm k o) s e
        { group := fun g => g.setRej k.toNat { jpc := tgt, armed := true, lost := false, expected := x, arrived := 0, fmt := e.p.fmt, stack := e.p.loops } }
        (e.p.pc + 12)) ∧
    (∀ g : Group, ∀ r : Rejoin, ∀ i, (g.setRej k.toNat r).rej i = if i = k.toNat then r else g.rej i) ∧
    (Issues (.join k o) s c e → j.armed = false → Jumps (.join k o) s e {} (e.p.pc + 8)) ∧
    (Issues (.join k o) s c e → j.armed = true → (e.p.pc ≠ j.jpc ∨ e.p.mask &&& ~~~j.expected ≠ 0) → exec (.join k o) s = .next (c.trap ⟨.ill, 10⟩)) ∧
    (Issues (.join k o) s c e → j.armed = true → e.p.pc = j.jpc → e.p.mask &&& ~~~j.expected = 0 → a ≠ j.expected →
      (∃ i p, i ≠ e.pid ∧ mget? e.g.paths i = some p ∧ (∀ n, p.st ≠ .parked n)) →
      ∃ t g p, exec (.join k o) s = .next t ∧ Elsewhere { s with traces := t.traces } e.gk t ∧ (o.hdr.ch = false → t.traces = s.traces) ∧ mget? t.groups e.gk = some g ∧ mget? g.paths e.pid = some p ∧ p.st = .parked k.toNat ∧
        p.mask = e.p.mask ∧ g.rej k.toNat = { j with arrived := a } ∧ (∀ i, i ≠ e.pid → mget? g.paths i = mget? e.g.paths i) ∧ g.v = e.g.v ∧ g.s = e.g.s) ∧
    (Issues (.join k o) s c e → j.armed = true → e.p.pc = j.jpc → e.p.mask &&& ~~~j.expected = 0 → a = j.expected →
      ∃ t g p, exec (.join k o) s = .next t ∧ Elsewhere { s with traces := t.traces } e.gk t ∧ (o.hdr.ch = false → t.traces = s.traces) ∧
        mget? t.groups e.gk = some g ∧ mget? g.paths e.pid = some p ∧ p.mask = j.expected ∧ p.pc = e.p.pc + 8 ∧ p.fmt = j.fmt ∧ p.loops = j.stack ∧
        ((∀ x ∈ e.g.paths, x.2.hold = false) → e.p.hold = false → p.st = .ready) ∧ (e.p.hold = true → p.st = .held) ∧
        (∀ i q, i ≠ e.pid → mget? e.g.paths i = some q → q.st = .parked k.toNat → q.hold = true → p.st = .held) ∧
        g.rej k.toNat = { j with arrived := a, armed := false } ∧ (∀ i q, mget? g.paths i = some q → i ≠ e.pid → q.st ≠ .parked k.toNat) ∧
        g.v = e.g.v ∧ g.s = e.g.s) ∧
    (Issues (.jdrop k o) s c e → j.armed = false → Jumps (.jdrop k o) s e {} (e.p.pc + 8)) ∧
    (Issues (.jdrop k o) s c e → j.armed = true →
      ∃ t g p, exec (.jdrop k o) s = .next t ∧ Elsewhere s e.gk t ∧ mget? t.groups e.gk = some g ∧ (g.rej k.toNat).armed = false ∧
        mget? g.paths e.pid = some p ∧ (e.p.st = .ready → p.pc = e.p.pc + 8) ∧
        (∀ i q, i ≠ e.pid → mget? e.g.paths i = some q → q.st = .parked k.toNat → q.hold = false →
          ∃ q', mget? g.paths i = some q' ∧ q'.st = .ready ∧ q'.pc = j.jpc + 8 ∧ q'.mask = q.mask) ∧ g.v = e.g.v ∧ g.s = e.g.s))

/-- YIELD, TILEB and EXIT (R138, R139): a YIELD stamps its path afresh and clears the group's watchdog count, a TILEB does nothing unless pre-emption waits;
EXIT ends its lanes, and the group's other paths go on. TRAP and BKPT (R138, R359): TRAP n takes SWTRAP with n, resuming after it; BKPT n takes BKPT with n,
resuming at itself, or where the partition's BKHOLD is set holds its path after it. -/
def Obligations.ExitsAndSoftwareTraps : Prop :=
  (∀ (s : State) (c e : Ctx) (o : Ops),
    ((∀ t, (s.core e.core).team = some t → t.preempt = none) →
      (Issues (.yield o) s c e →
        ∃ t g, exec (.yield o) s = .next t ∧ Done s e { path := fun p => { p with stamp := e.now } } (e.p.pc + 8) e.p.loops t ∧
          mget? t.groups e.gk = some g ∧ g.watchdog = 0) ∧
      (Issues (.tileb o) s c e → Jumps (.tileb o) s e {} (e.p.pc + 8))) ∧
    (Issues (.exit o) s c e → (∃ i p, i ≠ e.pid ∧ mget? e.g.paths i = some p ∧ (∀ n, p.st ≠ .parked n)) →
      ∃ t g, exec (.exit o) s = .next t ∧ Elsewhere s e.gk t ∧ mget? t.groups e.gk = some g ∧ mget? g.paths e.pid = none ∧
        g.live = e.g.live &&& ~~~e.p.mask ∧ (∀ i, i ≠ e.pid → mget? g.paths i = mget? e.g.paths i) ∧ g.v = e.g.v ∧ g.s = e.g.s ∧ g.p = e.g.p)) ∧
  (∀ (s : State) (c e : Ctx) (o : Ops) (n : Byte),
    (Issues (.trap n o) s c e → exec (.trap n o) s = .next ((e.issued e.s).trapAt e.gk e.pid ⟨.swtrap, n.toNat⟩ e.p.pc (e.p.pc + 8))) ∧
    (Issues (.bkpt n o) s c e → (s.pdie e.part e.die).bkhold = false →
      exec (.bkpt n o) s = .next ((e.issued e.s).trapAt e.gk e.pid ⟨.bkpt, n.toNat⟩ e.p.pc e.p.pc)) ∧
    (Issues (.bkpt n o) s c e → (s.pdie e.part e.die).bkhold = true →
      ∃ t g p, exec (.bkpt n o) s = .next t ∧ Elsewhere s e.gk t ∧ mget? t.groups e.gk = some g ∧ mget? g.paths e.pid = some p ∧ p.st = .held ∧
        p.pc = e.p.pc + 8 ∧ p.mask = e.p.mask ∧ g.v = e.g.v))

/-- Taking a trap (R350, R351, R352): with a handler given, none running and the frame's pages writable, the frame (resume PC, faulting PC, ADDR, mask, cause,
%fmt, loop stack, rejoin registers, DZ) stands in memory at the group's place in the save record, and the path goes on at the handler with the launch's %fmt
and an empty loop stack, the group in its handler; without a handler, or with one running, the group stops for good. ERET (R140, R352): outside a handler it
raises PRIV; in one it restores from the frame its path's PC, mask, %fmt and loop stack, the group's rejoin registers and DZ, and the group leaves its
handler. -/
def Obligations.TrapEntryAndReturn : Prop :=
  (∀ (s : State) (gk pid : Nat) (x : Trap) (fpc next : Pc) (g : Group) (p : Machine.Path),
    mget? s.groups gk = some g → mget? g.paths pid = some p → (s.quarter (quarterOf gk)).chain = none → p.back = none → g.dead = false →
    (s.trace (dieOf gk)).tctl.getLsbD 1 = false →
    ((s.launch g.launch).handler ≠ 0 → g.handler = none →
      ∀ ls s', s.range (quarterOf gk) (s.launch g.launch).part (s.launch g.launch).asid true .store (s.saveBase (coreOf gk) + 0x1000 + 1024 * g.rank) 896 = (.ok ls, s') →
        ∃ t g' p', s.trapAt gk pid x fpc next = t ∧ t.mem = (s'.writeLocs ls (frameImage g p x fpc next)).mem ∧ mget? t.groups gk = some g' ∧
          mget? g'.paths pid = some p' ∧ p'.pc = BitVec.ofNat 56 (s.launch g.launch).handler ∧ p'.fmt = (s.launch g.launch).fmt ∧ p'.loops = [] ∧
          p'.mask = p.mask ∧ (p.hold = false → p.st ≠ .held → p'.st = .ready) ∧ g'.handler.isSome = true ∧ g'.dead = false ∧ g'.v = g.v ∧ g'.s = g.s ∧
          g'.a = g.a ∧ g'.p = g.p ∧ (∀ k, k ≠ pid → mget? g'.paths k = mget? (g.halt (s.coreCycle (coreOf gk))).paths k) ∧
          (∀ k, k ≠ gk → mget? t.groups k = mget? s.groups k)) ∧
    (((s.launch g.launch).handler = 0 ∨ g.handler.isSome = true) →
      ∃ g', mget? (s.trapCore gk pid x fpc next).groups gk = some g' ∧ g'.dead = true ∧ (s.trapCore gk pid x fpc next).mem = s.mem)) ∧
  (∀ (s : State) (c e : Ctx) (o : Ops), Issues (.eret o) s c e →
    (c.g.handler = none → exec (.eret o) s = .next (c.trap ⟨.priv, 0⟩)) ∧
    (c.g.handler.isSome = true →
      ∀ ls s', e.s.range e.q e.part e.asid true .load (e.s.saveBase e.core + 0x1000 + 1024 * e.g.rank) 896 = (.ok ls, s') → s'.poisonedLocs ls = false →
        ∀ p rj dz, frameOf e.g.width (leNat (s'.readLocs ls)) e.p = some (p, rj, dz) → mget? s'.groups e.gk = some e.g →
          ∃ t g p', exec (.eret o) s = .next t ∧ mget? t.groups e.gk = some g ∧ mget? g.paths e.pid = some p' ∧ p'.pc = p.pc ∧ p'.mask = p.mask ∧
            p'.fmt = p.fmt ∧ p'.loops = p.loops ∧ g.rejoin = rj ∧ g.dz = dz ∧ g.handler = none ∧ g.watchdog = 0 ∧ g.v = e.g.v ∧ g.s = e.g.s ∧
            (∀ a, t.byte a = s'.byte a)))

/-- FUSE and SPLIT (R142, R143) complete: the second FUSE of a pair completes both, and the first blocks its path until then; the group of the lower slot is
twice as wide with its own lanes below and the other's above, in vector registers and predicates, one path with all lanes 8 bytes further, and the other
slot is free. A SPLIT leaves the lower lanes in their slot and puts the upper ones, as lanes from zero up, into the quarter's lowest free slot, with the same
uniform registers, affine registers that read in every lane what they read before, and a stream offset greater by half the width. What R142 and R143 forbid
raises ILL with detail 10. -/
def Obligations.FuseAndSplit : Prop :=
  (∀ (s : State) (c e : Ctx) (o : Ops),
    (Issues (.fuse o) s c e → c.fuseBad (c.val o.a 1 0) = true → exec (.fuse o) s = .next (c.trap ⟨.ill, 10⟩)) ∧
    (Issues (.fuse o) s c e → c.fuseBad (c.val o.a 1 0) = false → e.g.pending = [] →
      let k := e.q * 16 + e.val o.a 1 0
      ∀ h, mget? s.groups k = some h →
      (h.fusing ≠ some (e.gk % 16) → Blocks (.fuse o) s s e (.fuse (e.val o.a 1 0))) ∧
      (h.fusing = some (e.gk % 16) → h.width = e.g.width → e.g.width ≤ 32 → k ≠ e.gk →
        let lo := if k < e.gk then h else e.g
        let hi := if k < e.gk then e.g else h
        ∃ t g, exec (.fuse o) s = .next t ∧ mget? t.groups (min k e.gk) = some g ∧ mget? t.groups (max k e.gk) = none ∧ g.width = 2 * e.g.width ∧
          g.live = fullMask (2 * e.g.width) ∧ (∀ p ∈ g.paths, p.2.mask = fullMask (2 * e.g.width)) ∧ g.blocks = lo.blocks ∧ g.s = lo.s ∧ g.a = lo.a ∧
          g.prio = lo.prio ∧ g.key = lo.key ∧ g.ctr = lo.ctr ∧ g.ofs = lo.ofs ∧
          (∀ l < 64, ∀ r < 256, (l < e.g.width → g.vec l r = lo.vec l r) ∧
            (e.g.width ≤ l → l < 2 * e.g.width → g.vec l r = hi.vec (l - e.g.width) r)) ∧
          (∀ n < 8, ∀ l < 64, (l < e.g.width → g.pred n l = lo.pred n l) ∧
            (e.g.width ≤ l → l < 2 * e.g.width → g.pred n l = hi.pred n (l - e.g.width))) ∧ (∀ a, t.byte a = s.byte a)))) ∧
  (∀ (s : State) (c e : Ctx) (o : Ops),
    (Issues (.split o) s c e → c.g.width ≠ 8 → c.s.notWhole c.gk c.g = false → e.g.pending = [] → ∀ k, c.s.freeSlot c.q = some k →
        ∃ t g h, exec (.split o) s = .next t ∧ mget? t.groups e.gk = some g ∧ mget? t.groups (e.q * 16 + k) = some h ∧ g.width = e.g.width / 2 ∧
          h.width = e.g.width / 2 ∧ g.blocks = e.g.blocks ∧ h.blocks = e.g.blocks ∧
          (∀ l < 64, ∀ r < 256, l < e.g.width / 2 → g.vec l r = e.g.vec l r) ∧
          (∀ l < 64, ∀ r < 256, l + e.g.width / 2 < 64 → h.vec l r = e.g.vec (l + e.g.width / 2) r) ∧ h.s = e.g.s ∧ g.s = e.g.s ∧ g.a = e.g.a ∧
          (∀ n < 8, ∀ l < 64, l < e.g.width / 2 → g.pred n l = e.g.pred n l) ∧
          (∀ n < 8, ∀ l < 64, l + e.g.width / 2 < 64 → h.pred n l = e.g.pred n (l + e.g.width / 2)) ∧ h.prio = e.g.prio ∧ h.key = e.g.key ∧
          h.ctr = e.g.ctr ∧ h.ofs = e.g.ofs + BitVec.ofNat 32 (e.g.width / 2) ∧ g.ofs = e.g.ofs ∧
          (∀ p ∈ g.paths, p.2.mask = fullMask (e.g.width / 2)) ∧ (∀ p ∈ h.paths, p.2.mask = fullMask (e.g.width / 2)) ∧
          (∀ x < 16, ∀ l, (h.aff x).at l = (e.g.aff x).at (l + e.g.width / 2)) ∧ (∀ a, t.byte a = s.byte a)) ∧
    (Issues (.split o) s c e → (c.g.width = 8 ∨ c.s.notWhole c.gk c.g = true ∨ c.s.freeSlot c.q = none) → exec (.split o) s = .next (c.trap ⟨.ill, 10⟩)))

/-- GROW, GROW.NB, SHRINK and GANG (R144, R145, R146) complete: blocks are granted at once where no GROW waits before and the quarter has room; GROW else waits
in the quarter's queue and GROW.NB writes 0; more than 32 blocks are refused with REG_RANGE. SHRINK gives up the top blocks with their contents and with what
loads have still to write there (R32), but none below the launch's own. GANG writes the quarter's %gang; a %gang of another launch raises PRIV, and a value
that R146 forbids ILL with detail 10. -/
def Obligations.GrowthAndGangs : Prop :=  ∀ (s : State) (c e : Ctx) (o : Ops) (n : BitVec 5),
    let fits : Bool := e.quarter.growq.isEmpty && decide (e.g.width * n.toNat ≤ e.s.freeBlocks e.q)
    let more : Group → Group := fun g => { g with blocks := g.blocks + n.toNat }
    let top := 8 * (e.g.blocks - n.toNat)
    let word := BitVec.ofNat 32 (imm32 o.imm)
    (Issues (.grow n o) s c e → 32 < e.g.blocks + n.toNat → exec (.grow n o) s = .next (e.trap ⟨.regRange, 8 * (e.g.blocks + n.toNat) - 1⟩)) ∧
    (Issues (.grow n o) s c e → e.g.blocks + n.toNat ≤ 32 → fits = true → Jumps (.grow n o) s e { group := more } (e.p.pc + 8)) ∧
    (Issues (.grow n o) s c e → e.g.blocks + n.toNat ≤ 32 → fits = false →
      ∃ t g p, exec (.grow n o) s = .next t ∧ mget? t.groups e.gk = some g ∧ mget? g.paths e.pid = some p ∧ p.st = .blocked (.grow n.toNat) ∧
        g.blocks = e.g.blocks ∧ (t.quarter e.q).growq = e.quarter.growq ++ [{ gk := e.gk, pid := e.pid, n := n.toNat }]) ∧
    (Issues (.growNb n o) s c e → e.g.blocks + n.toNat ≤ 32 →
      Jumps (.growNb n o) s e { Writes.predicate e e.p.mask (fun _ => fits) with group := if fits then more else id } (e.p.pc + 8)) ∧
    (Issues (.growNb n o) s c e → 32 < e.g.blocks + n.toNat → exec (.growNb n o) s = .next (e.trap ⟨.regRange, 8 * (e.g.blocks + n.toNat) - 1⟩)) ∧
    (Issues (.shrink n o) s c e → e.launch.regs + n.toNat ≤ e.g.blocks →
      ∃ t, exec (.shrink n o) s = .next t ∧
        Done { s with loads := s.loads.map (fun l => (l.1, if l.2.gk = e.gk then l.2.cut top else l.2)) } e
          { group := fun g => { g with blocks := g.blocks - n.toNat, pending := g.pending.filter (fun p => decide (p.reg < top) || decide (256 ≤ p.reg)) }
            vec := fun _ r => if top ≤ r ∧ r ≠ 255 then some 0 else none } (e.p.pc + 8) e.p.loops t) ∧
    (Issues (.shrink n o) s c e → e.g.blocks < e.launch.regs + n.toNat → exec (.shrink n o) s = .next (e.trap ⟨.regRange, 8 * e.g.blocks - 1⟩)) ∧
    (Issues (.gang o) s c e → c.gangBad word = true → exec (.gang o) s = .next (c.trap ⟨.ill, 10⟩)) ∧
    (Issues (.gang o) s c e → c.gangBad word = false →
      (∀ k ∈ gangSlots c.quarter.gang, ∀ g, mget? c.s.groups (c.q * 16 + k) = some g → g.launch = c.g.launch) →
      Jumps (.gang o) s e { quarter := fun q => { q with gang := word } } (e.p.pc + 12)) ∧
    (Issues (.gang o) s c e → c.gangBad word = false →
      (∃ k ∈ gangSlots c.quarter.gang, ∃ g, mget? c.s.groups (c.q * 16 + k) = some g ∧ g.launch ≠ c.g.launch) → exec (.gang o) s = .next (c.trap ⟨.priv, 0⟩))

/-! ### Floating point, conversions, distributions, reductions (R52 to R87, R154 to R179, R228 to R232) -/

/-- The value before rounding is exact (R54, R63): sums, differences, products and quotients of finite numbers are those of the rational numbers, an exact zero
sum is −0 under RDN alone unless both are zeros of one sign, and comparison is that of the rationals, −0 being +0. The special cases of R158, before
rounding: sums and products of infinities and zeros, reciprocals and roots of zeros, infinities and negative numbers. -/
def Obligations.ExactArithmetic : Prop :=
  (∀ (x y : Q), x.den ≠ 0 → y.den ≠ 0 →
    (∀ rdn, ∃ z, Sys2Proof.Num.add rdn (.fin x) (.fin y) = .fin z ∧ z.den ≠ 0 ∧ z.rat = x.rat + y.rat ∧
      (z.num = 0 → x.num ≠ 0 ∨ y.num ≠ 0 ∨ x.neg ≠ y.neg → z.neg = rdn) ∧ (x.num = 0 → y.num = 0 → x.neg = y.neg → z.neg = x.neg)) ∧
    (∀ rdn, ∃ z, Sys2Proof.Num.sub rdn (.fin x) (.fin y) = .fin z ∧ z.den ≠ 0 ∧ z.rat = x.rat - y.rat) ∧
    (∃ z, Sys2Proof.Num.mul (.fin x) (.fin y) = .fin z ∧ z.den ≠ 0 ∧ z.rat = x.rat * y.rat ∧ z.neg = (x.neg != y.neg)) ∧
    (y.num ≠ 0 → ∃ z, Sys2Proof.Num.div (.fin x) (.fin y) = .fin z ∧ z.den ≠ 0 ∧ z.rat = x.rat / y.rat ∧ z.neg = (x.neg != y.neg)) ∧
    (Sys2Proof.Num.lt (.fin x) (.fin y) = true ↔ x.rat < y.rat) ∧ (Sys2Proof.Num.eq (.fin x) (.fin y) = true ↔ x.rat = y.rat)) ∧
  ((∀ rdn p n, Sys2Proof.Num.add rdn (.inf p) (.inf n) = if p = n then .inf p else .nan) ∧
  (∀ p n, Sys2Proof.Num.mul (.zero p) (.inf n) = .nan ∧ Sys2Proof.Num.mul (.inf n) (.zero p) = .nan ∧ Sys2Proof.Num.div (.inf p) (.inf n) = .nan ∧ Sys2Proof.Num.div (.zero p) (.zero n) = .nan) ∧
  (∀ p n, Sys2Proof.Num.div one (.zero p) = .inf p ∧ Sys2Proof.Num.div one (.inf n) = .zero n) ∧
  (∀ x : Q, x.num ≠ 0 → ∀ p, Sys2Proof.Num.div (.fin x) (.zero p) = .inf (x.neg != p)) ∧
  (∀ x : Q, ∀ p, Sys2Proof.Num.div (.inf p) (.fin x) = .inf (p != x.neg) ∧ Sys2Proof.Num.div (.fin x) (.inf p) = .zero (x.neg != p)) ∧
  (∀ x : Q, x.num ≠ 0 → x.neg = true → (Sys2Proof.Num.fin x).sqrt = .nan) ∧ (Sys2Proof.Num.inf true).sqrt = .nan ∧ (Sys2Proof.Num.inf false).sqrt = .inf false ∧
  (∀ p, (Sys2Proof.Num.zero p).sqrt = .zero p ∧ one.div (Sys2Proof.Num.zero p).sqrt = .inf p) ∧ one.div (Sys2Proof.Num.inf false).sqrt = .zero false)

/-- Rounding into a format (R63, R64), without FTZ or SAT: where the result is finite it keeps the sign; under RNE no finite number of the format is nearer;
under RTZ it is the greatest magnitude not above, under RDN the greatest number not above, under RUP the least not below; and under the stochastic modes
nothing of the format lies strictly between it and the exact value. -/
def Obligations.RoundingIsCorrect : Prop :=  ∀ (f : FF) (m : RMode) (d : Nat) (x y : Q), x.den ≠ 0 → x.num ≠ 0 →
    f.val (f.round { mode := m, sat := false, ftz := false, dither := d } (.fin x)).1 = .fin y →
    y.neg = x.neg ∧
    ∀ (w : Nat) (v : Q), w < 2 ^ f.width → f.val w = .fin v →
      match m with
      | .rne => |x.rat - y.rat| ≤ |x.rat - v.rat|
      | .rtz => |y.rat| ≤ |x.rat| ∧ (|v.rat| ≤ |x.rat| → |v.rat| ≤ |y.rat|)
      | .rdn => y.rat ≤ x.rat ∧ (v.rat ≤ x.rat → v.rat ≤ y.rat)
      | .rup => x.rat ≤ y.rat ∧ (x.rat ≤ v.rat → y.rat ≤ v.rat)
      | .sr => ¬(x.rat < v.rat ∧ v.rat < y.rat) ∧ ¬(y.rat < v.rat ∧ v.rat < x.rat)
      | .srd => ¬(x.rat < v.rat ∧ v.rat < y.rat) ∧ ¬(y.rat < v.rat ∧ v.rat < x.rat)

/-- FADD, FSUB, FMUL, FDIV, FFMA, FRCP, FRSQ and FSQRT (R157, R158): each completes with its exact value rounded once under the path's RND in every lane where
it acts, and under SR draws once from the stream. FEXP2, FLOG2, FSIN, FCOS, FTANH, FSIGM and FSCL (R162 to R165): the fixed evaluations with their last step
rounded under RND, and a scaling by a signed power of two.
FMIN, FMAX, FABS, FNEG, FCMP, FCLASS and FRND (R159, R160, R161): no draw but FRND's under the path's RND; FABS and FNEG change bit 31 alone, NaN made
canonical and a subnormal flushed first under FTZ; FCLASS sets the one bit of the operand's class. -/
def Obligations.FloatArithmetic : Prop :=
  (∀ (s : State) (c e : Ctx) (o : Ops),
    let a := fun l => e.fop o.a false l
    let b := fun l => e.fop o.b true l
    let x := fun l => e.fop o.a true l
    let rdn := e.rnd == .rdn
    (Issues (.fadd o) s c e → Completes (.fadd o) s e (Writes.rounded e 1 (fun l => e.rnd32 l (Sys2Proof.Num.add rdn (a l) (b l))))) ∧
    (Issues (.fsub o) s c e → Completes (.fsub o) s e (Writes.rounded e 1 (fun l => e.rnd32 l (Sys2Proof.Num.sub rdn (a l) (b l))))) ∧
    (Issues (.fmul o) s c e → Completes (.fmul o) s e (Writes.rounded e 1 (fun l => e.rnd32 l ((a l).mul (b l))))) ∧
    (Issues (.fdiv o) s c e → Completes (.fdiv o) s e (Writes.rounded e 1 (fun l => e.rnd32 l ((a l).div (b l))))) ∧
    (Issues (.ffma o) s c e →
      Completes (.ffma o) s e (Writes.rounded e 1 (fun l => e.rnd32 l (Sys2Proof.Num.add rdn ((a l).mul (e.fop o.b false l)) (e.fop o.c.asSel true l))))) ∧
    (Issues (.frcp o) s c e → Completes (.frcp o) s e (Writes.rounded e 1 (fun l => e.rnd32 l (one.div (x l))))) ∧
    (Issues (.frsq o) s c e → Completes (.frsq o) s e (Writes.rounded e 1 (fun l => e.rnd32 l (one.div (x l).sqrt)))) ∧
    (Issues (.fsqrt o) s c e → Completes (.fsqrt o) s e (Writes.rounded e 1 (fun l => e.rnd32 l (x l).sqrt)))) ∧
  (∀ (s : State) (c e : Ctx) (o : Ops),
    let x := fun l => e.fop o.a true l
    let done := fun (i : Instr) (f : Nat → Sys2Proof.Num) => Completes i s e (Writes.rounded e 1 (fun l => e.rnd32 l (f l)))
    (Issues (.fexp2 o) s c e → done (.fexp2 o) (fun l => exp2Exact (x l))) ∧
    (Issues (.flog2 o) s c e → done (.flog2 o) (fun l => log2Exact (x l))) ∧
    (Issues (.fsin o) s c e → done (.fsin o) (fun l => sinExact (x l))) ∧
    (Issues (.fcos o) s c e → done (.fcos o) (fun l => cosExact (x l))) ∧
    (Issues (.ftanh o) s c e → done (.ftanh o) (fun l => tanhExact (x l))) ∧
    (Issues (.fsigm o) s c e → done (.fsigm o) (fun l => sigmExact (x l))) ∧
    (Issues (.fscl o) s c e → done (.fscl o) (fun l => (e.fop o.a false l).scale (clampExp (e.opd o.b true true 1 l).toInt)))) ∧
  (∀ (s : State) (c e : Ctx) (o : Ops),
    let w := fun l => BitVec.ofNat 32 (e.src o.a true false 1 l)
    let a := fun l => e.fop o.a false l
    let b := fun l => e.fop o.b true l
    (∀ m, Issues (if m then .fmax o else .fmin o) s c e →
      Completes (if m then .fmax o else .fmin o) s e (Writes.result e 1 (fun l =>
        (fMinMax e.ftz m (BitVec.ofNat 32 (e.src o.a false false 1 l)) (BitVec.ofNat 32 (e.src o.b true false 1 l))).toNat))) ∧
    (Issues (.fabs o) s c e →
      Completes (.fabs o) s e (Writes.result e 1 (fun l => if (f32 (w l)).isNaN then 0x7FC00000 else (flush32 e.ftz (w l) &&& 0x7FFFFFFF).toNat))) ∧
    (Issues (.fneg o) s c e →
      Completes (.fneg o) s e (Writes.result e 1 (fun l => if (f32 (w l)).isNaN then 0x7FC00000 else (flush32 e.ftz (w l) ^^^ 0x80000000).toNat))) ∧
    (∀ r, Issues (.fcmp r o) s c e →
      Completes (.fcmp r o) s e (Writes.predicate e e.acts (fun l =>
        let un := (a l).isNaN || (b l).isNaN
        match r with
        | .eq => !un && (a l).eq (b l) | .ne => un || !(a l).eq (b l) | .lt => !un && (a l).lt (b l) | .le => !un && !(b l).lt (a l)
        | .gt => !un && (b l).lt (a l) | .ge => !un && !(a l).lt (b l) | .un => un | .ord => !un))) ∧
    (Issues (.fclass o) s c e → Completes (.fclass o) s e (Writes.result e 1 (fun l => classOf32 (w l)))) ∧
    (Issues (.frnd .fmt o) s c e → Completes (.frnd .fmt o) s e (Writes.rounded e 1 (fun l => frnd (e.rctx l) (e.src o.a true false 1 l)))) ∧
    (∀ r m, frndMode r = some m → Issues (.frnd r o) s c e →
      Completes (.frnd r o) s e (Writes.result e 1 (fun l => frnd { mode := m, sat := false, ftz := e.ftz, dither := 0 } (e.src o.a true false 1 l)))))

/-- CVT, CVTB, CVTN and CVTX (R166 to R171): CVT reads its source's format and writes its target's, rounding where a value may not fit; CVTB and CVTN scale each
block of 32 lanes by the power of two of its scale byte, which go into the uniform register B names; CVTX is their inverse, rounded RNE. -/
def Obligations.Conversions : Prop :=  ∀ (s : State) (c e : Ctx) (o : Ops),
    (∀ src dst, Issues (.cvt src dst o) s c e →
      let f := fun l => cvtWrite (e.rctx l) dst (cvtRead e.ftz src (e.src o.a true false src.words l))
      Completes (.cvt src dst o) s e (if cvtExact src dst then Writes.result e dst.words f else Writes.rounded e dst.words f)) ∧
    (∀ dst, Issues (.cvtb dst o) s c e → (∀ m, c.cvtbSlot = some m → (c.quarter.slot m).valid = true) →
      let perm := match e.cvtbSlot with | some m => (e.quarter.slot m).entry | none => fun i => i
      let xs := (List.range e.blocks).map (e.elements perm)
      let es := xs.map (blockScale (b8Max dst))
      Completes (.cvtb dst o) s e
        { Writes.rounded e 1 (fun l =>
            match listGet none es (l / 32) with
            | none => (b8FF dst).nan
            | some k => ((b8FF dst).round (e.rctx l) ((listGet (.zero false) (listGet [] xs (l / 32)) (l % 32)).scale (127 - (k : Int)))).1) with
          uni := uniWrites o.b true 1 (scaleWord es) }) ∧
    (∀ dst, Issues (.cvtb dst o) s c e → ∀ m, c.cvtbSlot = some m → (c.quarter.slot m).valid = false → exec (.cvtb dst o) s = .next (c.trap ⟨.ill, 9⟩)) ∧
    (Issues (.cvtn o) s c e →
      let xs := (List.range e.blocks).map (e.elements (fun i => i))
      let es := xs.map (blockScale 127)
      Completes (.cvtn o) s e
        { Writes.rounded e 1 (fun l => planeWord (e.nested (l / 32) (listGet [] xs (l / 32)) (listGet none es (l / 32))) (l % 32)) with
          uni := uniWrites o.b true 1 (scaleWord es) }) ∧
    (∀ src, Issues (.cvtx src o) s c e →
      Completes (.cvtx src o) s e (Writes.result e 1 (fun l =>
        let x := match src with
          | .e4m3 => FF.e4m3.val (e.val o.a 1 l % 256)
          | .e5m2 => FF.e5m2.val (e.val o.a 1 l % 256)
          | .ni => .ofInt (e.nestedElem l)
        (FF.f32.round { RCtx.rne with ftz := e.ftz } (x.mul (e8m0 (bits (e.val o.b 1 l) (8 * (l / 32)) 8)))).1)))

/-- The rounding distribution instructions DADD, DSUB, DMUL, DDIV, DFMA, DRCP, DSQRT, DEXP, DLOG, DTANH, DSIGM and DSCL (R173): the mean of each is the
floating-point instruction's of its operands' means, and spread and sensitivities go with it by the rules of R78 and R82. -/
def Obligations.DistributionArithmetic : Prop :=  ∀ (s : State) (c e : Ctx) (o : Ops) (f : Form),
    let a := fun l => e.dist f o.a l
    let b := fun l => e.dist f o.b l
    let d := fun l => e.dist f o.c.asSel l
    let rdn := e.rnd == .rdn
    let two := fun (i : Instr) (r : Rule) (z : Sys2Proof.Num → Sys2Proof.Num → Sys2Proof.Num) =>
      Completes i s e (Writes.rounded e f.words (fun l => e.propagate l false [e.mu (a l), e.mu (b l)] [a l, b l] (z (e.mu (a l)) (e.mu (b l))) r))
    let un := fun (i : Instr) (fixed : Bool) (g : Sys2Proof.Num → Sys2Proof.Num → Sys2Proof.Num) (z : Sys2Proof.Num → Sys2Proof.Num) =>
      Completes i s e (Writes.rounded e f.words (fun l => e.propagate l fixed [e.mu (a l)] [a l] (z (e.mu (a l))) (ruleUnary g)))
    (Issues (.dadd f o) s c e → two (.dadd f o) ruleAdd (Sys2Proof.Num.add rdn)) ∧ (Issues (.dsub f o) s c e → two (.dsub f o) ruleSub (Sys2Proof.Num.sub rdn)) ∧
    (Issues (.dmul f o) s c e → two (.dmul f o) ruleMul Sys2Proof.Num.mul) ∧ (Issues (.ddiv f o) s c e → two (.ddiv f o) ruleDiv Sys2Proof.Num.div) ∧
    (Issues (.dfma f o) s c e →
      Completes (.dfma f o) s e (Writes.rounded e f.words (fun l =>
        e.propagate l false [e.mu (a l), e.mu (b l), e.mu (d l)] [a l, b l, d l] (Sys2Proof.Num.add rdn ((e.mu (a l)).mul (e.mu (b l))) (e.mu (d l))) ruleFma))) ∧
    (Issues (.drcp f o) s c e → un (.drcp f o) false gRcp (fun x => one.div x)) ∧ (Issues (.dsqrt f o) s c e → un (.dsqrt f o) false gSqrt Sys2Proof.Num.sqrt) ∧
    (Issues (.dexp f o) s c e → un (.dexp f o) true gExp exp2Exact) ∧ (Issues (.dlog f o) s c e → un (.dlog f o) true gLog log2Exact) ∧
    (Issues (.dtanh f o) s c e → un (.dtanh f o) true gTanh tanhExact) ∧ (Issues (.dsigm f o) s c e → un (.dsigm f o) true gSigm sigmExact) ∧
    (Issues (.dscl f o) s c e →
      Completes (.dscl f o) s e (Writes.rounded e f.words (fun l =>
        e.propagate l false [e.mu (a l), e.fop o.b true l] [a l] ((e.mu (a l)).mul (e.fop o.b true l)) ruleScl)))

/-- What a rounding distribution instruction writes with RV = 0 (R76, R78, R82): the mean word is the mean's rounding, the spread the rule's of the operands'
means and spreads rounded once more to FP32, and sensitivity i the rule's of the operands' sensitivities i rounded to BF16; sums add spreads and
sensitivities, products weigh them by the other mean and its square. DMAX, DMIN, DORG, DSET, DVAR, DSTD, DSENS, DINDEP, DTRK, DCVT and DRED (R80, R84 to
R87, R174 to R178). -/
def Obligations.DistributionForms : Prop :=
  (∀ (e : Ctx) (l : Nat) (fixed : Bool) (mus : List Sys2Proof.Num) (xs : List Dst) (z : Sys2Proof.Num) (r : Rule), e.rv = false →
    (∀ x ∈ xs, x.sens.length = (xs.headD ⟨0, 0, []⟩).sens.length) →
    (let w := e.propagate l fixed mus xs z r
     let y := FF.f32.val (e.rnd32 l z)
     w % 2 ^ 32 = e.rnd32 l z % 2 ^ 32 ∧ w / 2 ^ 32 % 2 ^ 32 = (rne32 (r.spread mus y (xs.map Dst.sp))).toNat ∧
     ∀ i < (xs.headD ⟨0, 0, []⟩).sens.length, w / 2 ^ (64 + 16 * i) % 2 ^ 16 = (bf16 (r.sens mus y (xs.map (fun x => x.si i)))).toNat) ∧
    (∀ m y v w p q, ruleAdd.spread m y [v, w] = fadd32 v w ∧ ruleAdd.sens m y [p, q] = Sys2Proof.Num.add false p q ∧ ruleSub.spread m y [v, w] = fadd32 v w ∧
      ruleSub.sens m y [p, q] = Sys2Proof.Num.sub false p q) ∧
    (∀ a b y v w p q, ruleMul.spread [a, b] y [v, w] = fadd32 (fmul32 (fmul32 b b) v) (fmul32 (fmul32 a a) w) ∧
      ruleMul.sens [a, b] y [p, q] = Sys2Proof.Num.add false (b.mul p) (a.mul q))) ∧
  (∀ (s : State) (c e : Ctx) (o : Ops),
    (∀ f, let a := fun l => e.dist f o.a l
      let b := fun l => e.dist f o.b l
      let pick := fun (m : Bool) => Writes.result e f.words (fun l =>
        match fPickB e.ftz m (a l).mean (b l).mean with
        | none => (dstNaN (a l).sens.length).word
        | some x => if x then (b l).word else (a l).word)
      (Issues (.dmax f o) s c e → Completes (.dmax f o) s e (pick true)) ∧ (Issues (.dmin f o) s c e → Completes (.dmin f o) s e (pick false)) ∧
      (Issues (.dset f o) s c e → Completes (.dset f o) s e (Writes.result e f.words (fun l => e.val o.a 1 l + 2 ^ 32 * e.val o.b 1 l))) ∧
      (Issues (.dvar f o) s c e → Completes (.dvar f o) s e (Writes.result e 1 (fun l => (a l).var.toNat))) ∧
      (Issues (.dstd f o) s c e → Completes (.dstd f o) s e (Writes.result e 1 (fun l => (rne32 (a l).total.sqrt).toNat))) ∧
      (∀ n, Issues (.dcvt n f o) s c e →
        Completes (.dcvt n f o) s e (Writes.rounded e f.words (fun l =>
          let r := (nfmtFF n).round (e.rctx l) (e.mu (a l))
          let t := rvTerm (nfmtFF n) e.rnd r.2
          let keep : Bool := match e.mu (a l) with | .nan => true | .inf _ => !t.isInf | .fin q => decide (q.num = 0)
          ({ a l with mean := BitVec.ofNat 32 r.1, spread := if keep then (a l).spread else rne32 (Sys2Proof.Num.add false (a l).sp t) } : Dst).word))) ∧
      (Issues (.dred f o) s c e → ∀ k ls, lanes e.acts = k :: ls → ls ≠ [] →
        Completes (.dred f o) s e { vec := vecWrites o.d (fun l => l == k) f.words (fun _ =>
          ((tree (dredNode e.rv) 7 ((lanes e.acts).map a)).headD ⟨0, 0, []⟩).word) })) ∧
    (∀ i, Issues (.dorg i o) s c e →
      Completes (.dorg i o) s e (Writes.result e 4 (fun l =>
        ({ mean := (e.dist .m o.a l).mean, spread := 0, sens := listSet [0, 0, 0, 0] i.toNat (bf16 (e.dist .m o.a l).sp.sqrt) } : Dst).word))) ∧
    (∀ i, Issues (.dsens i o) s c e →
      Completes (.dsens i o) s e (Writes.result e 1 (fun l => (rne32 ((e.dist .t o.a l).si i.toNat)).toNat))) ∧
    (Issues (.dindep o) s c e →
      Completes (.dindep o) s e (Writes.result e 2 (fun l => (e.dist .t o.a l).mean.toNat + 2 ^ 32 * (e.dist .t o.a l).var.toNat))) ∧
    (Issues (.dtrk o) s c e → Completes (.dtrk o) s e (Writes.result e 4 (fun l => e.val o.a 2 l))))

/-- REDT, SCAN, SAMPLE, RNGK, RNGU, RNGN and VMASK (R228 to R232): a reduction writes the root of the fixed tree over the acting lanes in each of them; a scan
each acting lane's prefix; RNGK sets the stream's key and counter; RNGU and RNGN take one and two words of it and advance it so where a lane acts. -/
def Obligations.ReductionsAndStream : Prop :=  ∀ (s : State) (c e : Ctx) (o : Ops),
    let xs := (lanes e.acts).map (e.val o.a 1)
    let root := fun (f : Nat → Nat → Nat) => Writes.result e 1 (fun _ => (tree f 7 xs).headD 0)
    let after := fun (k : W32) (g : Group) => if lanes e.acts = [] then g else { g with ctr := g.ctr + k }
    (∀ t, Issues (.redtAdd t o) s c e → Completes (.redtAdd t o) s e (root (addNode t))) ∧
    (∀ t, Issues (.redtMax t o) s c e → Completes (.redtMax t o) s e (root (pickNode true t))) ∧
    (∀ t, Issues (.redtMin t o) s c e → Completes (.redtMin t o) s e (root (pickNode false t))) ∧
    (∀ t, Issues (.scan t o) s c e → ∃ f : Nat → Nat, Completes (.scan t o) s e (Writes.result e 1 f) ∧
      (∀ n l : Nat, (lanes e.acts)[n]? = some l → (scanAll (addNode t) 7 1 xs)[n]? = some (f l))) ∧
    (Issues (.sample o) s c e →
      Completes (.sample o) s e (Writes.result e 1 (fun _ => sampleLane (e.scanned (addNode .f32)) (e.src o.b true false 1 e.lead)))) ∧
    (Issues (.rngk o) s c e →
      Completes (.rngk o) s e { group := fun g =>
        if e.actsOnce then { g with key := BitVec.ofNat 64 (e.val o.a 2 e.lead), ctr := BitVec.ofNat 32 (e.src o.b true false 1 e.lead) } else g }) ∧
    (∀ t, Issues (.rngu t o) s c e →
      Completes (.rngu t o) s e { Writes.result e 1 (fun l =>
        let w := streamWord e.g.key e.g.ofs e.g.ctr l
        match t with | .n32 => w | .f32 => (rne32 (.ofInt (w / 256) (-24))).toNat) with group := after 1 }) ∧
    (Issues (.rngn o) s c e →
      Completes (.rngn o) s e { Writes.result e 1 (fun l =>
        normal (streamWord e.g.key e.g.ofs e.g.ctr l) (streamWord e.g.key e.g.ofs (e.g.ctr + 1) l)) with group := after 2 }) ∧
    (Issues (.vmask o) s c e → ∀ f : Nat → Nat,
      (∀ l ∈ lanes e.acts, ∃ x y, e.scratchPlace (e.maskByte l).1 1 = .at (f l) x y ∧ e.s.poisoned (f l) 1 = none ∧
        ∀ a ∈ e.s.accesses, a.2.gk = e.gk → rangesMeet a.2.loc a.2.len (f l) 1 = false) →
      Completes (.vmask o) s e (Writes.result e 1 (fun l =>
        if (e.s.byte (f l)).getLsbD (e.maskByte l).2 then e.val o.a 1 l else 0xFF800000)))

/-! ### Memory (R180 to R203) -/

/-- Loads, stores, atomics and ring operations of device memory, vaults and other teams' scratch (R180 to R187, R192, R196 to R199, R203): where no lane is
refused, each acting lane sends one access of the size, scope and place that the rules give, or two of 8 bytes where 16 lie on a memory-side page (R280), a
store or atomic with its operands read at issue; memory changes when it is performed, and not before. -/
def Obligations.AccessesInFlight : Prop :=  ∀ (s : State) (c e : Ctx) (o : Ops) (sc : Scope) (rh : Retain) (sz : Sz) (w64 : Bool) (op : Aop) (x : Nat → Site) (s' : State),
    (∀ l ∈ e.actLanes, ¬e.ownLoc (x l).loc) →
    let w := if w64 then 2 else 1
    let as := fun (n : Nat) (sc : Scope) (rh : Retain) (op : Nat → Op) => e.accessesOf n sc rh op x
    let st := fun (l : Nat) => Op.store (natLe sz.bytes (e.val o.b sz.words l))
    let at' := fun (l : Nat) => Op.atomic op w64 (e.val o.b w l) (if op = .cas then e.val e.cSel w l else 0)
    let ms := ∀ l ∈ e.actLanes, (x l).home = .ms
    (Issues (.ld sc rh sz o) s c e → Reaches e (atVirtual .load e) sz.bytes 1 true x s' →
      Sends (.ld sc rh sz o) s e s' (as sz.bytes sc rh (fun _ => .load sz)) (some (o.d, sz.words)) true) ∧
    (Issues (.lds sz o) s c e → Reaches e (atScratch sz.bytes e) sz.bytes 1 true x s' →
      Sends (.lds sz o) s e s' (as sz.bytes .grp .df (fun _ => .load sz)) (some (o.d, sz.words)) true) ∧
    (Issues (.ldv sz o) s c e → Reaches e (atVault e) sz.bytes 1 true x s' →
      Sends (.ldv sz o) s e s' (as sz.bytes .grp .df (fun _ => .load sz)) (some (o.d, sz.words)) true) ∧
    (Issues (.st sc rh sz o) s c e → Reaches e (atVirtual .store e) sz.bytes 2 false x s' →
      Sends (.st sc rh sz o) s e s' (as sz.bytes sc rh st) none false) ∧
    (Issues (.sts sz o) s c e → Reaches e (atScratch sz.bytes e) sz.bytes 2 false x s' → Sends (.sts sz o) s e s' (as sz.bytes .grp .df st) none false) ∧
    (Issues (.stv sz o) s c e → Reaches e (atVault e) sz.bytes 2 false x s' → Sends (.stv sz o) s e s' (as sz.bytes .grp .df st) none false) ∧
    (Issues (.atom sc w64 op o) s c e → Reaches e (atVirtual .atomic e) (4 * w) 4 true x s' →
      Sends (.atom sc w64 op o) s e s' (as (4 * w) sc .df at') (some (o.d, w)) true) ∧
    (Issues (.atoms sc w64 op o) s c e → Reaches e (atTeam sc (if w64 then 8 else 4) e) (4 * w) 4 true x s' →
      Sends (.atoms sc w64 op o) s e s' (as (4 * w) sc .df at') (some (o.d, w)) true) ∧
    (Issues (.ldrg sc rh o) s c e → Reaches e (atVirtual .load e) 8 1 true x s' → ms →
      Sends (.ldrg sc rh o) s e s' (as 8 sc rh (fun _ => .ldrg)) (some (o.d, 1)) true) ∧
    (Issues (.radd sc o) s c e → Reaches e (atVirtual .atomic e) 8 4 true x s' → ms →
      Sends (.radd sc o) s e s' (as 8 sc .df (fun l => .radd (BitVec.ofNat 32 (e.val o.b 1 l)))) none true) ∧
    (Issues (.rmerge sc o) s c e → Reaches e (atVirtual .atomic e) 8 4 true x s' → ms →
      Sends (.rmerge sc o) s e s' (as 8 sc .df (fun l => .rmerge (BitVec.ofNat 64 (e.val o.b 2 l)))) none true)

/-- LDS, STS and ATOMS on the issuing team's own scratch (R183, R186, R197): where nothing in flight has to be performed first, they are performed at issue,
lane by lane in ascending order; LDS reads the bytes of its lane's address and extends them, STS writes exactly its lanes' bytes, ATOMS returns the word
before its own change and stores the new one. -/
def Obligations.OwnScratch : Prop :=  ∀ (s : State) (c e : Ctx) (o : Ops) (sc : Scope) (sz : Sz) (w64 : Bool) (op : Aop) (x : Nat → Site) (s' : State),
    (∀ l ∈ e.actLanes, e.ownLoc (x l).loc ∧ (x l).home = .scratch) → e.actLanes ≠ [] → (e.o.hdr.ch = true ∨ e.o.hdr.le = false ∨ e.quarter.chain = none) →
    let n := if w64 then 8 else 4
    let w := if w64 then 2 else 1
    let free := fun (n : Nat) (sc : Scope) (op : Nat → Op) => ∀ l ∈ e.actLanes, s.before s.nextId (e.accessOf n sc .df op x l) = []
    let from' := fun (y : State) (accs : Map Access) (loads : Map LoadI) =>
      ({ y with accesses := accs, loads := loads, nextId := s.nextId + 1 + e.actLanes.length } : State)
    let st := fun (l : Nat) => natLe sz.bytes (e.val o.b sz.words l)
    let stores := e.actLanes.foldl (fun (y : State) l => y.write (x l).loc (st l)) s
    let at' := fun (l : Nat) => Op.atomic op w64 (e.val o.b w l) (if op = .cas then e.val e.cSel w l else 0)
    let run := fun (ls : List Nat) => ls.foldl (fun (y : State) l =>
      y.write (x l).loc (natLe n (atomNew op w64 (y.word (x l).loc n) (e.val o.b w l) (if op = .cas then e.val e.cSel w l else 0)))) s
    (Issues (.lds sz o) s c e → Reaches e (atScratch sz.bytes e) sz.bytes 1 true x s' → free sz.bytes .grp (fun _ => .load sz) →
      ∃ accs loads, Below s.nextId s.accesses accs ∧ Below s.nextId s.loads loads ∧
        CompletesIn (.lds sz o) s (from' s accs loads) e (Writes.loaded e s.nextId sz.words (fun l => extend sz (s.bytes (x l).loc sz.bytes)))) ∧
    (Issues (.sts sz o) s c e → Reaches e (atScratch sz.bytes e) sz.bytes 2 false x s' → free sz.bytes .grp (fun l => .store (st l)) →
      (∃ accs loads, Below s.nextId s.accesses accs ∧ Below s.nextId s.loads loads ∧ CompletesIn (.sts sz o) s (from' stores accs loads) e {}) ∧
      (∀ a, (∀ l ∈ e.actLanes, a < (x l).loc ∨ (x l).loc + sz.bytes ≤ a) → stores.byte a = s.byte a) ∧
      (∀ l ∈ e.actLanes, (∀ k ∈ e.actLanes, k ≠ l → (x k).loc ≠ (x l).loc) → ∀ i < sz.bytes,
        stores.byte ((x l).loc + i) = BitVec.ofNat 8 (e.val o.b sz.words l / 256 ^ i))) ∧
    (Issues (.atoms sc w64 op o) s c e → Reaches e (atTeam sc n e) n 4 true x s' → free n sc at' →
      (∃ accs loads, Below s.nextId s.accesses accs ∧ Below s.nextId s.loads loads ∧
        CompletesIn (.atoms sc w64 op o) s (from' (run e.actLanes) accs loads) e
          (Writes.loaded e s.nextId w (fun l => (run (e.actLanes.filter (fun k => decide (k < l)))).word (x l).loc n))) ∧
      (∀ a, (∀ l ∈ e.actLanes, a < (x l).loc ∨ (x l).loc + n ≤ a) → (run e.actLanes).byte a = s.byte a))

/-- What stops an access (R180 to R182, R449): the lowest refused lane, misaligned or where no such access is allowed, raises PROT with its address before any
lane is performed; poison read raises MCHK with the lowest such lane's address; lanes with a translation fault park the group at the instruction with those
lanes unfinished, after the other lanes' accesses are sent. -/
def Obligations.AccessFaults : Prop :=  ∀ (s : State) (c e : Ctx) (o : Ops) (sc : Scope) (rh : Retain) (sz : Sz) (p : Nat → Place) (s' : State),
    e.doneLanes = 0 →
    let n := sz.bytes
    let refused := fun (l : Nat) => e.ea l % n ≠ 0 ∨ p l = .prot ∨ (∃ k f b, p l = .peer k f b ∧ sc ≠ .sys)
    let poisoned := fun (l : Nat) => ∃ a h d, p l = .at a h d ∧ s'.poisoned a n ≠ none
    let clear := ∀ l ∈ e.actLanes, ¬refused l
    let first := fun (q : Nat → Prop) (l : Nat) => l ∈ e.actLanes ∧ q l ∧ ∀ k ∈ e.actLanes, k < l → ¬q k
    let parked := fun (t : State) => ∃ g x, mget? t.groups e.gk = some g ∧ g.park = some x ∧ x.pid = e.pid ∧
      (∀ l < 64, x.mask.getLsbD l = true ↔ l ∈ e.actLanes ∧ ∃ k, p l = .fault k) ∧ g.v = e.g.v ∧ g.s = e.g.s ∧ (∀ a, t.byte a = s.byte a) ∧
      ∀ l ∈ e.actLanes, ∀ a h d, p l = .at a h d → ∃ k y, s.nextId ≤ k ∧ mget? t.accesses k = some y ∧ y.lane = l ∧ y.loc = a ∧ y.va = e.ea l
    let mixed := (∃ l ∈ e.actLanes, ∃ k, p l = .fault k) ∧ ∀ l ∈ e.actLanes, (∃ k, p l = .fault k) ∨ ∃ a h d, p l = .at a h d ∧ ¬e.ownLoc a
    (Issues (.ld sc rh sz o) s c e → e.g.fenceHolds 1 = false → Placed (atVirtual .load e) e.actLanes e.s p s' →
      (∀ l, first refused l → exec (.ld sc rh sz o) s = .next (({ e with s := s' } : Ctx).trap ⟨.prot, e.ea l⟩)) ∧
      (clear → ∀ l, first poisoned l → exec (.ld sc rh sz o) s = .next (({ e with s := s' } : Ctx).trap ⟨.mchk, e.ea l⟩)) ∧
      (clear → (∀ l ∈ e.actLanes, ¬poisoned l) → mixed → ∃ t, exec (.ld sc rh sz o) s = .next t ∧ parked t)) ∧
    (Issues (.st sc rh sz o) s c e → e.g.fenceHolds 2 = false → Placed (atVirtual .store e) e.actLanes e.s p s' →
      (∀ l, first refused l → exec (.st sc rh sz o) s = .next (({ e with s := s' } : Ctx).trap ⟨.prot, e.ea l⟩)) ∧
      (clear → mixed → ∃ t, exec (.st sc rh sz o) s = .next t ∧ parked t))

/-- ACCESS_PERFORM and LOAD_RETURN (R181, R182, R185, R197, R255): at its performing point a store writes its bytes and nothing else, an atomic replaces the old
word by the new one and returns the old, a load returns its bytes, extended for I8 and I16; poison that it reads changes nothing. LOAD_RETURN (R182, R255): an
instruction whose lanes are all performed writes its destination in the lanes that it read, and its registers are pending no more; one that has met poison
raises MCHK with its address, resuming at its own PC or at the head of the chain it stood last in (R44), and not while its group is parked (log 90, DESIGN
CHOICE); one with lanes left waits. -/
def Obligations.AccessesPerform : Prop :=
  (∀ (s : State) (id : Nat) (a : Access), mget? s.accesses id = some a →
    let clean := s.poisoned a.loc a.len = none
    let got := fun (t : State) (v : Nat) => Got s t a v
    (s.canPerform id a = true →
      (∀ bs, a.op = .store bs →
        ∃ t, exec (.accessPerform id) s = .next t ∧ mget? t.accesses id = none ∧ t.groups = s.groups ∧
          (∀ b, (b < a.loc ∨ a.loc + bs.length ≤ b) → t.byte b = s.byte b) ∧ (∀ i < bs.length, t.byte (a.loc + i) = bs.getD i 0)) ∧
      (∀ sz, a.op = .load sz → clean → (a.cacheable = false ∨ 2 ≤ a.scope.code ∨ s.ways a.core = 0 ∨ (s.core a.core).copy a.loc = none) →
        ∃ t, exec (.accessPerform id) s = .next t ∧ mget? t.accesses id = none ∧ t.groups = s.groups ∧ (∀ b, t.byte b = s.byte b) ∧
          got t (extend sz (s.bytes a.loc a.len))) ∧
      (∀ sz l, a.op = .load sz → clean → a.cacheable = true → a.scope.code < 2 → s.ways a.core ≠ 0 → (s.core a.core).copy a.loc = some l →
        ∃ t, exec (.accessPerform id) s = .next t ∧ (∀ b, t.byte b = s.byte b) ∧ got t (extend sz ((l.drop (a.loc % 128)).take a.len))) ∧
      (∀ op w64 b c, a.op = .atomic op w64 b c → clean →
        ∃ t, exec (.accessPerform id) s = .next t ∧ mget? t.accesses id = none ∧ t.groups = s.groups ∧
          (∀ k, (k < a.loc ∨ a.loc + a.len ≤ k) → t.byte k = s.byte k) ∧
          t.bytes a.loc a.len = natLe a.len (atomNew op w64 (s.word a.loc a.len) b c) ∧ got t (s.word a.loc a.len)) ∧
      ((∃ sz, a.op = .load sz) ∨ (∃ op w64 b c, a.op = .atomic op w64 b c) → ∀ p, s.poisoned a.loc a.len = some p →
        ∃ t, exec (.accessPerform id) s = .next t ∧ mget? t.accesses id = none ∧ t.mem = s.mem ∧
          ∀ l, mget? s.loads a.iid = some l → ∃ m, mget? t.loads a.iid = some m ∧ m.poison = l.poison.or (some a.va))) ∧
    (s.canPerform id a = false → exec (.accessPerform id) s = .next s)) ∧
  (∀ (s : State) (iid : Nat) (l : LoadI), mget? s.loads iid = some l →
    (l.left ≠ 0 ∨ l.upper ≠ 0 → exec (.loadReturn iid) s = .next s) ∧
    (∀ g, l.left = 0 → l.upper = 0 → l.poison = none → l.latch = none → mget? s.groups l.gk = some g →
      ∃ t g', exec (.loadReturn iid) s = .next t ∧ mget? t.groups l.gk = some g' ∧ mget? t.loads iid = none ∧ t.mem = s.mem ∧ g'.paths = g.paths ∧
        g'.pending = g.pending.filter (fun p => p.iid != iid) ∧ g'.a = g.a ∧ g'.p = g.p ∧
        (l.nwb = true → g'.v = g.v ∧ g'.s = g.s) ∧
        (∀ n, l.nwb = false → l.dst = .v n → n.toNat + l.words ≤ 8 * g.blocks →
          g'.s = g.s ∧ ∀ i < 64, ∀ r < 256, g'.vec i r = (vecWrites l.dst (fun i => l.mask.getLsbD i) l.words (fun i => mgetD l.got i 0) i r).getD (g.vec i r)) ∧
        (∀ n i, l.nwb = false → l.dst = .s n → l.mask = 1#64 <<< i → i < 64 →
          g'.v = g.v ∧ ∀ r < 64, g'.uni r = (uniWrites l.dst true l.words (mgetD l.got i 0) r).getD (g.uni r))) ∧
    (∀ g p a, l.left = 0 → l.upper = 0 → l.poison = some a → mget? s.groups l.gk = some g → g.handler = none → mget? g.paths l.pid = some p →
      (g.park = none → p.st = .ready →
        let s1 := ((({ s with loads := merase s.loads iid } : State).modGroup l.gk
          (fun g => { g with pending := g.pending.filter (fun p => p.iid != iid) })).cutChain l.gk l.pid)
        exec (.loadReturn iid) s = .next (match l.back with
          | some k => (s1.modGroup l.gk (fun g => { g with ctr := k.ctr })).trapAt l.gk l.pid ⟨.mchk, a⟩ l.pc k.head
          | none => s1.trapAt l.gk l.pid ⟨.mchk, a⟩ l.pc l.pc)) ∧
      (g.park.isSome = true → exec (.loadReturn iid) s = .next s)))

/-- Prefetch and cache control (R189 to R191, R276, R278, R293): they change no byte of memory; PREF fills the core's cache or a replica, CCTL sends an access
for each lane that drops or writes back copies; REPLICA_INVALIDATE takes a replica away, and where a write waits for that, the sector is held for it;
SECTOR_CONVERT re-forms a sector in the orientation that a waiting request asks for, written back first, and else nothing. -/
def Obligations.CachesAndSectors : Prop :=  ∀ (s : State) (c e : Ctx) (o : Ops) (sc : Scope) (rh : Retain) (x : Nat → Site) (s' : State) (die sector : Nat) (cols wide : Bool),
    let as := fun (drop : Bool) => e.accessesOf 1 sc .df (fun _ => .cctl drop) x
    let here := ∀ l ∈ e.actLanes, ¬e.ownLoc (x l).loc
    let unclaimed := fun (m : Map Access) (k : Nat) => (mget? m k).map (fun a => { a with claimed := false })
    (Issues (.pref sc rh o) s c e →
      ∃ y, CompletesIn (.pref sc rh o) s y e {} ∧ (∀ a, y.byte a = s.byte a) ∧
        y = { s with tlbs := y.tlbs, walks := y.walks, columns := y.columns, dirty := y.dirty, cores := y.cores, replicas := y.replicas }) ∧
    (here → Issues (.cctlWb sc o) s c e → Reaches e (atCached sc e) 1 2 false x s' → Sends (.cctlWb sc o) s e s' (as false) none false) ∧
    (here → Issues (.cctlInv sc o) s c e → Reaches e (atCached sc e) 1 2 false x s' → Sends (.cctlInv sc o) s e s' (as true) none false) ∧
    (here → Issues (.cctlWbinv sc o) s c e → Reaches e (atCached sc e) 1 2 false x s' → Sends (.cctlWbinv sc o) s e s' (as true) none false) ∧
    (∃ t, exec (.replicaInvalidate die sector) s = .next t ∧ t = { s with replicas := t.replicas, accesses := t.accesses } ∧
      (∀ k, mget? t.replicas k = if k = replicaKey die sector then none else mget? s.replicas k) ∧ (∀ k, unclaimed t.accesses k = unclaimed s.accesses k) ∧
      (∀ id, s.hasReplica sector = true → s.claimant sector = some id → ∀ a, mget? t.accesses id = some a → a.claimed = true) ∧
      (s.hasReplica sector = false ∨ s.claimant sector = none → t.accesses = s.accesses)) ∧
    (s.wantsLines sector cols wide = false → exec (.sectorConvert sector cols wide) s = .next s) ∧
    (s.wantsLines sector cols wide = true →
      ∃ t, exec (.sectorConvert sector cols wide) s = .next t ∧ t = { s with columns := t.columns, dirty := t.dirty } ∧ sector ∉ t.dirty ∧
        mget? t.columns sector = (if cols then some wide else none) ∧ (∀ k, k ≠ sector → mget? t.columns k = mget? s.columns k) ∧
        ∀ k, k ≠ sector → (k ∈ t.dirty ↔ k ∈ s.dirty))

/-- FENCE (R193 to R195, R188, R290): with nothing outstanding in its predecessor sets that its scope has to find performed it completes, dropping the core's
copies when r is among its successors and its scope is .cl or wider; otherwise its path is blocked until that is performed, and completes then. What a
narrower scope goes on without is marked as relied on, and is otherwise as it was. -/
def Obligations.Fences : Prop :=  ∀ (s : State) (c e : Ctx) (o : Ops) (sc : Scope) (i : Instr), i = .fence sc o ∨ i = .fenceSc sc o →
    let w := match o.c with | .raw v => v.toNat | .sel _ => 0
    let pred := w % 16
    let succ := w / 16 % 16
    let accs := e.predAccs pred
    let ext := pred &&& 8 ≠ 0
    let xfers := if ext then s.xfersOf e.gk else []
    let jobs := if ext then s.jobsOf e.gk e.g.launch else []
    let masks := if ext then s.masksOf e.gk e.g.launch else []
    let met := e.s.fenceMet sc accs xfers jobs masks = true ∧ (sc = .sys → s.shadowQuiet e.part = true)
    let unmarked := fun (m : Map Access) (k : Nat) => (mget? m k).map (fun a => { a with relied := none })
    let acquired := fun (y : State) (core succ : Nat) => if 2 ≤ sc.code ∧ succ &&& 1 ≠ 0 then y.setCore core { y.core core with frames := [] } else y
    (Issues i s c e → Idle i s e) ∧
    (Issues i s c e → e.actsOnce = true → met → CompletesIn i s (acquired (s.rely accs) e.core succ) e {}) ∧
    (Issues i s c e → e.actsOnce = true → ¬met → Blocks i s s e (.fence sc accs xfers jobs masks succ)) ∧
    (∀ l, s.rely l = { s with accesses := (s.rely l).accesses, nextId := (s.rely l).nextId } ∧ (∀ k, unmarked (s.rely l).accesses k = unmarked s.accesses k) ∧
      ((∀ k ∈ l, mget? s.accesses k = none) → s.rely l = s)) ∧
    (∀ gk pid g p xs js ms as u, mget? s.groups gk = some g → mget? g.paths pid = some p → p.st = .blocked (.fence sc as xs js ms u) →
      (s.fenceMet sc as xs js ms = true → (sc = .sys → s.shadowQuiet ((s.partOfCore (coreOf gk)).getD 4) = true) →
        ∃ t g' p', exec (.fenceComplete gk pid) s = .next t ∧ t = { acquired (s.rely as) (coreOf gk) u with groups := t.groups } ∧
          mget? t.groups gk = some g' ∧ mget? g'.paths pid = some p' ∧ (p.hold = false → p'.st = .ready) ∧ p'.mask = p.mask ∧ g'.v = g.v ∧ g'.s = g.s ∧
          (∀ k, k ≠ gk → mget? t.groups k = mget? s.groups k)) ∧
      (s.fenceMet sc as xs js ms = false → exec (.fenceComplete gk pid) s = .next s))

/-- DATOM, DFLUSH and DSTAT (R198 to R202): a DATOM's lanes carry their issuer keys and the group's count of DATOMs rises; an addend that finds room among a
tracked word's sixteen is held, and memory is as it was, any other is added to memory at once; DFLUSH blocks its path with a flush of the range's words on
memory-side pages in flight, which is performed later, or parks at its pages without translation (R344); DSTAT reads the word's flags and count. Without an
epoch the three raise PROT. -/
def Obligations.DeterministicAtomics : Prop :=  ∀ (s : State) (c e : Ctx) (o : Ops) (sc : Scope) (x : Nat → Site) (s' : State),
    let as := fun (op : Nat → Op) => e.accessesOf 4 sc .df op x
    let ms := ∀ l ∈ e.actLanes, (x l).home = .ms ∧ ¬e.ownLoc (x l).loc
    let ea := e.ea e.lead
    (Issues (.datom sc o) s c e → Reaches e (atVirtual .atomic e) 4 4 true x s' → ms → e.actLanes ≠ [] → e.launch.epoch ≠ 0 →
      mget? e.g.unfinished e.pid = none → e.g.dead = false → e.p.st = .ready →
      SendsWith (fun g => { g with seq := g.seq + 1 }) (.datom sc o) s e s'
        (as (fun l => .datom (e.issuerKey e.g.seq l) (BitVec.ofNat 32 (e.val o.b 1 l)))) none true) ∧
    (Issues (.datom sc o) s c e → e.launch.epoch = 0 → ∀ l, e.actLanes.head? = some l → exec (.datom sc o) s = .next (e.trap ⟨.prot, e.ea l⟩)) ∧
    (Issues (.dstat sc o) s c e → Reaches e (atVirtual .load e) 4 1 false x s' → ms → e.actLanes ≠ [] → e.launch.epoch ≠ 0 →
      Sends (.dstat sc o) s e s' (as (fun _ => .dstat)) (some (o.d, 1)) true) ∧
    (Issues (.dstat sc o) s c e → e.launch.epoch = 0 → ∀ l, e.actLanes.head? = some l → exec (.dstat sc o) s = .next (e.trap ⟨.prot, e.ea l⟩)) ∧
    (Issues (.dflush sc o) s c e → Idle (.dflush sc o) s e) ∧
    (Issues (.dflush sc o) s c e → e.actsOnce = true → (e.launch.epoch = 0 ∨ 2 ^ 56 ≤ ea) → exec (.dflush sc o) s = .next (e.trap ⟨.prot, ea⟩)) ∧
    (Issues (.dflush sc o) s c e → e.actsOnce = true → e.launch.epoch ≠ 0 → ea < 2 ^ 56 → e.g.fenceHolds 4 = false →
      ∀ ps s', e.s.spanPlaces e.q e.part e.asid e.sys .load (spans (e.val o.b 1 e.lead / 65536 + 2) ea (e.val o.b 1 e.lead)) = (ps, s') →
      (ps.filterMap spanFault ≠ [] → exec (.dflush sc o) s = .next (e.parkAll s' 2 (ps.filterMap spanFault))) ∧
      (ps.filterMap spanFault = [] →
        ∃ m a, Blocks (.dflush sc o) s { (s.translations s') with accesses := m, nextId := s.nextId + 1 } e (.dflush s.nextId) ∧
          Below s.nextId s.accesses m ∧ mget? m s.nextId = some a ∧ a.op = .dflush (ps.filterMap flushable) ∧ a.va = ea ∧ a.gk = e.gk ∧ a.asid = e.asid))

/-- DATOM_ARRIVAL, DFLUSH_PERFORM and the tracked words of a saggar unit (R199 to R201). Ring words at their performing point (R72, R192, R203, R385, R390):
LDRG returns the value decayed by its age, the age held below 2^23, and leaves the word; RADD adds to the decayed value and takes the present step; RMERGE
takes the later stamp and adds both values decayed to it; the class stays, and a stale word counts in RSTALE. -/
def Obligations.TrackedAndRingWords : Prop :=
  (∀ (s : State) (id : Nat) (a : Access), mget? s.accesses id = some a →
    let ep := (s.launch a.launch).epoch
    let st := stackOf a.loc
    let k := dkey ep a.loc
    let got := fun (t : State) (v : Nat) => Got s t a v
    let added := fun (t : State) (u : W32) => t.word a.loc 4 = fadd (s.word a.loc 4) u ∧ ∀ b, (b < a.loc ∨ a.loc + 4 ≤ b) → t.byte b = s.byte b
    (∀ key u, a.op = .datom key u → s.canPerform id a = true → s.poisoned a.loc a.len = none →
      ((s.saggar st).track k ep s.tick = none →
        ∃ t, exec (.datomArrival id) s = .next t ∧ mget? t.accesses id = none ∧ added t u ∧ ep ∈ (t.saggar st).fell) ∧
      (∀ d ws, (s.saggar st).track k ep s.tick = some (d, ws) → d.held.length < 16 →
        ∃ t, exec (.datomArrival id) s = .next t ∧ mget? t.accesses id = none ∧ (∀ b, t.byte b = s.byte b) ∧
          mget? (t.saggar st).words k = some { d with tie := d.tie || d.held.any (fun h => h.1 == key), held := d.held ++ [(key, u)] }) ∧
      (∀ d ws, (s.saggar st).track k ep s.tick = some (d, ws) → 16 ≤ d.held.length →
        ∃ t x, exec (.datomArrival id) s = .next t ∧ mget? t.accesses id = none ∧ added t u ∧ mget? (t.saggar st).words k = some x ∧
          x.held = d.held ∧ x.ovf = true ∧ x.spill = min (d.spill + 1) 255)) ∧
    (a.op = .dstat → s.canPerform id a = true →
      ∃ t, exec (.accessPerform id) s = .next t ∧ (∀ b, t.byte b = s.byte b) ∧
        got t (match mget? (s.saggar st).words k with
          | none => if (s.saggar st).fell.contains ep then 256 else 0
          | some d => d.spill * 65536 + (if (s.saggar st).fell.contains ep then 256 else 0) + d.tie.toNat * 128 + d.ovf.toNat * 64 + d.fl.toNat * 32
              + d.held.length)) ∧
    (∀ n, a.op = .dflush n →
      (∀ j b key u, mget? s.accesses j = some b → j < id → b.gk = a.gk → b.op = .datom key u → exec (.dflushPerform id) s = .next s) ∧
      ((∀ b ∈ s.accesses, b.1 < id → b.2.gk = a.gk → ∀ key u, b.2.op ≠ .datom key u) →
        ∃ t, exec (.dflushPerform id) s = .next t ∧ mget? t.accesses id = none ∧ t.mem = (s.doAccess a).2.mem ∧
          ∀ g pid, mget? s.groups a.gk = some g → g.flushing id = some pid →
            ∃ g' p, mget? t.groups a.gk = some g' ∧ mget? g'.paths pid = some p ∧ (∀ b, p.st ≠ .blocked b))) ∧
    (∀ d, mget? (s.saggar st).words k = some d → d.held ≠ [] → a.loc < 2 ^ 40 →
      let t := s.flushWord st k
      (∃ l : List (Nat × W32), l.Perm d.held ∧ l.Pairwise (fun x y => x.1 ≤ y.1) ∧ t.word a.loc 4 = (l.map (fun h => h.2)).foldl fadd (s.word a.loc 4)) ∧
      (∀ b, (b < a.loc ∨ a.loc + 4 ≤ b) → t.byte b = s.byte b) ∧ mget? (t.saggar st).words k = some { d with held := [], fl := true, used := s.tick })) ∧
  (∀ (s : State) (id : Nat) (a : Access), mget? s.accesses id = some a → s.canPerform id a = true → s.poisoned a.loc a.len = none →
    let w := s.word a.loc 8
    let now := s.unitStep (stackOf a.loc) a.part a.asid
    let age := stepDiff now (ringStamp w)
    let dec := fun (w age : Nat) => s.decayed a.part a.asid (ringClass w) age (ringVal w)
    let old := dec w (min age (2 ^ 23 - 1))
    let st := stackOf a.loc
    let got := fun (t : State) (v : Nat) => Got s t a v
    let counted := fun (t : State) (b : Prop) [Decidable b] => (t.saggar st).rstale = (s.saggar st).rstale + (if b then 1 else 0)
    let only := fun (t : State) => ∀ b, (b < a.loc ∨ a.loc + 8 ≤ b) → t.byte b = s.byte b
    (a.op = .ldrg → ∃ t, exec (.accessPerform id) s = .next t ∧ (∀ b, t.byte b = s.byte b) ∧ got t old.toNat ∧ counted t (2 ^ 23 ≤ age)) ∧
    (∀ u, a.op = .radd u →
      ∃ t, exec (.accessPerform id) s = .next t ∧ only t ∧ counted t (2 ^ 23 ≤ age) ∧ ringClass (t.word a.loc 8) = ringClass w ∧
        ringStamp (t.word a.loc 8) = now ∧ ringVal (t.word a.loc 8) = rne32 (Sys2Proof.Num.add false (f32 old) (f32 u))) ∧
    (∀ x, a.op = .rmerge x →
      let so := ringStamp x.toNat
      let later := if stepDiff so (ringStamp w) < 2 ^ 23 then so else ringStamp w
      ∃ t, exec (.accessPerform id) s = .next t ∧ only t ∧ counted t (2 ^ 23 ≤ stepDiff later so) ∧ ringClass (t.word a.loc 8) = ringClass w ∧
        ringStamp (t.word a.loc 8) = later ∧
        ringVal (t.word a.loc 8) = rne32 (Sys2Proof.Num.add false (f32 (dec w (stepDiff later (ringStamp w))))
          (f32 (dec x.toNat (min (stepDiff later so) (2 ^ 23 - 1)))))))

/-! ### Barriers and channels (R204 to R215) -/

/-- The check of a barrier object after every operation (R204, R208, R209): a phase completes exactly when all expected arrivals are in and the target's bytes
have landed, and then the phase number rises, arrivals, target and counted bytes are taken off and the watch seen becomes the last one; a phase has
completed when the present number is ahead of it by 1 to 32,768. -/
def Obligations.BarrierPhases : Prop :=  (∀ o : Obj, (o.arrived = o.expected → o.target ≤ o.landed →
      o.check.phase = (o.phase + 1) % 65536 ∧ o.check.arrived = 0 ∧ o.check.target = 0 ∧ o.check.landed = o.landed - o.target ∧
      (o.check.ovb = true ↔ o.ovb = true ∨ o.target < o.landed) ∧ o.check.lidx = o.cidx ∧ o.check.lvalid = o.cvalid ∧ o.check.cvalid = false ∧
      o.check.expected = o.expected ∧ o.check.scope = o.scope ∧ o.check.watch = o.watch) ∧
    (o.arrived ≠ o.expected ∨ o.landed < o.target → o.check = o)) ∧
  (∀ (o : Obj) (n : Nat), o.phase < 65536 → n < 65536 → (o.over n = true ↔ ∃ k, 1 ≤ k ∧ k ≤ 32768 ∧ (n + k) % 65536 = o.phase)) ∧
  (∀ o : Obj, o.phase < 2 ^ 16 → o.expected < 2 ^ 16 → o.arrived < 2 ^ 16 → o.cidx < 4 → o.lidx < 4 → o.scope < 8 → o.rsv < 32 → o.target < 2 ^ 32 →
    o.landed < 2 ^ 32 → Obj.ofNat o.toNat = o) ∧
  (∀ a b : Nat, satAdd a b = min (a + b) 4294967295)

/-- The barrier instructions on an object of the issuing core (R205 to R210): BINIT makes it new and drops its watches; an arrival counts one, with its bytes
expected, and beyond the last raises BAR_OVER; BEXP expects bytes; BWAIT and BTRY write the status word that they find, before the check that follows every
operation, and BWAIT blocks while its phase is not over; WATCH arms and disarms, the arrival of a watch that its index held and that has been hit made first.
A misaligned address or one outside the team's scratch raises PROT. Barrier operations on another core's object, and arrivals with accesses to wait for
(R205, R207, R210): the operation goes to the object's unit and its path is blocked; BARRIER_UNIT_OP performs it there once what it waits for is done, writes
its answer and lets the path go on; WATCH_FIRE disarms a watch whose word was written and makes its arrival. -/
def Obligations.Barriers : Prop :=
  (∀ (s : State) (c e : Ctx) (o : Ops) (sc : Scope) (k : BitVec 2) (loc : Nat) (d : Nat),
    let ea := e.addr o.a e.lead
    let here := e.actsOnce = true ∧ e.scratchPlace ea 16 = .at loc .scratch d ∧ ea % 16 = 0 ∧ bankCore loc = e.core
    let b := s.obj loc
    let n := e.src o.b true false 1 e.lead
    let free := e.objAfter loc = []
    let after := e.s.accsOf e.gk ++ e.s.barsMeeting e.gk e.s.nextId loc 16
    let quiet := e.s.awaited (e.s.objScope loc) after = [] ∧ (b.scope = 5 → s.shadowQuiet e.part = true)
    let acq := fun (y : State) (done : Bool) => if done = true ∧ 2 ≤ b.scope then y.setCore e.core { y.core e.core with frames := [] } else y
    let others := (s.core e.core).watches.filter (fun w => w.2.obj != loc)
    let arrived := (b.arrived + 1) % 65536
    let key := loc * 4 + k.toNat
    let fire := fun (y : State) => match mget? (y.core e.core).watches key with | some w => if w.hit then y.fireWatch e.core key else y | none => y
    (Issues (.binit sc o) s c e → here → free → sc ≠ .grp → e.val o.b 1 e.lead % 65536 ≠ 0 →
      CompletesIn (.binit sc o) s ((s.setCore e.core { s.core e.core with watches := others }).setObj loc
        { landed := 0, target := e.src o.c.asSel true false 1 e.lead, rsv := 0, scope := sc.code, lvalid := false, lidx := 0, cvalid := false, cidx := 0,
          watch := false, ovb := false, arrived := 0, expected := e.val o.b 1 e.lead % 65536, phase := 0 }) e {}) ∧
    (Issues (.barr o) s c e → here → quiet → b.arrived ≠ b.expected →
      CompletesIn (.barr o) s ((s.rely after).setObj loc ({ b with arrived := arrived } : Obj).check) e {}) ∧
    (∀ i, i = .barr o ∨ i = .barrBytes o → Issues i s c e → here → quiet → b.arrived = b.expected →
      exec i s = .next (({ e with s := e.s.rely after } : Ctx).trap ⟨.barOver, ea⟩)) ∧
    (Issues (.barrBytes o) s c e → here → quiet → b.arrived ≠ b.expected →
      CompletesIn (.barrBytes o) s ((s.rely after).setObj loc ({ b with target := satAdd b.target n, arrived := arrived } : Obj).check) e {}) ∧
    (Issues (.bexp o) s c e → here → free → CompletesIn (.bexp o) s (s.setObj loc ({ b with target := satAdd b.target n } : Obj).check) e {}) ∧
    (Issues (.bwait o) s c e → here → free → b.over (n % 65536) = true →
      ∃ t g, exec (.bwait o) s = .next t ∧ DoneNext (acq (s.setObj loc b.check) true) e (Writes.uniform e 1 (b.status true)) t ∧ mget? t.groups e.gk = some g ∧
        g.watchdog = 0) ∧
    (Issues (.bwait o) s c e → here → free → b.over (n % 65536) = false →
      ∃ m, mget? m s.nextId = some { gk := e.gk, pid := e.pid, core := e.core, obj := loc, ea := ea, op := .wait (n % 65536) o.d, after := [], parked := true } ∧
        Below s.nextId s.barReqs m ∧ Blocks (.bwait o) s { s.setObj loc b.check with barReqs := m, nextId := s.nextId + 1 } e (.barrier s.nextId)) ∧
    (Issues (.btry o) s c e → here → free →
      CompletesIn (.btry o) s (acq (s.setObj loc b.check) (b.over (n % 65536))) e (Writes.uniform e 1 (b.status (b.over (n % 65536))))) ∧
    (Issues (.watch k o) s c e → here → free → o.b.isZero = true →
      let y := fire s
      let ws := merase (y.core e.core).watches key
      CompletesIn (.watch k o) s ((y.setCore e.core { y.core e.core with watches := ws }).setObj loc
        ({ y.obj loc with watch := ws.any (fun w => w.2.obj == loc) && (y.obj loc).watch } : Obj).check) e {}) ∧
    (∀ va w h hd s', Issues (.watch k o) s c e → here → o.b.isZero = false → va = e.addr o.b e.lead → e.vplace .load va e.s = (.at w h hd, s') → free →
      let y := fire (s.translations s')
      ((mget? (y.core e.core).watches key).isSome = true ∨ (y.core e.core).watches.length < 16 →
        CompletesIn (.watch k o) s ((y.setCore e.core { y.core e.core with
            watches := mset (y.core e.core).watches key { obj := loc, idx := k.toNat, word := w / 8 * 8, va := va, hit := false } }).setObj loc
          ({ y.obj loc with watch := true } : Obj).check) e {}) ∧
      ((mget? (y.core e.core).watches key).isSome = false → 16 ≤ (y.core e.core).watches.length →
        exec (.watch k o) s = .next (({ e with s := fire s' } : Ctx).trap ⟨.prot, ea⟩))) ∧
    (∀ i, i = .binit sc o ∨ i = .barr o ∨ i = .barrBytes o ∨ i = .bexp o ∨ i = .bwait o ∨ i = .btry o ∨ i = .watch k o → Issues i s c e → Idle i s e) ∧
    (∀ i, i = .barr o ∨ i = .barrBytes o ∨ i = .bexp o ∨ i = .btry o → Issues i s c e → e.actsOnce = true →
      (e.scratchPlace ea 16 = .prot ∨ ea % 16 ≠ 0) → exec i s = .next (e.trap ⟨.prot, ea⟩))) ∧
  (∀ (s : State),
    (∀ (c e : Ctx) (o : Ops) (loc d : Nat), Issues (.barr o) s c e → e.actsOnce = true → e.scratchPlace (e.addr o.a e.lead) 16 = .at loc .scratch d →
      e.addr o.a e.lead % 16 = 0 →
      let after := e.s.accsOf e.gk ++ e.s.barsMeeting e.gk e.s.nextId loc 16
      (bankCore loc ≠ e.core ∨ e.s.awaited (e.s.objScope loc) after ≠ []) →
      let r : BarReq := { gk := e.gk, pid := e.pid, core := e.core, obj := loc, ea := e.addr o.a e.lead, op := .arrive none, after := after, parked := false }
      ∃ m, mget? m s.nextId = some r ∧
        Below s.nextId s.barReqs m ∧ Blocks (.barr o) s { s with barReqs := m, nextId := s.nextId + 1 } e (.barrier s.nextId)) ∧
    (∀ rid r, mget? s.barReqs rid = some r →
      (s.barReady r = false → exec (.barrierUnitOp rid) s = .next s) ∧
      (∀ t, s.barReady r = true → (s.barRely r).barUnit r = (.wait, t) →
        exec (.barrierUnitOp rid) s = .next { t with barReqs := mset t.barReqs rid { r with parked := true } }) ∧
      (∀ k t, s.barReady r = true → s.barWaits rid r = true → (s.barRely r).barUnit r = (.trap k, t) →
        exec (.barrierUnitOp rid) s = .next (({ t with barReqs := merase t.barReqs rid } : State).trapWait r.gk r.pid ⟨k, r.ea⟩)) ∧
      (∀ x t g p, s.barReady r = true → s.barWaits rid r = true → (s.barRely r).barUnit r = (x, t) → (x = .done ∨ ∃ d v a, x = .word d v a) →
        mget? s.groups r.gk = some g → mget? g.paths r.pid = some p →
        ∃ u g' p', exec (.barrierUnitOp rid) s = .next u ∧ mget? u.barReqs rid = none ∧ u.mem = t.mem ∧ mget? u.groups r.gk = some g' ∧
          mget? g'.paths r.pid = some p' ∧ (p.hold = false → p'.st = .ready) ∧ p'.mask = p.mask ∧
          (x = .done → g'.v = g.v ∧ g'.s = g.s) ∧
          (∀ n v a, x = .word (.s n) v a → g'.v = g.v ∧ ∀ k < 64, g'.uni k = if k = n.toNat then BitVec.ofNat 32 v else g.uni k) ∧
          (∀ dst v, x = .word dst v true → (u.core r.core).frames = [])) ∧
      (∀ t, r.op = .arrive none → (s.obj r.obj).arrived ≠ (s.obj r.obj).expected → (bankCore r.obj = r.core ∨ (s.obj r.obj).scope ≠ 1) →
        (s.barUnit r = (.done, t) ↔ t = s.setObj r.obj ({ s.obj r.obj with arrived := ((s.obj r.obj).arrived + 1) % 65536 } : Obj).check))) ∧
    (∀ core i w, mget? (s.core core).watches i = some w → w.hit = true →
      let ws := merase (s.core core).watches i
      let b : Obj := { s.obj w.obj with watch := (s.obj w.obj).watch && ws.any (fun x => x.2.obj == w.obj) }
      let arrived := (b.arrived + 1) % 65536
      exec (.watchFire core i) s = .next ((s.setCore core { s.core core with watches := ws }).setObj w.obj
        (if b.arrived = b.expected then b.check
         else (if b.cvalid then { b with arrived := arrived } else { b with cidx := w.idx, cvalid := true, arrived := arrived } : Obj).check))) ∧
    (∀ core i w, mget? (s.core core).watches i = some w → w.hit = false → exec (.watchFire core i) s = .next s))

/-- SEND, SENDR and MCST (R213, R254, R288): a legal send of a producer that has an allowance of every consumer it reaches takes them, reads its data from the
team's scratch and sends a packet to each, its poisoned lines with it; without them its path waits; a bad channel, size or range raises PROT, a broken
channel CHAN_BROKEN. -/
def Obligations.ChannelSends : Prop :=  ∀ (s : State) (c e : Ctx) (o : Ops) (ch : BitVec 6) (r : ChanRec) (i : Instr) (cons : List Nat),
    (i = .send ch o ∧ cons = List.range r.cons.length) ∨
      (i = .sendr ch o ∧ cons = (e.s.stopsOf e.g.launch r e.core (BitVec.ofNat 24 (imm64 o.imm))).take 1) ∨
      (i = .mcst ch o ∧ cons = (e.s.stopsOf e.g.launch r e.core (BitVec.ofNat 24 (imm64 o.imm))).eraseDups) →
    Issues i s c e → e.launch.chanRec ch.toNat = some r →
    let ea := e.addr o.a e.lead
    let n := e.val o.b 1 e.lead
    let x := e.launch.chanOf ch.toNat
    let legal := e.isProducer r = true ∧ n ≠ 0 ∧ n ≤ r.size ∧ e.ownRange ea n = true
    let q : SendReq := { gk := e.gk, pid := e.pid, launch := e.g.launch, ch := ch.toNat, ofs := ea, len := n, cons := cons }
    let data := s.dataOf (scratchLocs e.launch.banks e.core ea n)
    Idle i s e ∧ data.bytes = (scratchLocs e.launch.banks e.core ea n).map s.byte ∧
    (e.actsOnce = true → e.isProducer r = true → x.broken = true → exec i s = .next (e.trap ⟨.chanBroken, ch.toNat⟩)) ∧
    (e.actsOnce = true → x.broken = false → ¬legal → exec i s = .next (e.trap ⟨.prot, ea⟩)) ∧
    (e.actsOnce = true → x.broken = false → legal → e.g.fenceHolds 2 = false → s.canSend s.nextId q = true →
      ∃ y, CompletesIn i s y e {} ∧ y = { s with launches := y.launches, packets := y.packets, sends := y.sends, nextId := s.nextId + 1 + cons.length } ∧
        (y.launch e.g.launch).chanOf ch.toNat = takeAllowances x cons ∧ Below s.nextId s.sends y.sends ∧ Below s.nextId s.packets y.packets ∧
        ∀ k < cons.length, mget? y.packets (s.nextId + 1 + k) = some
          { send := s.nextId, gk := e.gk, launch := e.g.launch, ch := ch.toNat, con := cons.getD k 0, data := data }) ∧
    (e.actsOnce = true → x.broken = false → legal → e.g.fenceHolds 2 = false → s.canSend s.nextId q = false →
      ∃ t m g p, exec i s = .next t ∧ mget? m s.nextId = some q ∧ Below s.nextId s.sends m ∧ Elsewhere { s with sends := m, nextId := s.nextId + 1 } e.gk t ∧
        mget? t.groups e.gk = some g ∧ mget? g.paths e.pid = some p ∧ p.st = .waiting (.send s.nextId) ∧ p.mask = e.p.mask ∧ p.pc = e.p.pc ∧
        (∀ k, k ≠ e.pid → mget? g.paths k = mget? e.g.paths k) ∧ g.v = e.g.v ∧ g.s = e.g.s)

/-- RECV, RECV.TRY and the queries (R214): the oldest filled slot's bytes stand in the team's scratch from the given address on with their poison, D is their
count and the slot is on its way back; without one RECV blocks its path and RECV.TRY writes 0; CHQ writes the allowances of the producer's poorest consumer
or the consumer's filled slots. SEND_INJECT, CHANNEL_PACKET_ARRIVE and ALLOWANCE_RETURN (R213, R214): a waiting send goes when it has its allowances, a packet
fills a slot of its consumer after those before it, and an allowance comes back to the producer. -/
def Obligations.ChannelReceives : Prop :=
  (∀ (s : State) (c e : Ctx) (o : Ops) (ch : BitVec 6) (r : ChanRec), e.launch.chanRec ch.toNat = some r →
    let ea := e.addr o.a e.lead
    let x := e.launch.chanOf ch.toNat
    let ok := e.actsOnce = true ∧ x.broken = false
    (∀ i, i = .recv ch o ∨ i = .recvTry ch o → Issues i s c e →
      Idle i s e ∧
      (∀ k data rest, ok → e.consumes r = some k → e.g.fenceHolds 1 = false → listGet [] x.filled k = data :: rest → ea < 2 ^ 20 →
        ea + data.bytes.length ≤ e.launch.scratch → 1 ≤ e.launch.scratch - ea →
        let locs := scratchLocs e.launch.banks e.core ea data.bytes.length
        ∃ y, CompletesIn i s y e (Writes.uniform e 1 data.bytes.length) ∧ (y.launch e.g.launch).chanOf ch.toNat = { x with filled := listSet x.filled k rest } ∧
          mget? y.returns s.nextId = some (e.g.launch, ch.toNat, k) ∧ y.mem = (s.writeAt locs data.bytes).mem ∧ y.poison = (s.writeData locs data).poison) ∧
      (e.actsOnce = true → x.broken = true → (e.consumes r).isSome = true → exec i s = .next (e.trap ⟨.chanBroken, ch.toNat⟩)) ∧
      (e.actsOnce = true → e.consumes r = none → exec i s = .next (e.trap ⟨.prot, ea⟩))) ∧
    (∀ k, ok → e.consumes r = some k → e.g.fenceHolds 1 = false → listGet [] x.filled k = [] → e.ownRange ea 1 = true →
      (Issues (.recv ch o) s c e → Blocks (.recv ch o) s { s with nextId := s.nextId + 1 } e (.recv s.nextId ch.toNat o.d ea)) ∧
      (Issues (.recvTry ch o) s c e → CompletesIn (.recvTry ch o) s s e (Writes.uniform e 1 0))) ∧
    (Issues (.chqFree ch o) s c e → Idle (.chqFree ch o) s e ∧
      (ok → (e.isProducer r = true ∨ (e.consumes r).isSome = true) → Completes (.chqFree ch o) s e (Writes.uniform e 1 ((x.allow.min?).getD 0)))) ∧
    (Issues (.chqFilled ch o) s c e → Idle (.chqFilled ch o) s e ∧
      (∀ k, ok → e.consumes r = some k → Completes (.chqFilled ch o) s e (Writes.uniform e 1 (listGet [] x.filled k).length)))) ∧
  (∀ (s : State) (id : Nat),
    (∀ r, mget? s.sends id = some r →
      (s.canSend id r = false → exec (.sendInject id) s = .next s) ∧
      (∀ g p, s.canSend id r = true → mget? s.groups r.gk = some g → mget? g.paths r.pid = some p → p.st = .waiting (.send id) → g.runs r.pid = true →
        ∃ t g' p', exec (.sendInject id) s = .next t ∧ mget? t.sends id = none ∧ t.mem = s.mem ∧ mget? t.groups r.gk = some g' ∧ mget? g'.paths r.pid = some p' ∧
          p'.st = .ready ∧ p'.mask = p.mask ∧ g'.v = g.v ∧ g'.s = g.s ∧ (∀ k, k ≠ r.gk → mget? t.groups k = mget? s.groups k) ∧
          (∀ l, mget? s.launches r.launch = some l → (t.launch r.launch).chanOf r.ch = takeAllowances (l.chanOf r.ch) r.cons))) ∧
    (∀ p l r, mget? s.packets id = some p → mget? s.launches p.launch = some l → l.chanRec p.ch = some r → (l.chanOf p.ch).broken = false →
      (∀ y ∈ s.packets, y.1 < id → y.2.launch = p.launch → y.2.ch = p.ch → y.2.con ≠ p.con) →
      let c := listGet (0, 0) r.cons p.con
      let x := l.chanOf p.ch
      s.receivers p.launch c.1 c.2 p.ch = [] →
      ∃ t, exec (.channelPacketArrive id) s = .next t ∧ t = { s with packets := merase s.packets id, launches := t.launches } ∧
        (t.launch p.launch).chanOf p.ch = { x with filled := listSet x.filled p.con (listGet [] x.filled p.con ++ [p.data]) } ∧
        (∀ k, k ≠ p.launch → mget? t.launches k = mget? s.launches k)) ∧
    (∀ lid ch k l, mget? s.returns id = some (lid, ch, k) → mget? s.launches lid = some l →
      let x := l.chanOf ch
      ∃ t, exec (.allowanceReturn id) s = .next t ∧ t = { s with returns := merase s.returns id, launches := t.launches } ∧
        (t.launch lid).chanOf ch = { x with allow := listSet x.allow k (listGet 0 x.allow k + 1) } ∧ (∀ j, j ≠ lid → mget? t.launches j = mget? s.launches j)))

/-! ### The matrix unit (R216 to R227, R284, R285) -/

/-- MLD and MPERM (R218, R219): MLD copies the 64 bytes at its address into the slot, which is valid then and permutes nothing; MPERM loads the 512 entries that
the mould names, or the identity; a misaligned, malformed or out-of-range record raises PROT, an invalid slot ILL with detail 9. A record's bytes are those
of its address, and reading it changes no byte. TLD and TST (R220 to R222, R284, R285): issue checks the TOB range and translates every page, then a
transfer is under way whose pieces lie where the mould says; MOULD_TRANSFER_DONE makes a TLD's image in the TOB from its pieces' bytes, or writes a TST's
pieces from its image and no other byte. -/
def Obligations.Moulds : Prop :=
  (∀ (s : State) (c e : Ctx) (o : Ops) (m : BitVec 3),
    let ea := e.addr o.a e.lead
    let k := e.quarter.slot m.toNat
    let md := Mould.ofNat k.mould.toNat
    let from' := fun (s' : State) => s.translations s'
    (Issues (.mld m o) s c e → Idle (.mld m o) s e ∧
      (e.actsOnce = true → ea % 64 ≠ 0 → exec (.mld m o) s = .next (e.trap ⟨.prot, ea⟩)) ∧
      (e.actsOnce = true → ea % 64 = 0 → ∀ bs s', e.readRecord ea 64 = .ok (bs, s') →
        ((Mould.ofNat (leNat bs)).bad = true → exec (.mld m o) s = .next (({ e with s := s' } : Ctx).trap ⟨.prot, ea⟩)) ∧
        ((Mould.ofNat (leNat bs)).bad = false → CompletesIn (.mld m o) s (from' s') e
          { quarter := fun q => q.setSlot m.toNat { mould := BitVec.ofNat 512 (leNat bs), valid := true, perm := none } }))) ∧
    (Issues (.mperm m o) s c e →
      (k.valid = false → exec (.mperm m o) s = .next (c.trap ⟨.ill, 9⟩)) ∧
      (k.valid = true → Idle (.mperm m o) s e) ∧
      (k.valid = true → e.actsOnce = true → md.permOfs = 0 → Completes (.mperm m o) s e { quarter := fun q => q.setSlot m.toNat { k with perm := none } }) ∧
      (k.valid = true → e.actsOnce = true → md.permOfs ≠ 0 → ∀ bs s', e.readRecord (md.ptr md.permOfs) 1024 = .ok (bs, s') →
        (∀ l, permOf 512 bs = some l → CompletesIn (.mperm m o) s (from' s') e { quarter := fun q => q.setSlot m.toNat { k with perm := some l } }) ∧
        (permOf 512 bs = none → exec (.mperm m o) s = .next (({ e with s := s' } : Ctx).trap ⟨.prot, md.ptr md.permOfs⟩)))) ∧
    (∀ va n bs y, e.readRecord va n = .ok (bs, y) →
      ∃ ls z, e.s.range e.q e.part e.asid e.sys .load va n = (.ok ls, z) ∧ bs = e.s.readLocs ls ∧ ∀ a, y.byte a = e.s.byte a)) ∧
  ((∀ (s : State) (c e : Ctx) (o : Ops) (m : BitVec 3) (i : Instr) (out trn : Bool) (pls : List (Nat × Nat × Place)) (s' : State),
    (i = .tld m o ∧ out = false ∧ trn = false) ∨ (i = .tldTrn m o ∧ out = false ∧ trn = true) ∨ (i = .tst m o ∧ out = true ∧ trn = false) → Issues i s c e →
    let k := e.quarter.slot m.toNat
    let md := Mould.ofNat k.mould.toNat
    let t := xor md.orient trn
    let tob := e.val o.d 1 e.lead
    let ps := (md.layout t e.tileIdx).1.flatMap cutPiece
    let kind : AccKind := if out then .store else .load
    (k.valid = false → exec i s = .next (c.trap ⟨.ill, 9⟩)) ∧ (k.valid = true → Idle i s e) ∧
    (k.valid = true → e.actsOnce = true → (trn = true ∧ (md.tiled = false ∨ md.efmt = 4)) → exec i s = .next (e.trap ⟨.prot, md.base⟩)) ∧
    (k.valid = true → e.actsOnce = true → ¬(trn = true ∧ (md.tiled = false ∨ md.efmt = 4)) →
      (tob % 1024 ≠ 0 ∨ tobBytes e.launch.banks < tob + md.imgSize) → exec i s = .next (e.trap ⟨.prot, tob⟩)) ∧
    (k.valid = true → e.actsOnce = true → ¬(trn = true ∧ (md.tiled = false ∨ md.efmt = 4)) → tob % 1024 = 0 → tob + md.imgSize ≤ tobBytes e.launch.banks →
      e.g.fenceHolds 8 = false → e.s.placePages (mouldUnit e.core) e.part e.asid e.sys kind (pagesOf ps) = (pls, s') →
      (∀ y ∈ pls, ∃ loc h d, y.2.2 = .at loc h d) →
      ∃ x, CompletesIn i s { (s.translations s') with xfers := mset s.xfers s.nextId x, nextId := s.nextId + 1 } e {} ∧
        x.gk = e.gk ∧ x.launch = e.g.launch ∧ x.core = e.core ∧ x.q = e.q ∧ x.out = out ∧ x.tob = tob ∧ x.size = md.imgSize ∧ x.past = decide (md.rh = 3) ∧
        x.cols = (if t then some (decide (md.elem = 2)) else none) ∧
        x.pads = (md.layout t e.tileIdx).2 ∧ x.runs.length = ps.length ∧
        ∀ (j : Nat) (p : Nat × Nat × Nat) (r : Machine.Run), ps[j]? = some p → x.runs[j]? = some r → r.img = p.1 ∧ r.len = p.2.2 ∧
          ∀ pg va loc h d, (pg, va, .at loc h d) ∈ pls → pg = p.2.1 / 65536 → r.loc = loc - va % 65536 + p.2.1 % 65536 ∧ r.cached = decide (h = .cacheable))) ∧
  (∀ (s : State) (id : Nat) (x : Xfer), mget? s.xfers id = some x →
    let at' := fun (m : List Host.Cell) (a n : Nat) => (List.range n).map (fun i => zget (n := 8) m (a + i))
    (s.xferWaits id x = true ∨ s.xferReaches x = false → exec (.mouldTransferDone id) s = .next s) ∧
    (s.xferWaits id x = false → s.xferReaches x = true → x.out = true →
      ∃ t, exec (.mouldTransferDone id) s = .next t ∧ mget? t.xfers id = none ∧
        t.mem = x.runs.foldl (fun m r => putBytes m r.loc (at' m (s.tobLoc x.core (x.tob + r.img)) r.len)) s.mem ∧
        ∀ a, (∀ r ∈ x.runs, a < r.loc ∨ r.loc + r.len ≤ a) → t.byte a = s.byte a) ∧
    (s.xferWaits id x = false → s.xferReaches x = true → x.out = false →
      ∃ t, exec (.mouldTransferDone id) s = .next t ∧ mget? t.xfers id = none ∧
        t.mem = x.pads.foldl (fun m i => putBytes m (s.tobLoc x.core (x.tob + i)) [0x7F])
          (x.runs.foldl (fun m r => putBytes m (s.tobLoc x.core (x.tob + r.img)) (s.bytes r.loc r.len))
            (s.tobWrite x.core x.tob (List.replicate x.size 0) (x.size / 1024 + 1)).mem))))

/-- MMA and MZERO (R223, R225, R265): outside a gang, with no tile load on its images under way, room in the queue and no poison, an MMA joins the unit's queue
with copies of its moulds and %fmt; MZERO clears its accumulator at once when nothing is queued on it; the first of a gang to arrive is held at the latch.
MMA_START starts the oldest, MMA_COMPLETE gives the accumulator its result. MRD, MWR and MQRY (R99, R226, R227, R255): with no operation queued on the
accumulator, lane l of MRD reads the element of the access word's row at its first column plus l, from the mean or the variance plane or both, and MWR
writes it and no other; behind queued operations they join the unit's queue, MRD with its registers pending and MWR with its values; MQRY writes the counts,
the slots and latch, or %gang. -/
def Obligations.MatrixOperations : Prop :=
  (∀ (s : State) (c e : Ctx) (o : Ops) (acc : Bool) (mb ma : BitVec 3),
    let x : MmaOp :=
      { id := 0, acc := acc, zero := false, gk := e.gk, a := e.quarter.slot ma.toNat, b := e.quarter.slot mb.toNat, aOfs := e.val o.a 1 e.lead,
        bOfs := e.val o.b 1 e.lead, fmt := e.p.fmt, running := false }
    let alone := (gangSlots e.quarter.gang).length < 2
    let fits := ∀ r ∈ x.images, r.1 % 1024 = 0 ∧ r.1 + r.2 ≤ tobBytes e.launch.banks
    (Issues (.mma acc mb ma o) s c e →
      (∀ d, c.mmaDetail ma.toNat mb.toNat = some d → exec (.mma acc mb ma o) s = .next (c.trap ⟨.ill, d⟩)) ∧
      (c.mmaDetail ma.toNat mb.toNat = none → Idle (.mma acc mb ma o) s e) ∧
      (c.mmaDetail ma.toNat mb.toNat = none → e.actsOnce = true → fits → alone → s.tldsOn e.q x.images = [] → e.quarter.mmaFull = false →
        s.mmaPoison e.core x = none →
        CompletesIn (.mma acc mb ma o) s { s with nextId := s.nextId + 1 } e { quarter := fun q => { q with mmaq := q.mmaq ++ [{ x with id := s.nextId }] } }) ∧
      (c.mmaDetail ma.toNat mb.toNat = none → e.actsOnce = true → fits → ¬alone → e.quarter.round = none →
        ∃ t r, exec (.mma acc mb ma o) s = .next t ∧ Blocked s e .rendezvous t ∧ (t.quarter e.q).round = some r ∧ r.members = [(e.gk, e.pid)] ∧
          (t.quarter e.q).mmaq = e.quarter.mmaq ∧ (t.quarter e.q).acc = e.quarter.acc)) ∧
    (Issues (.mzero acc o) s c e → c.gangDetail = none → Idle (.mzero acc o) s e ∧
      (e.actsOnce = true → alone → (∀ y ∈ e.quarter.mmaq, y.acc ≠ acc) →
        Completes (.mzero acc o) s e { quarter := fun q => q.setAccum acc { mean := [], var := [] } }) ∧
      (e.actsOnce = true → alone → (∃ y ∈ e.quarter.mmaq, y.acc = acc) →
        ∃ z, z.zero = true ∧ z.acc = acc ∧ z.id = s.nextId ∧
          CompletesIn (.mzero acc o) s { s with nextId := s.nextId + 1 } e { quarter := fun q => { q with mmaq := q.mmaq ++ [z] } })) ∧
    (∀ q l m r, (s.quarter q).mmaq = l ++ m :: r → (∀ y ∈ l, y.running = true) → m.running = false → (∀ y ∈ l ++ r, y.id ≠ m.id) →
      ∃ t, exec (.mmaStart q) s = .next t ∧ t = { s with quarters := t.quarters } ∧ (∀ k, k ≠ q → mget? t.quarters k = mget? s.quarters k) ∧
        t.quarter q = { s.quarter q with mmaq := l ++ { m with running := true } :: r }) ∧
    (∀ q m r, (s.quarter q).mmaq = m :: r → m.running = true → m.isMma = true → (∀ y ∈ r, y.isMma = true ∧ y.id ≠ m.id) →
      let ra := mread m.fmt 6 14 m.a
      let rb := mread m.fmt 10 17 m.b
      let ia := (s.tobRead (q / 4) m.aOfs (operandSize m.fmt 6 (Mould.ofNat m.a.mould.toNat))).toArray
      let ib := (s.tobRead (q / 4) m.bOfs (operandSize m.fmt 10 (Mould.ofNat m.b.mould.toNat))).toArray
      ∃ t, exec (.mmaComplete q) s = .next t ∧ t.mem = s.mem ∧ (t.quarter q).mmaq = r ∧
        (t.quarter q).accum m.acc =
          mmaApply (bit m.fmt.toNat 21) ((List.range 64).map (ra.row ia)) ((List.range 64).map (rb.row ib)) ((s.quarter q).accum m.acc) ∧
        (t.quarter q).accum (!m.acc) = (s.quarter q).accum (!m.acc))) ∧
  (∀ (s : State) (c e : Ctx) (o : Ops) (acc : Bool),
    let w := e.accWord
    let el := fun (l : Nat) => 64 * bits w 0 6 + bits w 6 6 + l
    let x := e.quarter.accum acc
    let free := e.acts = 0 ∨ ∀ m ∈ e.quarter.mmaq, m.acc ≠ acc
    let pair := bit w 13 = true
    let late := fun (id : Nat) (m : AccMove) =>
      ({ id := id, acc := acc, zero := false, gk := e.gk, a := MouldSlot.empty, b := MouldSlot.empty, aOfs := 0, bOfs := 0, fmt := 0, running := true,
         move := some m } : MmaOp)
    (Issues (.mrd acc o) s c e → c.accDetail o.d = none → e.pairPending o.d = [] → ¬free →
      ∃ loads l, mget? loads s.nextId = some l ∧ Below s.nextId s.loads loads ∧ l.gk = e.gk ∧ l.pid = e.pid ∧ l.mask = e.acts ∧ l.left = e.acts ∧ l.upper = 0 ∧
        l.dst = o.d ∧ l.words = accWords w ∧ l.nwb = false ∧ l.latch = none ∧
        CompletesIn (.mrd acc o) s { s with loads := loads, nextId := s.nextId + 2 } e
          { group := fun g => { g with pending := g.pending ++ (selKeys o.d (accWords w)).map (fun k => { reg := k, pc := e.p.pc, iid := s.nextId }) }
            quarter := fun q => { q with mmaq := q.mmaq ++ [late (s.nextId + 1) (.read s.nextId w e.acts)] } }) ∧
    (Issues (.mwr acc o) s c e → c.accDetail o.b = none → e.pairPending o.b = [] → ¬free →
      CompletesIn (.mwr acc o) s { s with nextId := s.nextId + 1 } e
        { quarter := fun q => { q with mmaq := q.mmaq ++ [late s.nextId (.write w ((lanes e.acts).map (fun l => (l, e.val o.b (accWords w) l))))] } }) ∧
    (Issues (.mrd acc o) s c e → c.accDetail o.d = none → e.pairPending o.d = [] → free →
      Completes (.mrd acc o) s e
        { vec := vecWrites o.d (fun l => e.acts.getLsbD l) (accWords w) (fun l =>
            if pair then (zget x.mean (el l)).toNat + 2 ^ 32 * (zget x.var (el l)).toNat
            else if bit w 12 = true then (zget x.var (el l)).toNat else (zget x.mean (el l)).toNat) }) ∧
    (Issues (.mwr acc o) s c e → c.accDetail o.b = none → e.pairPending o.b = [] → free →
      ∃ y, Completes (.mwr acc o) s e { quarter := fun q => if e.acts = 0 then q else q.setAccum acc y } ∧
        ∀ l < 64, let v := e.val o.b (accWords w) l
          (e.acts.getLsbD l = true → pair → zget y.mean (el l) = BitVec.ofNat 32 v ∧ zget y.var (el l) = BitVec.ofNat 32 (v / 2 ^ 32)) ∧
          (e.acts.getLsbD l = true → ¬pair → bit w 12 = true → zget y.var (el l) = BitVec.ofNat 32 v) ∧
          (e.acts.getLsbD l = true → ¬pair → bit w 12 = false → zget y.mean (el l) = BitVec.ofNat 32 v) ∧
          (e.acts.getLsbD l = false → zget y.mean (el l) = zget x.mean (el l) ∧ zget y.var (el l) = zget x.var (el l)) ∧
          (¬pair → bit w 12 = true → y.mean = x.mean) ∧ (¬pair → bit w 12 = false → y.var = x.var) ∧
          (∀ k, (∀ l < 64, k ≠ el l) → zget y.mean k = zget x.mean k ∧ zget y.var k = zget x.var k)) ∧
    (Issues (.mqry o) s c e →
      (c.actsOnce = true → 2 < c.val o.a 1 c.lead → exec (.mqry o) s = .next (c.trap ⟨.ill, 10⟩)) ∧ Idle (.mqry o) s e ∧
      (c.val o.a 1 c.lead ≤ 2 → e.actsOnce = true → Completes (.mqry o) s e (Writes.uniform e 1
        (match e.val o.a 1 e.lead with
         | 0 => min 7 (e.quarter.queuedOn false) + 16 * min 7 (e.quarter.queuedOn true)
         | 1 => ((List.range 8).map (fun i => if (e.quarter.slot i).valid then 2 ^ i else 0)).sum
              + (match e.quarter.round with | some r => (r.members.map (fun m => 2 ^ (16 + m.1 % 16))).sum | none => 0)
         | _ => e.quarter.gang.toNat)))))

/-- The product (R73, R88, R90): each accumulator element takes, chunk by chunk of 32 products in ascending order, the exact sum of the chunk rounded to FP32,
and the sum of both rounded to FP32; the variance plane likewise when moments are on, and stays otherwise. -/
def Obligations.MatrixProduct : Prop :=  ∀ (mom : Bool) (a b : List (List MElem)) (x : Accum) (i j : Nat), i < 64 → j < 64 →
    let y := mmaApply mom a b x
    let ps := (chunks 16 (a.getD i [])).zip (chunks 16 (b.getD j []))
    let into := fun (f : List MElem → List MElem → Sys2Proof.Num) (w : W32) =>
      ps.foldl (fun w p => rne32 (Sys2Proof.Num.add false (f32 w) (r32 (f p.1 p.2)))) w
    zget y.mean (64 * i + j) = into chunkMean (zget x.mean (64 * i + j)) ∧
    (mom = true → zget y.var (64 * i + j) = into chunkVar (zget x.var (64 * i + j))) ∧ (mom = false → y.var = x.var)

/-! ### Jobs, launches and graphs (R234 to R238, R287, R312 to R333) -/

/-- JOB and JQRY (R234, R235, R313, R332): a card that breaks a rule is answered with 2^31 plus its code, or raises PROT where no register is to be written; an
accepted one waits in the die's scheduler under a handle with the die in bit 24; the moulds of a MOULD card are read where no lower code refuses it; JQRY
answers the state and cause of one of the last 4,096 jobs, or 2^31. The life of a job (R207, R287, R332, R333, R354): it starts once no earlier open job of
its space shares bytes that either writes, its engine writes and counts bytes in ascending order, and it completes when all are written; it may fail with a
cause, or stop for pre-emption at a multiple of 4,096 bytes, which it does not pass then. -/
def Obligations.Jobs : Prop :=
  (∀ (s : State) (c e : Ctx) (o : Ops),
    let ea := e.addr o.a e.lead
    let room := e.actsOnce = true ∧ ea % 64 = 0 ∧ e.g.fenceHolds 8 = false ∧ s.openJobs e.die < 1024
    let answered := fun (bs : List Byte) (y0 : State) (ms : List Nat) (code : Nat) =>
      let k := Card.ofNat (leNat bs)
      (code ≠ 0 → o.d.isZero = true → exec (.job o) s = .next (({ e with s := y0 } : Ctx).trap ⟨.prot, ea⟩)) ∧
      (code ≠ 0 → o.d.isZero = false → CompletesIn (.job o) s (s.translations y0) e (Writes.uniform e 1 (2 ^ 31 + code))) ∧
      (code = 0 →
        ∃ y j, CompletesIn (.job o) s y e (if o.d.isZero then {} else Writes.uniform e 1 (e.die * 2 ^ 24 + s.nextId % 2 ^ 24)) ∧
          y = { (s.translations y0) with jobs := y.jobs, nextId := s.nextId + 1 } ∧ mget? y.jobs s.nextId = some j ∧ j.st = .waiting ∧
          j.handle = e.die * 2 ^ 24 + s.nextId % 2 ^ 24 ∧ j.seq = s.nextId ∧ j.card = BitVec.ofNat 512 (leNat bs) ∧ j.gk = some e.gk ∧ j.part = e.part ∧
          j.asid = e.asid ∧ j.die = e.die ∧ j.pos = k.restart ∧ j.moulds = ms.map (BitVec.ofNat 512) ∧ j.bar = (if k.nobar then none else e.cardBar k))
    (Issues (.job o) s c e → Idle (.job o) s e ∧
      (e.actsOnce = true → ea % 64 ≠ 0 → exec (.job o) s = .next (e.trap ⟨.prot, ea⟩)) ∧
      (room → ∀ bs s', e.readRecord ea 64 = .ok (bs, s') →
        let k := Card.ofNat (leNat bs)
        let code := k.code (e.cardBar k).isSome true (e.s.cardPeer e.part e.asid e.die k)
        (k.kind ≠ 3 ∨ (code ≠ 0 ∧ code ≤ 10) → answered bs s' [] code) ∧
        (k.kind = 3 → (code = 0 ∨ 10 < code) → ∀ ba sa bb sb,
          ({ e with s := s' } : Ctx).readRecord (wrap 64 ((ea : Int) + k.mofsa * 64)) 64 = .ok (ba, sa) →
          ({ e with s := sa } : Ctx).readRecord (wrap 64 ((ea : Int) + k.mofsb * 64)) 64 = .ok (bb, sb) →
          answered bs sb [leNat ba, leNat bb] (k.code (e.cardBar k).isSome (mouldsOk k (Mould.ofNat (leNat ba)) (Mould.ofNat (leNat bb)))
            (e.s.cardPeer e.part e.asid e.die k))))) ∧
    (Issues (.jqry o) s c e → Idle (.jqry o) s e ∧
      (e.actsOnce = true → Completes (.jqry o) s e (Writes.uniform e 1
        (match s.jobs.find? (fun x => x.2.part == e.part && x.2.handle == e.val o.a 1 e.lead && decide (s.newerJobs e.part x.2.die x.2.seq < 4096)) with
         | none => 2 ^ 31
         | some x => (match x.2.st with | .waiting => 0 | .running => 1 | .complete => 2 | .stopped => 3 | .failed => 4 + x.2.cause * 256)))))) ∧
  (∀ (s : State) (id : Nat) (j : Job), mget? s.jobs id = some j →
    let put := fun (j : Job) => ({ s with jobs := mset s.jobs id j } : State)
    (j.st = .waiting → s.jobBlocked j = false → s.jobHeld j = false → j.c.kind ≠ 5 → exec (.jobStart id) s = .next (put { j with st := .running })) ∧
    (j.st ≠ .waiting ∨ s.jobBlocked j = true ∨ s.jobHeld j = true → exec (.jobStart id) s = .next s) ∧
    (s.jobBlocked j = true ↔ ∃ i ∈ s.jobs, i.2.seq < j.seq ∧ i.2.die = j.die ∧ i.2.part = j.part ∧ i.2.asid = j.asid ∧ JState.open i.2.st = true ∧
      j.c.after i.2.c = true) ∧
    (∀ a n b k : Nat, shares a n b k = true ↔ ∃ x, a ≤ x ∧ x < a + n ∧ b ≤ x ∧ x < b + k) ∧
    (s.jobGoes id j = true → j.pos < j.goal → j.moulds = [] → j.c.kind ≠ 5 → j.got = [] → s.jobFar j = false → s.jobHeld j = false →
      ∀ n bs s1 s2 va loc h d, 0 < n → j.piece n = n → s.jobValue j n = (.bytes bs, s1) → bs.length = n →
        s1.spanPlaces j.eng j.part j.asid j.sys .engWrite (spans (n / 65536 + 2) (j.c.w + j.pos) n) = ([(va, n, .at loc h d)], s2) →
        s2.mayWrite j.die loc n = true → (stackOf loc / 4 = j.die ∨ Scope.dev.code ≤ j.c.lscope ∨ isHbm loc = false) →
        ∃ t, exec (.engineBytesLand id n) s = .next t ∧ mget? t.jobs id = some { j with pos := j.pos + n, got := [], wrote := 0 } ∧
          (j.bar = none → (∀ i < n, t.byte (loc + i) = bs.getD i 0) ∧ ∀ a, (a < loc ∨ loc + n ≤ a) → t.byte a = s.byte a) ∧
          (∀ b, j.bar = some b → s.landsHere j b = true → (b + 16 ≤ loc ∨ loc + n ≤ b) →
            t.obj b = ({ s.obj b with landed := satAdd (s.obj b).landed n } : Obj).check)) ∧
    (∀ n, s.jobHeld j = true → j.c.kind ≤ 4 → j.c.kind ≠ 3 → j.pos % 4096 = 0 → j.pos < j.c.wlen → exec (.engineBytesLand id n) s = .next s) ∧
    (∀ n, j.c.kind = 1 → s.jobValue j n = (.bytes ((List.range n).map (fun i => BitVec.ofNat 8 (bits j.c.const (8 * ((j.pos + i) % 4)) 8))), s)) ∧
    (∀ n, j.c.kind = 0 → s.jobValue j n = s.jobRead j (j.c.r1 + j.pos) n) ∧
    (s.jobGoes id j = true → j.goal ≤ j.pos → (j.c.kind = 5 → j.checked = true) → exec (.jobComplete id) s = .next (put { j with st := .complete })) ∧
    (∀ cause, j.st = .running → 1 ≤ cause → cause ≤ 5 →
      ∃ t, exec (.jobFail id cause) s = .next t ∧ mget? t.jobs id = some { j with st := .failed, cause := cause, frec := none, got := [] } ∧
        t.mem = s.mem ∧ t.groups = s.groups ∧ ∀ p ∈ t.peers, p.2.job ≠ some id) ∧
    (j.st = .running → s.jobHeld j = true → j.c.kind ≤ 4 → j.c.kind ≠ 3 → j.pos % 4096 = 0 → j.pos < j.goal → (∀ p ∈ s.peers, p.2.job ≠ some id) →
      exec (.jobStop id) s = .next (put { j with st := .stopped, frec := none, got := [] })))

/-- LAUNCH and GSIG (R236, R314, R325): LAUNCH without the right or on a queue that takes no device entries raises PRIV; with nothing to release and room its
entry joins the queue at TAIL with the group's identifier and rights and D reads 0; a full queue answers 1, or blocks where there is no D; GSIG sets the
FLAG of an EVENT node. The dispatcher's queues (R236, R316 to R319, R322): LAUNCH_ENQUEUE serves a request whose accesses and jobs are performed,
QUEUE_TAIL_WRITE moves TAIL of a queue that control cores fill, and DISPATCH_ENTRY makes the entry at HEAD of the highest class an instance, refused with
its lowest code or with its entry node read. -/
def Obligations.HardwareQueues : Prop :=
  (∀ (s : State) (c e : Ctx) (o : Ops),
    let ea := e.addr o.a e.lead
    let q := e.queueOperand
    let x := s.queue e.part e.die q
    let may := c.queueOperand < 64 ∧ c.launch.qrights.getLsbD c.queueOperand = true ∧ (c.s.queue c.part c.die c.queueOperand).dev = true
    let quiet := s.released (s.accsOf e.gk) (s.jobsOf e.gk e.g.launch) = true
    let d (v : Nat) : Writes := if o.d.isZero then {} else Writes.uniform e 1 v
    (Issues (.launch o) s c e → may → Idle (.launch o) s e) ∧
    (Issues (.launch o) s c e → c.actsOnce = true → 64 ≤ c.queueOperand → exec (.launch o) s = .next (c.trap ⟨.ill, 10⟩)) ∧
    (Issues (.launch o) s c e → c.actsOnce = true → c.queueOperand < 64 → ¬may → exec (.launch o) s = .next (c.trap ⟨.priv, 0⟩)) ∧
    (∀ p s', Issues (.launch o) s c e → may → e.actsOnce = true → e.vplace .load ea e.s = (p, s') → (∀ k, p ≠ .fault k) →
      (quiet → x.full = false →
        ∃ y, CompletesIn (.launch o) s y e (d 0) ∧ y.mem = (s.physWrite e.part (x.base.toNat + 32 * (x.tail.toNat % x.size)) (natLe 32 (ea + e.asid * 2 ^ 160))).mem ∧
          y.queue e.part e.die q = { x with tail := x.tail + 1, rights := mset x.rights x.tail.toNat (e.sys, e.launch.step, e.launch.qrights) }) ∧
      (quiet → x.full = true → o.d.isZero = false → CompletesIn (.launch o) s (s.translations s') e (Writes.uniform e 1 1)) ∧
      ((quiet ∧ x.full = true ∧ o.d.isZero = true) ∨ ¬quiet →
        ∃ m r, Blocks (.launch o) s { (s.translations s') with launchReqs := m, nextId := s.nextId + 1 } e (.launch s.nextId) ∧ mget? m s.nextId = some r ∧
          r.gk = e.gk ∧ r.pid = e.pid ∧ r.va = ea ∧ r.queue = q ∧ r.gsig = false ∧ r.accs = s.accsOf e.gk ∧ r.jobs = s.jobsOf e.gk e.g.launch)) ∧
    (Issues (.gsig o) s c e → Idle (.gsig o) s e ∧ (e.actsOnce = true → ea % 64 ≠ 0 → exec (.gsig o) s = .next (e.trap ⟨.prot, ea⟩)) ∧
      (∀ loc cached s', e.actsOnce = true → ea % 64 = 0 → e.resolve .atomic ea 64 = .ok ([⟨loc, 64, cached⟩], s') →
        e.waitsFor (.load .b32) [⟨loc, 64, cached⟩] = [] → s'.poisonedLocs [⟨loc, 64, cached⟩] = false →
        ((s.word loc 64) % 16 ≠ 5 → exec (.gsig o) s = .next (({ e with s := s' } : Ctx).trap ⟨.prot, ea⟩)) ∧
        ((s.word loc 64) % 16 = 5 → quiet →
          ∃ y, CompletesIn (.gsig o) s y e {} ∧ y.word (loc + 32) 4 = 1 ∧ ∀ a, (a < loc + 32 ∨ loc + 36 ≤ a) → y.byte a = s.byte a) ∧
        ((s.word loc 64) % 16 = 5 → ¬quiet →
          ∃ m r, Blocks (.gsig o) s { (s.translations s') with launchReqs := m, nextId := s.nextId + 1 } e (.launch s.nextId) ∧ mget? m s.nextId = some r ∧
            r.gsig = true ∧ r.node = loc ∧ r.cached = cached ∧ r.accs = s.accsOf e.gk ∧ r.jobs = s.jobsOf e.gk e.g.launch)))) ∧
  (∀ (s : State),
    (∀ id r, mget? s.launchReqs id = some r →
      (s.launchWaits id r = false → exec (.launchEnqueue id) s = .next { s with launchReqs := merase s.launchReqs id }) ∧
      (s.launchWaits id r = true → s.launchReady r = false → exec (.launchEnqueue id) s = .next s) ∧
      (∀ g p, s.launchWaits id r = true → s.launchReady r = true → r.gsig = true → mget? s.groups r.gk = some g → mget? g.paths r.pid = some p →
        ∃ t g' p', exec (.launchEnqueue id) s = .next t ∧ mget? t.launchReqs id = none ∧ t.word (r.node + 32) 4 = 1 ∧
          (∀ a, (a < r.node + 32 ∨ r.node + 36 ≤ a) → t.byte a = s.byte a) ∧ mget? t.groups r.gk = some g' ∧ mget? g'.paths r.pid = some p' ∧
          (p.hold = false → p'.st = .ready) ∧ p'.mask = p.mask ∧ g'.v = g.v ∧ g'.s = g.s)) ∧
    (∀ p die q tail, q < 64 → (s.queue p die q).dev = false →
      ∃ t, exec (.queueTailWrite p die q tail) s = .next t ∧ t = { s with parts := t.parts } ∧ t.queue p die q = { s.queue p die q with tail := tail } ∧
        (∀ k, k ≠ q → t.queue p die k = s.queue p die k) ∧ (∀ k, k ≠ p → mget? t.parts k = mget? s.parts k)) ∧
    (∀ p die q tail, (s.queue p die q).dev = true → exec (.queueTailWrite p die q tail) s = .next s) ∧
    (∀ p die q, s.nextQueue p die ≠ some q → exec (.dispatchEntry p die q) s = .next s) ∧
    (∀ p die q, s.nextQueue p die = some q →
      let x := s.queue p die q
      let pa := x.base.toNat + 32 * (x.head.toNat % x.size)
      let w := s.physWord pa 32
      let node := bits w 0 64
      let bad := (s.rangeOf p pa).isNone = true ∨ (s.poisoned (s.phys pa) 32).isSome = true
      let code := if bits w 172 84 ≠ 0 then 1 else if node % 64 ≠ 0 ∨ bits w 64 64 % 16 ≠ 0 then 6 else if (s.asidRec p (bits w 160 12)).en = false then 7 else 0
      (bad → (s.asidRec p 0).en = true →
        ∃ t y, exec (.dispatchEntry p die q) s = .next t ∧ mget? t.insts s.nextId = some y ∧ y.code = 15 ∧ y.nodes = [] ∧
          (t.queue p die q).head = x.head + 1 ∧ (t.queue p die q).live = x.live + 1) ∧
      (¬bad → code ≠ 0 →
        ∃ t y, exec (.dispatchEntry p die q) s = .next t ∧ mget? t.insts s.nextId = some y ∧ y.code = code ∧ y.nodes = [] ∧ y.fnode = node ∧
          y.tag = BitVec.ofNat 32 (bits w 128 32) ∧ y.status = bits w 64 64 ∧ (t.queue p die q).head = x.head + 1 ∧ (t.queue p die q).live = x.live + 1 ∧
          t.mem = s.mem) ∧
      (¬bad → code = 0 →
        ∃ t y, exec (.dispatchEntry p die q) s = .next t ∧ mget? t.insts s.nextId = some y ∧ y.part = p ∧ y.die = die ∧ y.queue = q ∧ y.asid = bits w 160 12 ∧
          y.tag = BitVec.ofNat 32 (bits w 128 32) ∧ y.status = bits w 64 64 ∧ y.depth = 0 ∧ y.parent = none ∧
          (t.queue p die q).head = x.head + 1 ∧ (t.queue p die q).live = x.live + 1)))

/-- What a group starts with (R35, R130, R230), and the placing of clusters (R252, R268, R329, R330): CLUSTER_PLACE takes the first free rectangle for the next
cluster of a launch that goes now, COSCHED_PLACE places a whole grid when all of it fits; every core of a rectangle then holds its team. -/
def Obligations.PlacingClusters : Prop :=  (∀ (l : Launch) (lid r now : Nat),
    let g := l.group lid r now
    (∀ i k, g.vec i k = 0) ∧ (∀ k, 2 ≤ k → g.uni k = 0) ∧ (g.uni 0).toNat + 2 ^ 32 * (g.uni 1).toNat = l.args % 2 ^ 64 ∧ (∀ k, k < 7 → ∀ i, g.pred k i = false) ∧
    (∀ k, g.aff k = { base := 0, stride := 0 }) ∧ (∀ k, g.rej k = { jpc := 0, armed := false, lost := false, expected := 0, arrived := 0, fmt := 0, stack := [] }) ∧
    g.rank = r ∧ g.launch = lid ∧ g.width = l.width ∧ g.blocks = l.regs ∧ g.live = fullMask l.width ∧ g.spill = l.width - 8 ∧ g.prio = l.prio ∧ g.key = 0 ∧ g.ctr = 0 ∧
    g.ofs = 0 ∧ g.dz = false ∧ g.seq = 0 ∧ g.handler = none ∧ g.paths.length = 1 ∧
    ∃ p, mget? g.paths 0 = some p ∧ p.pc = l.entry ∧ p.mask = fullMask l.width ∧ p.fmt = l.fmt ∧ p.loops = [] ∧ p.st = .ready ∧ p.entry = some 0) ∧
  (∀ (s : State) (lid : Nat) (l : Launch), mget? s.launches lid = some l →
    (s.mayPlace lid l = false → exec (.clusterPlace lid) s = .next s ∧ exec (.coschedPlace lid) s = .next s) ∧
    (∀ d y x, l.cosched = false → s.mayPlace lid l = true → s.findRect l l.nextCl s.hasTeam true = some (d, y, x) →
      ∃ t l', exec (.clusterPlace lid) s = .next t ∧ mget? t.launches lid = some l' ∧ l'.nextCl = l.nextCl + 1 ∧ l'.teams = l.teams + l.clw * l.clh ∧
        (∀ i j, i < l.clw → j < l.clh →
          (t.core (d * 96 + (y + j) * 12 + (x + i))).team = some { launch := lid, clid := l.nextCl, idx := j * l.clw + i, preempt := none, since := 0 } ∧
          (t.core (d * 96 + (y + j) * 12 + (x + i))).frames = [] ∧ (t.core (d * 96 + (y + j) * 12 + (x + i))).watches = [])) ∧
    (s.findRect l l.nextCl s.hasTeam true = none → l.cosched = false → exec (.clusterPlace lid) s = .next s) ∧
    (l.cosched = true → s.mayPlace lid l = true → s.findAll l s.hasTeam true l.grid 0 [] = none → exec (.coschedPlace lid) s = .next s) ∧
    (∀ rs, l.cosched = true → s.mayPlace lid l = true → s.findAll l s.hasTeam true l.grid 0 [] = some rs →
      ∃ t l', exec (.coschedPlace lid) s = .next t ∧ mget? t.launches lid = some l' ∧ l'.nextCl = l.nextCl + rs.length ∧ rs.length = l.grid))

/-- The nodes of a graph (R319 to R328): a kernel node's legal descriptor becomes a launch, or is refused with its lowest code; a JOBSET submits its cards in
order, each refused with its lowest code; COND chooses its successor by comparing WORD with VALUE; LOOP runs its body while the comparison holds, CAP times at
most; GRAPH nests its body; EVENT takes a nonzero FLAG back to 0; a HOST node runs once it is ready, posts its record where there is room, raising its control
core's line (which stays raised: log 95, the model's choice), and its DONE completes it. -/
def Obligations.GraphNodes : Prop :=  ∀ (s : State) (i a : Nat) (x : GInst) (n : GNode), s.node i a = some (x, n) →
    let live := s.instFailed i = false ∧ n.frec = none
    let ready := n.st = .ready ∧ live
    (∀ bs s1 s2, n.kind = 0 → ready → s.dispRead x n.body 128 = (.ok bs, s1) →
      let w := leNat bs
      let k := if bits w 576 8 > 64 || bits w 512 64 % 32 != 0 || descRsvd w then 0 else bits w 576 8
      ∀ cb, s1.dispRead x (bits w 512 64) (32 * k) = (.ok cb, s2) →
        let recs := recordsOf cb k
        let l := Launch.ofNat w n.body x.part (bits n.w 256 64) i a s.nextId (recs.map ChanRec.ofNat)
        let held := (s.asidRec x.part l.asid).busy = true ∨ s.epochBusy x.part l.epoch = true
        (∀ e, (s2.descCodes l w recs x.asid x.rights).min? = some e → exec (.kernelNodeStart i a) s = .next (s2.refuseNode i a e)) ∧
        ((s2.descCodes l w recs x.asid x.rights) = [] → held → exec (.kernelNodeStart i a) s = .next s2) ∧
        ((s2.descCodes l w recs x.asid x.rights) = [] → ¬held →
          ∃ t y m, exec (.kernelNodeStart i a) s = .next t ∧ mget? t.launches s.nextId = some l ∧ t.node i a = some (y, m) ∧ m.st = .running)) ∧
    (∀ s1, n.kind = 0 → ready → s.dispRead x n.body 128 = (.bad, s1) → exec (.kernelNodeStart i a) s = .next (s1.refuseNode i a 15)) ∧
    (∀ bs s1, n.kind = 1 → ready → n.prog < n.ncard → s.openJobs (bits n.w 266 1) < 1024 → (s.countRun i).dispRead x (n.body + 64 * n.prog) 64 = (.ok bs, s1) →
      let die := bits n.w 266 1
      let k := Card.ofNat (leNat bs)
      let card := n.body + 64 * n.prog
      (k.early (s1.nodeCard x die k true) = true →
        exec (.jobsetNode i a) s = .next (s1.submitNode i a x n die (leNat bs) [] (s1.nodeCard x die k true))) ∧
      (∀ ba bb s2 s3, k.early (s1.nodeCard x die k true) = false → s1.dispRead x (wrap 64 ((card : Int) + k.mofsa * 64)) 64 = (.ok ba, s2) →
        s2.dispRead x (wrap 64 ((card : Int) + k.mofsb * 64)) 64 = (.ok bb, s3) →
        exec (.jobsetNode i a) s = .next
          (s3.submitNode i a x n die (leNat bs) [leNat ba, leNat bb] (s3.nodeCard x die k (mouldsOk k (Mould.ofNat (leNat ba)) (Mould.ofNat (leNat bb))))))) ∧
    (∀ bs s1, n.kind = 2 → ready → s.dispRead x n.body 8 = (.ok bs, s1) →
      exec (.condNode i a) s = .next
        (((s1.countRun i).modNode i a (fun m => { m with chosen := some (if n.compare (leNat bs) then 0 else 1) })).completeNode i a)) ∧
    (∀ bs s1, n.kind = 3 → n.st = .running → n.frec = none → n.sub = none → s.dispRead x n.body 8 = (.ok bs, s1) →
      (n.prog < n.cap → n.compare (leNat bs) = true → exec (.loopNodeIteration i a) s = .next (s1.nest i a n.loopBody)) ∧
      (n.compare (leNat bs) = false → exec (.loopNodeIteration i a) s = .next (s1.completeNode i a)) ∧
      (n.prog = n.cap → n.compare (leNat bs) = true →
        exec (.loopNodeIteration i a) s = .next ((s1.modInst (s1.root i) (fun x => { x with capHit := true })).completeNode i a))) ∧
    (n.kind = 4 → ready →
      ∃ t y z m, exec (.graphNode i a) s = .next t ∧ mget? t.insts s.nextId = some y ∧ y.parent = some (i, a) ∧ y.depth = x.depth + 1 ∧ y.asid = x.asid ∧
        (i ≠ s.nextId → t.node i a = some (z, m) → m.st = .running ∧ m.sub = some s.nextId)) ∧
    (∀ bs s1 s2, n.kind = 5 → ready → s.dispRead x (a + 32) 4 = (.ok bs, s1) →
      (leNat bs = 0 → exec (.eventNode i a) s = .next s1) ∧
      (leNat bs ≠ 0 → s1.dispWrite x (a + 32) [0, 0, 0, 0] = (.ok [], s2) → exec (.eventNode i a) s = .next ((s2.countRun i).completeNode i a))) ∧
    (n.kind = 6 → s.instFailed i = false → s.nodeCodes x n false = [] → s.readyNode i a false = (s.countRun i).setSt i a .running) ∧
    (∀ k loc cached s1, n.kind = 6 → n.st = .running → n.frec = none → n.watch = none → s.hostCore x n = some k →
      s.dispLocs x .engRead (a + 36) 4 = (.ok [⟨loc, 4, cached⟩], s1) →
      let r := s.hostRing k
      ∃ t y m, exec (.hostNodePost i a) s = .next t ∧ t.hostRing k = { r with tail := r.tail + 1 } ∧ k ∈ t.pkg.hostIrq ∧ t.node i a = some (y, m) ∧
        m.st = .running ∧ m.watch = some (loc, cached) ∧ m.hit = false ∧
        t.mem = (s.physWrite x.part (r.base.toNat + 32 * (r.tail.toNat % r.size)) (natLe 32 (n.body + a * 2 ^ 64 + x.asid * 2 ^ 128))).mem) ∧
    (n.kind = 6 → s.hostCore x n = none → exec (.hostNodePost i a) s = .next s) ∧
    (∀ v loc cached, n.watch = some (loc, cached) → n.st = .running → n.kind = 6 →
      (v ≠ 0 → exec (.hostDone i a v) s = .next ((s.homeWrite cached true loc (natLe 4 v.toNat)).completeNode i a)) ∧
      (v = 0 → n.hit = false → exec (.hostDone i a v) s = .next (s.homeWrite cached true loc (natLe 4 0)))) ∧
    (n.st = .running → s.nodeOver i a n = true → s.launchOf i a = none → exec (.nodeComplete i a) s = .next (s.completeNode i a)) ∧
    (∀ lid l, n.st = .running → n.kind = 0 → s.launchOf i a = some (lid, l) → s.launchOver lid l = true → l.epoch = 0 → l.failed = false →
      exec (.nodeComplete i a) s = .next
        (({ s with launches := merase s.launches lid, returns := s.returns.filter (fun r => r.2.1 != lid) } : State).completeNode i a)) ∧
    (∀ t m k, s.instFailed i = false → n.succs = [t] → t ≠ a → mget? x.nodes t = some m → m.st = .counting k → 1 < k →
      ∃ y n' m', (s.completeNode i a).node i a = some (y, n') ∧ n'.st = .done ∧ (s.completeNode i a).node i t = some (y, m') ∧ m'.st = .counting (k - 1))

/-- The grove (R237, R238, R392 to R399): TASKGET takes the oldest ready task of its mask and space, with its id and ARG in thirteen uniform registers, or
waits; TASKGET.NB says by its predicate whether it took one; TASKDONE sends a decrement to each successor and frees the entry; TASKADD enters a record in
the lowest free entry once its group's accesses are performed at .die; decrements of one TASKDONE are performed in order, and the last one of a waiting entry
makes it ready. -/
def Obligations.GroveTasks : Prop :=  ∀ (s : State) (c e : Ctx) (o : Ops),
    let block := fun (n k : Nat) (t : Task) (r : Nat) => if n ≤ r ∧ r < n + 13 then some (wordAt (idWord k t.type + t.arg.toNat * 2 ^ 32) (r - n)) else none
    let taken := fun (k : Nat) (t : Task) =>
      ({ s with grove := mset s.grove k { t with st := .running } } : State).setCore e.core { s.core e.core with frames := [] }
    let bad := fun (m : Nat) => m = 0 ∨ 128 ≤ m
    let quiet := s.accsOf e.gk = [] ∧ s.jobsOf e.gk e.g.launch = []
    let id := e.maskOperand
    let ea := e.addr o.a e.lead
    (Issues (.taskget o) s c e → (c.actsOnce = true → bad c.maskOperand → exec (.taskget o) s = .next (c.trap ⟨.ill, 10⟩)) ∧
      (¬bad c.maskOperand → Idle (.taskget o) s e) ∧
      (∀ k t n, e.actsOnce = true → ¬bad c.maskOperand → s.readyTask e.die e.part e.asid e.maskOperand = some (k, t) → o.d = .s n → n.toNat + 13 ≤ 64 →
        CompletesIn (.taskget o) s (taken k t) e { uni := block n.toNat k t, group := fun g => { g with tasks := g.tasks ++ [k] } }) ∧
      (e.actsOnce = true → ¬bad c.maskOperand → s.readyTask e.die e.part e.asid e.maskOperand = none →
        Blocks (.taskget o) s { s with nextId := s.nextId + 1 } e (.taskget e.maskOperand (uniOf o.d) s.nextId))) ∧
    (Issues (.taskgetNb o) s c e → (c.actsOnce = true → bad (c.val o.a 1 c.lead) → exec (.taskgetNb o) s = .next (c.trap ⟨.ill, 10⟩)) ∧
      (¬bad (c.val o.a 1 c.lead) → Idle (.taskgetNb o) s e) ∧
      (∀ k t n, e.actsOnce = true → ¬bad (c.val o.a 1 c.lead) → s.readyTask e.die e.part e.asid (e.val o.a 1 e.lead) = some (k, t) → o.b = .s n → n.toNat + 13 ≤ 64 →
        CompletesIn (.taskgetNb o) s (taken k t) e
          { Writes.predicate e e.p.mask (fun _ => true) with uni := block n.toNat k t, group := fun g => { g with tasks := g.tasks ++ [k] } }) ∧
      (e.actsOnce = true → ¬bad (c.val o.a 1 c.lead) → s.readyTask e.die e.part e.asid (e.val o.a 1 e.lead) = none →
        Completes (.taskgetNb o) s e (Writes.predicate e e.p.mask (fun _ => false)))) ∧
    (∀ d p asid m, match s.readyTask d p asid m with
      | none => ∀ x ∈ s.grove, ¬(x.1 / 8192 = d ∧ x.2.st = .ready ∧ x.2.part = p ∧ x.2.asid = asid ∧ bit m x.2.type = true)
      | some (k, t) => (k, t) ∈ s.grove ∧ k / 8192 = d ∧ t.st = .ready ∧ t.part = p ∧ t.asid = asid ∧ bit m t.type = true ∧
          ∀ x ∈ s.grove, x.1 / 8192 = d → x.2.st = .ready → x.2.part = p → x.2.asid = asid → bit m x.2.type = true → t.stamp ≤ x.2.stamp) ∧
    (Issues (.taskdone o) s c e → Idle (.taskdone o) s e ∧
      (e.actsOnce = true → (bits id 14 2 ≠ 0 ∨ bits id 19 13 ≠ 0 ∨ bits id 0 14 ∉ e.g.tasks) → exec (.taskdone o) s = .next (e.trap ⟨.prot, 0⟩)) ∧
      (∀ t, e.actsOnce = true → bits id 14 2 = 0 → bits id 19 13 = 0 → bits id 0 14 ∈ e.g.tasks → quiet → mget? s.grove (bits id 0 14) = some t →
        ∃ m, CompletesIn (.taskdone o) s { s with grove := merase s.grove (bits id 0 14), decs := m, nextId := s.nextId + 1 + t.succ.length } e
            { group := fun g => { g with tasks := g.tasks.filter (fun k => k != bits id 0 14) } } ∧ Below s.nextId s.decs m ∧
          ∀ k < t.succ.length, mget? m (s.nextId + 1 + k) = some { id := s.nextId + 1 + k, src := s.nextId, entry := t.succ.getD k 0, part := t.part }) ∧
      (e.actsOnce = true → bits id 14 2 = 0 → bits id 19 13 = 0 → bits id 0 14 ∈ e.g.tasks → ¬quiet →
        Blocks (.taskdone o) s s e (.taskdone (bits id 0 14) (s.accsOf e.gk) (s.jobsOf e.gk e.g.launch)))) ∧
    (Issues (.taskadd o) s c e → Idle (.taskadd o) s e ∧ (e.actsOnce = true → ea % 64 ≠ 0 → exec (.taskadd o) s = .next (e.trap ⟨.prot, ea⟩)) ∧
      (∀ bs s', e.actsOnce = true → ea % 64 = 0 → s.awaited .die (s.accsOf e.gk) = [] → e.readRecord ea 64 = .ok (bs, s') →
        let w := leNat bs
        let from' : State := (s.translations s').rely (s.accsOf e.gk)
        let r := s.groveOpen e.part e.die
        (s.taskBad e.part w = true → exec (.taskadd o) s = .next (({ e with s := s' } : Ctx).trap ⟨.prot, ea⟩)) ∧
        (s.taskBad e.part w = false → mfree s.grove r.2 r.1 = none → CompletesIn (.taskadd o) s from' e (Writes.uniform e 1 0xFFFFFFFF)) ∧
        (∀ k, s.taskBad e.part w = false → mfree s.grove r.2 r.1 = some k →
          ∃ t, CompletesIn (.taskadd o) s { from' with grove := mset s.grove k t } e (Writes.uniform e 1 (idWord k (bits w 0 3))) ∧
            t.type = bits w 0 3 ∧ t.cnt = bits w 16 16 ∧ (t.st = .ready ↔ t.cnt = 0) ∧ t.arg = BitVec.ofNat 384 (bits w 128 384) ∧ t.part = e.part ∧ t.asid = e.asid))) ∧
    (∀ n d, mget? s.decs n = some d → s.decTurn n d = false → exec (.groveDecrement n) s = .next s) ∧
    (∀ n d t, mget? s.decs n = some d → s.decTurn n d = true → mget? s.grove d.entry = some t → t.st = .waiting →
      ∃ t' u, exec (.groveDecrement n) s = .next u ∧ u = { s with decs := merase s.decs n, grove := mset s.grove d.entry t' } ∧ t'.arg = t.arg ∧ t'.succ = t.succ ∧
        (1 < t.cnt → t' = { t with cnt := t.cnt - 1 }) ∧ (t.cnt ≤ 1 → t'.st = .ready ∧ t'.cnt = 0))

/-! ### The coil engine (R239 to R245, R360 to R378) -/

/-- The operations on a slot (R239 to R241, R243, R245, R376): a slot id that names no slot of the partition raises COIL_ERR code 1; CFORK records the
configuration under the lowest free id, CROLL restores one, CDROP frees one or unbinds the slot, CSTAT and CFEED answer the status word, at once or
once the engine has read its slot, and CBIND binds the
lowest free slot of the die to the start state of its image, whose header it checks. CSAVE and CLOAD (R244, R377, R378): a save image is a 576-byte record
of the slot and one of each live snapshot; CSAVE writes them and the slot stays as it is; CLOAD binds a slot with what the image holds and refuses a
malformed one; a record read back gives the configuration it was made of. -/
def Obligations.CoilSlots : Prop :=
  (∀ (s : State) (c e : Ctx) (o : Ops),
    let k := e.val o.a 1 e.lead
    let put := fun (k : Nat) (x : CoilSlot) => ({ s with coil := mset s.coil k x } : State)
    let ask := fun (k : Nat) (t : Option Nat) =>
      ({ slot := k, part := e.part, gk := e.gk, launch := e.g.launch, feed := some (t, o.d), dst := [], bar := 0, cfg := none, mask := [], units := [],
         frec := none, bad := [] } : CoilReq)
    (∀ i, i = .cbind o ∨ i = .cmaskS o ∨ i = .cmaskV o ∨ i = .cmaskM o ∨ i = .cfeed o ∨ i = .cfork o ∨ i = .croll o ∨ i = .cdrop o ∨ i = .csave o ∨ i = .cload o ∨
      i = .cstat o → Issues i s c e → Idle i s e) ∧
    (∀ i, i = .cfeed o ∨ i = .cfork o ∨ i = .croll o ∨ i = .cdrop o ∨ i = .cstat o → Issues i s c e → e.actsOnce = true → s.coilSlot e.part k = none →
      exec i s = .next (e.trap ⟨.coilErr, 1⟩)) ∧
    (∀ i, i = .cmaskS o ∨ i = .cmaskV o ∨ i = .cmaskM o ∨ i = .csave o → Issues i s c e → e.actsOnce = true → s.coilSlot e.part (e.val o.b 1 e.lead) = none →
      exec i s = .next (e.trap ⟨.coilErr, 1⟩)) ∧
    (∀ p n, s.coilSlot p n = none ↔ 2048 ≤ n ∨ ∀ x, mget? s.coil n = some x → x.part ≠ p) ∧
    (∀ x, e.actsOnce = true → s.coilSlot e.part k = some x → s.coilQueued k = false →
      let n := e.val o.b 1 e.lead
      (Issues (.cfork o) s c e →
        (∀ i, mfree x.snaps 64 0 = some i → CompletesIn (.cfork o) s (put k { x with snaps := mset x.snaps i x.cfg }) e (Writes.uniform e 1 i)) ∧
        (mfree x.snaps 64 0 = none → CompletesIn (.cfork o) s s e (Writes.uniform e 1 0xFFFFFFFF))) ∧
      (Issues (.croll o) s c e →
        (∀ y, mget? x.snaps n = some y → CompletesIn (.croll o) s (put k { x with cfg := y }) e {}) ∧
        (mget? x.snaps n = none → exec (.croll o) s = .next (e.trap ⟨.coilErr, 2⟩))) ∧
      (Issues (.cdrop o) s c e →
        (n ≠ 0xFFFFFFFF → ∀ y, mget? x.snaps n = some y → CompletesIn (.cdrop o) s (put k { x with snaps := merase x.snaps n }) e {}) ∧
        (n ≠ 0xFFFFFFFF → mget? x.snaps n = none → exec (.cdrop o) s = .next (e.trap ⟨.coilErr, 2⟩)) ∧
        (n = 0xFFFFFFFF → (∀ r ∈ s.coilq, r.2.slot ≠ k) → CompletesIn (.cdrop o) s { s with coil := merase s.coil k } e {})) ∧
      (Issues (.cstat o) s c e → ∀ a w, (Walker.begin e.s k x []).accept x.cfg = (a, w) → w.fault = none →
        (w.held = false → CompletesIn (.cstat o) s (s.translations w.s) e (Writes.uniform e 1 (s.coilStatus k x a))) ∧
        (w.held = true → CompletesIn (.cstat o) s { s with coilq := mset s.coilq s.nextId (ask k none), nextId := s.nextId + 1 } e
          { group := fun g => { g with pending := g.pending ++ (selKeys o.d 1).map (fun k => { reg := k, pc := e.p.pc, iid := s.nextId }) } }))) ∧
    (∀ x, Issues (.cfeed o) s c e → e.actsOnce = true → s.coilSlot e.part k = some x →
      let t := e.val o.b 1 e.lead
      (x.h.v ≤ t → exec (.cfeed o) s = .next (e.trap ⟨.coilErr, 4⟩)) ∧
      (t < x.h.v →
        CompletesIn (.cfeed o) s { s with coilq := mset s.coilq s.nextId (ask k (some t)), nextId := s.nextId + 1 } e
          { group := fun g => { g with pending := g.pending ++ (selKeys o.d 1).map (fun k => { reg := k, pc := e.p.pc, iid := s.nextId }) } })) ∧
    (Issues (.cbind o) s c e → e.actsOnce = true →
      let ea := e.addr o.a e.lead
      (ea % 64 ≠ 0 → exec (.cbind o) s = .next (e.trap ⟨.prot, ea⟩)) ∧
      (∀ bs s', ea % 64 = 0 → e.readRecord ea 64 = .ok (bs, s') →
        let w := leNat bs
        let from' := s.translations s'
        (imgBad w = true → exec (.cbind o) s = .next (({ e with s := s' } : Ctx).trap ⟨.coilErr, 3⟩)) ∧
        (imgBad w = false → s.freeCoil e.part e.die = none → CompletesIn (.cbind o) s from' e (Writes.uniform e 1 0xFFFFFFFF)) ∧
        (∀ n, imgBad w = false → s.freeCoil e.part e.die = some n →
          let x : CoilSlot :=
            { part := e.part, asid := e.asid, image := ea, hdr := BitVec.ofNat 512 w, bound := s.boundSince e.part e.asid ea,
              cfg := { state := BitVec.ofNat 16 (bits w 32 16), stack := [], dead := false }, snaps := [], sys := e.sys }
          CompletesIn (.cbind o) s { from' with coil := mset s.coil n x } e (Writes.uniform e 1 n)))) ∧
    (∀ k x a, x.cfg.stack.length ≤ 256 → x.snaps.length ≤ 64 →
      let v := s.coilStatus k x a
      bits v 0 9 = x.cfg.stack.length ∧ bits v 9 7 = 0 ∧ bits v 16 7 = x.snaps.length ∧ bits v 23 5 = 0 ∧ bit v 29 = a ∧ bit v 30 = x.cfg.dead ∧ bit v 31 = true)) ∧
  ((∀ x : CoilSlot, x.cfg.stack.length ≤ 256 → (∀ y ∈ x.snaps, y.2.stack.length ≤ 256) →
    (∀ r ∈ x.records, r.2.length = 576) ∧ x.records.map (·.1) = 0 :: x.snaps.map (fun y => 576 + 576 * y.1)) ∧
  (∀ (h : ImgHdr) (y : CoilCfg), y.state.toNat < h.nstate → y.stack.length ≤ 256 → (∀ a ∈ y.stack, a.toNat < h.nsym) → cfgOf h (cfgBits y) (stackBytes y.stack) = some y) ∧
  (∀ (s : State) (c e : Ctx) (o : Ops) (x : CoilSlot), Issues (.csave o) s c e → e.actsOnce = true → s.coilSlot e.part (e.val o.b 1 e.lead) = some x →
    s.coilQueued (e.val o.b 1 e.lead) = false →
    let ea := e.addr o.a e.lead
    (ea % 64 ≠ 0 → exec (.csave o) s = .next (e.trap ⟨.prot, ea⟩)) ∧
    (∀ ps s', ea % 64 = 0 → e.savePlaces ea x.records = .ok (ps, s') →
      ∃ y, CompletesIn (.csave o) s y e {} ∧ y.coil = s.coil ∧ y.coilq = s.coilq ∧ y.accesses = s.accesses ∧
        ∀ a, y.byte a = (ps.foldl (fun s p => s.engineLocs p.1 p.2) s').byte a)) ∧
  (∀ (s : State) (c e : Ctx) (o : Ops), Issues (.cload o) s c e → e.actsOnce = true →
    let ea := e.addr o.a e.lead
    (ea % 64 ≠ 0 → exec (.cload o) s = .next (e.trap ⟨.prot, ea⟩)) ∧
    (∀ bs s1, ea % 64 = 0 → e.readRecord ea 576 = .ok (bs, s1) →
      let w := leNat (bs.take 64)
      let image := bits w 0 56
      ((saveBad w = true ∨ image % 64 ≠ 0) → exec (.cload o) s = .next (({ e with s := s1 } : Ctx).trap ⟨.coilErr, 3⟩)) ∧
      (∀ recs s2 hb s3, saveBad w = false → image % 64 = 0 → e.readSnaps ea s1 ((List.range 64).filter (fun i => bit w (128 + i))) = .ok (recs, s2) →
        ({ e with s := s2 } : Ctx).readRecord image 64 = .ok (hb, s3) →
        let h := ImgHdr.ofNat (leNat hb)
        let cfg := cfgOf h (bits w 64 26) (bs.drop 64)
        let from' := s.translations s3
        ((imgBad (leNat hb) = true ∨ cfg = none ∨ snapsOf h recs = none) → exec (.cload o) s = .next (({ e with s := s3 } : Ctx).trap ⟨.coilErr, 3⟩)) ∧
        (∀ y ys, imgBad (leNat hb) = false → cfg = some y → snapsOf h recs = some ys →
          (s.freeCoil e.part e.die = none → CompletesIn (.cload o) s from' e (Writes.uniform e 1 0xFFFFFFFF)) ∧
          ∀ n, s.freeCoil e.part e.die = some n →
            let x : CoilSlot :=
              { part := e.part, asid := e.asid, image := image, hdr := BitVec.ofNat 512 (leNat hb), bound := s.boundSince e.part e.asid image,
                cfg := y, snaps := ys, sys := e.sys }
            CompletesIn (.cload o) s { from' with coil := mset s.coil n x } e (Writes.uniform e 1 n))))))

/-- The mask and the feed (R242, R362, R363, R368 to R370, R374, R375): a byte's step does as its transition entry says; a feed of a disallowed token sets DEAD
and leaves state and stack; a mask holds no bit at V or above, and the EOS bit exactly where the state accepts with an empty stack; CMASK checks its
destination and its object and queues; the engine takes the oldest request, a mask copies the configuration then, and every unit lands whole and is counted. -/
def Obligations.CoilMasks : Prop :=  (∀ (w : Walker) (c : CoilCfg) (x : Nat),
    let next := bits x 0 16
    let osym := bits x 32 16
    let ok := next < w.x.h.nstate
    let goes := fun (st : List W16) => w.act c x = (some { c with state := BitVec.ofNat 16 next, stack := st }, w)
    (bits x 48 3 = 0 → w.act c x = (none, w)) ∧
    (bits x 48 3 = 1 → ok → goes c.stack) ∧
    (bits x 48 3 = 2 → ok → osym < w.x.h.nsym → c.stack.length < 256 → goes (c.stack ++ [BitVec.ofNat 16 osym])) ∧
    (bits x 48 3 = 2 → osym < w.x.h.nsym → 256 ≤ c.stack.length → w.act c x = (none, w)) ∧
    (bits x 48 3 = 3 → ok → c.stack ≠ [] → goes c.stack.dropLast) ∧
    (bits x 48 3 = 4 → ok → osym < w.x.h.nsym → c.stack ≠ [] → goes (c.stack.dropLast ++ [BitVec.ofNat 16 osym])) ∧
    (bits x 48 3 = 5 → ∀ t, c.stack.getLast? = some t → t.toNat < w.x.h.nstate → w.act c x = (some { c with state := t, stack := c.stack.dropLast }, w)) ∧
    ((bits x 48 3 = 3 ∨ bits x 48 3 = 5) → c.stack = [] → w.act c x = (none, w))) ∧
  (∀ (w : Walker) (c : CoilCfg) (t : Nat),
    (c.dead = true → (w.feed c t).1 = c) ∧ ((w.feed c t).1.dead = true → (w.feed c t).1 = { c with dead := true }) ∧
    (t = w.x.h.eos → c.dead = false → (w.feed c t).1.dead = false → (w.feed c t).1 = c ∧ c.stack = [])) ∧
  (∀ (w : Walker) (c : CoilCfg), w.x.h.eos = noToken ∨ w.x.h.eos < w.x.h.v →
    (w.mask c).1 < 2 ^ w.x.h.v ∧
    (∀ x w', w.state c.state.toNat = (some x, w') → w.x.h.eos ≠ noToken → bit (w.mask c).1 w.x.h.eos = (entAccept x && c.stack.isEmpty)) ∧
    (∀ w', w.state c.state.toNat = (none, w') → (w.mask c).1 = 0)) ∧
  (∀ (s : State) (c e : Ctx) (o : Ops) (i : Instr) (tgt : Nat) (x : CoilSlot),
    (i = .cmaskS o ∧ tgt = 0) ∨ (i = .cmaskV o ∧ tgt = 1) ∨ (i = .cmaskM o ∧ tgt = 2) → Issues i s c e → e.actsOnce = true →
    s.coilSlot e.part (e.val o.b 1 e.lead) = some x → e.g.fenceHolds setE = false →
    let bar := e.val e.cSel 1 e.lead
    (e.addr o.a e.lead % 32 ≠ 0 → exec i s = .next (e.trap ⟨.prot, e.addr o.a e.lead⟩)) ∧
    (∀ units s', e.maskUnits tgt x.h.maskBytes = .ok (units, s') →
      ((e.scratchPlace bar 16 = .prot ∨ bar % 16 ≠ 0) → exec i s = .next (({ e with s := s' } : Ctx).trap ⟨.prot, bar⟩)) ∧
      (∀ loc h d, e.scratchPlace bar 16 = .at loc h d → bar % 16 = 0 →
        let r : CoilReq :=
          { slot := e.val o.b 1 e.lead, part := e.part, gk := e.gk, launch := e.g.launch, feed := none, dst := units, bar := loc, cfg := none, mask := [], units := [],
            frec := none, bad := [] }
        CompletesIn i s { (s.translations s') with coilq := mset s.coilq s.nextId r, nextId := s.nextId + 1 } e {}))) ∧
  (∀ (s : State) (d id : Nat) (r : CoilReq) (x : CoilSlot), s.coilNext d = some (id, r) → mget? s.coil r.slot = some x →
    (r.feed = none → exec (.coilFeedWalk d) s = .next s ∧
      ∀ m w, (Walker.begin s r.slot x r.bad).mask x.cfg = (m, w) → w.fault = none → (w.held = true → exec (.coilMaskWalk d) s = .next s) ∧
        (w.held = false → ∃ t, exec (.coilMaskWalk d) s = .next t ∧ t.coil = s.coil ∧ t.mem = s.mem ∧ t.groups = s.groups ∧
          mget? t.coilq id = some { r with cfg := some x.cfg, mask := natLe x.h.maskBytes m, units := List.range ((x.h.maskBytes + 31) / 32) })) ∧
    (∀ tok n, r.feed = some (some tok, .s n) → exec (.coilMaskWalk d) s = .next s ∧
      ∀ y w a w', (Walker.begin s r.slot x r.bad).feed x.cfg tok = (y, w) → w.accept y = (a, w') → w'.fault = none →
        (w'.held = true → exec (.coilFeedWalk d) s = .next s) ∧
        (w'.held = false → ∃ t, exec (.coilFeedWalk d) s = .next t ∧ mget? t.coil r.slot = some { x with cfg := y } ∧ mget? t.coilq id = none ∧ t.mem = s.mem ∧
          ∀ g, mget? s.groups r.gk = some g → g.launch = r.launch → (∃ p ∈ g.pending, p.iid = id) →
            ∃ h, mget? t.groups r.gk = some h ∧ h.pending = g.pending.filter (fun p => p.iid != id) ∧ h.v = g.v ∧ h.p = g.p ∧ h.paths = g.paths ∧
              ∀ k < 64, h.uni k = if k = n.toNat then BitVec.ofNat 32 (s.coilStatus r.slot { x with cfg := y } a) else g.uni k))) ∧
  (∀ (s : State) (id u : Nat) (r : CoilReq), mget? s.coilq id = some r →
    (u ∉ r.units → exec (.maskUnitLand id u) s = .next s) ∧
    (u ∈ r.units →
      let bs := unitBytes r.mask u
      let loc := listGet 0 r.dst u
      ∃ t, exec (.maskUnitLand id u) s = .next t ∧ t.coil = s.coil ∧
        (mget? t.coilq id = if r.units.filter (fun v => v != u) = [] then none else some { r with units := r.units.filter (fun v => v != u) }) ∧
        ((r.bar + 16 ≤ loc ∨ loc + bs.length ≤ r.bar) →
          (∀ j < bs.length, t.byte (loc + j) = bs.getD j 0) ∧
          (∀ a, (a < loc ∨ loc + bs.length ≤ a) → (a < r.bar ∨ r.bar + 16 ≤ a) → t.byte a = s.byte a) ∧
          (∀ m, (s.core (bankCore r.bar)).team = some m → m.launch = r.launch →
            t.obj r.bar = ({ s.obj r.bar with landed := satAdd (s.obj r.bar).landed bs.length } : Obj).check))))

/-! ### System instructions, the step and its sweeps (R246 to R250, R380 to R390) -/

/-- SYSR and SYSW (R5, R246, R247): a number that no chapter assigns raises ILL with detail 10, a register of the system range that the group may not reach
raises PRIV, and so does a write of a read-only one; DZ is cleared by a written 1; each register of the table reads and takes what stands there. -/
def Obligations.SystemRegisters : Prop :=  ∀ (s : State) (c e : Ctx) (o : Ops),
    let n := imm32 o.imm
    let v := e.opd o.a true false 1 e.lead
    let on := fun (w : Writes) => if e.actsOnce then w else {}
    (Issues (.sysr o) s c e → Idle (.sysr o) s e ∧
      (c.actsOnce = true → sysAssigned n = false → exec (.sysr o) s = .next (c.trap ⟨.ill, 10⟩)) ∧
      (c.actsOnce = true → sysAssigned n = true → c.sysPriv n = true → exec (.sysr o) s = .next (c.trap ⟨.priv, 0⟩)) ∧
      (e.actsOnce = true → sysAssigned n = true → c.sysPriv n = false → Completes (.sysr o) s e (Writes.uniform e 1 (e.sysValue n).toNat))) ∧
    (e.sysValue 0 = (if e.g.dz then 1 else 0) ∧ e.sysValue 1 = e.g.key.setWidth 32 ∧ e.sysValue 2 = (e.g.key >>> 32).setWidth 32 ∧ e.sysValue 3 = e.g.ctr ∧
      e.sysValue 4 = e.g.ofs ∧ e.sysValue 16 = e.quarter.lost ∧ e.sysValue 256 = (if (e.s.pdie e.part e.die).bkhold then 1 else 0) ∧
      (∀ k, k < 8 → e.sysValue (0x300 + k) = (e.s.saggar k).rstale) ∧
      (∀ k x, 0x200 ≤ k → k < 0x300 → (e.s.trace e.die).read k = some x → e.sysValue k = x)) ∧
    (∀ k, k < 0x100 → c.sysPriv k = false) ∧ (∀ k, 0x100 ≤ k → c.sys = false → c.sysPriv k = true) ∧
    (Issues (.sysw o) s c e → Idle (.sysw o) s e ∧
      (c.actsOnce = true → sysAssigned n = false → exec (.sysw o) s = .next (c.trap ⟨.ill, 10⟩)) ∧
      (c.actsOnce = true → sysAssigned n = true → (c.sysPriv n = true ∨ n = 4 ∨ n = 16) → exec (.sysw o) s = .next (c.trap ⟨.priv, 0⟩)) ∧
      (n = 0 → Completes (.sysw o) s e (on { group := fun g => { g with dz := g.dz && !v.getLsbD 0 } })) ∧
      (n = 1 → Completes (.sysw o) s e (on { group := fun g => { g with key := g.key.extractLsb' 32 32 ++ v } })) ∧
      (n = 2 → Completes (.sysw o) s e (on { group := fun g => { g with key := v ++ g.key.extractLsb' 0 32 } })) ∧
      (n = 3 → Completes (.sysw o) s e (on { group := fun g => { g with ctr := v } })) ∧
      (e.actsOnce = true → sysAssigned n = true → c.sysPriv n = false →
        (n = 0x100 → CompletesIn (.sysw o) s (s.setPdie e.part e.die { s.pdie e.part e.die with bkhold := v.getLsbD 0 }) e {}) ∧
        (0x300 ≤ n → CompletesIn (.sysw o) s (s.setSaggar (n - 0x300) { s.saggar (n - 0x300) with rstale := v }) e {}) ∧
        (0x200 ≤ n → n < 0x300 → n ≠ 0x282 → n ≠ 0x290 → CompletesIn (.sysw o) s (s.setTrace e.die ((s.trace e.die).write n v)) e {}) ∧
        (n = 0x282 → CompletesIn (.sysw o) s (s.writeFilter e.die v) e {}) ∧
        (n = 0x290 → exec (.sysw o) s = .next (e.advance (e.s.thold e.die v.toNat)))))

/-- EVT, CLOCK and STEP (R246, R248 to R250, R380, R381, R387, R418): EVT posts a record with its code and payload, and a code of the hardware's own is
no EVT; CLOCK writes the core's cycle counter once
earlier instructions of the group are complete; STEP needs its privilege, and the keeper, taking the oldest first, raises the step by exactly 1 or refuses it
where a valid region's round is more than 2^22 steps old; a new step reaches every saggar unit before any quarter, and after the last of them the STEP is
answered (how many moves that takes: log 21, the model's choice). Sweeps and decay entries (R383, R384, R388, R389): a round
starts at the present step; a beat treats the eight words of one block and goes on by 64 bytes; a word whose age is at least 2^22 is decayed to the step,
its class unchanged; a round that is complete writes SWSTEP, one that meets a page it cannot sweep posts a record; a decay entry's powers are successive
squares of λ. -/
def Obligations.StepsAndSweeps : Prop :=
  ((∀ (s : State) (c e : Ctx) (o : Ops),
    let post := if (s.trace e.die).tctl.getLsbD 2 then s.postTrace e.die e.q e.part e.evtRecord else s
    (Issues (.evt o) s c e → imm32 o.imm < 2 ^ 15 → Idle (.evt o) s e ∧ (e.actsOnce = true → CompletesIn (.evt o) s post e {})) ∧
    (2 ^ 15 ≤ imm32 o.imm → (Instr.evt o).WF = false) ∧
    (imm32 o.imm < 2 ^ 15 → e.gk < 12288 → e.asid < 4096 → e.p.entry.getD 0 < 8 →
      let w := e.evtRecord.word.toNat
      bits w 0 4 = 0 ∧ bits w 32 16 = imm32 o.imm ∧ bits w 48 12 = e.asid ∧ bits w 64 32 = e.val o.a 1 e.lead % 2 ^ 32 ∧ bits w 96 64 = e.now % 2 ^ 64 ∧
        bits w 192 56 = e.p.pc.toNat ∧ bits w 256 64 = e.p.mask.toNat ∧ bits w 4 7 = e.core % 96 ∧ bits w 11 1 = e.die ∧ bits w 12 2 = e.q % 4 ∧
        bits w 14 4 = e.gk % 16 ∧ bits w 18 3 = e.p.entry.getD 0) ∧
    (Issues (.clock o) s c e → Idle (.clock o) s e ∧
      (e.actsOnce = true → s.quietFor e.gk = true → Completes (.clock o) s e (Writes.uniform e 2 (e.now % 2 ^ 64))) ∧
      (e.actsOnce = true → s.quietFor e.gk = false → Blocks (.clock o) s s e (.clock (s.openItems e.gk) e.g.openPaths o.d))) ∧
    (Issues (.step o) s c e → Idle (.step o) s e ∧
      (c.actsOnce = true → c.launch.step = false → exec (.step o) s = .next (c.trap ⟨.priv, 0⟩)) ∧
      (e.actsOnce = true → c.launch.step = true →
        Blocks (.step o) s s e (.step (s.accsOf e.gk) (s.jobsOf e.gk e.g.launch) o.d) ∧
        (e.o.hdr.ch = false → e.g.dead = false → s.released (s.accsOf e.gk) (s.jobsOf e.gk e.g.launch) = true → s.stepsWaiting e.part = [] →
          (∀ x ∈ (s.part e.part).asids, x.2.flight = none) →
          ∃ t u, exec (.step o) s = .next t ∧ exec (.stepPerform e.part) t = .next u ∧
            (u.asidRec e.part e.asid).gstep = (s.asidRec e.part e.asid).gstep + (if (s.keeperStep e.part e.asid).1 = true then 1 else 0))))) ∧
  (∀ (s : State) (p a : Nat),
    let r := s.asidRec p a
    let t := (s.keeperStep p a).2
    let y := t.asidRec p a
    ((s.keeperStep p a).1 = true ↔ ∀ k < r.nreg, regionValid (s.region r k) = true → regionBad (s.region r k) = false →
      stepDiff (r.gstep.toNat + 1) (regionStep (s.region r k)) ≤ 2 ^ 22) ∧
    ((s.keeperStep p a).1 = true → y.gstep = r.gstep + 1) ∧ ((s.keeperStep p a).1 = false → y.gstep = r.gstep) ∧ (r.nreg = 0 → (s.keeperStep p a).1 = true) ∧
    (∀ b, b ≠ a → t.asidRec p b = s.asidRec p b) ∧ (∀ q, q ≠ p → t.part q = s.part q) ∧ t.groups = s.groups) ∧
  (∀ (s : State) (p gk pid : Nat) (g : Group) (x : Path) (a : List Nat) (j : List Nat) (k : BitVec 3),
    mget? s.groups gk = some g → mget? g.paths pid = some x → x.st = .blocked (.step a j (.p k)) → k ≠ 7 →
    let flight := (s.part p).asids.findSome? (fun y => y.2.flight.map (fun f => (y.1, f)))
    let answered := fun (t : State) (ok : Bool) => ∃ g' x', mget? t.groups gk = some g' ∧ mget? g'.paths pid = some x' ∧ (x.hold = false → x'.st = .ready) ∧
      x'.mask = x.mask ∧ g'.v = g.v ∧ g'.s = g.s ∧ (∀ i < 64, g'.pred k.toNat i = if x.mask.getLsbD i then ok else g.pred k.toNat i) ∧
      (∀ m < 8, m ≠ k.toNat → ∀ i < 64, g'.pred m i = g.pred m i)
    (∀ n, flight = none → minBy? (fun (y : Nat × Nat × Nat) => y.2.2) (s.stepsWaiting p) = some (gk, pid, n) →
      let asid := (s.launch g.launch).asid
      let r := s.keeperStep p asid
      ∃ t, exec (.stepPerform p) s = .next t ∧ (∀ b, t.byte b = r.2.byte b) ∧
        (r.1 = false → t.parts = r.2.parts ∧ answered t false) ∧
        (r.1 = true → t.groups = s.groups ∧ (t.asidRec p asid).gstep = (s.asidRec p asid).gstep + 1 ∧
          (t.asidRec p asid).flight = some { units := s.stepUnits p, quarters := s.stepQuarters p, gk := gk, pid := pid })) ∧
    (∀ asid f, flight = some (asid, f) → f.gk = gk → f.pid = pid →
      ∃ t, exec (.stepPerform p) s = .next t ∧ t.mem = s.mem ∧ (t.asidRec p asid).gstep = (s.asidRec p asid).gstep ∧
        (f.units.length + f.quarters.length ≤ 1 → (t.asidRec p asid).flight = none ∧ answered t true) ∧
        (1 < f.units.length + f.quarters.length → t.groups = s.groups ∧ ∃ f', (t.asidRec p asid).flight = some f' ∧ f'.gk = gk ∧ f'.pid = pid ∧
          f'.units.length + f'.quarters.length + 1 = f.units.length + f.quarters.length ∧ (f.units ≠ [] → f'.quarters = f.quarters)))) ∧
  (∀ (s : State) (p : Nat), (s.part p).asids.findSome? (fun y => y.2.flight.map (fun f => (y.1, f))) = none → s.stepsWaiting p = [] →
    exec (.stepPerform p) s = .next s)) ∧
  ((∀ (s : State) (p asid k : Nat),
    (s.mayRound p asid k = false → exec (.sweepRoundStart p asid k) s = .next s) ∧
    (s.mayRound p asid k = true → ∃ t x, exec (.sweepRoundStart p asid k) s = .next t ∧ mget? (t.asidRec p asid).rounds k = some x ∧
      x.s0 = (s.asidRec p asid).gstep ∧ x.pos = 0 ∧ x.base = regionBase (s.region (s.asidRec p asid) k) ∧ x.len = regionSize (s.region (s.asidRec p asid) k) ∧
      (t.asidRec p asid).gstep = (s.asidRec p asid).gstep) ∧
    (∀ x, mget? (s.asidRec p asid).rounds k = some x →
      (∀ loc s1, x.pos < x.len → s.sweepPlace p asid (x.base + x.pos) = (.ok loc, s1) → exec (.sweepRoundEnd p asid k) s = .next s) ∧
      (x.len ≤ x.pos → ∃ t, exec (.sweepRoundEnd p asid k) s = .next t ∧ mget? (t.asidRec p asid).rounds k = none ∧
        mget? (t.asidRec p asid).last k = some { s0 := x.s0, frec := none } ∧
        ((s.rangeOf p (x.ent + 28)).isSome = true → t.word (s.phys (x.ent + 28)) 3 = x.s0.toNat)) ∧
      (∀ n va s1, x.pos < x.len → s.sweepPlace p asid (x.base + x.pos) = (.error (n, va), s1) →
        ∃ t id f, exec (.sweepRoundEnd p asid k) s = .next t ∧ mget? (t.asidRec p asid).rounds k = none ∧
          mget? (t.asidRec p asid).last k = some { s0 := x.s0, frec := some id } ∧ mget? t.frecs id = some f ∧ f.kind = 4 ∧ f.cause = n ∧ f.va = va ∧ f.asid = asid ∧
          f.part = p))) ∧
  (∀ (s : State) (st p : Nat), s.partOfStack st = some p →
    let last := (s.saggar st).swept
    let xs := s.sweepsAt p st
    (xs = [] → exec (.sweepBeat st) s = .next s) ∧
    (∀ key asid k loc x, (xs.find? (fun x => decide (x.1 > last))).or xs.head? = some (key, asid, k, loc) → mget? (s.asidRec p asid).rounds k = some x →
      (s.spend p 1 st = none → exec (.sweepBeat st) s = .next s) ∧
      ((s.spend p 1 st).isSome = true → ∃ t, exec (.sweepBeat st) s = .next t ∧ mget? (t.asidRec p asid).rounds k = some { x with pos := x.pos + 64 } ∧
        (t.saggar st).swept = key ∧ (t.asidRec p asid).gstep = (s.asidRec p asid).gstep ∧ (∀ b, (b < loc ∨ loc + 64 ≤ b) → t.byte b = s.byte b)))) ∧
  (∀ (s : State) (p asid st loc va : Nat),
    let w := s.word loc 8
    let now := s.unitStep st p asid
    let age := stepDiff now (ringStamp w)
    let t := s.rebaseWord p asid st loc va
    (∀ b, (b < loc ∨ loc + 8 ≤ b) → t.byte b = s.byte b) ∧
    (((s.poisoned loc 8).isSome = true ∨ age < 2 ^ 22) → t = s) ∧
    (s.poisoned loc 8 = none → 2 ^ 22 ≤ age →
      ringClass (t.word loc 8) = ringClass w ∧ ringStamp (t.word loc 8) = now ∧
        ringVal (t.word loc 8) = rne32 ((f32 (ringVal w)).mul (f32 (decay (s.powers p asid (ringClass w)) (min age (2 ^ 23 - 1))))) ∧
        (t.saggar st).rstale = (s.saggar st).rstale + (if 2 ^ 23 ≤ age then 1 else 0))) ∧
  (∀ (s : State) (p : Nat) (v : W64),
    let d := (s.part p).decayw
    (∃ t, exec (.decaywGo p v) s = .next t ∧ t.mem = s.mem ∧
      (t.part p).decayw.asid = bits v.toNat 40 12 ∧ (t.part p).decayw.cls.toNat = bits v.toNat 32 8 ∧ (t.part p).decayw.lambda = v.setWidth 32 ∧
      (d.run.isSome = true → (t.part p).decayw.run = d.run ∧ (t.part p).decayw.err = d.err) ∧
      (d.run = none → (t.part p).decayw.err = (lambdaOf (v.setWidth 32)).isNone ∧ (t.part p).decayw.run =
        if (lambdaOf (v.setWidth 32)).isSome = true then some (bits v.toNat 40 12, BitVec.ofNat 8 (bits v.toNat 32 8), v.setWidth 32) else none)) ∧
    (d.run = none → exec (.decaywDone p) s = .next s) ∧
    (∀ a k l x, d.run = some (a, k, l) → lambdaOf l = some x →
      let pa := (s.asidRec p a).dtab.toNat + 128 * k.toNat
      ∃ t, exec (.decaywDone p) s = .next t ∧ (t.part p).decayw.run = none ∧
        ((s.rangeOf p pa).isSome = true → (∀ i < 128, t.byte (s.phys pa + i) = (decayEntry x).getD i 0) ∧
          ∀ b, (b < s.phys pa ∨ s.phys pa + 128 ≤ b) → t.byte b = s.byte b))) ∧
  (∀ v : W32, (lambdaOf v).isSome = true ↔ v = 0x80000000 ∨ v.toNat ≤ 0x3F800000) ∧ lambdaOf 0x80000000 = some 0 ∧
  (∀ v : W32,
    let pow := fun i => BitVec.ofNat 32 (leNat (((decayEntry v).drop (4 * i)).take 4))
    (decayEntry v).length = 128 ∧ pow 0 = v ∧ (∀ i < 22, pow (i + 1) = rne32 ((f32 (pow i)).mul (f32 (pow i)))) ∧ (decayEntry v).getD 124 0 = 1))

/-! ### Trace, triggers and blame (R415 to R430), and what a quarter does of itself (R144, R256, R260, R261, R263, R351) -/

/-- The trace registers (R415 to R417, R422 to R424, R426, R429): what each keeps of a write; one register's write leaves the others as they were; TSEQ's fields
are taken only in IDLE; a change of owner returns a die's registers to reset; a program that is refused leaves the one in force. The trigger sequencer and
the ring (R418, R422, R423, R425, R430): its steps; a record that comes while the budget is spent, or finds the ring full in start mode, is lost and only
counts in TDROP; otherwise it is written whole at TAIL in a writing state, TAIL rises, and HEAD too where it overwrites. -/
def Obligations.Tracing : Prop :=
  ((∀ (t : TraceCore) (v : W32),
    (t.write 0x200 v).read 0x200 = some (v &&& 0xFF) ∧ (t.write 0x202 v).read 0x202 = some v ∧ (t.write 0x203 v).read 0x203 = some (v &&& 0xFFFFF000) ∧
    (t.write 0x204 v).read 0x204 = some v ∧ (t.write 0x205 v).ring = 2 ^ (min 9 (v.toNat % 16) + 6) ∧ (t.write 0x205 v).tail = t.tail ∧
    (t.write 0x206 v).read 0x206 = some (v &&& 0xFFFF) ∧ (t.write 0x207 v).read 0x207 = some v ∧
    (∀ n k, n < 8 → k < 5 → (t.write (0x220 + 8 * n + k) v).read (0x220 + 8 * n + k) = some (if k = 0 then v &&& 0xF else v)) ∧
    (∀ k, k < 4 → (t.write (0x260 + 2 * k) v).read (0x260 + 2 * k) = some (v &&& 0x1FF) ∧ (t.write (0x261 + 2 * k) v).read (0x261 + 2 * k) = some v) ∧
    (∀ k, k < 4 → (t.write (0x284 + k) v).read (0x284 + k) = some v) ∧ (t.write 0x288 v).read 0x288 = some v ∧
    (t.st ≠ .idle → (t.writeSeq v).tseq = t.tseq) ∧ (t.st = .idle → (t.writeSeq v).tseq = v &&& seqMask) ∧
    (v.getLsbD 3 = false → (t.writeSeq v).st = t.st ∧ (t.writeSeq v).tcnt = t.tcnt)) ∧
  (∀ (t : TraceCore) (n m : Nat) (v : W32), n ≠ 0x201 → m ≠ n → (t.write n v).read m = t.read m) ∧
  (∀ (s : State) (v : W64), s.pkg.town.length = 2 →
    let ok := ∀ d < 2, ∀ p, townOf v.toNat d = some p → s.mayOwn p d = true
    (¬ok ∨ s.pkg.serves = false → exec (.traceOwner v) s = .next s) ∧
    (ok → s.pkg.serves = true → ∃ t, exec (.traceOwner v) s = .next t ∧ t.mem = s.mem ∧ ∀ d < 2, listGet none t.pkg.town d = townOf v.toNat d ∧
      (listGet none s.pkg.town d = townOf v.toNat d → t.trace d = s.trace d) ∧ (listGet none s.pkg.town d ≠ townOf v.toNat d → t.trace d = TraceCore.reset))) ∧
  (∀ (s : State) (d p : Nat) (v : W32), listGet none s.pkg.town d = some p →
    let n := bits v.toNat 0 11
    let pa := (s.trace d).tfp.toNat
    let prog := (List.range n).map (fun i => s.byte (s.phys (pa + i)))
    let there := 1 ≤ n ∧ n ≤ 1024 ∧ ∀ i < n, (s.rangeOf p (pa + i)).isSome = true ∧ s.poisoned (s.phys (pa + i)) 1 = none
    ∃ t, exec (.filterLoad d v) s = .next t ∧ t.mem = s.mem ∧ (t.trace d).on = v.getLsbD 17 ∧ (t.trace d).len = n ∧
      (there ∧ filterOk prog = true → (t.trace d).prog = prog ∧ (t.trace d).bad = false) ∧
      (¬(there ∧ filterOk prog = true) → (t.trace d).prog = (s.trace d).prog ∧ (t.trace d).bad = true)) ∧
  (∀ (s : State) (d p : Nat) (v : W32), listGet none s.pkg.town d = some p →
    let x := bits v.toNat 0 17
    (s.namedPath p x = none → exec (.tholdSet d v) s = .next s ∧ exec (.tholdClr d v) s = .next s) ∧
    (∀ gk pid g y, s.namedPath p (x + 2 ^ 17) = some (gk, pid) → mget? s.groups gk = some g → mget? g.paths pid = some y → y.st = .ready →
      mget? g.unfinished pid = none → g.park = none →
      ∃ t g' z, exec (.tholdSet d v) s = .next t ∧ mget? t.groups gk = some g' ∧ mget? g'.paths pid = some z ∧ z.st = .held ∧ z.mask = y.mask ∧ t.mem = s.mem ∧
        ∀ k, k ≠ pid → mget? g'.paths k = mget? g.paths k) ∧
    (∀ gk pid g y, s.namedPath p (x + 2 ^ 18) = some (gk, pid) → mget? s.groups gk = some g → mget? g.paths pid = some y → y.st = .held →
      ∃ t g' z, exec (.tholdClr d v) s = .next t ∧ mget? t.groups gk = some g' ∧ mget? g'.paths pid = some z ∧ z.st = .ready ∧ z.mask = y.mask ∧ z.pc = y.pc ∧
        z.stamp = s.coreCycle (coreOf gk)))) ∧
  ((∀ (t : TraceCore) (a b : Bool),
    let c := t.setCounter t.nctr (t.counter t.nctr + 1)
    (t.st = .idle → t.seqStep a b = t) ∧ (t.st = .capture → t.seqStep a b = t) ∧
    (t.st = .armed → t.aset ≠ 0 → (a = false → t.seqStep a b = t) ∧ (a = true → t.seqStep a b = t.toCount)) ∧
    (t.st = .armed → t.aset = 0 → t.seqStep a b = if t.seqN = 0 then t.toCount else t.toCount.countStep b) ∧
    (t.st = .count → b = false → t.seqStep a b = t) ∧
    (t.st = .count → b = true → (c.counter t.nctr).toNat < t.seqN → t.seqStep a b = c) ∧
    (t.st = .count → b = true → t.seqN ≤ (c.counter t.nctr).toNat → t.seqStep a b = { c with st := .capture, p := t.post }) ∧
    (t.seqN ≠ 0 → t.toCount.st = .count ∧ t.toCount.counter t.nctr = 0) ∧ (t.seqN = 0 → t.toCount.st = .capture ∧ t.toCount.p = t.post) ∧
    (t.st = .capture → t.go.st = .idle ∧ t.go.frozen = false) ∧ (t.st = .armed ∨ t.st = .count → t.go = t) ∧
    (t.st = .idle → (t.aset ≠ 0 ∨ t.seqN ≠ 0) → t.go.st = .armed) ∧ (t.st = .idle → t.aset = 0 → t.seqN = 0 → t.go.st = .capture)) ∧
  (∀ (s : State) (d : Nat), exec (.traceGo d) s = .next (s.setTrace d (s.trace d).go)) ∧
  (∀ (s : State) (d src p : Nat) (r : TraceRec) (l : List TraceRec), listGet none s.pkg.town d = some p → mgetD (s.trace d).queues src [] = r :: l →
    (s.trace d).tctl.getLsbD 0 = true →
    let t0 := s.trace d
    let w := r.word.toNat
    let t1 := (t0.count w).seqStep (t0.anyMatch w t0.aset) (t0.anyMatch w t0.bset)
    let full := t0.ring ≤ (t0.tail - t0.head).toNat
    let pa := t0.tbase.toNat + 64 * (t0.tail.toNat % t0.ring)
    let same := fun (x : TraceCore) => x.st = t0.st ∧ x.tcnt = t0.tcnt ∧ x.tail = t0.tail ∧ x.head = t0.head ∧ x.drop.toNat = min (t0.drop.toNat + 1) (2 ^ 32 - 1)
    ∃ u, exec (.traceRecord d src) s = .next u ∧ mgetD (u.trace d).queues src [] = l ∧
      (s.spend p 2 d = none → u.mem = s.mem ∧ same (u.trace d)) ∧
      ((s.spend p 2 d).isSome = true → t0.on = false →
        (t1.writes = false → u.mem = s.mem ∧ (u.trace d).tail = t0.tail ∧ (u.trace d).drop = t0.drop ∧ (u.trace d).st = t1.st ∧ (u.trace d).tcnt = t1.tcnt) ∧
        (t1.writes = true → full → t0.freeze = false → u.mem = s.mem ∧ same (u.trace d)) ∧
        (t1.writes = true → (¬full ∨ t0.freeze = true) → (u.trace d).tail = t0.tail + 1 ∧ (u.trace d).head = (if full then t0.head + 1 else t0.head) ∧
          (u.trace d).drop = t0.drop ∧ (u.trace d).st = t1.st ∧ (u.trace d).tcnt = t1.tcnt ∧
          ((s.rangeOf p pa).isSome = true → (∀ i < 64, u.byte (s.phys pa + i) = BitVec.ofNat 8 (bits w (8 * i) 8)) ∧
            ∀ b, (b < s.phys pa ∨ s.phys pa + 64 ≤ b) → u.byte b = s.byte b)))) ∧
  (∀ (s : State) (d src : Nat), ((s.trace d).tctl.getLsbD 0 = false ∨ listGet none s.pkg.town d = none ∨ mgetD (s.trace d).queues src [] = []) →
    exec (.traceRecord d src) s = .next s) ∧
  (∀ (s : State) (q : Nat),
    let t := s.trace (dieOfCore (q / 4))
    let per := 2 ^ (bits t.tctl.toNat 4 4 + 8)
    let fin := Config.unitCycle (q / 4) (s.tick + 1)
    let due := multiples per (max (s.coreCycle (q / 4)) (s.quarter q).sampled) fin
    let sampled := fun (u : State) => u.setQuarter q { u.quarter q with sampled := fin }
    (t.tctl.getLsbD 3 = false → exec (.stallSample q) s = .next s) ∧
    (t.tctl.getLsbD 3 = true → due = [] → exec (.stallSample q) s = .next (sampled s)) ∧
    (t.tctl.getLsbD 3 = true → s.samples q none = [] → exec (.stallSample q) s = .next (sampled s)) ∧
    (∀ m gk pid g p, t.tctl.getLsbD 3 = true → due = [m] → oldestSample (s.samples q none) = some (gk, pid, g, p) →
      ∃ r, exec (.stallSample q) s = .next (sampled (s.postTrace (dieOf gk) q (s.launch g.launch).part r)) ∧ r.path = some (gk, pid) ∧ bits r.word.toNat 0 4 = 1 ∧
        bits r.word.toNat 96 64 = m % 2 ^ 64)) ∧
  (∀ per a b m, 0 < per → (m ∈ multiples per a b ↔ a ≤ m ∧ m < b ∧ m % per = 0)) ∧
  (∀ (s : State) (gk pid n : Nat) (g : Group) (p : Path),
    (g.park.isSome = true → s.stallCode gk pid g p n = (5, 0)) ∧ (g.park = none → ∀ b, p.st = .blocked b → s.stallCode gk pid g p n = (3, 0)) ∧
    (g.park = none → ∀ k, p.st = .parked k → s.stallCode gk pid g p n = (4, 0)) ∧ (g.park = none → p.st = .held → s.stallCode gk pid g p n = (6, 0)) ∧
    (g.park = none → ∀ ks, p.st = .waiting (.regs ks) → (s.stallCode gk pid g p n).1 = 1) ∧
    (g.park = none → ∀ k, p.st = .waiting k → (∀ ks, k ≠ .regs ks) → s.stallCode gk pid g p n = (2, 0)) ∧
    (g.park = none → p.st = .ready → s.nextCtx gk pid g p = none → s.stallCode gk pid g p n = (7, n)) ∧
    (∀ c, g.park = none → p.st = .ready → s.nextCtx gk pid g p = some c →
      ((∃ x ∈ s.outstanding g, x.reg ∈ c.pendingKeys) → (s.stallCode gk pid g p n).1 = 1) ∧
      ((∀ x ∈ s.outstanding g, x.reg ∉ c.pendingKeys) → s.stallCode gk pid g p n = if c.lacksRoom then (2, 0) else (7, n)))))

/-- Filter programs (R426 to R428): an accepted program only ever goes on at the start of an instruction or at its end; the stack never holds more than 16
words; a 257th step is a fault, which keeps the record; and each operation does what its row says. -/
def Obligations.FilterPrograms : Prop :=  (∀ (prog : List Byte) (st tg : List Nat) (w : BitVec 512) (f f' : Filter), filterScan prog prog.length 0 = some (st, tg) → filterOk prog = true → f.pc ∈ st →
    f.next prog w = some (f', none) → f'.pc ∈ st ∨ f'.pc = prog.length) ∧
  (∀ (prog : List Byte) (st tg : List Nat), filterScan prog prog.length 0 = some (st, tg) → prog ≠ [] → 0 ∈ st ∧ ∀ n ∈ st, n < prog.length ∧ (prog.getD n 0).toNat ≤ 0x17) ∧
  (∀ (prog : List Byte) (w : BitVec 512) (f f' : Filter) (v : Option Verdict), f.next prog w = some (f', v) → f.stack.length ≤ 16 →
    f'.stack.length ≤ 16 ∧ (v ≠ some .drop → f'.cnt = f.cnt)) ∧
  (∀ (prog : List Byte) (w : BitVec 512) (f : Filter) (n : Nat),
    (prog.length ≤ f.pc → Filter.run prog w n f = (.keep, f.cnt, false)) ∧ (f.pc < prog.length → Filter.run prog w 0 f = (.keep, f.cnt, true)) ∧
    (f.pc < prog.length → f.next prog w = none → Filter.run prog w n f = (.keep, f.cnt, true))) ∧
  (∀ (prog : List Byte) (w : BitVec 512) (f : Filter) (a b : W32) (l : List W32), f.stack = a :: b :: l → f.pc < prog.length →
    let op := (prog.getD f.pc 0).toNat
    let at1 := f.pc + 1
    let pops := fun (x : W32) => f.next prog w = some ({ f with pc := at1, stack := x :: l }, none)
    (op = 0x05 → pops (b + a)) ∧ (op = 0x06 → pops (b - a)) ∧ (op = 0x07 → pops (b &&& a)) ∧ (op = 0x08 → pops (b ||| a)) ∧ (op = 0x09 → pops (b ^^^ a)) ∧
    (op = 0x0B → pops (b <<< (a.toNat % 32))) ∧ (op = 0x0C → pops (b >>> (a.toNat % 32))) ∧ (op = 0x0D → pops (if b = a then 1 else 0)) ∧
    (op = 0x0E → pops (if b = a then 0 else 1)) ∧ (op = 0x0F → pops (if b.toNat < a.toNat then 1 else 0)) ∧ (op = 0x10 → pops (if b.toNat < a.toNat then 0 else 1)) ∧
    (op = 0x03 → f.next prog w = some ({ f with pc := at1, stack := b :: l }, none)) ∧ (op = 0x04 → f.next prog w = some ({ f with pc := at1, stack := b :: a :: l }, none)) ∧
    (op = 0x0A → f.next prog w = some ({ f with pc := at1, stack := ~~~a :: b :: l }, none)) ∧ (op = 0x14 → ∃ g, f.next prog w = some (g, some .keep)) ∧
    (op = 0x15 → ∃ g, f.next prog w = some (g, some .drop)) ∧ (op = 0x17 → ∃ g, f.next prog w = some (g, some .trig)))

/-- What a quarter does of itself: a path that comes back takes its place in the table (R256), the oldest GROW is granted when it fits (R144), a path ready for
4,096 cycles is boosted (R260), a chain whose next member has not been ready as long is interrupted (R261), a group that starves another is trapped, now or when
a path of it is next chosen (R263), and a handler of more than 1,000,000 cycles is reported once (R351). -/
def Obligations.QuarterEvents : Prop :=  ∀ (s : State) (gk pid : Nat) (g : Group) (p : Path), mget? s.groups gk = some g → mget? g.paths pid = some p →
    let now := s.coreCycle (coreOf gk)
    let paths := fun (f : Map Path → Map Path) => ({ s with groups := mset s.groups gk { g with paths := f g.paths } } : State)
    ((g.oldestSpilled = none ∨ g.fillEntry = none) → exec (.pathFill gk) s = .next s) ∧
    (∀ i, g.oldestSpilled = some (pid, p) → g.fillEntry = some (i, none) → exec (.pathFill gk) s = .next (paths (fun m => mset m pid { p with entry := some i }))) ∧
    (∀ i v x, g.oldestSpilled = some (pid, p) → g.fillEntry = some (i, some v) → mget? g.paths v = some x → v ≠ pid →
      ∃ t g', exec (.pathFill gk) s = .next t ∧ mget? t.groups gk = some g' ∧ mget? g'.paths pid = some { p with entry := some i } ∧
        mget? g'.paths v = some { x with entry := none } ∧ t.mem = s.mem) ∧
    (∀ r l, (s.quarter (quarterOf gk)).growq = r :: l → r.gk = gk → r.pid = pid → g.blocks + r.n ≤ 32 →
      (s.freeBlocks (quarterOf gk) < g.width * r.n → exec (.growGrant (quarterOf gk)) s = .next s) ∧
      (g.width * r.n ≤ s.freeBlocks (quarterOf gk) →
        ∃ t g' x, exec (.growGrant (quarterOf gk)) s = .next t ∧ (t.quarter (quarterOf gk)).growq = l ∧ mget? t.groups gk = some g' ∧ g'.blocks = g.blocks + r.n ∧
          g'.v = g.v ∧ mget? g'.paths pid = some x ∧ x.mask = p.mask ∧ (p.hold = false → x.st = .ready))) ∧
    (exec (.pathBoost gk pid) s = .next (if p.st = .ready ∧ 4096 ≤ p.idle + (if g.runs pid then now - p.since else 0) then
        paths (fun m => mset m pid { p with boosted := true }) else s)) ∧
    (∀ k, (s.quarter (quarterOf gk)).chain = some k → k.gk = gk → k.pid = pid → s.inside k gk pid = true → p.st ≠ .ready →
      (now - k.since < 4096 → exec (.chainInterrupt (quarterOf gk)) s = .next s) ∧
      (p.noCut ≠ some k.head → 4096 ≤ now - k.since →
        ∃ t g' x, exec (.chainInterrupt (quarterOf gk)) s = .next t ∧ (t.quarter (quarterOf gk)).chain = none ∧ (t.quarter (quarterOf gk)).latch = [] ∧
          mget? t.groups gk = some g' ∧ g'.ctr = k.ctr ∧ g'.v = g.v ∧ mget? g'.paths pid = some x ∧ x.pc = k.head ∧ x.mask = p.mask ∧
          (∀ w, p.st = .waiting w → p.hold = false → x.st = .ready) ∧ ((∀ w, p.st ≠ .waiting w) → x.st = p.st))) ∧
    ((g.watchdog < 2 ^ 20 ∨ g.watchdog % 2 ^ 16 ≠ 0 ∨ g.handler.isSome = true ∨ s.starves gk = false) → exec (.watchdog gk) s = .next s) ∧
    (2 ^ 20 ≤ g.watchdog → g.watchdog % 2 ^ 16 = 0 → g.handler = none → g.dead = false → g.stopped = false → s.starves gk = true →
      (g.park = none → g.struck = some pid → exec (.watchdog gk) s = .next (s.trapAt gk pid ⟨.watchdog, g.watchdog⟩ g.lastPc p.pc)) ∧
      ((g.park.isSome = true ∨ g.struck = none) → exec (.watchdog gk) s = .next (s.modGroup gk (fun g => { g with wdDue := true })))) ∧
    (∀ h, g.handler = some h → h.reported = false → h.pid = pid → 1000000 < now - h.since →
      ∃ t f, exec (.longHandler gk) s = .next t ∧ mget? t.frecs s.nextId = some f ∧ f.kind = 11 ∧ f.gk = some gk ∧ f.mask = p.mask ∧ f.pc = p.pc.toNat ∧
        mget? t.groups gk = some { g with handler := some { h with reported := true } } ∧ t.mem = s.mem) ∧
    (∀ h, g.handler = some h → (h.reported = true ∨ now - h.since ≤ 1000000) → exec (.longHandler gk) s = .next s)

/-! ### Fault queues, generations, peers and migration (R338 to R349) -/

/-- Fault queues and resolution (R344 to R347): a record's 32 bytes are written at TAIL, then TAIL advances; a full ring keeps it waiting, or drops and counts
kinds 10 to 12; a group parked on one record goes on when it is resolved, with a replay, PROT or MCHK; one of several leaves it parked; an unknown ID is
discarded. -/
def Obligations.FaultQueues : Prop :=  (∀ (s : State) (id : Nat) (f : FRec), mget? s.frecs id = some f →
    let q := (s.pdie f.part f.die).fq
    let full := faultRing q.log2n ≤ (q.tail - q.head).toNat
    let pa := q.base.toNat + 32 * (q.tail.toNat % faultRing q.log2n)
    (f.posted = true → exec (.faultRecordPost id) s = .next s) ∧
    (f.posted = false → full → (f.kind < 10 ∨ 12 < f.kind) → exec (.faultRecordPost id) s = .next s) ∧
    (f.posted = false → full → 10 ≤ f.kind → f.kind ≤ 12 →
      ∃ t, exec (.faultRecordPost id) s = .next t ∧ mget? t.frecs id = none ∧ t.mem = s.mem ∧ (t.pdie f.part f.die).fq.tail = q.tail ∧
        (t.pdie f.part f.die).fq.drop.toNat = min (q.drop.toNat + 1) 65535) ∧
    (f.posted = false → ¬full →
      ∃ t, exec (.faultRecordPost id) s = .next t ∧ (t.pdie f.part f.die).fq = { q with tail := q.tail + 1 } ∧
        mget? t.frecs id = (if f.kind ≤ 5 then some { f with posted := true } else none) ∧
        ((s.rangeOf f.part pa).isSome = true → (∀ i < 32, t.byte (s.phys pa + i) = BitVec.ofNat 8 (bits f.word (8 * i) 8)) ∧
          ∀ b, (b < s.phys pa ∨ s.phys pa + 32 ≤ b) → t.byte b = s.byte b))) ∧
  (∀ (f : FRec) (g : Nat), f.gk = some g → g < 12288 →
    let w := f.word
    bits w 0 64 = f.va % 2 ^ 64 ∧ bits w 64 64 = f.pc % 2 ^ 64 ∧ bits w 128 64 = f.mask.toNat ∧ bits w 196 12 = f.asid % 4096 ∧ bits w 208 4 = f.kind % 16 ∧
      bits w 212 8 = f.cause % 256 ∧ bits w 222 7 = coreOf g % 96 ∧ bits w 229 1 = dieOf g ∧ bits w 230 2 = quarterOf g % 4 ∧ bits w 232 4 = g % 16 ∧
      bits w 240 16 = f.id % 65536) ∧
  (∀ (s : State) (p d id : Nat),
    let act := fun (a : Nat) => match a with | 0 => exec (.resolveReplay p d id) s | 1 => exec (.resolveProtection p d id) s | _ => exec (.resolveMchk p d id) s
    let named := s.frecs.find? (fun f => f.2.posted && f.2.part == p && f.2.die == d && f.1 % 2 ^ 16 == id % 2 ^ 16)
    (named = none → ∀ a, act a = .next s) ∧
    (∀ k f gk g x, named = some (k, f) → k = f.id → mget? s.groups gk = some g → g.park = some x → k ∈ x.recs → g.stopped = false → x.worst = 0 →
      (∀ y ∈ s.groups, y.1 ≠ gk → ∀ z, y.2.park = some z → k ∉ z.recs) → (∀ y ∈ s.coilq, y.2.frec ≠ some k) → (∀ y ∈ s.jobs, y.2.frec ≠ some k) →
      (∀ y ∈ s.insts, y.2.frec ≠ some k ∧ ∀ n ∈ y.2.nodes, n.2.frec ≠ some k) →
      let now := s.coreCycle (coreOf gk)
      let others := x.recs.filter (fun r => r != k)
      (others ≠ [] → ∀ a ≤ 2, ∃ t h z, act a = .next t ∧ mget? t.groups gk = some h ∧ h.park = some z ∧ z.recs = others ∧ h.paths = g.paths ∧ mget? t.frecs k = none) ∧
      (others = [] →
        (∃ t h, act 0 = .next t ∧ mget? t.frecs k = none ∧ t.mem = s.mem ∧ mget? t.groups gk = some h ∧ h.park = none ∧ h.v = g.v ∧
          ∀ pid y, mget? g.paths pid = some y → mget? h.paths pid = some (if y.st = .ready then { y with stamp := now, since := now } else y)) ∧
        (∃ t : State, act 1 = .next (t.trapAt gk x.pid ⟨.prot, f.va⟩ (BitVec.ofNat 56 f.pc) (s.pcOf gk x.pid)) ∧ mget? t.frecs k = none ∧ t.mem = s.mem ∧
          ∃ h, mget? t.groups gk = some h ∧ h.park = none ∧ h.v = g.v) ∧
        (∃ t : State, act 2 = .next (t.trapAt gk x.pid ⟨.mchk, f.va⟩ (BitVec.ofNat 56 f.pc) (s.pcOf gk x.pid)) ∧ mget? t.frecs k = none ∧ t.mem = s.mem ∧
          ∃ h, mget? t.groups gk = some h ∧ h.park = none ∧ h.v = g.v))))

/-- Generations and shoot-downs (R338 to R343): a raise sets BUSY until every unit has taken it, and a wrap leaves no entry of the space in any TLB or walk cache,
when it begins and when it ends; a shared space's raise goes to the children of its sharing list, position i's being 8i + 1 to 8i + 8, and is over when every
package is accounted for; a receiving package forwards it and answers its parent with its count and the children it names silent; those not accounted for are
fenced off. Peer packages (R342, R343, R391): an access that arrives is refused with a record of kind 6 and the cause of its rule, or performed at its place in
this package, and answered either way; an answer completes the initiator's access, names a cause that it traps with, or fails to come for 2,000,000 cycles. -/
def Obligations.GenerationsAndPeers : Prop :=
  ((∀ (s : State) (p a : Nat),
    let r := s.asidRec p a
    let clean := fun (t : State) => (∀ u ∈ t.tlbs, ∀ e ∈ u.2, ¬(e.part = p ∧ e.asid = a)) ∧ ∀ u ∈ t.walks, ∀ e ∈ u.2, ¬(e.part = p ∧ e.asid = a)
    let wrapped := fun (g : W16) => if g = 0 then s.dropTlbs p a else s
    let unheard := fun (x : Shoot) => x.children.filter (fun c => (mget? x.acks c).isNone)
    let answer := fun (x : Shoot) => if x.depth = 0 then [] else [PkgMsg.ack p a x.count (x.silent ++ unheard x)]
    (r.busy = true → exec (.genRaise p a) s = .next s) ∧
    (r.busy = false → ∃ t, exec (.genRaise p a) s = .next t ∧ t.mem = s.mem ∧ (t.asidRec p a).busy = true ∧ (t.asidRec p a).gen = r.gen ∧
      (t.asidRec p a).next = some (r.gen + 1) ∧ (r.shared = false → (t.asidRec p a).shoot = none ∧ t.outbox = s.outbox) ∧
      (r.shared = true → ∃ x, (t.asidRec p a).shoot = some x ∧ x.depth = 0 ∧ x.acks = [] ∧ x.here = false ∧ x.since = s.mboelCycle ∧
        x.children = childrenOf 0 r.nshare ∧ t.outbox = s.outbox ++ x.children.map (fun c => .shoot p a c 1)) ∧
      (r.gen ≠ 0xFFFF → t.tlbs = s.tlbs ∧ t.walks = s.walks) ∧ (r.gen = 0xFFFF → clean t)) ∧
    (r.next = none → exec (.genRaiseDone p a) s = .next s) ∧ clean (s.dropTlbs p a) ∧
    (∀ g, r.next = some g → r.shoot = none → exec (.genRaiseDone p a) s = .next ((wrapped g).setAsidRec p a { r with gen := g, next := none, busy := false })) ∧
    (∀ g x, r.next = some g → r.shoot = some x → (x.children ≠ [] ∨ (x.depth = 0 ∧ 0 < r.nshare)) → x.acks = [] →
      exec (.genRaiseDone p a) s = .next ((wrapped g).setAsidRec p a { r with gen := g, next := none, shoot := some { x with here := true } })) ∧
    (∀ g x, r.next = some g → r.shoot = some x → x.children = [] → x.acks = [] → x.depth ≠ 0 →
      exec (.genRaiseDone p a) s =
        .next (((wrapped g).setAsidRec p a { r with gen := g, next := none, shoot := none, busy := false }).send [.ack p a 1 x.silent])) ∧
    (∀ i n c, c ∈ childrenOf i n ↔ 8 * i + 1 ≤ c ∧ c ≤ 8 * i + 8 ∧ c ≤ n) ∧
    (∀ n cs, (r.busy = true ∨ n = 0 ∨ 5 < n) → exec (.shootdownReceive p a n cs) s = .next s) ∧
    (∀ n cs, r.busy = false → 1 ≤ n → n ≤ 5 → ∃ t x, exec (.shootdownReceive p a n cs) s = .next t ∧ (t.asidRec p a).busy = true ∧ (t.asidRec p a).shoot = some x ∧
      (t.asidRec p a).next = some (r.gen + 1) ∧ x.depth = n ∧ x.since = s.mboelCycle ∧ x.children = (if n = 5 then [] else cs.take 8) ∧
      t.outbox = s.outbox ++ x.children.map (fun c => .shoot p a c (n + 1))) ∧
    (∀ c n l x, r.shoot = some x → c ∈ x.children → mget? x.acks c = none → r.next = none → x.here = true →
      let y := { x with acks := mset x.acks c n, silent := x.silent ++ l }
      let done := x.children.length ≤ y.acks.length ∧ (x.depth ≠ 0 ∨ r.nshare + 1 ≤ y.count)
      exec (.shootdownAck p a c n l) s =
        .next (if done then (s.setAsidRec p a { r with shoot := none, busy := false }).send (answer y) else s.setAsidRec p a { r with shoot := some y })) ∧
    (∀ c n l x, r.shoot = some x → (c ∉ x.children ∨ (mget? x.acks c).isSome = true) → exec (.shootdownAck p a c n l) s = .next s) ∧
    (∀ x, r.shoot = some x → x.depth ≠ 0 → x.here = true →
      (s.mboelCycle - x.since < (5 - x.depth) * 8000000 → exec (.shootdownChildTimeout p a) s = .next s) ∧
      ((5 - x.depth) * 8000000 ≤ s.mboelCycle - x.since →
        exec (.shootdownChildTimeout p a) s = .next ((s.setAsidRec p a { r with shoot := none, busy := false }).send (answer x)))) ∧
    (∀ x, r.shoot = some x → x.depth = 0 → x.here = true →
      (s.mboelCycle - x.since < 50000000 → exec (.shootdownTimeout p a) s = .next s) ∧
      (50000000 ≤ s.mboelCycle - x.since →
        ∃ t, exec (.shootdownTimeout p a) s = .next t ∧ (t.asidRec p a).shoot = none ∧ (t.asidRec p a).busy = false ∧
          ((∃ c, (c ∈ x.children ∧ mget? x.acks c = none) ∨ c ∈ x.silent) → (t.asidRec p a).fenced = true) ∧
          ((∀ c ∈ x.children, (mget? x.acks c).isSome = true) → x.silent = [] → (t.asidRec p a).fenced = r.fenced ∧ t.mem = s.mem ∧ t.frecs = s.frecs)))) ∧
  (∀ (s : State) (p a k : Nat), a < 4096 → k < 65536 → (∀ i < 40960, (s.rangeOf p ((s.part p).fence.toNat + i)).isSome = true) →
    (s.fenceOff p a k).isFenced p a k = true ∧ ∃ f, mget? (s.fenceOff p a k).frecs s.nextId = some f ∧ f.kind = 12 ∧ f.va = k ∧ f.asid = a ∧
      f.cause = (if (s.freeFence p).isSome then 0 else 1))) ∧
  ((∀ (s : State) (r : PeerReq),
    let no := fun (s' : State) (asid cause va : Nat) => exec (.peerInbound r) s = .next (s'.peerRefuse r asid cause va)
    let up := (s.part r.part).st ≠ .free ∧ (s.part r.part).st ≠ .stopped
    (((s.part r.part).st = .free ∨ (s.part r.part).st = .stopped) → no s 0 5 0) ∧ (up → s.aperture r = none → no s 0 2 0) ∧
    (∀ a page, up → s.aperture r = some (a, page) →
      let va := page + r.ofs % 65536
      let at' := s.place (collectiveUnit (s.firstDie r.part)) r.part a false (peerKind r.what) va
      (s.isFenced r.part a r.pkg = true → no s a 3 va) ∧
      (∀ k s1, s.isFenced r.part a r.pkg = false → at' = (.fault k, s1) → no s1 a 1 va) ∧
      (∀ s1, s.isFenced r.part a r.pkg = false → at' = (.prot, s1) → no s1 a 2 va) ∧
      (∀ loc h d s1, s.isFenced r.part a r.pkg = false → at' = (.at loc h d, s1) →
        ((peerRing r.what = true → h ≠ .ms → no s1 a 2 va) ∧ (65536 < r.ofs % 65536 + peerBytes r → no s1 a 2 va) ∧
          ((peerRing r.what = false ∨ h = .ms) → r.ofs % 65536 + peerBytes r ≤ 65536 →
            (∀ n, r.what = .load → s1.poisoned loc r.len = some n → no s1 a 4 va) ∧
            (∀ bs, r.what = .store bs → (h = .cacheable → s1.mayWrite (stackOf loc / 4) loc bs.length = true) →
              ∃ t, exec (.peerInbound r) s = .next t ∧ t.outbox = s.outbox ++ [.reply r.pkg 0 0] ∧ (∀ i < bs.length, t.byte (loc + i) = bs.getD i 0) ∧
                (∀ b, (b < loc ∨ loc + bs.length ≤ b) → t.byte b = s.byte b) ∧ t.frecs = s.frecs ∧ t.groups = s.groups) ∧
            (r.what = .load → s1.poisoned loc r.len = none → (h = .cacheable → s1.mayRead (stackOf loc / 4) loc r.len = true) →
              ∃ t, exec (.peerInbound r) s = .next t ∧ t.outbox = s.outbox ++ [.reply r.pkg 0 (s.word loc r.len)] ∧ t.mem = s.mem ∧ t.frecs = s.frecs) ∧
            (∀ bs, r.what = .store bs → h = .cacheable → s1.mayWrite (stackOf loc / 4) loc bs.length = false → exec (.peerInbound r) s = .next s1)))))) ∧
  (∀ (s : State) (r : PeerReq) (a n va : Nat), (s.peerRefuse r a n va).outbox = s.outbox ++ [.reply r.pkg n 0] ∧
    ∃ f, mget? (s.peerRefuse r a n va).frecs s.nextId = some f ∧ f.kind = 6 ∧ f.cause = n ∧ f.va = va ∧ f.asid = a ∧ f.part = r.part) ∧
  (∀ (s : State) (id : Nat) (o : PeerOut) (x y : W64), mget? s.peers id = some o →
    let iid := o.acc.iid
    let v := o.acc.replied (x.toNat + y.toNat * 2 ^ 64)
    let owed := fun (t : Trap) => ({ s with peers := mset s.peers id { o with fail := some t } } : State)
    let late := 2000000 ≤ s.peerAge o
    (o.job = none → o.fail = none → (∀ n, n ≠ 0 → exec (.peerReply id n x y) s = .next (owed ⟨.remoteFault, n % 256 + o.pkg * 65536⟩)) ∧
      (late → exec (.remoteTimeout id) s = .next (owed ⟨.remoteTimeout, o.pkg * 65536⟩))) ∧
    (¬late → exec (.remoteTimeout id) s = .next s) ∧
    (∀ t, o.fail = some t → (∀ q ∈ s.peers, q.1 ≠ id → q.2.fail = none) → s.peerPath o = true → s.peerLater o = false → s.trapHeld o.gk o.pid = false →
      s.isStopped o.gk = false →
      s.peerCheck = (s.dropPeers iid o.gk).trapAt o.gk o.pid t (s.fpcOf o.gk o.pid) (s.pcOf o.gk o.pid)) ∧
    (∀ g p l, o.job = none → o.fail = none → mget? s.groups o.gk = some g → g.dead = false → mget? g.paths o.pid = some p → p.st = .blocked (.peer iid) →
      mget? s.loads iid = some l →
      let l' := l.take o.acc.lane o.acc.word v none
      let owes := ({ s with peers := merase s.peers id } : State).owesPeer o.gk o.pid
      (owes = true → (l'.left ≠ 0 ∨ l'.upper ≠ 0) →
        ∃ t, exec (.peerReply id 0 x y) s = .next t ∧ t.groups = s.groups ∧ mget? t.peers id = none ∧ mget? t.loads iid = some l') ∧
      (owes = false →
        ∃ u h z, exec (.peerReply id 0 x y) s = exec (.loadReturn iid) u ∧ mget? u.peers id = none ∧ u.mem = s.mem ∧ mget? u.loads iid = some l' ∧
          mget? u.groups o.gk = some h ∧ mget? h.paths o.pid = some z ∧ (p.hold = false → z.st = .ready) ∧ z.stamp = p.stamp ∧ h.v = g.v)) ∧
    (∀ j k, o.job = some j → mget? s.jobs j = some k →
      (∀ n, n ≠ 0 → ∃ t, exec (.peerReply id n x y) s = .next t ∧ mget? t.jobs j = some { k with st := .failed, cause := 4, frec := none, got := [] } ∧
        t.groups = s.groups) ∧
      (late → o.fail = none → ∃ t, exec (.remoteTimeout id) s = .next t ∧ mget? t.jobs j = some { k with st := .failed, cause := 4, frec := none, got := [] } ∧
        t.groups = s.groups))))

/-- Migration (R348, R349): MOVE is refused with the status of its rule, throttled, or under way; its copy goes on as the MIGRATE budget pays (R453), and
when it is over the destination holds the page's bytes and a redirect stands in its place; RELEASE ends a redirect; a pin ends after 2^32 cycles. -/
def Obligations.Migration : Prop :=  ∀ (s : State) (p d a : Nat),
    let m := (s.pdie p d).mig
    (m.busy = true → exec (.migrateMove p d a) s = .next s ∧ exec (.migrateRelease p d) s = .next s) ∧
    (m.busy = false →
      (∀ k, s.moveTarget p a m.va.toNat m.dst.toNat = .error k → exec (.migrateMove p d a) s = .next (s.setMig p d { m with asid := a, op := 0, status := k })) ∧
      (∀ r, s.moveTarget p a m.va.toNat m.dst.toNat = .ok r →
        let stack := stackOf (s.phys r.src)
        let thr := (s.pdie p (stack / 4)).mig.thr.toNat
        (s.throttled stack thr a r.vpage = none →
          exec (.migrateMove p d a) s = .next (s.setMig p d { m with asid := a, op := 0, busy := true, copying := some r, left := r.size / 64 })) ∧
        (∀ s1, s.throttled stack thr a r.vpage = some s1 →
          exec (.migrateMove p d a) s = .next (s1.setMig p d { m with asid := a, op := 0, status := 1 })))) ∧
    (∀ r, s.moveTarget p a m.va.toNat m.dst.toNat = .ok r → r.size ∣ r.dst ∧ r.dst = bits m.dst.toNat 16 40 * 65536 ∧ stackOf r.dst ≠ stackOf (s.phys r.src) ∧
      (s.rangeOf p r.dst).isSome = true ∧ r.size < 2 ^ 30) ∧
    (∀ r i, m.copying = some r → (List.range 16).find? (fun i => (mget? s.redirects (16 * d + i)).isNone) = some i →
      let stack := stackOf (s.phys r.src)
      exec (.migrateCopyDone p d true) s = .next (s.setMig p d { m with busy := false, status := 4, copying := none, left := 0 }) ∧
      (s.unspent p 3 stack < m.left → ∃ t, exec (.migrateCopyDone p d false) s = .next t ∧ (t.pdie p d).mig = { m with left := m.left - s.unspent p 3 stack } ∧
        t.unspent p 3 stack = 0 ∧ t.mem = s.mem ∧ t.redirects = s.redirects) ∧
      (m.left ≤ s.unspent p 3 stack →
       ∃ t, exec (.migrateCopyDone p d false) s = .next t ∧ (t.pdie p d).mig = { m with busy := false, status := 0, copying := none, left := 0 } ∧
        mget? t.redirects (16 * d + i) = some r ∧ (∀ n < r.size, t.byte (r.dst + n) = s.byte (s.phys r.src + n)) ∧
        (∀ b, (b < r.dst ∨ r.dst + r.size ≤ b) → t.byte b = s.byte b) ∧
        ((∀ x ∈ s.redirects, x.2.src ≠ r.src → rangesMeet x.2.src x.2.size r.src r.size = false) →
          ∀ pa, r.src ≤ pa → pa < r.src + r.size → t.phys pa = r.dst + (pa - r.src)))) ∧
    (m.copying = none → ∀ b, exec (.migrateCopyDone p d b) s = .next s) ∧
    (m.busy = false →
      let frame := bits m.dst.toNat 16 40 * 65536
      let named := s.redirects.find? (fun r => r.1 / 16 == d && r.2.src == frame && (s.rangeOf p r.2.src).isSome)
      (named = none → exec (.migrateRelease p d) s = .next (s.setMig p d { m with op := 1, status := 3 })) ∧
      (∀ r, named = some r → ∃ t, exec (.migrateRelease p d) s = .next t ∧ mget? t.redirects r.1 = none ∧ (t.pdie p d).mig = { m with op := 1, status := 0 } ∧
        t.mem = s.mem ∧ ∀ k, k ≠ r.1 → mget? t.redirects k = mget? s.redirects k)) ∧
    (∀ st v x n, (s.saggar st).thrash.find? (fun t => t.asid == a && t.vpage == v) = some x → x.pinned = some n →
      (s.stackCycle st - n < 2 ^ 32 → exec (.pinExpire st a v) s = .next s) ∧
      (2 ^ 32 ≤ s.stackCycle st - n → ∃ t, exec (.pinExpire st a v) s = .next t ∧ (∀ y ∈ (t.saggar st).thrash, ¬(y.asid = a ∧ y.vpage = v)) ∧ t.mem = s.mem))

/-! ### Pre-emption and cluster reset (R353 to R358) -/

/-- Pre-emption (R353 to R357): GO names teams, and is ignored while a request runs; a group stops at a waiting point, a fault park or after 100,000 cycles, its
registers as they were; when every named team has stopped and settled, and the SAVE budget has paid
for the records (R453), they are saved, their cores free, and DONE is set; a team whose record cannot be
written runs on with FAIL and a record of kind 7; RESUMEA asks for the saved teams of a grid, and a restored team is on its core with its groups ready to go
on, their vector registers read back from the record (its layout there: log 7, the model's choice), and a trap frame that R352 refuses stops its group with a
record of kind 8. CRESET (R215, R333, R358): a cluster that is not there is left alone; else its teams' cores are free at once, nothing of it is saved, its open jobs fail
with cause 5, its launch is marked failed, and a channel with an end in it is broken. -/
def Obligations.Preemption : Prop :=
  ((∀ (s : State) (p d : Nat) (all : Bool),
    let r := (s.pdie p d).pre
    (r.run.isSome = true → exec (.preemptGo p d all) s = .next s) ∧
    (r.run = none →
      ∃ t, exec (.preemptGo p d all) s = .next t ∧ (t.pdie p d).pre.run = some s.nextId ∧ (t.pdie p d).pre.done = false ∧ (t.pdie p d).pre.fail = false ∧
        (t.pdie p d).pre.teams = 0 ∧ t.groups = s.groups ∧ t.mem = s.mem ∧
        ∀ c x, (s.core c).team = some x → dieOfCore c = d → (s.launch x.launch).part = p → (all = true ∨ (s.launch x.launch).desc = r.a.toNat) →
          (t.core c).team = some { x with preempt := some s.nextId, since := s.dieCycle d })) ∧
  (∀ (s : State) (gk : Nat) (g : Group), mget? s.groups gk = some g →
    let stops := fun (i : Instr) => ∃ t h, exec i s = .next t ∧ mget? t.groups gk = some h ∧ h.stopped = true ∧ h.v = g.v ∧ h.s = g.s ∧ h.a = g.a ∧ h.p = g.p ∧
      h.live = g.live ∧ t.mem = s.mem ∧ (∀ k, k ≠ gk → mget? t.groups k = mget? s.groups k) ∧
      ∀ pid x y, mget? g.paths pid = some x → mget? h.paths pid = some y → y.mask = x.mask ∧ y.fmt = x.fmt ∧ y.loops = x.loops ∧ ∀ w, y.st ≠ .waiting w
    (s.mayStop gk g = true → stops (.preemptStop gk)) ∧ (s.mayStop gk g = false → exec (.preemptStop gk) s = .next s) ∧
    (s.toStop gk g = none → exec (.preemptStopBound gk) s = .next s) ∧
    (∀ n, s.toStop gk g = some n → (s.dieCycle (dieOf gk) - n < 100000 → exec (.preemptStopBound gk) s = .next s) ∧
      (100000 ≤ s.dieCycle (dieOf gk) - n → stops (.preemptStopBound gk)))) ∧
  (∀ (s : State) (p d : Nat),
    ((s.pdie p d).pre.run = none → exec (.preemptDone p d) s = .next s) ∧
    (∀ n, (s.pdie p d).pre.run = some n →
      let owed := fun (c : Nat) (x : Team) => s.saveBeats c x - x.paid
      let paid := fun (c : Nat) => ∀ x, (s.core c).team = some x → owed c x ≤ s.unspent (s.launch x.launch).part 4 c
      ((∃ c ∈ s.toSave p d n, s.settled c = false) → exec (.preemptDone p d) s = .next s) ∧
      ((∀ c ∈ s.toSave p d n, s.settled c = true ∧ paid c) → ∃ t, exec (.preemptDone p d) s = .next t ∧ (t.pdie p d).pre.done = true ∧ (t.pdie p d).pre.run = none) ∧
      (∀ c x, s.toSave p d n = [c] → s.settled c = true → (s.core c).team = some x → dieOfCore c = d → (s.launch x.launch).part = p →
        let u := s.paySave c
        let parts := u.savedParts c (u.launch x.launch)
        let where' := u.partLocs c (u.launch x.launch) .store (u.saveBase c) (parts.map (fun y => (y.1, y.2.length)))
        (¬paid c → ∃ t, exec (.preemptDone p d) s = .next t ∧ (t.pdie p d).pre.run = some n ∧ t.groups = s.groups ∧ t.saved = s.saved ∧ t.mem = s.mem ∧
          (t.core c).team = some { x with paid := x.paid + s.unspent p 4 c }) ∧
        (∀ ls s1, paid c → where' = (.ok ls, s1) →
          ∃ t id y, exec (.preemptDone p d) s = .next t ∧ mget? t.saved id = some y ∧ y.launch = x.launch ∧ y.clid = x.clid ∧ y.idx = x.idx ∧ y.core = c ∧
            y.groups = (s.teamGroups c).map (fun g => (g.1 % 64, { g.2 with v := [] })) ∧ (t.core c).team = none ∧ (∀ g ∈ t.groups, coreOf g.1 ≠ c) ∧
            (t.pdie p d).pre.teams = (s.pdie p d).pre.teams + 1) ∧
        (∀ va s1, paid c → where' = (.error va, s1) →
          ∃ t f, exec (.preemptDone p d) s = .next t ∧ (t.pdie p d).pre.fail = true ∧ mget? t.frecs s.nextId = some f ∧ f.kind = 7 ∧ f.cause = 2 ∧ f.va = va ∧
            t.saved = s.saved)))) ∧
  (∀ (s : State) (p d : Nat) (v : W64),
    ∃ t, exec (.resumeaWrite p d v) s = .next t ∧ t = { s with saved := t.saved } ∧
      ∀ k x, mget? s.saved k = some x → mget? t.saved k = some
        (if (s.launch x.launch).part = p ∧ (s.launch x.launch).desc = v.toNat / 2 * 2 ∧ dieOfCore x.core = d then { x with resume := true, move := v.getLsbD 0 } else x)) ∧
  (∀ (s : State) (i c : Nat) (x : Saved), mget? s.saved i = some x →
    (s.restoreSpots i c = none → exec (.teamRestore i c) s = .next s) ∧
    (∀ l, s.restoreSpots i c = some l → (∃ y ∈ l, s.recordReady y.1 y.2 = false) → exec (.teamRestore i c) s = .next s) ∧
    (s.restoreSpots i c = some [(i, c)] → s.recordReady i c = true → (∀ y ∈ x.groups, y.2.park = none ∧ y.2.handler = none) → (x.groups.map (·.1)).Nodup →
      ∃ t, exec (.teamRestore i c) s = .next t ∧ mget? t.saved i = none ∧
        (t.core c).team = some { launch := x.launch, clid := x.clid, idx := x.idx, preempt := none, since := 0 } ∧
        (∀ k g, mget? x.groups k = some g → ∃ h, mget? t.groups (c * 64 + k) = some h ∧ h.stopped = false ∧ h.watchdog = 0 ∧ h.s = g.s ∧ h.a = g.a ∧
          h.p = g.p ∧ h.seq = g.seq ∧ h.key = g.key ∧ h.ctr = g.ctr ∧ h.ofs = g.ofs ∧ h.blocks = g.blocks ∧ h.paths.map (·.1) = g.paths.map (·.1)) ∧
        (∀ k g ls s1, x.groups = [(k, g)] → g.dead = false → s.recordLocs c (s.launch x.launch) x = (.ok ls, s1) →
          let at' := ls.getD (s.launch x.launch).savedBanks.length []
          (∀ r ∈ at', r.loc + r.len ≤ bankBase) → ∃ h, mget? t.groups (c * 64 + k) = some h ∧ h.v = (g.withVecs (s.readLocs at')).v))) ∧
  (∀ (g : Group) (i r : Nat), g.width ≤ 64 → i < g.width → r < 8 * g.blocks → (g.withVecs g.vecImage).vec i r = g.vec i r) ∧
  (∀ (s : State) (gk w : Nat) (g : Group) (h : Handler), mget? s.groups gk = some g → g.handler = some h →
    (frameLaidOut w = false → ∃ f, mget? (s.frameCheck gk w).frecs s.nextId = some f ∧ f.kind = 8 ∧ f.gk = some gk) ∧
    (frameLaidOut w = true → (rejOf g.width (bits w 1024 6144) 0 8).isSome = true → s.frameCheck gk w = s))) ∧
  ((∀ (s : State) (p d desc clid : Nat),
    let named := s.launches.find? (fun x => x.2.part == p && x.2.desc == desc
      && (s.cores.any (fun c => match c.2.team with | some t => t.launch == x.1 && t.clid == clid && dieOfCore c.1 == d | none => false)
        || s.saved.any (fun y => y.2.launch == x.1 && y.2.clid == clid && dieOfCore y.2.core == d)))
    (named = none → exec (.creset p d desc clid) s = .next s) ∧
    (∀ lid l, named = some (lid, l) → l.chans = [] →
      let cs := s.teamCores p d (fun t _ => t.launch == lid && t.clid == clid)
      ∃ t, exec (.creset p d desc clid) s = .next t ∧ (t.launch lid).failed = true ∧ (∀ y ∈ t.saved, ¬(y.2.launch = lid ∧ y.2.clid = clid)) ∧
        (∀ c ∈ cs, (t.core c).team = none ∧ (t.core c).watches = [] ∧ ∀ g ∈ t.groups, coreOf g.1 ≠ c) ∧
        (∀ c ∈ cs, ∀ k j, mget? s.jobs k = some j → j.launch = some lid → j.core = some c → j.st.over = false →
          mget? t.jobs k = some { j with st := .failed, cause := 5, frec := none, got := [] }) ∧
        (∀ c, c ∉ cs → ∀ k g, coreOf k = c → mget? s.groups k = some g → mget? t.groups k = some g) ∧ t.mem = s.mem)) ∧
  (∀ (s : State) (lid clid : Nat) (l : Launch) (r : ChanRec), mget? s.launches lid = some l →
    ((r.pcl = clid ∨ ∃ c ∈ r.cons, c.1 = clid) → (((s.breakChan lid clid r).launch lid).chanOf r.id).broken = true) ∧
    (r.pcl ≠ clid → (∀ c ∈ r.cons, c.1 ≠ clid) → s.breakChan lid clid r = s)))

/-! ### Partitions and starting (R431 to R447) -/

/-- PCMD (R433 to R437, R442, R444): commands while one runs, without power or in safe mode are discarded; each is refused with the status of its rule, or carried out; MERGE, SPLIT and STOP quiesce
first, with EN clear on every queue, and go on once no queue is BUSY, or end with status 4 once QBOUND cycles have passed; a command that is done leaves the
shapes, the owners, the zeroed vaults and the PACKAGE word of the capability list that its rule gives. -/
def Obligations.PartitionCommands : Prop :=  ∀ (s : State) (a b r : Nat),
    let idle := s.pcmdReady = true
    let A := a % 4
    let B := b % 4
    let R := r % 16
    let ends := fun (i : Instr) (n : Nat) => ∃ t, exec i s = .next t ∧ t.pkg.pcmd.status = n ∧ t.pkg.pcmd.busy = false ∧ t.mem = s.mem ∧ t.parts = s.parts
    let still := fun (t : State) (p : Nat) => (t.part p).st = .quiescing ∧ (t.part p).regions = (s.part p).regions ∧
      ∀ d ∈ (t.part p).dies, ∀ q ∈ d.2.queues, q.2.en = false
    let goes := fun (i : Instr) (ps : List Nat) => ∃ t, exec i s = .next t ∧ t.pkg.pcmd.busy = true ∧ t.mem = s.mem ∧ t.groups = s.groups ∧ ∀ p ∈ ps, still t p
    let zeroed := fun (t : State) (regions : Nat) => ∀ c ∈ coresOf regions, ∀ i < 2 ^ 21, t.byte (vaultLoc (c / 96) (c % 96) 0 + i) = 0
    let ended := fun (t : State) (n : Nat) => t.pkg.pcmd.status = n ∧ t.pkg.pcmd.busy = false
    (∀ i, i = .pcmdCreate a r ∨ i = .pcmdMerge a b ∨ i = .pcmdSplit a b r ∨ i = .pcmdStop a ∨ i = .pcmdRerange a → ¬idle → exec i s = .next s) ∧
    (idle →
      ((s.part A).st ≠ .free → ends (.pcmdCreate a r) 3) ∧ ((s.part A).st = .free → legalShape R = false → ends (.pcmdCreate a r) 2) ∧
      ((s.part A).st = .free → legalShape R = true → (∃ k < 4, bit R k = true ∧ (s.partOfRegion k).isSome = true) → ends (.pcmdCreate a r) 3) ∧
      ((s.part A).st = .free → legalShape R = true → (∀ k < 4, bit R k = true → s.partOfRegion k = none) →
        ∃ t, exec (.pcmdCreate a r) s = .next t ∧ ended t 0 ∧ (t.part A).st = .starting ∧ (t.part A).regions = R ∧ (t.part A).cap = s.packageWord ∧ zeroed t R ∧
          (∀ p, p ≠ A → t.part p = s.part p) ∧ t.groups = s.groups) ∧
      (((s.part A).st ≠ .running ∨ (s.part B).st ≠ .running ∨ A = B) → ends (.pcmdMerge a b) 3) ∧
      ((s.part A).st = .running → (s.part B).st = .running → A ≠ B → legalShape ((s.part A).regions ||| (s.part B).regions) = false → ends (.pcmdMerge a b) 2) ∧
      ((s.part A).st = .running → (s.part B).st = .running → A ≠ B → legalShape ((s.part A).regions ||| (s.part B).regions) = true → goes (.pcmdMerge a b) [A, B]) ∧
      (((s.part A).st ≠ .running ∨ (s.part B).st ≠ .free) → ends (.pcmdSplit a b r) 3) ∧
      ((s.part A).st = .running → (s.part B).st = .free →
        let ok := legalShape R = true ∧ R &&& (s.part A).regions = R ∧ legalShape ((s.part A).regions - R) = true
        let cut := ∃ x ∈ s.pkg.mir, x.1 < 16 ∧ mirV x.2 = true ∧ mirPart x.2 = A ∧ splitsRange R x.2 = true
        (¬ok → ends (.pcmdSplit a b r) 2) ∧ (ok → cut → ends (.pcmdSplit a b r) 5) ∧ (ok → ¬cut → goes (.pcmdSplit a b r) [A])) ∧
      ((s.part A).st = .free → ends (.pcmdStop a) 3) ∧ ((s.part A).st ≠ .free → goes (.pcmdStop a) [A]) ∧
      (s.rangeLegal (a % 16) (mgetD s.pkg.mir 16 0) = false → ends (.pcmdRerange a) 5) ∧
      (s.rangeLegal (a % 16) (mgetD s.pkg.mir 16 0) = true →
        ∃ t, exec (.pcmdRerange a) s = .next t ∧ ended t 0 ∧ mget? t.pkg.mir (a % 16) = some (mgetD s.pkg.mir 16 0) ∧ t.mem = s.mem ∧
          ∀ k, k ≠ a % 16 → mget? t.pkg.mir k = mget? s.pkg.mir k)) ∧
    (s.quiet = false → exec .quiesceDrained s = .next s) ∧
    (∀ p q g on, s.pkg.pcmd.busy = true → s.pkg.pcmd.first = p → s.pkg.pcmd.t = q → s.pkg.pcmd.regions = g → s.pkg.pcmd.saved = on →
      (s.quiet = true → s.pkg.pcmd.op = 4 →
        ∃ t, exec .quiesceDrained s = .next t ∧ ended t 0 ∧ (t.part p).st = .free ∧ (t.part p).regions = 0 ∧ zeroed t (s.part p).regions ∧
          (∀ l ∈ t.launches, l.2.part ≠ p) ∧ (∀ j ∈ t.jobs, j.2.part ≠ p) ∧
          (∀ i < 16, mirV (mgetD t.pkg.mir i 0) = true → mirPart (mgetD t.pkg.mir i 0) ≠ p)) ∧
      (s.quiet = true → s.pkg.pcmd.op = 2 → p ≠ q →
        ∃ t, exec .quiesceDrained s = .next t ∧ ended t 0 ∧ (t.part p).st = .running ∧ (t.part p).regions = (s.part p).regions ||| (s.part q).regions ∧
          (t.part q).st = .free ∧ (t.part q).regions = 0 ∧ zeroed t (t.part p).regions ∧ (t.part p).cap = s.packageWord ∧
          (p < 4 → ∀ i < 16, mirPart (mgetD t.pkg.mir i 0) ≠ q) ∧
          (∀ k < 4096, (t.asidRec p k).gen = ((s.asidRec p k).next.getD (s.asidRec p k).gen) + 1) ∧
          (∀ k x, mget? s.coil k = some x → mget? t.coil k = some (if x.part = q then { x with part := p } else x))) ∧
      (s.quiet = true → s.pkg.pcmd.op = 3 → p ≠ q →
        ∃ t, exec .quiesceDrained s = .next t ∧ ended t 0 ∧ (t.part p).st = .running ∧ (t.part p).regions = (s.part p).regions - g ∧ (t.part q).st = .starting ∧
          (t.part q).regions = g ∧ zeroed t (s.part p).regions) ∧
      (s.quiet = true → s.pkg.pcmd.op ≠ 4 → s.quiesceDue = true → exec .quiesceTimeout s = exec .quiesceDrained s) ∧
      (s.quiet = false → s.quiesceDue = true → s.pkg.pcmd.op = 3 →
        ∃ t, exec .quiesceTimeout s = .next t ∧ ended t 4 ∧ (t.part p).st = .running ∧ (t.part p).regions = (s.part p).regions ∧ t.mem = s.mem) ∧
      (s.quiet = false → s.quiesceDue = true → s.pkg.pcmd.op = 2 →
        ∃ t, exec .quiesceTimeout s = .next t ∧ ended t 4 ∧ (t.part p).st = .running ∧ (t.part q).st = .running ∧ t.mem = s.mem)) ∧
    ((s.pkg.pcmd.busy = false ∨ s.pkg.pcmd.op = 4 ∨ s.mboelCycle - s.pkg.pcmd.since < s.pkg.qbound.toNat) → exec .quiesceTimeout s = .next s) ∧
    ((s.part a).st = .starting → exec (.partitionBoot a) s = .next (s.setPart a { s.part a with st := .running })) ∧
    ((s.part a).st ≠ .starting → exec (.partitionBoot a) s = .next s)

/-- Starting and attestation (R443, R444, R446, R447): WARM and START complete, as COLD_START does. A cold start begins at phase 1 with vaults and banks zero
and nothing running, and the regions of the coil engines assigned (at addresses that log 99, DESIGN CHOICE, leaves free); a warm one needs its records and
and a repair map unchanged since, and keeps the bridge's training; START clears CFAIL, leaves safe mode and starts cold; a start that fails is tried again as its counts say, and a third failed
cold start leads to safe mode, which only START leaves; each phase is followed by the next within its bound, phase 3 skipped by a warm start; power failure loses all but fuses and flash; a report holds the
nonce, the measurements and the counts, signed, at ATTOUT, or for a management port (as partition 4, with a free nonce: log 108, DESIGN CHOICE) in the outbox. -/
def Obligations.Starting : Prop :=  ∀ (s : State) (p : Nat),
    let began := fun (t : State) (warm : Bool) => t.pkg.phase = 1 ∧ t.pkg.starting = true ∧ t.pkg.phaseAt = s.mboelCycle ∧ t.pkg.warm = warm ∧ t.pkg.powered = true ∧ t.groups = [] ∧ t.launches = [] ∧
      t.parts = [] ∧ t.jobs = [] ∧ t.accesses = [] ∧ (∀ x, 2 ^ 39 ≤ x → t.byte x = 0) ∧ (∀ x < 2 ^ 39, t.byte x = s.byte x)
    (s.pkg.safe = true → exec .coldStart s = .next s ∧ exec (.warm true) s = .next s ∧ exec (.warm false) s = .next s) ∧
    let coils := fun (t : State) => t.pkg.coilAt = [Config.coilRegion 0, Config.coilRegion 1]
    (s.pkg.safe = false → ∃ t, exec .coldStart s = .next t ∧ began t false ∧ t.pkg.cfail = s.pkg.cfail ∧ t.pkg.wfail = s.pkg.wfail ∧ coils t) ∧
    (∀ v, s.pkg.safe = false → s.pkg.powered = true → 
      let w := v && decide (s.pkg.repairs = s.pkg.trained)
      ∃ t, exec (.warm v) s = .next t ∧ began t w ∧ t.pkg.cfail = s.pkg.cfail ∧ t.pkg.wfail = s.pkg.wfail ∧
      (w = true → t.pkg.bridgeDown = s.pkg.bridgeDown ∧ t.pkg.lanes = s.pkg.lanes ∧ t.pkg.coilAt = s.pkg.coilAt) ∧ (w = false → coils t)) ∧
    (∀ v, s.pkg.powered = false → exec (.warm v) s = .next s) ∧
    (s.pkg.powered = true → ∃ t, exec .start s = .next t ∧ began t false ∧ t.pkg.safe = false ∧ t.pkg.cfail = 0 ∧ t.pkg.wfail = s.pkg.wfail ∧ coils t) ∧
    (s.pkg.powered = false → exec .start s = .next s) ∧
    (s.pkg.starting = false → exec .startPhaseTimeout s = .next s) ∧
    (s.pkg.starting = true → ∃ t, exec .startPhaseTimeout s = .next t ∧ t.pkg.cause = s.pkg.phase ∧
      (s.pkg.warm = true → s.pkg.wfail = 0 → began t true ∧ t.pkg.wfail = 1) ∧ (s.pkg.warm = true → s.pkg.wfail ≠ 0 → began t false) ∧
      (s.pkg.warm = false → s.pkg.cfail < 2 → began t false ∧ t.pkg.cfail = s.pkg.cfail + 1) ∧
      (s.pkg.warm = false → 2 ≤ s.pkg.cfail → t.pkg.safe = true ∧ t.pkg.starting = false ∧ t.pkg.cfail = 3)) ∧
    (s.pkg.starting = true → phaseBound s.pkg.phase < s.mboelCycle - s.pkg.phaseAt → s.startOn = s.startFailed) ∧
    (s.pkg.starting = true → s.mboelCycle - s.pkg.phaseAt ≤ phaseBound s.pkg.phase →
      s.startOn.pkg.phase = (if s.pkg.warm = true ∧ s.pkg.phase = 2 then 4 else min 7 (s.pkg.phase + 1)) ∧ (s.pkg.phase ≠ 5 → s.startOn.mem = s.mem) ∧
      (s.pkg.phase = 5 → s.pkg.warm = false → s.startOn.pkg.trained = s.pkg.repairs ∧ ∀ x < 2 ^ 39, s.startOn.byte x = 0) ∧ (s.pkg.phase = 5 → s.pkg.warm = true → s.startOn.mem = s.mem) ∧
      (s.pkg.phase = 7 → s.startOn.pkg.starting = false ∧ s.startOn.pkg.wfail = 0 ∧ s.startOn.pkg.cfail = 0) ∧ (s.pkg.phase ≠ 7 → s.startOn.pkg.starting = true) ∧
      (s.pkg.phase = 6 → s.pkg.meas.length = 4 → ∀ n < 3, listGet [] s.startOn.pkg.meas n = sha256 (listGet [] s.pkg.meas n ++ sha256 (s.pkg.fw n).image)) ∧
      (s.pkg.phase ≠ 6 → s.startOn.pkg.meas = s.pkg.meas)) ∧
    (∃ t, exec .powerFail s = .next t ∧ t.mem = [] ∧ t.pkg.powered = false ∧ t.pkg.phase = 0 ∧ t.groups = [] ∧ t.parts = [] ∧ t.pkg.firmware = s.pkg.firmware ∧
      t.pkg.repairs = s.pkg.repairs) ∧
    (let x := (s.part p).attn
     let put := fun (y : Attn) => s.setPart p { s.part p with attn := y }
     (s.pkg.powered = true → s.pkg.portAttn = none → ∃ t, exec (.attestGo 4) s = .next t ∧ t.pkg.portAttn.isSome = true ∧ t = { s with pkg := t.pkg }) ∧
     (∀ nonce, s.pkg.portAttn = some nonce → ∃ t, exec (.attestDone 4) s = .next t ∧ t.pkg.portAttn = none ∧
       t.outbox = s.outbox ++ [.report (s.signReport (s.reportBody nonce 0 s.packageWord))]) ∧
     (p ≠ 4 → (s.part p).st = .free → exec (.attestGo p) s = .next s) ∧ (p ≠ 4 → x.run.isSome = true → exec (.attestGo p) s = .next s) ∧
     (p ≠ 4 → (s.part p).st ≠ .free → x.run = none → exec (.attestGo p) s = .next (put { x with run := some (x.nonce, x.out) })) ∧
     (p ≠ 4 → x.run = none → exec (.attestDone p) s = .next s) ∧
     (∀ nonce out, p ≠ 4 → x.run = some (nonce, out) → nonce.length = 4 → s.pkg.meas.length = 4 → (∀ m ∈ s.pkg.meas, m.length = 32) → (s.rangeOf p out.toNat).isSome = true →
       let body := s.reportBody nonce (s.partitionWord p) (s.part p).cap
       let sig := ecdsaSign s.pkg.attestKey body
       ∃ t, exec (.attestDone p) s = .next t ∧ (t.part p).attn = { x with run := none } ∧ body.length = 192 ∧
         (∀ i < 256, t.byte (s.phys out.toNat + i) = (body ++ natBe 32 sig.1 ++ natBe 32 sig.2).getD i 0) ∧
         (∀ y, (y < s.phys out.toNat ∨ s.phys out.toNat + 256 ≤ y) → t.byte y = s.byte y) ∧
         (∀ k < 4, leNat ((body.drop (8 * k)).take 8) = (listGet 0 nonce k).toNat) ∧ (∀ k < 4, (body.drop (32 + 32 * k)).take 32 = listGet [] s.pkg.meas k)))

/-! ### Faults, repair and the outside world (R27, R448 to R466) -/

/-- Repairs (R454 to R460): a command while one runs is discarded; a target that is not there, or no spare, refuses it with its status, and a core without a
spare is marked for the next cold start; an accepted one is BUSY; its blocks move one at a time as the budget pays; when it is over the repair map records
it and a spare is used, and a failed one uses none; a retired core's position has the spare's site and island, and its partition is told of the vault that is
lost (log 96, DESIGN CHOICE). Errors and patrol (R448 to R451, R456): a corrected error changes only counts and the log; an
uncorrectable one poisons its line, or raises MCHK in the path that reads its registers; the eighth failure of a lane group spares it, and with 48 live
groups or fewer the bridge is down; a scrub beat visits the next block; a logged error stands at the ring's tail. Budgets (R452, R453): a unit
spends no more than the grant in a period of 65,536 of its cycles, and USED is of the last completed period. -/
def Obligations.RepairsAndErrors : Prop :=
  (∀ (s : State) (i : Instr) (op t a b c : Nat),
    (i = .retireCore a b ∧ op = 1 ∧ t = a % 2 * 128 + b % 128) ∨ (i = .hbmRow a ∧ op = 2 ∧ t = a % 2 ^ 40) ∨ (i = .hbmChannel a ∧ op = 3 ∧ t = a % 2 ^ 40) ∨
      (i = .sramRow a b c ∧ op = 4 ∧ t = a % 2 + b % 256 * 2 + c % 65536 * 2 ^ 16) ∨ (i = .lane a b ∧ op = 5 ∧ t = a % 2 + b % 128 * 2) ∨
      (i = .port a ∧ op = 6 ∧ t = a % 2 ^ 40) ∨ (i = .ccore a ∧ op = 7 ∧ t = a % 2 ^ 40) →
    let r := s.pkg.rcmd
    let ended := fun (u : State) (n : Nat) => u.pkg.rcmd.busy = false ∧ u.pkg.rcmd.status = n
    let kept := fun (u : State) => u.pkg.coreSpares = s.pkg.coreSpares ∧ u.pkg.rowSpares = s.pkg.rowSpares ∧ u.pkg.chanSpares = s.pkg.chanSpares ∧
      u.pkg.sramSpares = s.pkg.sramSpares ∧ u.pkg.laneSpares = s.pkg.laneSpares ∧ u.pkg.repairs = s.pkg.repairs ∧ u.mem = s.mem
    let plus := fun (m : Map Nat) (k : Nat) => mset m k (mgetD m k 0 + 1)
    (r.busy = true ∨ s.pkg.serves = false → exec i s = .next s) ∧
    (r.busy = false → s.pkg.serves = true →
      (s.targetOk op t = false → ∃ u, exec i s = .next u ∧ ended u 2 ∧ kept u ∧ u.pkg.retire = s.pkg.retire) ∧
      (s.targetOk op t = true → s.spareLeft op t = false → ∃ u, exec i s = .next u ∧ ended u 3 ∧ kept u ∧
        u.pkg.retire = (if op = 1 then retireCoreOf t :: s.pkg.retire else s.pkg.retire)) ∧
      (s.targetOk op t = true → s.spareLeft op t = true → ∃ u, exec i s = .next u ∧ u.pkg.rcmd.busy = true ∧ u.pkg.rcmd.op = op ∧ u.pkg.rcmd.target = t ∧
        u.pkg.rcmd.left = (if 2 ≤ op ∧ op ≤ 4 then Config.repairBlocks op t else 0) ∧ kept u ∧ u.groups = s.groups)) ∧
    ((r.busy = false ∨ r.left = 0) → exec .repairBlockMove s = .next s) ∧
    (r.busy = true → 0 < r.left →
      ((∀ p, (s.repairUnit r.op r.target).1 = some p → (s.spend p 5 (s.repairUnit r.op r.target).2).isSome = true) →
        ∃ u, exec .repairBlockMove s = .next u ∧ u.pkg.rcmd.left = r.left - 1 ∧ u.pkg.rcmd.busy = true ∧ kept u) ∧
      (∀ p, (s.repairUnit r.op r.target).1 = some p → s.spend p 5 (s.repairUnit r.op r.target).2 = none → exec .repairBlockMove s = .next s)) ∧
    (∀ v, r.busy = false → exec (.repairDone v) s = .next s) ∧
    (r.busy = true → ∃ u, exec (.repairDone false) s = .next u ∧ ended u 4 ∧ kept u) ∧
    (r.busy = true → 0 < r.left → exec (.repairDone true) s = .next s) ∧
    (r.busy = true → r.left = 0 → r.op = 1 → s.retireReady r.target = false → exec (.repairDone true) s = .next s) ∧
    (r.busy = true → r.left = 0 →
      (2 ≤ r.op → r.op ≤ 6 → ∃ u, exec (.repairDone true) s = .next u ∧ ended u 0 ∧
        (r.op ≠ 5 → u.pkg.repairs = s.pkg.repairs ++ [(r.op, r.target)] ∧ u.mem = s.mem ∧ u.groups = s.groups) ∧
        (r.op = 2 → u.pkg.rowSpares = plus s.pkg.rowSpares (Config.hbmChannel r.target)) ∧ (r.op = 3 → u.pkg.chanSpares = plus s.pkg.chanSpares (stackOf r.target)) ∧
        (r.op = 4 → u.pkg.sramSpares = plus s.pkg.sramSpares (r.target % 512)) ∧ (r.op = 6 → u.pkg.portsDown = r.target :: s.pkg.portsDown) ∧
        (r.op = 5 → s.pkg.laneSpares.length = 2 → 0 < listGet 0 s.pkg.laneSpares (r.target % 2) →
          listGet 0 u.pkg.laneSpares (r.target % 2) = listGet 0 s.pkg.laneSpares (r.target % 2) - 1 ∧ u.pkg.lanes = s.pkg.lanes ∧
            u.pkg.repairs = s.pkg.repairs ++ [(5, r.target % 2 + r.target / 2 * 2)])) ∧
      (r.op = 1 → s.retireReady r.target = true → (s.core (retireCoreOf r.target)).team = none → s.pkg.coreSpares.length = 4 → r.target < 256 → r.target % 128 < 96 →
        ∃ u, exec (.repairDone true) s = .next u ∧ ended u 0 ∧ u.pkg.repairs = s.pkg.repairs ++ [(1, r.target)] ∧
          mget? u.pkg.sites (retireCoreOf r.target) = some (s.nextSpare (retireCoreOf r.target)) ∧ mget? u.pkg.islands (retireCoreOf r.target) = none ∧
          (∀ p, s.partOfCore (retireCoreOf r.target) = some p → retireCoreOf r.target ∈ (u.part p).vaultsLost) ∧
          listGet 0 u.pkg.coreSpares (regionOfCore (retireCoreOf r.target)) = listGet 0 s.pkg.coreSpares (regionOfCore (retireCoreOf r.target)) - 1 ∧
          (∀ x, (x < vaultLoc (r.target / 128) (r.target % 128) 0 ∨ vaultLoc (r.target / 128) (r.target % 128) 0 + 2 ^ 21 ≤ x) → u.byte x = s.byte x)) ∧
      (r.op = 7 → s.partOfRegion (r.target / 4) = none → ∃ u, exec (.repairDone true) s = .next u ∧ ended u 0 ∧ u.pkg.ccoresDown = r.target :: s.pkg.ccoresDown))) ∧
  (∀ (s : State),
    let count := fun (u : State) (k : Nat) => mgetD u.pkg.errCounts k 0
    (∀ loc, ∃ u, exec (.eccCorrected (.line loc)) s = .next u ∧ u.mem = s.mem ∧ u.poison = s.poison ∧ u.groups = s.groups ∧
      count u (unitOfLoc loc) = min (2 ^ 32 - 1) (count s (unitOfLoc loc) + 1) ∧ loc / 4096 ∈ u.pkg.errBlocks) ∧
    (∀ gk pid, ∃ u, exec (.eccCorrected (.register gk pid)) s = .next u ∧ u = { s with pkg := u.pkg } ∧
      count u (unitOf (dieOf gk) 0 (coreOf gk % 96)) = min (2 ^ 32 - 1) (count s (unitOf (dieOf gk) 0 (coreOf gk % 96)) + 1)) ∧
    (∀ loc, ∃ u, exec (.eccUncorrectable (.line loc)) s = .next u ∧ u.mem = s.mem ∧ u.groups = s.groups ∧ (∀ n, n ∈ u.poison ↔ n ∈ s.poison ∨ n = loc / 32) ∧
      (loc / 4096 ∉ s.pkg.errBlocks → ∃ r, mget? u.pkg.errlog s.pkg.errTail.toNat = some r ∧ r.pa = loc / 4096 * 4096 ∧ r.kind = 1 ∧ r.unit = unitOfLoc loc)) ∧
    (∀ gk pid, (s.reads gk pid = false → exec (.eccUncorrectable (.register gk pid)) s = .next s) ∧
      (s.reads gk pid = true → ∃ u : State, exec (.eccUncorrectable (.register gk pid)) s = .next (u.trapAt gk pid ⟨.mchk, 0⟩ (s.pcOf gk pid) (s.pcOf gk pid)) ∧
        u = { s with pkg := u.pkg } ∧ u.pkg.errTail = s.pkg.errTail + 1)) ∧
    (∀ d g,
      let k := d % 2 + g % 64 * 2
      let n := mgetD s.pkg.laneFails k 0 + 1
      (n < 8 → exec (.flitCrcError d g) s = .next (s.setPkg (fun x => { x with laneFails := mset x.laneFails k n }))) ∧
      (8 ≤ n → s.pkg.laneSpares.length = 2 → s.pkg.lanes.length = 2 → ∃ u, exec (.flitCrcError d g) s = .next u ∧ mget? u.pkg.laneFails k = none ∧
        (0 < listGet 0 s.pkg.laneSpares (d % 2) → listGet 0 u.pkg.laneSpares (d % 2) = listGet 0 s.pkg.laneSpares (d % 2) - 1 ∧ u.pkg.lanes = s.pkg.lanes) ∧
        (listGet 0 s.pkg.laneSpares (d % 2) = 0 → listGet 0 u.pkg.lanes (d % 2) = listGet 0 s.pkg.lanes (d % 2) - 1) ∧
        (listGet 0 u.pkg.lanes (d % 2) ≤ 48 → u.pkg.bridgeDown = true) ∧
        (u.pkg.bridgeDown = true → s.pkg.bridgeDown = false → ∀ p x, mget? s.parts p = some x → x.regions = 15 → x.st ≠ .free → (u.part p).st = .stopped))) ∧
    (∀ n,
      let k := n % 10
      let pos := mgetD s.pkg.patrol k 0
      let free := ∀ p, s.patrolPart k pos = some p → (s.spend p 0 (300 + k)).isSome = true
      (free → ∃ u, exec (.scrubBeat n) s = .next u ∧ mgetD u.pkg.patrol k 0 = (pos + 64) % patrolSize k ∧ u = { s with pkg := u.pkg }) ∧
      (¬free → exec (.scrubBeat n) s = .next s)) ∧
    (∀ pa kind unit,
      let u := s.logError pa kind unit
      u.pkg.errTail = s.pkg.errTail + 1 ∧ u.pkg.errHead = (if s.pkg.errTail + 1 = s.pkg.errHead then s.pkg.errHead + 1 else s.pkg.errHead) ∧
        ∃ r, mget? u.pkg.errlog s.pkg.errTail.toNat = some r ∧ r.pa = pa ∧ r.kind = kind ∧ r.unit = unit) ∧
    (∀ p a, ∃ u, exec (.budgetPeriod p a) s = .next u ∧ u = { s with pkg := u.pkg } ∧ (u.budget p a).grant = (s.budget p a).grant ∧ u.used p a = s.used p a ∧
      ∀ n, u.spentBy p a n = s.spentBy p a n ∧ ∀ x, mget? (u.budget p a).spent n = some x → x.period = s.budgetCycle a n / 65536) ∧
    (∀ p a n x, mget? (s.budget p a).spent n = some x →
      let now := s.budgetCycle a n / 65536
      (x.period = now → s.spentBy p a n = x) ∧ (x.period + 1 = now → s.spentBy p a n = { period := now, n := 0, last := x.n }) ∧
        (x.period + 1 < now → s.spentBy p a n = { period := now, n := 0, last := 0 })) ∧
    (∀ p a n, ((s.spend p a n).isSome = true ↔ (s.spentBy p a n).n < (if a = 4 then max 32768 (s.budget p a).grant else (s.budget p a).grant)) ∧
      ∀ t, s.spend p a n = some t → t = { s with pkg := t.pkg } ∧ (t.spentBy p a n).n = (s.spentBy p a n).n + 1))

/-- Firmware, shadow regions, heartbeats and power (R27, R341, R462 to R465): an image whose signature is bad changes only the inactive slot, a good one
switches slots and extends its measurement; an acknowledged shadow write leaves its queue, and a mirrored one is acknowledged; a heartbeat goes to the
neighbours every 10,000,000 cycles (which they are: log 107, DESIGN CHOICE); the fifth missed one declares a package failed and fences it from every shared
space; a failed package's copy is mapped behind an aperture; a change of frequency changes only its island. Control spaces (R5, R431, R440, R466): a write that is not aligned to 8 bytes, of package space without power or, but for the error log, in safe mode, or of a FREE partition's space, is discarded; a command written
with GO is the command; reserved and read-only bits keep what they hold; the list of capabilities begins with the PACKAGE record; a control core's next operation, where it reads or writes its control space, does so once its earlier
in-die accesses are performed, a read without waiting for stores (log 106, DESIGN CHOICE). -/
def Obligations.AvailabilityAndRegisters : Prop :=
  (∀ (s : State),
    let only := fun (i : Instr) (f : Package → Package) => exec i s = .next (s.setPkg f)
    (∀ k im v, (3 ≤ k ∨ s.pkg.powered = false) → exec (.firmwareUpdate k im v) s = .next s) ∧
    (∀ k im, k < 3 → s.pkg.powered = true →
      let f := s.pkg.fw k
      (∃ u, exec (.firmwareUpdate k im false) s = .next u ∧ u = { s with pkg := u.pkg } ∧ (u.pkg.fw k).image = f.image ∧ u.pkg.meas = s.pkg.meas ∧
        (if f.active then (u.pkg.fw k).a else (u.pkg.fw k).b) = im) ∧
      (∃ u, exec (.firmwareUpdate k im true) s = .next u ∧ u = { s with pkg := u.pkg } ∧ (u.pkg.fw k).image = im ∧ (u.pkg.fw k).active = !f.active ∧
        (if f.active then (u.pkg.fw k).b else (u.pkg.fw k).a) = f.image ∧ (k = 2 → u.pkg.microcode = microUnits) ∧
        (s.pkg.phase = 7 → s.pkg.starting = false → s.pkg.safe = false →
          u.pkg.meas = listSet s.pkg.meas k (sha256 (listGet [] s.pkg.meas k ++ sha256 im))))) ∧
    (∀ n, ∃ u, exec (.microcodeLoad n) s = .next u ∧ u = { s with pkg := u.pkg } ∧ n ∉ u.pkg.microcode ∧ ∀ k, k ≠ n → (k ∈ u.pkg.microcode ↔ k ∈ s.pkg.microcode)) ∧
    (∀ p i x, mget? s.pkg.shadows (4 * p + i) = some x → only (.shadowAck p i) (fun k => { k with shadows := mset k.shadows (4 * p + i) { x with queue := x.queue.drop 1 } })) ∧
    (∀ p i, mget? s.pkg.shadows (4 * p + i) = none → only (.shadowAck p i) (fun k => k)) ∧
    (∀ g p i pa data, p < 4 → i < 4 → g ∉ s.pkg.failed → pa + data.length ≤ 2 ^ 39 →
      ∃ u, exec (.shadowMirrorReceive g p i pa data) s = .next u ∧ u.outbox = s.outbox ++ [.mirrored g p i] ∧ (∀ k < data.length, u.byte (s.phys pa + k) = data.getD k 0) ∧
        ∀ x, (x < s.phys pa ∨ s.phys pa + data.length ≤ x) → u.byte x = s.byte x) ∧
    (∀ g p i pa data, g ∈ s.pkg.failed → exec (.shadowMirrorReceive g p i pa data) s = .next s) ∧
    (s.pkg.powered = true → 10000000 ≤ s.mboelCycle - s.pkg.beatAt → ∃ u, exec .heartbeat s = .next u ∧ u.pkg.beats = s.pkg.beats + 1 ∧ u.pkg.beatAt = s.mboelCycle ∧
      u.outbox = s.outbox ++ s.neighbours.map (fun n => .beat n) ∧ u = { s with pkg := u.pkg, outbox := u.outbox }) ∧
    (s.pkg.powered = false ∨ s.mboelCycle - s.pkg.beatAt < 10000000 → exec .heartbeat s = .next s) ∧
    (∀ g, only (.heartbeatReceive g) (fun k => { k with missed := merase k.missed g, heard := mset k.heard g s.mboelCycle })) ∧
    (∀ g,
      let n := mgetD s.pkg.missed g 0 + 1
      let due := 10000000 ≤ s.mboelCycle - mgetD s.pkg.heard g 0
      (g ∈ s.pkg.failed ∨ ¬due → exec (.heartbeatMiss g) s = .next s) ∧
      (g ∉ s.pkg.failed → due → n < 5 → only (.heartbeatMiss g) (fun k => { k with missed := mset k.missed g n, heard := mset k.heard g s.mboelCycle })) ∧
      (g ∉ s.pkg.failed → due → 5 ≤ n → ∃ u, exec (.heartbeatMiss g) s = .next u ∧ g ∈ u.pkg.failed ∧ u.groups = s.groups ∧
        ∀ x ∈ s.sharedSpaces, (u.asidRec x.1 x.2).fenced = true)) ∧
    (∀ g p i f a v, (g ∉ s.pkg.failed ∨ 4 ≤ i ∨ (s.part p).naper ≤ f) → exec (.buddyMap g p i f a v) s = .next s) ∧
    (∀ g p i f a v, g ∈ s.pkg.failed → i < 4 → f < (s.part p).naper → (s.rangeOf p ((s.part p).aper.toNat + 8 * f)).isSome = true →
      ∃ u, exec (.buddyMap g p i f a v) s = .next u ∧
        let w := u.physWord ((u.part p).aper.toNat + 8 * f) 8
        bit w 63 = true ∧ bit w 62 = true ∧ bits w 0 12 = a % 4096 ∧ bits w 16 40 = v % 2 ^ 40) ∧
    (∀ n f, n < 224 → (s.island n).on = true → only (.powerThrottle n f) (fun k => { k with islands := mset k.islands n { freq := f, volt := Config.islandVolt n f, on := true } })) ∧
    (∀ n f, (224 ≤ n ∨ (s.island n).on = false) → exec (.powerThrottle n f) s = .next s)) ∧
  (∀ (s : State) (a f : Nat) (v : W64) (p d k : Nat),
    let wr := fun (part : Option Nat) (a : Nat) => exec (.registerWrite { part := part, addr := a, val := v, first := f }) s
    let n := v.toNat
    (∀ q, a % 8 ≠ 0 → wr q a = .next s) ∧ (s.pkg.powered = false → wr none a = .next s) ∧ (s.pkg.safe = true → a ≠ 0x62000 → wr none a = .next s) ∧ ((s.part p).st = .free → wr (some p) a = .next s) ∧
    (s.pkg.powered = true → s.pkg.safe = false →
      (wr none 0x10 = exec (.traceOwner v) s) ∧ (s.pkg.pcmd.busy = true → wr none 0x1000 = .next s) ∧ (s.pkg.rcmd.busy = true → wr none 0x2000 = .next s) ∧
      (wr none 0x1008 = .next (s.setPkg (fun k => { k with qbound := v.setWidth 32 }))) ∧
      (p < 4 → d < 2 → ∃ t, wr none (0x40000 + 16 * p + 8 * d) = .next t ∧ t.lsl p d = bits n 0 48 &&& slicesOf (s.part p).regions d ∧
        t.readPackage (0x40000 + 16 * p + 8 * d) = t.lsl p d) ∧
      (p < 4 → k < 6 → ∃ t, wr none (0x50000 + 64 * p + 8 * k) = .next t ∧ (t.budget p k).grant = min 65536 (bits n 0 17) ∧ t.used p k = s.used p k) ∧
      (∀ i < 16, wr none (0x30000 + 16 * i) = .next s) ∧
      (s.pkg.rcmd.busy = false → v.getLsbD 63 = true → 2 ≤ bits n 0 4 → bits n 0 4 ≤ 3 → wr none 0x2000 = exec (if bits n 0 4 = 2 then .hbmRow (bits n 8 40) else .hbmChannel (bits n 8 40)) s)) ∧
    (p < 4 → (s.part p).st ≠ .free →
      (wr (some p) decaywAddr = .next (s.writeDecayw p v)) ∧
      (∀ x, x < 4096 →
        let r := s.asidRec p x
        let at' := astabBase + 64 * x
        (r.busy = false → wr (some p) at' = .next (s.setAsidRec p x { r with root := BitVec.ofNat 64 (alignDown n 11) })) ∧
        (r.busy = true → wr (some p) at' = .next s) ∧
        (v.setWidth 16 = r.gen + 1 → wr (some p) (at' + 24) = exec (.genRaise p x) s) ∧ (v.setWidth 16 ≠ r.gen + 1 → wr (some p) (at' + 24) = .next s) ∧
        (r.en = true → ∃ t, wr (some p) (at' + 32) = .next t ∧ (t.asidRec p x).gstep = r.gstep) ∧
        (r.en = false → ∃ t, wr (some p) (at' + 32) = .next t ∧ (t.asidRec p x).gstep.toNat = bits n 0 24)) ∧
      (s.partOnDie p d = true → d < 2 → k < 64 →
        let q := s.queue p d k
        let at' := queueBase d + 16 * k
        (wr (some p) at' = .next (s.setQueue p d k (if q.busy then q else { q with base := BitVec.ofNat 64 (alignDown n 12) }))) ∧
        (∃ t, wr (some p) (at' + 8) = .next t ∧ (t.queue p d k).head = q.head ∧ (t.queue p d k).en = v.getLsbD 36 ∧
          (t.queue p d k).tail.toNat = (if q.dev then q.tail.toNat else bits n 16 16) ∧ (t.queue p d k).base = q.base)) ∧
      (s.partOnDie p d = true → d < 2 →
        (wr (some p) (pageBase d + 0x28) = exec (.resumeaWrite p d v) s) ∧ (wr (some p) (pageBase d + 0x30) = exec (.creset p d (bits n 0 56) (bits n 56 8)) s) ∧
        (bits n 16 2 = 0 → wr (some p) (pageBase d + 0x10) = exec (.resolveReplay p d (bits n 0 16)) s) ∧
        (bits n 16 2 = 3 → wr (some p) (pageBase d + 0x10) = .next s)) ∧
      (let w := s.readPartition p 0
       bits w 0 16 = 1 ∧ bits w 24 8 = 3 ∧ s.readPartition p 8 = (s.part p).cap))) ∧
  (∀ (s : State) (c p a : Nat) (x : Ccore) (v : W64) (l : List CcOp), mget? s.ccores c = some x → s.partOfRegion (c / 4) = some p → p < 4 →
    let inDie := fun (r : Access) => r.gk = ccoreKey c ∧ r.crossing = false
    (a % 8 = 0 → x.ops = .control a none :: l → (∀ y ∈ s.accesses, inDie y.2 → y.2.op.isStore = true) →
      s.controlOn c p = { s with ccores := mset s.ccores c { ops := l, vals := x.vals ++ [s.readPartition p a] } }) ∧
    (∀ y ∈ s.accesses, inDie y.2 → (x.ops = .control a (some v) :: l → s.controlOn c p = s) ∧
      (x.ops = .control a none :: l → y.2.op.isStore = false → s.controlOn c p = s)) ∧
    (x.ops = .control a (some v) :: l → (∀ y ∈ s.accesses, ¬inDie y.2) →
      exec (.registerWrite { part := some p, addr := a, val := v, first := 0 }) { s with ccores := mset s.ccores c { x with ops := l } } = .next (s.controlOn c p)))

/-! ### Words, the step and reset (R92 to R121, R443) -/

/-- Words of the spec's worked examples, one or more of each family, decode to the instructions they stand for, and four words that are none are refused under
the detail code of R121. -/
def Obligations.DecodeWords : Prop :=  let h : Hdr := { pg := 7, pn := false, u := false, ch := false, nwb := false, le := false, lq := 0 }
  let o := fun (d a b : Sel) (i : Imm) => ({ hdr := h, d := d, a := a, b := b, c := .sel .zero, imm := i } : Ops)
  let z := Sel.zero
  decode 0x0DD7F80802049D48 0 = .ok (.fmul { o (.v 4) (.v 1) (.v 2) .none with hdr := { h with ch := true, nwb := true, le := true, lq := 1 } }) ∧
  decode 0x0D07F80EA2058940 0 = .ok (.fadd { o (.v 5) (.q 1) (.v 3) .none with hdr := { h with pg := 2, ch := true } }) ∧
  decode 0x0007FBFDFEFF1C19 0x4C = .ok (.jarm 0 (o z z z (.i32 0x4C))) ∧
  decode 0x0007FBFE08FF1C25 0x1C = .ok (.loop (o z (.s 4) z (.i32 0x1C))) ∧
  decode 0x0007FBFDFEFF2409 0x5C = .ok (.brp { o z z z (.i32 0x5C) with hdr := { h with pg := 1, pn := true } }) ∧
  decode 0x0007FBFDFEFF1C1C 0 = .ok (.join 0 (o z z z .none)) ∧
  decode 0x0007FBFDFEFF1C34 0 = .ok (.tileb (o z z z .none)) ∧
  decode 0x0107F83018101E10 0 = .ok (.dmul .t (o (.v 16) (.v 12) (.v 12) .none)) ∧
  decode 0x1000F3FC10141E54 0 = .ok (.dcvt .e4m3 .m { o (.v 20) (.v 8) z .none with c := .sel (.v 30) }) ∧
  decode 0x0007FBFC10101E00 0 = .ok (.dorg 0 (o (.v 16) (.v 8) z .none)) ∧
  decode 0x8407FBFE80041E81 0x20 = .ok (.ld .dev .df .b32 (o (.v 4) (.a 0) z (.i32 0x20))) ∧
  decode 0x8407F80680FF1E85 0x20 = .ok (.st .dev .df .b32 (o z (.a 0) (.v 1) (.i32 0x20))) ∧
  decode 0x80019BFDFEFF1EA4 0 = .ok (.fence .dev { o z z z .none with c := .raw 0x33 }) ∧
  decode 0x8107FBFDFEFF1EA4 0 = .ok (.fenceSc .dev { o z z z .none with c := .raw 0xFF }) ∧
  decode 0x8A07F80C08FF06C8 0 = .ok (.datom .dev { o z (.v 4) (.v 3) .none with hdr := { h with pg := 1 } }) ∧
  decode 0x9007F80A86FF1ED4 0 = .ok (.radd .dev (o z (.a 3) (.v 2) .none)) ∧
  decode 0x5A07FC2610FF1F2C 0 = .ok (.mma true 3 2 (o z (.s 8) (.s 9) .none)) ∧
  decode 0x0007FBFDFF281F71 8 = .ok (.taskget (o (.s 40) z z (.i32 8))) ∧
  decode 0x0007FBFE50FF1F74 0 = .ok (.taskdone (o z (.s 40) z .none)) ∧
  decode 0x0007FBFDFF551FC8 0 = .ok (.step (o (.p 1) z z .none)) ∧
  decode 0x0007FBFE0AFF1FCD 0x10 = .ok (.evt (o z (.s 5) z (.i32 0x10))) ∧
  decode 0x0D07F80EA205BD40 0 = .error .guard ∧ Reject.guard.detail = 5 ∧
  decode 0x100ADBFC10141E54 0 = .error .selector ∧ Reject.selector.detail = 4 ∧
  (∀ w ext, w % 4 = 3 → decode w ext = .error .len11) ∧ Reject.len11.detail = 1

/-- Decode and encode agree: for every well-formed instruction of every family the decoder reads back, from the words that the encoder gives for it, the
instruction itself with every operand, header bit, modifier and immediate. -/
def Obligations.RoundTrip : Prop :=  ∀ (i : Instr) (bits w ext : Nat), i.WF = true → i.encode = some (bits, w, ext) → decode w ext = .ok i ∧ w < 2 ^ 64 ∧ ext < 2 ^ (bits - 64)

/-- A step runs the decoded instruction: where a quarter's turn comes, by the agenda or because no event of the machine's own has anything to do, and the bytes
at the PC of the path that it picks decode to `i`, the step is what `exec` does with `i` for that path, and then what follows of itself (a group that waits with
a WATCHDOG takes it instead, R263, and a column sector fetched from is first stored by rows, R276); where the agenda has an event, the step is that event; where
it has an operation of a control core, that core takes it (R22). What follows of itself ends no run and lets a step's time pass. -/
def Obligations.StepRunsDecoded : Prop :=  (∀ (s s0 s1 : State) (q loc d : Nat) (h : Home) (k : Cand) (g : Group) (p : Machine.Path) (n : Len) (i : Instr),
    ((∃ l, s.agenda = .issue q :: l ∧ s0 = { s with agenda := l, lastQ := q }) ∨
      (s.agenda = [] ∧ s.firstEvent = none ∧ s.nextQuarter = some q ∧ s0 = { s with lastQ := q })) →
    s0.pick q = some k → mget? s.groups k.gk = some g → mget? g.paths k.pid = some p →
    (s0.loseLatches q k.gk k.pid).place (quarterOf k.gk) (s.launch g.launch).part (s.launch g.launch).asid
      ((s.launch g.launch).sys || g.handler.isSome) .fetch p.pc.toNat = (.at loc h d, s1) →
    (g.wdDue = false ∨ g.handler.isSome = true) →
    let s2 := if h = .cacheable then s1.toRows loc 4 else s1
    s2.poisoned loc 1 = none → Len.ofCode (s2.word loc 8 % 4) = some n → p.pc.toNat % 32 + n.bytes ≤ 32 →
    decode (s2.word loc 8) (s2.word (loc + 8) (n.bytes - 8)) = .ok i →
    step s = afterStep (exec i { s2 with cur := some ⟨k.gk, k.pid⟩ })) ∧
  (∀ (s : State) (e : Instr) (l : List Move), s.agenda = .event e :: l → step s = afterStep (exec e { s with agenda := l })) ∧
  (∀ (s : State) (c : Nat) (x : CcOp) (l : List Move), s.agenda = .ccore c x :: l → step s = .next (({ s with agenda := l } : State).ccoreTake c x).after) ∧
  (∀ t : State, afterStep (.next t) = .next t.after ∧ t.after.tick = t.tick + 1 ∧ t.after.cur = none)

/-- The machine right after reset (R8, R13, R316, R348, R431 to R436, R443, R451): no partition, no team or group, nothing on its way, generations and steps at
0, and the registers whose Reset column is not zero at its value; all of memory reads zero, which before the cold start writes it so is the model's own
choice (log 1), as is every other zero here that the spec does not state. -/
def Obligations.ResetState : Prop :=  let s := State.reset
  s.memOk ∧ (∀ a, s.byte a = 0) ∧ s.poison = [] ∧ s.groups = [] ∧ (∀ c, (s.core c).team = none ∧ (s.core c).frames = []) ∧ s.accesses = [] ∧ s.outbox = [] ∧ s.launches = [] ∧
  s.walks = [] ∧ s.images = [] ∧ s.replicas = [] ∧ s.ccores = [] ∧ s.jobs = [] ∧ s.grove = [] ∧ s.coil = [] ∧ (∀ u, mget? s.tlbs u = none) ∧
  (∀ p, (s.part p).st = .free ∧ (s.part p).regions = 0 ∧ ∀ a, (s.asidRec p a).gen = 0 ∧ (s.asidRec p a).gstep = 0 ∧ (s.asidRec p a).en = false) ∧
  (∀ p d q, (s.queue p d q).head = 0 ∧ (s.queue p d q).tail = 0 ∧ (s.queue p d q).en = false) ∧
  (∀ p d, (s.pdie p d).mig.thr = 4 ∧ (s.pdie p d).bkhold = false ∧ (s.pdie p d).fq.head = (s.pdie p d).fq.tail) ∧
  (∀ q, (s.quarter q).gang = 0 ∧ (s.quarter q).lost = 0) ∧ (∀ d, s.trace d = TraceCore.reset ∧ (s.trace d).st = .idle) ∧
  (∀ k, (s.saggar k).rstale = 0) ∧ s.readPackage 0x1008 = 0x40000000 ∧ s.readPackage 0x20000 = 0 ∧ s.readPackage 0x1000 = 0 ∧ s.readPackage 0x2000 = 0 ∧
  (∀ p < 4, s.readPackage (0x10000 + 8 * p) = 0) ∧ (∀ p a, (s.budget p a).grant = resetGrant a ∧ s.used p a = 0) ∧
  s.pkg.phase = 0 ∧ s.pkg.town = [none, none] ∧ s.readPackage 0x62000 = 0

/-- Memory keeps its canonical form: whatever a step does, the cells it leaves stand at rising addresses and none of them is zero. -/
def Obligations.StepKeepsMemory : Prop := ∀ s t : State, s.memOk → step s = .next t → t.memOk
end

