-- ==== Sys2Proof/Laws/Map.lean ====
section
/-! SUPPORT. The laws of the finite maps: what is read after a key is set, removed or changed. They hold of every list, sorted or not. -/

namespace Sys2Proof

variable {α : Type}

@[simp] theorem mget?_nil (n : Nat) : mget? ([] : Map α) n = none := rfl

theorem mget?_cons (k : Nat) (a : α) (m : Map α) (n : Nat) : mget? ((k, a) :: m) n = if k = n then some a else mget? m n := rfl

@[simp] theorem mget?_mset_self (m : Map α) (n : Nat) (v : α) : mget? (mset m n v) n = some v := by
  induction m with
  | nil => simp [mset, mget?_cons]
  | cons x m ih =>
    obtain ⟨k, a⟩ := x
    unfold mset
    split_ifs with h1 h2
    · simp [mget?_cons]
    · simp [mget?_cons]
    · rw [mget?_cons, if_neg (fun h => h2 h.symm), ih]

theorem mget?_mset_ne (m : Map α) {n k : Nat} (v : α) (h : k ≠ n) : mget? (mset m n v) k = mget? m k := by
  induction m with
  | nil => simp [mset, mget?_cons, h.symm]
  | cons x m ih =>
    obtain ⟨j, a⟩ := x
    unfold mset
    split_ifs with h1 h2
    · rw [mget?_cons, if_neg h.symm]
    · subst h2; rw [mget?_cons, mget?_cons, if_neg h.symm, if_neg h.symm]
    · rw [mget?_cons, mget?_cons, ih]

theorem mget?_mset (m : Map α) (n k : Nat) (v : α) : mget? (mset m n v) k = if k = n then some v else mget? m k := by
  split_ifs with h
  · rw [h, mget?_mset_self]
  · exact mget?_mset_ne m v h

@[simp] theorem mget?_merase_self (m : Map α) (n : Nat) : mget? (merase m n) n = none := by
  induction m with
  | nil => rfl
  | cons x m ih =>
    obtain ⟨j, a⟩ := x
    unfold merase at ih ⊢
    by_cases h : j = n
    · simpa [h] using ih
    · simp [h, mget?_cons, ih]

theorem mget?_merase_ne (m : Map α) {n k : Nat} (h : k ≠ n) : mget? (merase m n) k = mget? m k := by
  induction m with
  | nil => rfl
  | cons x m ih =>
    obtain ⟨j, a⟩ := x
    unfold merase at ih ⊢
    by_cases hj : j = n
    · subst hj; simp [mget?_cons, h.symm, ih]
    · simp [hj, mget?_cons, ih]

theorem mget?_mmodify_self (m : Map α) (n : Nat) (f : α → α) : mget? (mmodify m n f) n = (mget? m n).map f := by
  unfold mmodify
  cases h : mget? m n <;> simp [h]

theorem mget?_mmodify_ne (m : Map α) {n k : Nat} (f : α → α) (h : k ≠ n) : mget? (mmodify m n f) k = mget? m k := by
  unfold mmodify
  cases hn : mget? m n
  · rfl
  · exact mget?_mset_ne m _ h

@[simp] theorem mgetD_mset_self (m : Map α) (n : Nat) (v d : α) : mgetD (mset m n v) n d = v := by simp [mgetD]

theorem mgetD_mset_ne (m : Map α) {n k : Nat} (v d : α) (h : k ≠ n) : mgetD (mset m n v) k d = mgetD m k d := by
  simp [mgetD, mget?_mset_ne m v h]

@[simp] theorem zget_zset_self {w : Nat} (m : Map (BitVec w)) (n : Nat) (v : BitVec w) : zget (zset m n v) n = v := by
  unfold zget zset
  split_ifs with h
  · simp [mgetD, h]
  · simp

theorem zget_zset_ne {w : Nat} (m : Map (BitVec w)) {n k : Nat} (v : BitVec w) (h : k ≠ n) : zget (zset m n v) k = zget m k := by
  unfold zget zset
  split_ifs
  · simp [mgetD, mget?_merase_ne m h]
  · exact mgetD_mset_ne m v 0 h

theorem zget_zset {w : Nat} (m : Map (BitVec w)) (n k : Nat) (v : BitVec w) : zget (zset m n v) k = if k = n then v else zget m k := by
  split_ifs with h
  · rw [h, zget_zset_self]
  · exact zget_zset_ne m v h

end Sys2Proof
end

