-- ==== Sys2Proof/Laws/Issue.lean ====
section
/-! SUPPORT. What issuing an instruction does: every check passed, `perform` answers the instruction's own effect; and completing it after writes to its group's
registers leaves exactly those writes. -/

namespace Sys2Proof.Machine

/-! ### Groups, paths and quarters by key -/

theorem mget_modGroup (s : State) (gk k : Nat) (f : Group → Group) :
    mget? (s.modGroup gk f).groups k = if k = gk then (mget? s.groups gk).map f else mget? s.groups k := by
  unfold State.modGroup
  split_ifs with h
  · rw [h]; exact mget?_mmodify_self _ _ _
  · exact mget?_mmodify_ne _ _ h

theorem mget_modPath (g : Group) (pid k : Nat) (f : Path → Path) :
    mget? (g.modPath pid f).paths k = if k = pid then (mget? g.paths pid).map f else mget? g.paths k := by
  unfold Group.modPath
  split_ifs with h
  · rw [h]; exact mget?_mmodify_self _ _ _
  · exact mget?_mmodify_ne _ _ h

@[simp] theorem quarter_setQuarter_self (s : State) (q : Nat) (x : Quarter) : (s.setQuarter q x).quarter q = x := by
  simp [State.quarter, State.setQuarter]

theorem quarter_setQuarter_ne (s : State) {q k : Nat} (x : Quarter) (h : k ≠ q) : (s.setQuarter q x).quarter k = s.quarter k := by
  simp [State.quarter, State.setQuarter, mgetD_mset_ne _ _ _ h]

@[simp] theorem quarter_modGroup (s : State) (gk q : Nat) (f : Group → Group) : (s.modGroup gk f).quarter q = s.quarter q := rfl
@[simp] theorem groups_setQuarter (s : State) (q : Nat) (x : Quarter) : (s.setQuarter q x).groups = s.groups := rfl

/-! ### The state elsewhere -/

theorem elsewhere_refl (s : State) (gk : Nat) : Elsewhere s gk s := ⟨rfl, fun _ => rfl, fun _ _ => rfl, fun _ _ => rfl⟩

theorem elsewhere_trans {s t u : State} {gk : Nat} (h : Elsewhere s gk t) (k : Elsewhere t gk u) : Elsewhere s gk u := by
  obtain ⟨h1, h2, h3, h4⟩ := h
  obtain ⟨k1, k2, k3, k4⟩ := k
  refine ⟨?_, fun a => (k2 a).trans (h2 a), fun x hx => (k3 x hx).trans (h3 x hx), fun x hx => (k4 x hx).trans (h4 x hx)⟩
  rw [k1, h1]

theorem elsewhere_modGroup (s : State) (gk : Nat) (f : Group → Group) : Elsewhere s gk (s.modGroup gk f) :=
  ⟨rfl, fun _ => rfl, fun k hk => by rw [mget_modGroup, if_neg hk], fun _ _ => rfl⟩

theorem elsewhere_setQuarter (s : State) (gk : Nat) (x : Quarter) : Elsewhere s gk (s.setQuarter (quarterOf gk) x) :=
  ⟨rfl, fun _ => rfl, fun _ _ => rfl, fun _ hk => mget?_mset_ne _ _ hk⟩

theorem elsewhere_agenda (s : State) (gk : Nat) (l : List Move) : Elsewhere s gk { s with agenda := l } :=
  ⟨rfl, fun _ => rfl, fun _ _ => rfl, fun _ _ => rfl⟩

/-! ### Entering -/

/-- What holds of an instruction that issues: its path and group stand in its state, which differs from the state it issues in by its group's %cycle
capture and its quarter's chain alone. -/
structure Entered (s : State) (e : Ctx) : Prop where
  rest : Elsewhere s e.gk e.s
  group : mget? e.s.groups e.gk = some e.g
  path : mget? e.g.paths e.pid = some e.p

theorem ctx_spec {s : State} {i : Instr} {c : Ctx} (h : s.ctx i = some c) :
    c.s = s ∧ c.i = i ∧ mget? s.groups c.gk = some c.g ∧ mget? c.g.paths c.pid = some c.p ∧ opsOf? i = some c.o ∧ s.cur = some ⟨c.gk, c.pid⟩ := by
  unfold State.ctx at h
  split at h
  · rename_i u o hu ho
    cases hg : mget? s.groups u.gk with
    | none => simp [hg] at h
    | some g =>
      cases hp : mget? g.paths u.pid with
      | none => simp [hg, hp] at h
      | some p =>
        simp only [hg, hp, Option.some.injEq] at h
        subst h
        exact ⟨rfl, rfl, hg, hp, ho, hu⟩
  · cases h

theorem entered_enter {s : State} {c : Ctx} (h : Entered s c) : Entered s c.enter := by
  unfold Ctx.enter
  split_ifs
  · exact ⟨elsewhere_trans h.rest (elsewhere_setQuarter _ _ _), h.group, h.path⟩
  · split
    · split_ifs
      · exact ⟨elsewhere_trans h.rest (elsewhere_setQuarter _ _ _), h.group, h.path⟩
      · exact h
    · exact h
  · exact h

theorem entered_capture {s : State} {c : Ctx} (h : Entered s c) : Entered s c.capture := by
  unfold Ctx.capture
  split_ifs
  · refine ⟨elsewhere_trans h.rest (elsewhere_modGroup _ _ _), ?_, h.path⟩
    simp only
    rw [mget_modGroup, if_pos rfl, h.group]
    rfl
  · exact h

theorem issues_entered {i : Instr} {s : State} {c e : Ctx} (h : Issues i s c e) : Entered s e := by
  obtain ⟨-, ⟨c0, h0, rfl⟩, -, -, -, -, -, rfl⟩ := h
  obtain ⟨hs, -, hg, hp, -, -⟩ := ctx_spec h0
  have : Entered s c0 := ⟨by rw [hs]; exact elsewhere_refl s _, by rw [hs]; exact hg, hp⟩
  exact entered_capture (entered_enter this)

/-- Every check passed, an instruction has its own effect. -/
theorem perform_of_issues {i : Instr} {s : State} {c e : Ctx} (own : Ctx → Option Nat) (priv : Ctx → Bool) (body : Ctx → State) (h : Issues i s c e)
    (ho : own c = none) (hp : priv c = false) : perform i own priv body s = .next (body e) := by
  obtain ⟨-, ⟨c0, h0, rfl⟩, h1, h2, h3, h4, h5, rfl⟩ := h
  unfold perform Ctx.detail
  rcases h5 with h5 | h5 <;> cases hn : neverFaults i <;> simp_all [firstDetail]

/-- Whatever the checks find, an instruction ends in a next state: its effect, a trap or a wait. -/
theorem perform_next {i : Instr} {s : State} {c : Ctx} (own : Ctx → Option Nat) (priv : Ctx → Bool) (body : Ctx → State) (h : s.ctx i = some c) :
    ∃ t, perform i own priv body s = .next t := by
  unfold perform
  rw [h]
  exact ⟨_, rfl⟩

/-! ### Completing -/

theorem elsewhere_watched (e : Ctx) (s : State) : Elsewhere s e.gk (e.watched s) := by
  unfold Ctx.watched
  split_ifs
  · exact elsewhere_agenda _ _ _
  · exact elsewhere_refl _ _

@[simp] theorem groups_watched (e : Ctx) (s : State) : (e.watched s).groups = s.groups := by unfold Ctx.watched; split_ifs <;> rfl
@[simp] theorem quarters_watched (e : Ctx) (s : State) : (e.watched s).quarters = s.quarters := by unfold Ctx.watched; split_ifs <;> rfl

/-- What an issue leaves elsewhere. -/
theorem elsewhere_issued (e : Ctx) (s : State) : Elsewhere s e.gk (e.issued s) :=
  elsewhere_trans (elsewhere_trans (elsewhere_trans (elsewhere_modGroup s e.gk _) (elsewhere_setQuarter _ _ _)) (elsewhere_modGroup _ _ _))
    (elsewhere_watched _ _)

/-- The quarter after an issue: its chain goes on or ends, the rest is as it was. -/
theorem quarter_issued (e : Ctx) (s : State) :
    (e.issued s).quarter e.q = (s.quarter e.q).issued e.gk e.pid (s.coreCycle e.core) (e.o.hdr.ch && !endsChain e.i) := by
  unfold Ctx.issued State.quarter
  rw [quarters_watched]
  exact mgetD_mset_self _ _ _ _

theorem quarter_issued_frame (q : Quarter) (gk pid now : Nat) (ch : Bool) : q.issued gk pid now ch = { q with chain := (q.issued gk pid now ch).chain } := by
  unfold Quarter.issued
  split
  · split_ifs <;> rfl
  · rfl

/-- The group after an issue. -/
theorem group_issued (e : Ctx) (s : State) {g : Group} (hg : mget? s.groups e.gk = some g) :
    mget? (e.issued s).groups e.gk = some ((g.modPath e.pid (fun p => p.issued (s.coreCycle e.core) e.len e.p.pc e.o.hdr.ch)).issued (s.coreCycle e.core) e.pid e.p.pc
      e.g.handler.isSome) := by
  unfold Ctx.issued
  rw [groups_watched, mget_modGroup, if_pos rfl, groups_setQuarter, State.modPath, mget_modGroup, if_pos rfl, hg]
  rfl

/-- A state that the end of an instruction completes to `Done` with the writes `w`. -/
structure Wrote (e : Ctx) (w : Writes) (t : State) : Prop where
  rest : Elsewhere e.s e.gk t
  group : ∃ g, mget? t.groups e.gk = some g ∧ g = { (w.group e.g) with v := g.v, s := g.s, a := g.a, p := g.p, paths := g.paths } ∧
    mget? g.paths e.pid = some (w.path e.p) ∧ (∀ k, k ≠ e.pid → mget? g.paths k = mget? e.g.paths k) ∧ Registers e w g (t.quarter e.q)
  quarter : t.quarter e.q = { (w.quarter e.quarter) with chain := (t.quarter e.q).chain, latch := (t.quarter e.q).latch }

/-- The end of an instruction: `f` gives the path's PC and loop stack. -/
theorem Wrote.finish {s : State} {e : Ctx} {w : Writes} {t : State} (he : Entered s e) (h : Wrote e w t) (f : Path → Path)
    (hf : ∀ p, f p = p.withIssue (f p)) :
    Done s e w (f ((w.path e.p).issued (t.coreCycle e.core) e.len e.p.pc e.o.hdr.ch)).pc (f ((w.path e.p).issued (t.coreCycle e.core) e.len e.p.pc e.o.hdr.ch)).loops
      ((e.issued t).modPath e.gk e.pid f) := by
  obtain ⟨h1, ⟨g1, hg, hg1, hp, hps, hr⟩, hq⟩ := h
  have h2 := group_issued e t hg
  have hout : Elsewhere s e.gk ((e.issued t).modPath e.gk e.pid f) :=
    elsewhere_trans he.rest (elsewhere_trans h1 (elsewhere_trans (elsewhere_issued e t) (elsewhere_modGroup _ _ _)))
  have hq3 : ((e.issued t).modPath e.gk e.pid f).quarter e.q = (t.quarter e.q).issued e.gk e.pid (t.coreCycle e.core) (e.o.hdr.ch && !endsChain e.i) := quarter_issued e t
  obtain ⟨r1, r2, r3, r4, r5⟩ := hr
  refine ⟨hout, ((g1.modPath e.pid (fun p => p.issued (t.coreCycle e.core) e.len e.p.pc e.o.hdr.ch)).issued (t.coreCycle e.core) e.pid e.p.pc
      e.g.handler.isSome).modPath e.pid f, f ((w.path e.p).issued (t.coreCycle e.core) e.len e.p.pc e.o.hdr.ch), ?_, ?_, ?_, ⟨r1, r2, r3, r4, ?_⟩, ?_, ?_, rfl, rfl, ?_⟩
  · unfold State.modPath
    rw [mget_modGroup, if_pos rfl, h2]; rfl
  · rw [mget_modPath, if_pos rfl]
    show ((mget? (g1.modPath e.pid _).paths e.pid).map _) = _
    rw [mget_modPath, if_pos rfl, hp]; rfl
  · rw [hg1]; rfl
  · intro k hk l hl
    rw [hq3, quarter_issued_frame]
    exact r5 k hk l hl
  · intro k hk
    rw [mget_modPath, if_neg hk]
    show mget? (g1.modPath e.pid _).paths k = _
    rw [mget_modPath, if_neg hk, hps k hk]
  · conv_lhs => rw [hf]
    rfl
  · rw [hq3, quarter_issued_frame, hq]

theorem loopStep_frame (p : Path) (pc next : Pc) : loopStep p pc next = p.withIssue (loopStep p pc next) := by
  unfold loopStep
  split
  · rfl
  · split_ifs <;> rfl

theorem loopStep_issued (p : Path) (now len : Nat) (at' : Pc) (ch : Bool) (pc next : Pc) :
    (loopStep (p.issued now len at' ch) pc next).pc = (loopStep p pc next).pc ∧ (loopStep (p.issued now len at' ch) pc next).loops = (loopStep p pc next).loops := by
  unfold loopStep Path.issued
  simp only
  split
  · exact ⟨rfl, rfl⟩
  · split_ifs <;> exact ⟨rfl, rfl⟩

/-- An instruction that goes on at the next. -/
theorem Wrote.advance {s : State} {e : Ctx} {w : Writes} {t : State} (he : Entered s e) (h : Wrote e w t) : DoneNext s e w (e.advance t) := by
  have := h.finish he (fun p => loopStep p e.p.pc e.seqPc) (fun p => loopStep_frame p _ _)
  rw [(loopStep_issued (w.path e.p) (t.coreCycle e.core) e.len e.p.pc e.o.hdr.ch e.p.pc e.seqPc).1,
    (loopStep_issued (w.path e.p) (t.coreCycle e.core) e.len e.p.pc e.o.hdr.ch e.p.pc e.seqPc).2] at this
  exact this

/-- An instruction that goes on elsewhere. -/
theorem Wrote.jump {s : State} {e : Ctx} {w : Writes} {t : State} (he : Entered s e) (h : Wrote e w t) (pc : Pc) :
    Done s e w pc (w.path e.p).loops (e.jump t pc) := h.finish he (fun p => { p with pc := pc }) (fun _ => rfl)

/-- Nothing written. -/
theorem wrote_nothing {s : State} {e : Ctx} (he : Entered s e) : Wrote e {} e.s :=
  ⟨elsewhere_refl _ _, ⟨e.g, he.group, rfl, he.path, fun _ _ => rfl, fun _ _ _ _ => rfl, fun _ _ => rfl, fun _ _ _ _ => rfl, fun _ _ => rfl, fun _ _ _ _ => rfl⟩, rfl⟩

/-- A change of the group other than its paths. -/
theorem wrote_group {s : State} {e : Ctx} (he : Entered s e) (w : Writes) (f : Group → Group)
    (hf : f e.g = { (w.group e.g) with v := (f e.g).v, s := (f e.g).s, a := (f e.g).a, p := (f e.g).p, paths := e.g.paths })
    (hr : Registers e w (f e.g) e.quarter) (hp : w.path e.p = e.p) (hq : w.quarter e.quarter = e.quarter) : Wrote e w (e.s.modGroup e.gk f) := by
  have hps : (f e.g).paths = e.g.paths := by rw [hf]
  refine ⟨elsewhere_modGroup _ _ _, ⟨f e.g, ?_, ?_, ?_, ?_, hr⟩, by rw [hq]; rfl⟩
  · rw [mget_modGroup, if_pos rfl, he.group]; rfl
  · conv_lhs => rw [hf]
    rw [hps]
  · rw [hps, hp, he.path]
  · intro k _; rw [hps]

end Sys2Proof.Machine
end

