-- ==== Sys2Proof/Laws/Memory.lean ====
section
/-! SUPPORT. Memory: what a byte reads as after a write, and that every operation over memory keeps the canonical form (rising addresses, no zero byte
listed). -/

namespace Sys2Proof.Machine

/-! ### Reading after writing -/

theorem zget_putBytes (bs : List Byte) (m : List Host.Cell) (a x : Nat) :
    zget (n := 8) (putBytes m a bs) x = if a ≤ x ∧ x < a + bs.length then bs.getD (x - a) 0 else zget (n := 8) m x := by
  induction bs generalizing m a with
  | nil => simp [putBytes]
  | cons b bs ih =>
    simp only [putBytes, ih, zget_zset, List.length_cons]
    by_cases h1 : x = a
    · subst h1
      have h2 : ¬(x + 1 ≤ x ∧ x < x + 1 + bs.length) := by omega
      have h3 : x ≤ x ∧ x < x + (bs.length + 1) := by omega
      simp [h2, h3]
    · by_cases h2 : a + 1 ≤ x ∧ x < a + 1 + bs.length
      · have h3 : a ≤ x ∧ x < a + (bs.length + 1) := by omega
        obtain ⟨k, hk⟩ : ∃ k, x = a + 1 + k := ⟨x - (a + 1), by omega⟩
        subst hk
        have e1 : a + 1 + k - (a + 1) = k := by omega
        have e2 : a + 1 + k - a = k + 1 := by omega
        simp [e1, e2, h2, h3]
      · have h3 : ¬(a ≤ x ∧ x < a + (bs.length + 1)) := by omega
        rw [if_neg h2, if_neg h3, if_neg h1]

/-- A byte after a rewrite. -/
theorem byte_rewrite (s : State) (a : Nat) (bs : List Byte) (x : Nat) :
    (s.rewrite a bs).byte x = if a ≤ x ∧ x < a + bs.length then bs.getD (x - a) 0 else s.byte x := zget_putBytes bs s.mem a x

theorem write_mem (s : State) (a : Nat) (bs : List Byte) : (s.write a bs).mem = putBytes s.mem a bs := by
  unfold State.write
  cases bs <;> simp [putBytes]

/-- A byte after a write: the bytes written where they stand, every other byte as before. -/
theorem byte_write (s : State) (a : Nat) (bs : List Byte) (x : Nat) :
    (s.write a bs).byte x = if a ≤ x ∧ x < a + bs.length then bs.getD (x - a) 0 else s.byte x := by
  unfold State.byte
  rw [write_mem]
  exact zget_putBytes bs s.mem a x

theorem byte_write_outside (s : State) (a : Nat) (bs : List Byte) (x : Nat) (h : x < a ∨ a + bs.length ≤ x) : (s.write a bs).byte x = s.byte x := by
  rw [byte_write, if_neg (by omega)]

/-! ### The canonical form -/

/-- A bound below which no address may lie, as `cellsOk` reads it. -/
def above (lo : Option Nat) (a : Nat) : Prop := ∀ l, lo = some l → l < a

theorem cellsOk_cons (lo : Option Nat) (a : Nat) (b : Byte) (m : List Host.Cell) :
    cellsOk lo ((a, b) :: m) = true ↔ above lo a ∧ b ≠ 0 ∧ cellsOk (some a) m = true := by
  cases lo <;> simp [cellsOk, above, and_assoc]

theorem cellsOk_mono {lo : Option Nat} {a : Nat} (m : List Host.Cell) (h : above lo a) (hm : cellsOk (some a) m = true) : cellsOk lo m = true := by
  cases m with
  | nil => rfl
  | cons c m =>
    obtain ⟨x, b⟩ := c
    rw [cellsOk_cons] at hm ⊢
    exact ⟨fun l hl => lt_trans (h l hl) (hm.1 a rfl), hm.2⟩

/-- Some of the cells of a canonical memory, in their order, are canonical. -/
theorem cellsOk_filter (p : Host.Cell → Bool) (m : List Host.Cell) (lo : Option Nat) (h : cellsOk lo m = true) : cellsOk lo (m.filter p) = true := by
  induction m generalizing lo with
  | nil => exact h
  | cons c m ih =>
    obtain ⟨a, b⟩ := c
    rw [cellsOk_cons] at h
    rw [List.filter_cons]
    split_ifs
    · exact (cellsOk_cons lo a b _).2 ⟨h.1, h.2.1, ih _ h.2.2⟩
    · exact ih lo (cellsOk_mono m h.1 h.2.2)

theorem cellsOk_mset (m : List Host.Cell) (lo : Option Nat) (a : Nat) (b : Byte) (h : cellsOk lo m = true) (ha : above lo a) (hb : b ≠ 0) :
    cellsOk lo (mset (α := Byte) m a b) = true := by
  induction m generalizing lo with
  | nil => exact (cellsOk_cons lo a b []).2 ⟨ha, hb, rfl⟩
  | cons c m ih =>
    obtain ⟨k, v⟩ := c
    have h' := (cellsOk_cons lo k v m).1 h
    unfold mset
    split_ifs with h1 h2
    · exact (cellsOk_cons lo a b _).2 ⟨ha, hb, (cellsOk_cons (some a) k v m).2 ⟨fun l hl => by cases hl; exact h1, h'.2⟩⟩
    · subst h2; exact (cellsOk_cons lo a b m).2 ⟨ha, hb, h'.2.2⟩
    · exact (cellsOk_cons lo k v _).2 ⟨h'.1, h'.2.1, ih (some k) h'.2.2 (fun l hl => by cases hl; omega)⟩

theorem wf_zset (m : List Host.Cell) (a : Nat) (b : Byte) (h : Memory.wf m = true) : Memory.wf (zset (n := 8) m a b) = true := by
  unfold zset Memory.wf at *
  split_ifs with hb
  · exact cellsOk_filter _ m none h
  · exact cellsOk_mset m none a b h (fun l hl => by cases hl) hb

/-- Bytes put into memory keep its canonical form. -/
theorem wf_putBytes (bs : List Byte) (m : List Host.Cell) (a : Nat) (h : Memory.wf m = true) : Memory.wf (putBytes m a bs) = true := by
  induction bs generalizing m a with
  | nil => exact h
  | cons b bs ih => exact ih _ _ (wf_zset m a b h)

theorem wf_filter (p : Host.Cell → Bool) (m : List Host.Cell) (h : Memory.wf m = true) : Memory.wf (m.filter p) = true := cellsOk_filter p m none h

theorem wf_zeroRange (m : List Host.Cell) (a n : Nat) (h : Memory.wf m = true) : Memory.wf (zeroRange m a n) = true := wf_filter _ m h

theorem cellsOk_append (l m : List Host.Cell) (lo : Option Nat) (k : Nat) (hl : cellsOk lo l = true) (hk : ∀ c ∈ l, c.1 < k)
    (hlo : above lo k ∨ ∀ c ∈ m, above lo c.1) (hm : cellsOk none m = true) (hge : ∀ c ∈ m, k ≤ c.1) : cellsOk lo (l ++ m) = true := by
  induction l generalizing lo with
  | nil =>
    cases m with
    | nil => rfl
    | cons c m =>
      obtain ⟨a, b⟩ := c
      rw [cellsOk_cons] at hm
      refine (cellsOk_cons lo a b m).2 ⟨?_, hm.2⟩
      rcases hlo with h | h
      · exact fun l hl => lt_of_lt_of_le (h l hl) (hge (a, b) (by simp))
      · exact h (a, b) (by simp)
  | cons c l ih =>
    obtain ⟨a, b⟩ := c
    rw [cellsOk_cons] at hl
    refine (cellsOk_cons lo a b _).2 ⟨hl.1, hl.2.1, ih (some a) hl.2.2 (fun c hc => hk c (by simp [hc])) (Or.inl ?_)⟩
    intro x hx
    cases hx
    exact hk (a, b) (by simp)

theorem cellsOk_shift (src dst : Nat) (m : List Host.Cell) (lo : Option Nat) (h : cellsOk lo m = true) (hs : ∀ c ∈ m, src ≤ c.1)
    (hl : ∀ l, lo = some l → src ≤ l) : cellsOk (lo.map (fun l => l - src + dst)) (m.map (fun c => (c.1 - src + dst, c.2))) = true := by
  induction m generalizing lo with
  | nil => rfl
  | cons c m ih =>
    obtain ⟨a, b⟩ := c
    rw [cellsOk_cons] at h
    have ha := hs (a, b) (by simp)
    refine (cellsOk_cons _ _ b _).2 ⟨?_, h.2.1, ih (some a) h.2.2 (fun c hc => hs c (by simp [hc])) (fun l hl => by cases hl; exact ha)⟩
    intro x hx
    cases lo with
    | none => cases hx
    | some l =>
      have h1 := h.1 l rfl
      have h2 := hl l rfl
      simp only [Option.map_some, Option.some.injEq] at hx
      simp only at ha
      omega

/-- The copying of a page keeps the canonical form. -/
theorem wf_copyRange (m : List Host.Cell) (src dst n : Nat) (h : Memory.wf m = true) : Memory.wf (copyRange m src dst n) = true := by
  have hf : ∀ p : Host.Cell → Bool, cellsOk none (m.filter p) = true := fun p => cellsOk_filter p m none h
  have hmov := cellsOk_shift src dst (m.filter (fun c => decide (src ≤ c.1) && decide (c.1 < src + n))) none (hf _)
    (fun c hc => by simp [List.mem_filter] at hc; exact hc.2.1) (fun l hl => by cases hl)
  unfold copyRange Memory.wf
  simp only
  refine cellsOk_append _ _ none (dst + n) (cellsOk_append _ _ none dst (hf _) ?_ (Or.inl (fun l hl => by cases hl)) hmov ?_) ?_
    (Or.inl (fun l hl => by cases hl)) (hf _) ?_
  · intro c hc; simp [List.mem_filter] at hc; exact hc.2
  · intro c hc
    simp only [List.mem_map] at hc
    obtain ⟨d, -, rfl⟩ := hc
    simp
  · intro c hc
    simp only [List.mem_append, List.mem_map, List.mem_filter, Bool.and_eq_true, decide_eq_true_eq] at hc
    rcases hc with hc | ⟨d, hd, rfl⟩
    · omega
    · simp only; omega
  · intro c hc; simp [List.mem_filter] at hc; exact hc.2

theorem wf_nil : Memory.wf [] = true := rfl

theorem wf_write (s : State) (a : Nat) (bs : List Byte) (h : Memory.wf s.mem = true) : Memory.wf (s.write a bs).mem = true := by
  rw [write_mem]; exact wf_putBytes bs _ a h

theorem wf_rewrite (s : State) (a : Nat) (bs : List Byte) (h : Memory.wf s.mem = true) : Memory.wf (s.rewrite a bs).mem = true := wf_putBytes bs _ a h

theorem wf_writeNat (s : State) (a n v : Nat) (h : Memory.wf s.mem = true) : Memory.wf (s.writeNat a n v).mem = true := wf_write s a _ h

theorem wf_zeroBytes (s : State) (a n : Nat) (h : Memory.wf s.mem = true) : Memory.wf (s.zeroBytes a n).mem = true := wf_zeroRange _ a n h

theorem wf_quietWrite (s : State) (a : Nat) (bs : List Byte) (h : Memory.wf s.mem = true) : Memory.wf (s.quietWrite a bs).mem = true := wf_write s a bs h

/-- Serving sectors by rows changes no byte. -/
@[simp] theorem toRows_mem (s : State) (loc n : Nat) : (s.toRows loc n).mem = s.mem := by
  unfold State.toRows
  split_ifs
  · generalize sectorsIn loc n = l
    induction l generalizing s with
    | nil => rfl
    | cons x l ih => rw [List.foldl_cons, ih]; split_ifs <;> rfl
  · rfl

/-- What a home slice performs changes the bytes it writes and no others. -/
theorem putLines_mem (s : State) (c d : Bool) (loc : Nat) (bs : List Byte) : (s.putLines c d loc bs).mem = (s.write loc bs).mem := by
  have h : ∀ (l : List Nat) (s : State),
      (l.foldl (fun s x => let s := s.dropReplicas x; if d then s.setDirty x else s) s).mem = s.mem := by
    intro l
    induction l with
    | nil => intro s; rfl
    | cons x l ih => intro s; rw [List.foldl_cons, ih]; cases d <;> rfl
  unfold State.putLines
  by_cases hc : (c && isHbm loc) = true
  · simp only [hc, if_true]
    rw [write_mem, write_mem, h]
  · simp only [hc]; rfl

theorem homeWrite_mem (s : State) (c d : Bool) (loc : Nat) (bs : List Byte) : (s.homeWrite c d loc bs).mem = (s.write loc bs).mem := by
  unfold State.homeWrite
  rw [putLines_mem, write_mem, write_mem]
  split_ifs <;> simp

theorem wf_homeWrite (s : State) (c d : Bool) (loc : Nat) (bs : List Byte) (h : Memory.wf s.mem = true) : Memory.wf (s.homeWrite c d loc bs).mem = true := by
  rw [homeWrite_mem]; exact wf_write s loc bs h

theorem wf_physWrite (s : State) (p pa : Nat) (bs : List Byte) (h : Memory.wf s.mem = true) : Memory.wf (s.physWrite p pa bs).mem = true := by
  unfold State.physWrite
  split_ifs
  · exact wf_homeWrite s _ _ _ _ h
  · exact h

theorem wf_reset : Memory.wf State.reset.mem = true := rfl

end Sys2Proof.Machine
end

