-- ==== Sys2Proof/Laws/PerInstr.lean ====
section
/-! SUPPORT. Statements made per instruction. `Spelling`: an instruction is spelled as its row of the opcode map says: where the row of its opcode takes its
modifier, what the row builds from that modifier and the instruction's operand fields is the instruction itself (R94, R105 to R120). -/

namespace Sys2Proof.Laws.Spelling

/-- The row of the instruction's opcode builds the instruction from its modifier and operand fields. A modifier that the row does not take builds nothing. -/
def Statement (i : Instr) : Prop :=
  match i.enc with
  | none => True
  | some e =>
    match opRow e.op with
    | none => True
    | some r =>
      match r.build e.m with
      | none => True
      | some k => k e.o = i

/-- The row found once. -/
theorem of_row {i : Instr} {e : Enc} {r : OpRow} (he : i.enc = some e) (hr : opRow e.op = some r)
    (h : match r.build e.m with | none => True | some k => k e.o = i) : Statement i := by
  simpa only [Statement, he, hr] using h

theorem ofNat_add : ∀ n : BitVec 5, BitVec.ofNat 5 (32 + n.toNat) = n := by decide
theorem nop (o : Ops) : Statement (.nop o) := rfl
theorem bra (o : Ops) : Statement (.bra o) := rfl
theorem brp (o : Ops) : Statement (.brp o) := rfl
theorem brx (o : Ops) : Statement (.brx o) := rfl
theorem call (o : Ops) : Statement (.call o) := rfl
theorem ret (o : Ops) : Statement (.ret o) := rfl
theorem jarm (k : BitVec 3) (o : Ops) : Statement (.jarm k o) := by (obtain ⟨⟨n, h⟩⟩ := k; change n < 8 at h; interval_cases n) <;> trivial
theorem join (k : BitVec 3) (o : Ops) : Statement (.join k o) := by (obtain ⟨⟨n, h⟩⟩ := k; change n < 8 at h; interval_cases n) <;> trivial
theorem jdrop (k : BitVec 3) (o : Ops) : Statement (.jdrop k o) := by (obtain ⟨⟨n, h⟩⟩ := k; change n < 8 at h; interval_cases n) <;> trivial
theorem loop (o : Ops) : Statement (.loop o) := rfl
theorem loopx (o : Ops) : Statement (.loopx o) := rfl
theorem yield (o : Ops) : Statement (.yield o) := rfl
theorem exit (o : Ops) : Statement (.exit o) := rfl
theorem tileb (o : Ops) : Statement (.tileb o) := rfl
theorem trap (n : Byte) (o : Ops) : Statement (.trap n o) := by
  change Instr.trap (BitVec.ofNat 8 n.toNat) o = _
  rw [BitVec.ofNat_toNat, BitVec.setWidth_eq]
theorem eret (o : Ops) : Statement (.eret o) := rfl
theorem bkpt (n : Byte) (o : Ops) : Statement (.bkpt n o) := by
  change Instr.bkpt (BitVec.ofNat 8 n.toNat) o = _
  rw [BitVec.ofNat_toNat, BitVec.setWidth_eq]
theorem voteAll (o : Ops) : Statement (.voteAll o) := rfl
theorem voteAny (o : Ops) : Statement (.voteAny o) := rfl
theorem voteBallot (o : Ops) : Statement (.voteBallot o) := rfl
theorem fuse (o : Ops) : Statement (.fuse o) := rfl
theorem split (o : Ops) : Statement (.split o) := rfl
theorem grow (n : BitVec 5) (o : Ops) : Statement (.grow n o) := by (obtain ⟨⟨n, h⟩⟩ := n; change n < 32 at h; interval_cases n) <;> trivial
theorem growNb (n : BitVec 5) (o : Ops) : Statement (.growNb n o) := by
  obtain ⟨⟨n, h⟩⟩ := n; change n < 32 at h; interval_cases n <;> exact congrArg (fun x => Instr.growNb x o) (ofNat_add _)
theorem shrink (n : BitVec 5) (o : Ops) : Statement (.shrink n o) := by (obtain ⟨⟨n, h⟩⟩ := n; change n < 32 at h; interval_cases n) <;> trivial
theorem gang (o : Ops) : Statement (.gang o) := rfl
theorem pathqLive (o : Ops) : Statement (.pathqLive o) := rfl
theorem pathqMlo (o : Ops) : Statement (.pathqMlo o) := rfl
theorem pathqMhi (o : Ops) : Statement (.pathqMhi o) := rfl
theorem iadd (t : ITy) (o : Ops) : Statement (.iadd t o) := by cases t <;> trivial
theorem isub (t : ITy) (o : Ops) : Statement (.isub t o) := by cases t <;> trivial
theorem imul (t : ITy) (o : Ops) : Statement (.imul t o) := by cases t <;> trivial
theorem imulh (t : ITy) (o : Ops) : Statement (.imulh t o) := by cases t <;> trivial
theorem imad (t : ITy) (o : Ops) : Statement (.imad t o) := by cases t <;> trivial
theorem idiv (t : ITy) (o : Ops) : Statement (.idiv t o) := by cases t <;> trivial
theorem irem (t : ITy) (o : Ops) : Statement (.irem t o) := by cases t <;> trivial
theorem imin (t : ITy) (o : Ops) : Statement (.imin t o) := by cases t <;> trivial
theorem imax (t : ITy) (o : Ops) : Statement (.imax t o) := by cases t <;> trivial
theorem iabs (t : SITy) (o : Ops) : Statement (.iabs t o) := by cases t <;> trivial
theorem ineg (t : SITy) (o : Ops) : Statement (.ineg t o) := by cases t <;> trivial
theorem shadd (t : ITy) (sh : BitVec 3) (o : Ops) : Statement (.shadd t sh o) := by
  have h : ∀ n : BitVec 3, n = 0#3 ∨ n = 1#3 ∨ n = 2#3 ∨ n = 3#3 ∨ n = 4#3 ∨ n = 5#3 ∨ n = 6#3 ∨ n = 7#3 := by decide
  cases t <;> rcases h sh with rfl | rfl | rfl | rfl | rfl | rfl | rfl | rfl <;>
    simp only [Statement, Instr.enc, ITy.code, BitVec.toNat_ofNat, Nat.reduceMul, Nat.reduceAdd, Nat.reduceMod, Nat.reducePow] <;> rfl
theorem and (t : BTy) (o : Ops) : Statement (.and t o) := by cases t <;> trivial
theorem or (t : BTy) (o : Ops) : Statement (.or t o) := by cases t <;> trivial
theorem xor (t : BTy) (o : Ops) : Statement (.xor t o) := by cases t <;> trivial
theorem not (t : BTy) (o : Ops) : Statement (.not t o) := by cases t <;> trivial
theorem shl (t : ITy) (o : Ops) : Statement (.shl t o) := by cases t <;> trivial
theorem shr (t : ITy) (o : Ops) : Statement (.shr t o) := by cases t <;> trivial
theorem sar (t : ITy) (o : Ops) : Statement (.sar t o) := by cases t <;> trivial
theorem popc (t : BTy) (o : Ops) : Statement (.popc t o) := by cases t <;> trivial
theorem clz (t : BTy) (o : Ops) : Statement (.clz t o) := by cases t <;> trivial
theorem brev (t : BTy) (o : Ops) : Statement (.brev t o) := by cases t <;> trivial
theorem bfx (t : BTy) (o : Ops) : Statement (.bfx t o) := by cases t <;> trivial
theorem bfi (t : BTy) (o : Ops) : Statement (.bfi t o) := by cases t <;> trivial
theorem icmp (t : ITy) (r : Cmp) (o : Ops) : Statement (.icmp t r o) := by
  cases t <;> cases r <;> simp only [Statement, Instr.enc, ITy.code, Cmp.code, Nat.reduceMul, Nat.reduceAdd] <;> rfl
theorem sel (t : BTy) (o : Ops) : Statement (.sel t o) := by cases t <;> trivial
theorem mov (t : MTy) (o : Ops) : Statement (.mov t o) := by cases t <;> trivial
theorem movi (t : BTy) (o : Ops) : Statement (.movi t o) := by cases t <;> trivial
theorem plop (tt : BitVec 4) (o : Ops) : Statement (.plop tt o) := by (obtain ⟨⟨n, h⟩⟩ := tt; change n < 16 at h; interval_cases n) <;> trivial
theorem shflIdx (t : BTy) (o : Ops) : Statement (.shflIdx t o) := by
  cases t <;> simp only [Statement, Instr.enc, BTy.code] <;> trivial
theorem shflUp (t : BTy) (o : Ops) : Statement (.shflUp t o) := by
  cases t <;> simp only [Statement, Instr.enc, BTy.code, Nat.reduceAdd] <;> trivial
theorem shflDown (t : BTy) (o : Ops) : Statement (.shflDown t o) := by
  cases t <;> simp only [Statement, Instr.enc, BTy.code, Nat.reduceAdd] <;> trivial
theorem shflXor (t : BTy) (o : Ops) : Statement (.shflXor t o) := by
  cases t <;> simp only [Statement, Instr.enc, BTy.code, Nat.reduceAdd] <;> trivial
theorem bcst (t : BTy) (o : Ops) : Statement (.bcst t o) := by cases t <;> trivial
theorem rdln (t : BTy) (o : Ops) : Statement (.rdln t o) := by cases t <;> trivial
theorem rdsp (o : Ops) : Statement (.rdsp o) := rfl
theorem wrsp (o : Ops) : Statement (.wrsp o) := rfl
theorem aset (o : Ops) : Statement (.aset o) := rfl
theorem aadd (o : Ops) : Statement (.aadd o) := rfl
theorem ascl (o : Ops) : Statement (.ascl o) := rfl
theorem amat (h : AHalf) (o : Ops) : Statement (.amat h o) := by cases h <;> trivial
theorem aget (h : APart) (o : Ops) : Statement (.aget h o) := by cases h <;> trivial
theorem fadd (o : Ops) : Statement (.fadd o) := rfl
theorem fsub (o : Ops) : Statement (.fsub o) := rfl
theorem fmul (o : Ops) : Statement (.fmul o) := rfl
theorem ffma (o : Ops) : Statement (.ffma o) := rfl
theorem fmin (o : Ops) : Statement (.fmin o) := rfl
theorem fmax (o : Ops) : Statement (.fmax o) := rfl
theorem fabs (o : Ops) : Statement (.fabs o) := rfl
theorem fneg (o : Ops) : Statement (.fneg o) := rfl
theorem fcmp (r : FCmp) (o : Ops) : Statement (.fcmp r o) := by
  cases r <;> simp only [Statement, Instr.enc, FCmp.code, Nat.reduceMul, Nat.reduceAdd] <;> trivial
theorem frcp (o : Ops) : Statement (.frcp o) := rfl
theorem frsq (o : Ops) : Statement (.frsq o) := rfl
theorem fsqrt (o : Ops) : Statement (.fsqrt o) := rfl
theorem fdiv (o : Ops) : Statement (.fdiv o) := rfl
theorem fexp2 (o : Ops) : Statement (.fexp2 o) := rfl
theorem flog2 (o : Ops) : Statement (.flog2 o) := rfl
theorem fsin (o : Ops) : Statement (.fsin o) := rfl
theorem fcos (o : Ops) : Statement (.fcos o) := rfl
theorem ftanh (o : Ops) : Statement (.ftanh o) := rfl
theorem fsigm (o : Ops) : Statement (.fsigm o) := rfl
theorem frnd (r : FRMode) (o : Ops) : Statement (.frnd r o) := by
  cases r <;> simp only [Statement, Instr.enc, FRMode.code, Nat.reduceMul, Nat.reduceAdd] <;> trivial
theorem fclass (o : Ops) : Statement (.fclass o) := rfl
theorem fscl (o : Ops) : Statement (.fscl o) := rfl
theorem cvt (src : VFmt) (dst : VFmt) (o : Ops) : Statement (.cvt src dst o) := by
  cases src <;> cases dst <;> simp only [Statement, Instr.enc, VFmt.code, Nat.reduceMul, Nat.reduceAdd] <;> trivial
theorem cvtb (dst : B8) (o : Ops) : Statement (.cvtb dst o) := by cases dst <;> trivial
theorem cvtn (o : Ops) : Statement (.cvtn o) := rfl
theorem cvtx (src : XFmt) (o : Ops) : Statement (.cvtx src o) := by cases src <;> trivial
theorem redtAdd (t : RTy) (o : Ops) : Statement (.redtAdd t o) := by
  cases t <;> simp only [Statement, Instr.enc, RTy.code] <;> trivial
theorem redtMax (t : RTy) (o : Ops) : Statement (.redtMax t o) := by
  cases t <;> simp only [Statement, Instr.enc, RTy.code, Nat.reduceAdd] <;> trivial
theorem redtMin (t : RTy) (o : Ops) : Statement (.redtMin t o) := by
  cases t <;> simp only [Statement, Instr.enc, RTy.code, Nat.reduceAdd] <;> trivial
theorem scan (t : RTy) (o : Ops) : Statement (.scan t o) := by cases t <;> trivial
theorem sample (o : Ops) : Statement (.sample o) := rfl
theorem rngk (o : Ops) : Statement (.rngk o) := rfl
theorem rngu (t : UTy) (o : Ops) : Statement (.rngu t o) := by cases t <;> trivial
theorem rngn (o : Ops) : Statement (.rngn o) := rfl
theorem vmask (o : Ops) : Statement (.vmask o) := rfl
theorem dorg (i : BitVec 2) (o : Ops) : Statement (.dorg i o) := by
  have h : ∀ n : BitVec 2, n = 0#2 ∨ n = 1#2 ∨ n = 2#2 ∨ n = 3#2 := by decide
  rcases h i with rfl | rfl | rfl | rfl <;> simp only [Statement, Instr.enc, BitVec.toNat_ofNat, Nat.reduceMul, Nat.reduceMod, Nat.reducePow] <;> trivial
theorem dset (f : Form) (o : Ops) : Statement (.dset f o) := by cases f <;> trivial
theorem dadd (f : Form) (o : Ops) : Statement (.dadd f o) := by cases f <;> trivial
theorem dsub (f : Form) (o : Ops) : Statement (.dsub f o) := by cases f <;> trivial
theorem dmul (f : Form) (o : Ops) : Statement (.dmul f o) := by cases f <;> trivial
theorem dfma (f : Form) (o : Ops) : Statement (.dfma f o) := by cases f <;> trivial
theorem ddiv (f : Form) (o : Ops) : Statement (.ddiv f o) := by cases f <;> trivial
theorem drcp (f : Form) (o : Ops) : Statement (.drcp f o) := by cases f <;> trivial
theorem dsqrt (f : Form) (o : Ops) : Statement (.dsqrt f o) := by cases f <;> trivial
theorem dexp (f : Form) (o : Ops) : Statement (.dexp f o) := by cases f <;> trivial
theorem dlog (f : Form) (o : Ops) : Statement (.dlog f o) := by cases f <;> trivial
theorem dtanh (f : Form) (o : Ops) : Statement (.dtanh f o) := by cases f <;> trivial
theorem dsigm (f : Form) (o : Ops) : Statement (.dsigm f o) := by cases f <;> trivial
theorem dmax (f : Form) (o : Ops) : Statement (.dmax f o) := by cases f <;> trivial
theorem dmin (f : Form) (o : Ops) : Statement (.dmin f o) := by cases f <;> trivial
theorem dscl (f : Form) (o : Ops) : Statement (.dscl f o) := by cases f <;> trivial
theorem dvar (f : Form) (o : Ops) : Statement (.dvar f o) := by cases f <;> trivial
theorem dstd (f : Form) (o : Ops) : Statement (.dstd f o) := by cases f <;> trivial
theorem dsens (i : BitVec 2) (o : Ops) : Statement (.dsens i o) := by
  have h : ∀ n : BitVec 2, n = 0#2 ∨ n = 1#2 ∨ n = 2#2 ∨ n = 3#2 := by decide
  rcases h i with rfl | rfl | rfl | rfl <;> simp only [Statement, Instr.enc, BitVec.toNat_ofNat, Nat.reduceMul, Nat.reduceAdd, Nat.reduceMod, Nat.reducePow] <;> trivial
theorem dindep (o : Ops) : Statement (.dindep o) := rfl
theorem dtrk (o : Ops) : Statement (.dtrk o) := rfl
theorem dcvt (n : NFmt) (f : Form) (o : Ops) : Statement (.dcvt n f o) := by
  cases n <;> cases f <;> simp only [Statement, Instr.enc, NFmt.code, Form.code, Nat.reduceMul, Nat.reduceAdd] <;> trivial
theorem dred (f : Form) (o : Ops) : Statement (.dred f o) := by cases f <;> trivial
theorem ld (sc : Scope) (rh : Retain) (sz : Sz) (o : Ops) : Statement (.ld sc rh sz o) := by
  refine of_row rfl rfl ?_
  cases sc <;> cases rh <;> cases sz <;> simp only [memMod, Scope.code, Retain.code, Sz.code, Nat.reduceMul, Nat.reduceAdd] <;> trivial
theorem st (sc : Scope) (rh : Retain) (sz : Sz) (o : Ops) : Statement (.st sc rh sz o) := by
  refine of_row rfl rfl ?_
  cases sc <;> cases rh <;> cases sz <;> simp only [memMod, Scope.code, Retain.code, Sz.code, Nat.reduceMul, Nat.reduceAdd] <;> trivial
theorem lds (sz : Sz) (o : Ops) : Statement (.lds sz o) := by cases sz <;> trivial
theorem sts (sz : Sz) (o : Ops) : Statement (.sts sz o) := by cases sz <;> trivial
theorem ldv (sz : Sz) (o : Ops) : Statement (.ldv sz o) := by cases sz <;> trivial
theorem stv (sz : Sz) (o : Ops) : Statement (.stv sz o) := by cases sz <;> trivial
theorem pref (sc : Scope) (rh : Retain) (o : Ops) : Statement (.pref sc rh o) := by
  refine of_row rfl rfl ?_
  cases sc <;> cases rh <;> simp only [memMod, Scope.code, Retain.code, Sz.code, Nat.reduceMul, Nat.reduceAdd] <;> trivial
theorem cctlWb (sc : Scope) (o : Ops) : Statement (.cctlWb sc o) := by
  refine of_row rfl rfl ?_
  cases sc <;> simp only [Scope.code, Nat.reduceMul] <;> trivial
theorem cctlInv (sc : Scope) (o : Ops) : Statement (.cctlInv sc o) := by
  refine of_row rfl rfl ?_
  cases sc <;> simp only [Scope.code, Nat.reduceMul, Nat.reduceAdd] <;> trivial
theorem cctlWbinv (sc : Scope) (o : Ops) : Statement (.cctlWbinv sc o) := by
  refine of_row rfl rfl ?_
  cases sc <;> simp only [Scope.code, Nat.reduceMul, Nat.reduceAdd] <;> trivial
theorem ldrg (sc : Scope) (rh : Retain) (o : Ops) : Statement (.ldrg sc rh o) := by
  refine of_row rfl rfl ?_
  cases sc <;> cases rh <;> simp only [memMod, Scope.code, Retain.code, Sz.code, Nat.reduceMul, Nat.reduceAdd] <;> trivial
theorem fence (sc : Scope) (o : Ops) : Statement (.fence sc o) := by
  refine of_row rfl rfl ?_
  cases sc <;> simp only [Scope.code, Nat.reduceMul] <;> trivial
theorem fenceSc (sc : Scope) (o : Ops) : Statement (.fenceSc sc o) := by
  refine of_row rfl rfl ?_
  cases sc <;> simp only [Scope.code, Nat.reduceMul, Nat.reduceAdd] <;> trivial
theorem atom (sc : Scope) (w64 : Bool) (op : Aop) (o : Ops) : Statement (.atom sc w64 op o) := by
  refine of_row rfl rfl ?_
  cases sc <;> cases w64 <;> cases op <;> simp only [atomMod, Scope.code, Bool.toNat, Aop.code, Nat.reduceMul] <;> trivial
theorem atoms (sc : Scope) (w64 : Bool) (op : Aop) (o : Ops) : Statement (.atoms sc w64 op o) := by
  refine of_row rfl rfl ?_
  cases sc <;> cases w64 <;> cases op <;> simp only [atomMod, Scope.code, Bool.toNat, Aop.code, Nat.reduceMul] <;> trivial
theorem datom (sc : Scope) (o : Ops) : Statement (.datom sc o) := by
  refine of_row rfl rfl ?_
  cases sc <;> simp only [Scope.code, Nat.reduceMul, Nat.reduceAdd] <;> trivial
theorem dflush (sc : Scope) (o : Ops) : Statement (.dflush sc o) := by
  refine of_row rfl rfl ?_
  cases sc <;> simp only [Scope.code, Nat.reduceMul] <;> trivial
theorem dstat (sc : Scope) (o : Ops) : Statement (.dstat sc o) := by
  refine of_row rfl rfl ?_
  cases sc <;> simp only [Scope.code, Nat.reduceMul] <;> trivial
theorem radd (sc : Scope) (o : Ops) : Statement (.radd sc o) := by
  refine of_row rfl rfl ?_
  cases sc <;> simp only [Scope.code, Nat.reduceMul, Nat.reduceAdd] <;> trivial
theorem rmerge (sc : Scope) (o : Ops) : Statement (.rmerge sc o) := by
  refine of_row rfl rfl ?_
  cases sc <;> simp only [Scope.code, Nat.reduceMul, Nat.reduceAdd] <;> trivial
theorem binit (sc : Scope) (o : Ops) : Statement (.binit sc o) := by
  refine of_row rfl rfl ?_
  cases sc <;> simp only [Scope.code, Nat.reduceMul] <;> trivial
theorem barr (o : Ops) : Statement (.barr o) := rfl
theorem barrBytes (o : Ops) : Statement (.barrBytes o) := rfl
theorem bexp (o : Ops) : Statement (.bexp o) := rfl
theorem bwait (o : Ops) : Statement (.bwait o) := rfl
theorem btry (o : Ops) : Statement (.btry o) := rfl
theorem watch (i : BitVec 2) (o : Ops) : Statement (.watch i o) := by (obtain ⟨⟨n, h⟩⟩ := i; change n < 4 at h; interval_cases n) <;> trivial
theorem send (ch : BitVec 6) (o : Ops) : Statement (.send ch o) := by
  refine of_row rfl rfl ?_
  obtain ⟨k, hk, rfl⟩ : ∃ k, k < 64 ∧ ch = BitVec.ofNat 6 k := ⟨ch.toNat, ch.isLt, by simp⟩
  interval_cases k <;> simp only [BitVec.toNat_ofNat, Nat.reduceMod, Nat.reducePow] <;> trivial
theorem recv (ch : BitVec 6) (o : Ops) : Statement (.recv ch o) := by
  refine of_row rfl rfl ?_
  obtain ⟨k, hk, rfl⟩ : ∃ k, k < 64 ∧ ch = BitVec.ofNat 6 k := ⟨ch.toNat, ch.isLt, by simp⟩
  interval_cases k <;> simp only [BitVec.toNat_ofNat, Nat.reduceMod, Nat.reducePow] <;> trivial
theorem recvTry (ch : BitVec 6) (o : Ops) : Statement (.recvTry ch o) := by
  refine of_row rfl rfl ?_
  obtain ⟨k, hk, rfl⟩ : ∃ k, k < 64 ∧ ch = BitVec.ofNat 6 k := ⟨ch.toNat, ch.isLt, by simp⟩
  interval_cases k <;> simp only [BitVec.toNat_ofNat, Nat.reduceAdd, Nat.reduceMod, Nat.reducePow] <;> trivial
theorem sendr (ch : BitVec 6) (o : Ops) : Statement (.sendr ch o) := by
  refine of_row rfl rfl ?_
  obtain ⟨k, hk, rfl⟩ : ∃ k, k < 64 ∧ ch = BitVec.ofNat 6 k := ⟨ch.toNat, ch.isLt, by simp⟩
  interval_cases k <;> simp only [BitVec.toNat_ofNat, Nat.reduceMod, Nat.reducePow] <;> trivial
theorem mcst (ch : BitVec 6) (o : Ops) : Statement (.mcst ch o) := by
  refine of_row rfl rfl ?_
  obtain ⟨k, hk, rfl⟩ : ∃ k, k < 64 ∧ ch = BitVec.ofNat 6 k := ⟨ch.toNat, ch.isLt, by simp⟩
  interval_cases k <;> simp only [BitVec.toNat_ofNat, Nat.reduceMod, Nat.reducePow] <;> trivial
theorem chqFree (ch : BitVec 6) (o : Ops) : Statement (.chqFree ch o) := by
  refine of_row rfl rfl ?_
  obtain ⟨k, hk, rfl⟩ : ∃ k, k < 64 ∧ ch = BitVec.ofNat 6 k := ⟨ch.toNat, ch.isLt, by simp⟩
  interval_cases k <;> simp only [BitVec.toNat_ofNat, Nat.reduceMod, Nat.reducePow] <;> trivial
theorem chqFilled (ch : BitVec 6) (o : Ops) : Statement (.chqFilled ch o) := by
  refine of_row rfl rfl ?_
  obtain ⟨k, hk, rfl⟩ : ∃ k, k < 64 ∧ ch = BitVec.ofNat 6 k := ⟨ch.toNat, ch.isLt, by simp⟩
  interval_cases k <;> simp only [BitVec.toNat_ofNat, Nat.reduceAdd, Nat.reduceMod, Nat.reducePow] <;> trivial
theorem mld (m : BitVec 3) (o : Ops) : Statement (.mld m o) := by (obtain ⟨⟨n, h⟩⟩ := m; change n < 8 at h; interval_cases n) <;> trivial
theorem tld (m : BitVec 3) (o : Ops) : Statement (.tld m o) := by (obtain ⟨⟨n, h⟩⟩ := m; change n < 8 at h; interval_cases n) <;> trivial
theorem tldTrn (m : BitVec 3) (o : Ops) : Statement (.tldTrn m o) := by
  refine of_row rfl rfl ?_
  obtain ⟨k, hk, rfl⟩ : ∃ k, k < 8 ∧ m = BitVec.ofNat 3 k := ⟨m.toNat, m.isLt, by simp⟩
  interval_cases k <;> simp only [BitVec.toNat_ofNat, Nat.reduceAdd, Nat.reduceMod, Nat.reducePow] <;> trivial
theorem tst (m : BitVec 3) (o : Ops) : Statement (.tst m o) := by (obtain ⟨⟨n, h⟩⟩ := m; change n < 8 at h; interval_cases n) <;> trivial
theorem mma (acc : Bool) (mb : BitVec 3) (ma : BitVec 3) (o : Ops) : Statement (.mma acc mb ma o) := by
  refine of_row rfl rfl ?_
  obtain ⟨k, hk, rfl⟩ : ∃ k, k < 8 ∧ mb = BitVec.ofNat 3 k := ⟨mb.toNat, mb.isLt, by simp⟩
  obtain ⟨j, hj, rfl⟩ : ∃ j, j < 8 ∧ ma = BitVec.ofNat 3 j := ⟨ma.toNat, ma.isLt, by simp⟩
  cases acc <;> interval_cases k <;> interval_cases j <;>
    simp only [Bool.toNat, cond_true, cond_false, BitVec.toNat_ofNat, Nat.reduceMul, Nat.reduceAdd, Nat.reduceMod, Nat.reducePow] <;> trivial
theorem mzero (acc : Bool) (o : Ops) : Statement (.mzero acc o) := by
  refine of_row rfl rfl ?_
  cases acc <;> trivial
theorem mrd (acc : Bool) (o : Ops) : Statement (.mrd acc o) := by
  refine of_row rfl rfl ?_
  cases acc <;> trivial
theorem mwr (acc : Bool) (o : Ops) : Statement (.mwr acc o) := by
  refine of_row rfl rfl ?_
  cases acc <;> trivial
theorem mperm (m : BitVec 3) (o : Ops) : Statement (.mperm m o) := by (obtain ⟨⟨n, h⟩⟩ := m; change n < 8 at h; interval_cases n) <;> trivial
theorem mqry (o : Ops) : Statement (.mqry o) := rfl
theorem job (o : Ops) : Statement (.job o) := rfl
theorem jqry (o : Ops) : Statement (.jqry o) := rfl
theorem launch (o : Ops) : Statement (.launch o) := rfl
theorem gsig (o : Ops) : Statement (.gsig o) := rfl
theorem taskget (o : Ops) : Statement (.taskget o) := rfl
theorem taskgetNb (o : Ops) : Statement (.taskgetNb o) := rfl
theorem taskdone (o : Ops) : Statement (.taskdone o) := rfl
theorem taskadd (o : Ops) : Statement (.taskadd o) := rfl
theorem cbind (o : Ops) : Statement (.cbind o) := rfl
theorem cmaskS (o : Ops) : Statement (.cmaskS o) := rfl
theorem cmaskV (o : Ops) : Statement (.cmaskV o) := rfl
theorem cmaskM (o : Ops) : Statement (.cmaskM o) := rfl
theorem cfeed (o : Ops) : Statement (.cfeed o) := rfl
theorem cfork (o : Ops) : Statement (.cfork o) := rfl
theorem croll (o : Ops) : Statement (.croll o) := rfl
theorem cdrop (o : Ops) : Statement (.cdrop o) := rfl
theorem csave (o : Ops) : Statement (.csave o) := rfl
theorem cload (o : Ops) : Statement (.cload o) := rfl
theorem cstat (o : Ops) : Statement (.cstat o) := rfl
theorem sysr (o : Ops) : Statement (.sysr o) := rfl
theorem sysw (o : Ops) : Statement (.sysw o) := rfl
theorem step (o : Ops) : Statement (.step o) := rfl
theorem evt (o : Ops) : Statement (.evt o) := rfl
theorem clock (o : Ops) : Statement (.clock o) := rfl
theorem pathFill (g : Key) : Statement (.pathFill g) := trivial
theorem growGrant (q : Key) : Statement (.growGrant q) := trivial
theorem mmaStart (q : Key) : Statement (.mmaStart q) := trivial
theorem mmaComplete (q : Key) : Statement (.mmaComplete q) := trivial
theorem mouldTransferDone (id : Key) : Statement (.mouldTransferDone id) := trivial
theorem loadReturn (iid : Key) : Statement (.loadReturn iid) := trivial
theorem accessPerform (id : Key) : Statement (.accessPerform id) := trivial
theorem replicaInvalidate (die : Key) (sector : Key) : Statement (.replicaInvalidate die sector) := trivial
theorem sectorConvert (sector : Key) (cols : Bool) (wide : Bool) : Statement (.sectorConvert sector cols wide) := trivial
theorem datomArrival (id : Key) : Statement (.datomArrival id) := trivial
theorem dflushPerform (id : Key) : Statement (.dflushPerform id) := trivial
theorem barrierUnitOp (rid : Key) : Statement (.barrierUnitOp rid) := trivial
theorem engineBytesLand (job : Key) (n : Key) : Statement (.engineBytesLand job n) := trivial
theorem watchFire (core : Key) (i : Key) : Statement (.watchFire core i) := trivial
theorem fenceComplete (g : Key) (p : Key) : Statement (.fenceComplete g p) := trivial
theorem sendInject (id : Key) : Statement (.sendInject id) := trivial
theorem channelPacketArrive (id : Key) : Statement (.channelPacketArrive id) := trivial
theorem allowanceReturn (id : Key) : Statement (.allowanceReturn id) := trivial
theorem faultRecordPost (id : Key) : Statement (.faultRecordPost id) := trivial
theorem resolveReplay (p : Key) (die : Key) (id : Key) : Statement (.resolveReplay p die id) := trivial
theorem resolveProtection (p : Key) (die : Key) (id : Key) : Statement (.resolveProtection p die id) := trivial
theorem resolveMchk (p : Key) (die : Key) (id : Key) : Statement (.resolveMchk p die id) := trivial
theorem longHandler (g : Key) : Statement (.longHandler g) := trivial
theorem watchdog (g : Key) : Statement (.watchdog g) := trivial
theorem pathBoost (g : Key) (p : Key) : Statement (.pathBoost g p) := trivial
theorem chainInterrupt (q : Key) : Statement (.chainInterrupt q) := trivial
theorem stallSample (q : Key) : Statement (.stallSample q) := trivial
theorem traceRecord (die : Key) (src : Key) : Statement (.traceRecord die src) := trivial
theorem traceGo (die : Key) : Statement (.traceGo die) := trivial
theorem filterLoad (die : Key) (v : W32) : Statement (.filterLoad die v) := trivial
theorem tholdSet (die : Key) (v : W32) : Statement (.tholdSet die v) := trivial
theorem tholdClr (die : Key) (v : W32) : Statement (.tholdClr die v) := trivial
theorem traceOwner (v : W64) : Statement (.traceOwner v) := trivial
theorem queueTailWrite (p : Key) (die : Key) (q : Key) (tail : W16) : Statement (.queueTailWrite p die q tail) := trivial
theorem dispatchEntry (p : Key) (die : Key) (q : Key) : Statement (.dispatchEntry p die q) := trivial
theorem launchEnqueue (id : Key) : Statement (.launchEnqueue id) := trivial
theorem kernelNodeStart (inst : Key) (node : Key) : Statement (.kernelNodeStart inst node) := trivial
theorem clusterPlace (launch : Key) : Statement (.clusterPlace launch) := trivial
theorem coschedPlace (launch : Key) : Statement (.coschedPlace launch) := trivial
theorem jobsetNode (inst : Key) (node : Key) : Statement (.jobsetNode inst node) := trivial
theorem condNode (inst : Key) (node : Key) : Statement (.condNode inst node) := trivial
theorem loopNodeIteration (inst : Key) (node : Key) : Statement (.loopNodeIteration inst node) := trivial
theorem graphNode (inst : Key) (node : Key) : Statement (.graphNode inst node) := trivial
theorem eventNode (inst : Key) (node : Key) : Statement (.eventNode inst node) := trivial
theorem hostNodePost (inst : Key) (node : Key) : Statement (.hostNodePost inst node) := trivial
theorem hostDone (inst : Key) (node : Key) (v : W32) : Statement (.hostDone inst node v) := trivial
theorem nodeComplete (inst : Key) (node : Key) : Statement (.nodeComplete inst node) := trivial
theorem jobStart (job : Key) : Statement (.jobStart job) := trivial
theorem jobComplete (job : Key) : Statement (.jobComplete job) := trivial
theorem jobFail (job : Key) (cause : Key) : Statement (.jobFail job cause) := trivial
theorem jobStop (job : Key) : Statement (.jobStop job) := trivial
theorem genRaise (p : Key) (asid : Key) : Statement (.genRaise p asid) := trivial
theorem genRaiseDone (p : Key) (asid : Key) : Statement (.genRaiseDone p asid) := trivial
theorem shootdownReceive (p : Key) (asid : Key) (depth : Key) (children : List Key) : Statement (.shootdownReceive p asid depth children) := trivial
theorem shootdownAck (p : Key) (asid : Key) (child : Key) (count : Key) (silent : List Key) : Statement (.shootdownAck p asid child count silent) := trivial
theorem shootdownChildTimeout (p : Key) (asid : Key) : Statement (.shootdownChildTimeout p asid) := trivial
theorem shootdownTimeout (p : Key) (asid : Key) : Statement (.shootdownTimeout p asid) := trivial
theorem peerInbound (r : PeerReq) : Statement (.peerInbound r) := trivial
theorem peerReply (id : Key) (cause : Key) (data : W64) (data2 : W64) : Statement (.peerReply id cause data data2) := trivial
theorem remoteTimeout (id : Key) : Statement (.remoteTimeout id) := trivial
theorem migrateMove (p : Key) (die : Key) (asid : Key) : Statement (.migrateMove p die asid) := trivial
theorem migrateRelease (p : Key) (die : Key) : Statement (.migrateRelease p die) := trivial
theorem migrateCopyDone (p : Key) (die : Key) (failed : Bool) : Statement (.migrateCopyDone p die failed) := trivial
theorem pinExpire (stack : Key) (asid : Key) (vpage : Key) : Statement (.pinExpire stack asid vpage) := trivial
theorem preemptGo (p : Key) (die : Key) (all : Bool) : Statement (.preemptGo p die all) := trivial
theorem preemptStop (g : Key) : Statement (.preemptStop g) := trivial
theorem preemptStopBound (g : Key) : Statement (.preemptStopBound g) := trivial
theorem preemptDone (p : Key) (die : Key) : Statement (.preemptDone p die) := trivial
theorem resumeaWrite (p : Key) (die : Key) (v : W64) : Statement (.resumeaWrite p die v) := trivial
theorem teamRestore (i : Key) (core : Key) : Statement (.teamRestore i core) := trivial
theorem creset (p : Key) (die : Key) (desc : Key) (clid : Key) : Statement (.creset p die desc clid) := trivial
theorem groveDecrement (id : Key) : Statement (.groveDecrement id) := trivial
theorem coilMaskWalk (die : Key) : Statement (.coilMaskWalk die) := trivial
theorem coilFeedWalk (die : Key) : Statement (.coilFeedWalk die) := trivial
theorem maskUnitLand (id : Key) (unit : Key) : Statement (.maskUnitLand id unit) := trivial
theorem stepPerform (p : Key) : Statement (.stepPerform p) := trivial
theorem sweepRoundStart (p : Key) (asid : Key) (k : Key) : Statement (.sweepRoundStart p asid k) := trivial
theorem sweepBeat (stack : Key) : Statement (.sweepBeat stack) := trivial
theorem sweepRoundEnd (p : Key) (asid : Key) (k : Key) : Statement (.sweepRoundEnd p asid k) := trivial
theorem decaywGo (p : Key) (v : W64) : Statement (.decaywGo p v) := trivial
theorem decaywDone (p : Key) : Statement (.decaywDone p) := trivial
theorem budgetPeriod (p : Key) (a : Key) : Statement (.budgetPeriod p a) := trivial
theorem pcmdCreate (t : Key) (regions : Key) : Statement (.pcmdCreate t regions) := trivial
theorem pcmdMerge (s : Key) (t : Key) : Statement (.pcmdMerge s t) := trivial
theorem pcmdSplit (s : Key) (t : Key) (regions : Key) : Statement (.pcmdSplit s t regions) := trivial
theorem pcmdStop (s : Key) : Statement (.pcmdStop s) := trivial
theorem pcmdRerange (rng : Key) : Statement (.pcmdRerange rng) := trivial
theorem quiesceDrained : Statement (.quiesceDrained) := trivial
theorem quiesceTimeout : Statement (.quiesceTimeout) := trivial
theorem partitionBoot (p : Key) : Statement (.partitionBoot p) := trivial
theorem coldStart : Statement (.coldStart) := trivial
theorem warm (recordsValid : Bool) : Statement (.warm recordsValid) := trivial
theorem start : Statement (.start) := trivial
theorem startPhaseTimeout : Statement (.startPhaseTimeout) := trivial
theorem attestGo (p : Key) : Statement (.attestGo p) := trivial
theorem attestDone (p : Key) : Statement (.attestDone p) := trivial
theorem retireCore (die : Key) (idx : Key) : Statement (.retireCore die idx) := trivial
theorem hbmRow (pa : Key) : Statement (.hbmRow pa) := trivial
theorem hbmChannel (pa : Key) : Statement (.hbmChannel pa) := trivial
theorem sramRow (die : Key) (str : Key) (row : Key) : Statement (.sramRow die str row) := trivial
theorem lane (dir : Key) (grp : Key) : Statement (.lane dir grp) := trivial
theorem port (n : Key) : Statement (.port n) := trivial
theorem ccore (n : Key) : Statement (.ccore n) := trivial
theorem repairBlockMove : Statement (.repairBlockMove) := trivial
theorem repairDone (ok : Bool) : Statement (.repairDone ok) := trivial
theorem eccCorrected (e : EccSite) : Statement (.eccCorrected e) := trivial
theorem eccUncorrectable (e : EccSite) : Statement (.eccUncorrectable e) := trivial
theorem flitCrcError (dir : Key) (grp : Key) : Statement (.flitCrcError dir grp) := trivial
theorem scrubBeat (unit : Key) : Statement (.scrubBeat unit) := trivial
theorem heartbeat : Statement (.heartbeat) := trivial
theorem heartbeatMiss (pkg : Key) : Statement (.heartbeatMiss pkg) := trivial
theorem shadowAck (p : Key) (i : Key) : Statement (.shadowAck p i) := trivial
theorem buddyMap (pkg : Key) (p : Key) (i : Key) (frame : Key) (asid : Key) (vpage : Key) : Statement (.buddyMap pkg p i frame asid vpage) := trivial
theorem firmwareUpdate (kind : Key) (image : List Byte) (sigOk : Bool) : Statement (.firmwareUpdate kind image sigOk) := trivial
theorem microcodeLoad (unit : Key) : Statement (.microcodeLoad unit) := trivial
theorem powerThrottle (island : Key) (freq : Key) : Statement (.powerThrottle island freq) := trivial
theorem registerWrite (w : CsWrite) : Statement (.registerWrite w) := trivial
theorem shadowMirrorReceive (pkg : Key) (p : Key) (i : Key) (pa : Key) (data : List Byte) : Statement (.shadowMirrorReceive pkg p i pa data) := trivial
theorem heartbeatReceive (pkg : Key) : Statement (.heartbeatReceive pkg) := trivial
theorem powerFail : Statement (.powerFail) := trivial

end Sys2Proof.Laws.Spelling
end

