-- ==== Sys2Proof/Laws/Registers.lean ====
section
/-! SUPPORT. What writing registers does: reading a vector, uniform, predicate or affine register or a latch after a write, and what the shared results of an
instruction write in all. -/

namespace Sys2Proof.Machine

/-! ### Lanes -/

theorem mem_lanes (m : Mask) (i : Nat) : i ∈ lanes m ↔ i < 64 ∧ m.getLsbD i = true := by
  simp [lanes, List.mem_filter]

theorem maskFilter_getLsbD (m : Mask) (p : Nat → Bool) (i : Nat) : (maskFilter m p).getLsbD i = (m.getLsbD i && p i) := by
  have key : ∀ (ls : List Nat) (acc : Mask), (∀ x ∈ ls, x < 64) →
      (ls.foldl (fun acc i => if p i then acc ||| (1#64 <<< i) else acc) acc).getLsbD i = (acc.getLsbD i || (decide (i ∈ ls) && p i)) := by
    intro ls
    induction ls with
    | nil => intro acc _; simp
    | cons x ls ih =>
      intro acc h
      have hx : x < 64 := h x (by simp)
      rw [List.foldl_cons, ih _ (fun y hy => h y (by simp [hy]))]
      by_cases hi : i = x
      · subst hi
        by_cases hp : p i
        · simp [hp, hx]
        · simp [hp]
      · have e1 : (i < x ∨ ¬ (i - x = 0)) := by omega
        by_cases hp : p x
        · simp only [hp, if_true, BitVec.getLsbD_or, BitVec.getLsbD_shiftLeft, BitVec.getLsbD_one, List.mem_cons, hi, false_or]
          rcases e1 with h1 | h1
          · simp [h1]
          · simp [h1]
        · simp [hp, hi]
  unfold maskFilter
  rw [key (lanes m) 0 (fun x hx => ((mem_lanes m x).1 hx).1)]
  by_cases h : i < 64
  · rw [show decide (i ∈ lanes m) = m.getLsbD i by
      rw [Bool.eq_iff_iff]; simp only [decide_eq_true_eq, mem_lanes, h, true_and]]
    simp
  · have : m.getLsbD i = false := BitVec.getLsbD_of_ge m i (by omega)
    simp [mem_lanes, h, this]

/-! ### One register -/

theorem wordAt_succ (v k : Nat) : wordAt (v / 2 ^ 32) k = wordAt v (k + 1) := by
  unfold wordAt
  rw [Nat.div_div_eq_div_mul, ← Nat.pow_add, show 32 + 32 * k = 32 * (k + 1) by ring]

theorem wordAt_zero (v : Nat) : wordAt v 0 = BitVec.ofNat 32 v := by simp [wordAt]

theorem vec_setVec (w : Nat) (g : Group) (lane r v l x : Nat) (hl : lane < 64) (hl' : l < 64) (hx : x < 256) (hr : r ≤ 255) :
    (g.setVec lane r v w).vec l x = if l = lane ∧ r ≤ x ∧ x < r + w ∧ x ≠ 255 then wordAt v (x - r) else g.vec l x := by
  induction w generalizing g r v with
  | zero =>
    have : ¬ (l = lane ∧ r ≤ x ∧ x < r + 0 ∧ x ≠ 255) := by omega
    rw [if_neg this]; rfl
  | succ w ih =>
    unfold Group.setVec
    by_cases h : r = 255
    · have : ¬ (l = lane ∧ r ≤ x ∧ x < r + (w + 1) ∧ x ≠ 255) := by omega
      rw [if_neg this]; simp [h]
    · rw [if_neg (by simpa using h), ih _ _ _ (by omega)]
      by_cases h1 : l = lane ∧ r + 1 ≤ x ∧ x < r + 1 + w ∧ x ≠ 255
      · rw [if_pos h1, if_pos (by omega), wordAt_succ]
        congr 1
        omega
      · rw [if_neg h1]
        unfold Group.vec
        simp only [zget_zset]
        by_cases h2 : x = 255
        · simp [h2]
        · simp only [beq_iff_eq, h2, if_false]
          by_cases h3 : x * 64 + l = r * 64 + lane
          · have : l = lane ∧ x = r := by omega
            obtain ⟨rfl, rfl⟩ := this
            rw [if_pos rfl, if_pos (by omega)]
            simp [wordAt]
          · rw [if_neg h3, if_neg (by omega)]

theorem uni_setUni (w : Nat) (g : Group) (r v x : Nat) :
    (g.setUni r v w).uni x = if r ≤ x ∧ x < r + w then wordAt v (x - r) else g.uni x := by
  induction w generalizing g r v with
  | zero =>
    have : ¬ (r ≤ x ∧ x < r + 0) := by omega
    rw [if_neg this]; rfl
  | succ w ih =>
    unfold Group.setUni
    rw [ih]
    by_cases h1 : r + 1 ≤ x ∧ x < r + 1 + w
    · rw [if_pos h1, if_pos (by omega), wordAt_succ]
      congr 1
      omega
    · rw [if_neg h1]
      unfold Group.uni
      simp only [zget_zset]
      by_cases h3 : x = r
      · subst h3
        rw [if_pos rfl, if_pos (by omega)]
        simp [wordAt]
      · rw [if_neg h3, if_neg (by omega)]

/-- Writing vector registers changes nothing else of a group. -/
theorem setVec_frame (w : Nat) (g : Group) (lane r v : Nat) : ∃ x, g.setVec lane r v w = { g with v := x } := by
  induction w generalizing g r v with
  | zero => exact ⟨g.v, rfl⟩
  | succ w ih =>
    unfold Group.setVec
    split_ifs
    · exact ⟨g.v, rfl⟩
    · exact ih _ _ _

theorem setUni_frame (w : Nat) (g : Group) (r v : Nat) : ∃ x, g.setUni r v w = { g with s := x } := by
  induction w generalizing g r v with
  | zero => exact ⟨g.s, rfl⟩
  | succ w ih => exact ih _ _ _

theorem setPred_frame (g : Group) (n lane : Nat) (b : Bool) : ∃ x, g.setPred n lane b = { g with p := x } := by
  unfold Group.setPred
  split_ifs
  · exact ⟨g.p, rfl⟩
  · exact ⟨_, rfl⟩
  · exact ⟨_, rfl⟩

theorem pred_setPred (g : Group) (n lane : Nat) (b : Bool) (k l : Nat) (hl : lane < 64) (hl' : l < 64) :
    (g.setPred n lane b).pred k l = if k = n ∧ n ≠ 7 ∧ l = lane then b else g.pred k l := by
  unfold Group.setPred
  by_cases h7 : n = 7
  · have : ¬ (k = n ∧ n ≠ 7 ∧ l = lane) := by omega
    rw [if_neg this]; simp [h7]
  · rw [if_neg (by simpa using h7)]
    unfold Group.pred
    simp only [zget_zset]
    by_cases hk : k = n
    · subst hk
      have h7' : (k == 7) = false := by simpa using h7
      simp only [h7', Bool.false_or, if_true, true_and, ne_eq, h7, not_false_eq_true]
      by_cases hll : l = lane
      · subst hll
        cases b <;> simp [hl']
      · have e1 : l < lane ∨ ¬ (l - lane = 0) := by omega
        cases b
        · rw [if_neg (show ¬ l = lane from hll)]
          simp only [Bool.false_eq_true, if_false, BitVec.getLsbD_and, BitVec.getLsbD_not, BitVec.getLsbD_shiftLeft, BitVec.getLsbD_one, hl']
          rcases e1 with h1 | h1 <;> simp [h1]
        · rw [if_neg (show ¬ l = lane from hll)]
          simp only [if_true, BitVec.getLsbD_or, BitVec.getLsbD_shiftLeft, BitVec.getLsbD_one, hl']
          rcases e1 with h1 | h1 <;> simp [h1]
    · rw [if_neg hk, if_neg (by tauto)]

/-! ### Many lanes -/

/-- A vector destination written in the lanes of a list. -/
theorem vec_fold (ls : List Nat) (n : BitVec 8) (f : Nat → Nat) (w : Nat) (g : Group) (l x : Nat) (h : ∀ i ∈ ls, i < 64) (hl : l < 64) (hx : x < 256) :
    (ls.foldl (fun g i => g.setSel (.v n) i (f i) w) g).vec l x =
      if l ∈ ls ∧ n.toNat ≤ x ∧ x < n.toNat + w ∧ x ≠ 255 then wordAt (f l) (x - n.toNat) else g.vec l x := by
  induction ls generalizing g with
  | nil => simp
  | cons i ls ih =>
    rw [List.foldl_cons, ih _ (fun j hj => h j (by simp [hj]))]
    by_cases h1 : l ∈ ls ∧ n.toNat ≤ x ∧ x < n.toNat + w ∧ x ≠ 255
    · rw [if_pos h1, if_pos ⟨by simp [h1.1], h1.2⟩]
    · rw [if_neg h1]
      show (g.setVec i n.toNat (f i) w).vec l x = _
      rw [vec_setVec w g i n.toNat (f i) l x (h i (by simp)) hl hx (by have := n.isLt; omega)]
      by_cases h2 : l = i
      · subst h2
        by_cases h3 : n.toNat ≤ x ∧ x < n.toNat + w ∧ x ≠ 255
        · rw [if_pos ⟨rfl, h3⟩, if_pos ⟨by simp, h3⟩]
        · rw [if_neg (by tauto), if_neg (by tauto)]
      · rw [if_neg (by tauto), if_neg (by simp [h2]; tauto)]

theorem vec_fold_frame (ls : List Nat) (n : BitVec 8) (f : Nat → Nat) (w : Nat) (g : Group) :
    ∃ x, ls.foldl (fun g i => g.setSel (.v n) i (f i) w) g = { g with v := x } := by
  induction ls generalizing g with
  | nil => exact ⟨g.v, rfl⟩
  | cons i ls ih =>
    obtain ⟨x, hx⟩ := setVec_frame w g i n.toNat (f i)
    obtain ⟨y, hy⟩ := ih (g.setSel (.v n) i (f i) w)
    refine ⟨y, ?_⟩
    rw [List.foldl_cons, hy, show g.setSel (.v n) i (f i) w = g.setVec i n.toNat (f i) w from rfl, hx]

/-- A predicate written in the lanes of a list. -/
theorem pred_fold (ls : List Nat) (n : Nat) (f : Nat → Bool) (g : Group) (k l : Nat) (h : ∀ i ∈ ls, i < 64) (hl : l < 64) :
    (ls.foldl (fun g i => g.setPred n i (f i)) g).pred k l = if k = n ∧ n ≠ 7 ∧ l ∈ ls then f l else g.pred k l := by
  induction ls generalizing g with
  | nil => simp
  | cons i ls ih =>
    rw [List.foldl_cons, ih _ (fun j hj => h j (by simp [hj]))]
    by_cases h1 : k = n ∧ n ≠ 7 ∧ l ∈ ls
    · rw [if_pos h1, if_pos ⟨h1.1, h1.2.1, by simp [h1.2.2]⟩]
    · rw [if_neg h1, pred_setPred g n i (f i) k l (h i (by simp)) hl]
      by_cases h2 : l = i
      · subst h2
        by_cases h3 : k = n ∧ n ≠ 7
        · rw [if_pos ⟨h3.1, h3.2, rfl⟩, if_pos ⟨h3.1, h3.2, by simp⟩]
        · rw [if_neg (by tauto), if_neg (by tauto)]
      · rw [if_neg (by tauto), if_neg (by simp [h2]; tauto)]

theorem pred_fold_frame (ls : List Nat) (n : Nat) (f : Nat → Bool) (g : Group) :
    ∃ x, ls.foldl (fun g i => g.setPred n i (f i)) g = { g with p := x } := by
  induction ls generalizing g with
  | nil => exact ⟨g.p, rfl⟩
  | cons i ls ih =>
    obtain ⟨x, hx⟩ := setPred_frame g n i (f i)
    obtain ⟨y, hy⟩ := ih (g.setPred n i (f i))
    exact ⟨y, by rw [List.foldl_cons, hy, hx]⟩

theorem latch_fold (ls : List Nat) (k : Nat) (f : Nat → Nat) (m : Map W32) (j l : Nat) (h : ∀ i ∈ ls, i < 64) (hl : l < 64) :
    zget (ls.foldl (fun m i => zset m (64 * k + i) (BitVec.ofNat 32 (f i))) m) (64 * j + l) =
      if j = k ∧ l ∈ ls then wordAt (f l) 0 else zget m (64 * j + l) := by
  induction ls generalizing m with
  | nil => simp
  | cons i ls ih =>
    have hi : i < 64 := h i (by simp)
    rw [List.foldl_cons, ih _ (fun j hj => h j (by simp [hj]))]
    by_cases h1 : j = k ∧ l ∈ ls
    · rw [if_pos h1, if_pos ⟨h1.1, by simp [h1.2]⟩]
    · rw [if_neg h1, zget_zset]
      by_cases h2 : j = k ∧ l = i
      · obtain ⟨rfl, rfl⟩ := h2
        rw [if_pos rfl, if_pos ⟨rfl, by simp⟩, wordAt_zero]
      · rw [if_neg (by omega), if_neg (by simp only [List.mem_cons]; tauto)]

theorem latchAt_setLatch (q : Quarter) (k : Nat) (ls : List Nat) (f : Nat → Nat) (j l : Nat) (h : ∀ i ∈ ls, i < 64) (hl : l < 64) :
    (q.setLatch k ls f).latchAt j l = if j = k ∧ l ∈ ls then wordAt (f l) 0 else q.latchAt j l := latch_fold ls k f q.latch j l h hl

/-! ### Results -/

/-- The destination of an instruction that writes results: vector registers, or with U = 1 uniform ones or none. -/
def Ctx.dstFits (e : Ctx) : Prop :=
  if e.o.hdr.u then (match e.o.d with | .s _ => True | .v n => n = 255 | _ => True) else (match e.o.d with | .s _ => False | _ => True)

theorem wrote_predicate {s : State} {e : Ctx} (he : Entered s e) (m : Mask) (f : Nat → Bool) :
    Wrote e (Writes.predicate e m f) (e.writePred e.o.d (lanes m) f) := by
  unfold Ctx.writePred
  split
  · rename_i n hd
    refine wrote_group he _ _ ?_ ?_ rfl rfl
    · obtain ⟨x, hx⟩ := pred_fold_frame (lanes m) n.toNat f e.g
      rw [hx]; rfl
    · obtain ⟨x, hx⟩ := pred_fold_frame (lanes m) n.toNat f e.g
      refine ⟨fun _ _ _ _ => by rw [hx]; rfl, fun _ _ => by rw [hx]; rfl, ?_, fun _ _ => by rw [hx]; rfl, fun _ _ _ _ => rfl⟩
      intro k hk l hl
      have := pred_fold (lanes m) n.toNat f e.g k l (fun i hi => ((mem_lanes m i).1 hi).1) hl
      have e2 : (Writes.predicate e m f).pred k l = if k = n.toNat ∧ n.toNat ≠ 7 ∧ l ∈ lanes m then some (f l) else none := by
        simp only [Writes.predicate, hd, mem_lanes, hl, true_and]
        by_cases h1 : k = n.toNat
        · subst h1; simp
        · simp [h1]
      rw [e2, this]
      split_ifs <;> rfl
  · rename_i hd
    have e2 : Writes.predicate e m f = {} := by
      unfold Writes.predicate
      congr 1
      funext k l
      split
      · rename_i n hn; exact absurd hn (hd n)
      · rfl
    rw [e2]
    exact wrote_nothing he

theorem vecWrites_off (d : Sel) (on : Nat → Bool) (w : Nat) (f : Nat → Nat) (h : ∀ l, on l = false) : vecWrites d on w f = fun _ _ => none := by
  funext l r
  unfold vecWrites
  split
  · simp [h]
  · rfl

theorem uniWrites_off (d : Sel) (w v : Nat) : uniWrites d false w v = fun _ => none := by
  funext r
  unfold uniWrites
  split <;> simp

theorem latchWrites_off (q : Nat) (on : Nat → Bool) (f : Nat → Nat) (h : ∀ l, on l = false) : latchWrites q on f = fun _ _ => none := by
  funext k l
  simp [latchWrites, h]

theorem wrote_uniform {s : State} {e : Ctx} (he : Entered s e) (w v : Nat) (hd : ∀ n, e.o.d = .v n → n = 255) :
    Wrote e (Writes.uniform e w v) (e.s.setUniform e.gk e.o.d w v) := by
  have none : (∀ g : Group, g.setSel e.o.d 0 v w = g) → Writes.uniform e w v = {} → Wrote e (Writes.uniform e w v) (e.s.setUniform e.gk e.o.d w v) := by
    intro e1 e2
    rw [e2]
    unfold State.setUniform
    refine wrote_group he _ _ ?_ ?_ rfl rfl
    · rw [e1]
    · rw [e1]; exact ⟨fun _ _ _ _ => rfl, fun _ _ => rfl, fun _ _ _ _ => rfl, fun _ _ => rfl, fun _ _ _ _ => rfl⟩
  cases h : e.o.d with
  | s n =>
    unfold State.setUniform
    obtain ⟨x, hx⟩ := setUni_frame w e.g n.toNat v
    refine wrote_group he _ _ ?_ ?_ rfl rfl
    · show e.g.setUni n.toNat v w = _
      rw [show e.g.setSel (.s n) 0 v w = e.g.setUni n.toNat v w from rfl, hx]; rfl
    · show Registers e _ (e.g.setUni n.toNat v w) _
      refine ⟨fun _ _ _ _ => by rw [hx]; rfl, ?_, fun _ _ _ _ => by rw [hx]; rfl, fun _ _ => by rw [hx]; rfl, fun _ _ _ _ => rfl⟩
      intro r _
      rw [uni_setUni]
      simp only [Writes.uniform, uniWrites, h]
      by_cases h1 : n.toNat ≤ r ∧ r < n.toNat + w
      · rw [if_pos h1]; simp [h1]
      · rw [if_neg h1, if_neg (by simpa using h1)]; rfl
  | v n =>
    have hn := hd n h
    subst hn
    rw [h] at none
    refine none ?_ (by unfold Writes.uniform; rw [h]; congr 1)
    intro g
    show g.setVec 0 255 v w = g
    cases w <;> simp [Group.setVec]
  | _ =>
    rw [h] at none
    exact none (fun _ => rfl) (by unfold Writes.uniform; rw [h]; congr 1)

/-- A latch written beside registers. -/
theorem Wrote.latch {e : Ctx} {w : Writes} {t : State} (h : Wrote e w t) (k : Nat) (m : Mask) (f : Nat → Nat) (hw : w.latch = fun _ _ => none) :
    Wrote e { w with latch := latchWrites k (fun l => m.getLsbD l) f } (t.setQuarter e.q ((t.quarter e.q).setLatch k (lanes m) f)) := by
  obtain ⟨h1, ⟨g, h2, h3, h6, h7, r1, r2, r3, r4, r5⟩, h5⟩ := h
  refine ⟨elsewhere_trans h1 (elsewhere_setQuarter _ _ _), ⟨g, h2, h3, h6, h7, r1, r2, r3, r4, ?_⟩, ?_⟩
  · intro j hj l hl
    rw [quarter_setQuarter_self, latchAt_setLatch _ _ _ _ _ _ (fun i hi => ((mem_lanes m i).1 hi).1) hl, r5 j hj l hl, hw]
    simp only [mem_lanes, hl, true_and, latchWrites]
    by_cases h6 : j = k ∧ m.getLsbD l = true
    · rw [if_pos h6, if_pos (by simp [h6.1, h6.2, -BitVec.getLsbD_eq_getElem])]; rfl
    · rw [if_neg h6, if_neg (by simpa [-BitVec.getLsbD_eq_getElem] using h6)]
  · rw [quarter_setQuarter_self]
    unfold Quarter.setLatch
    rw [h5]

/-- A vector destination written in the acting lanes. -/
theorem wrote_vec {s : State} {e : Ctx} (he : Entered s e) (w : Nat) (f : Nat → Nat) (hd : ∀ n, e.o.d ≠ .s n) :
    Wrote e { vec := vecWrites e.o.d (fun l => e.acts.getLsbD l) w f }
      (e.s.modGroup e.gk (fun g => (lanes e.acts).foldl (fun g i => g.setSel e.o.d i (f i) w) g)) := by
  have none : (∀ g : Group, ∀ i, g.setSel e.o.d i (f i) w = g) → vecWrites e.o.d (fun l => e.acts.getLsbD l) w f = (fun _ _ => none) →
      Wrote e { vec := vecWrites e.o.d (fun l => e.acts.getLsbD l) w f }
        (e.s.modGroup e.gk (fun g => (lanes e.acts).foldl (fun g i => g.setSel e.o.d i (f i) w) g)) := by
    intro e1 e2
    rw [e2]
    have e3 : ∀ (ls : List Nat) (g : Group), ls.foldl (fun g i => g.setSel e.o.d i (f i) w) g = g := by
      intro ls
      induction ls with
      | nil => intro g; rfl
      | cons i ls ih => intro g; rw [List.foldl_cons, e1, ih]
    refine wrote_group he _ _ ?_ ?_ rfl rfl
    · rw [e3]
    · rw [e3]; exact ⟨fun _ _ _ _ => rfl, fun _ _ => rfl, fun _ _ _ _ => rfl, fun _ _ => rfl, fun _ _ _ _ => rfl⟩
  cases h : e.o.d with
  | v n =>
    obtain ⟨x, hx⟩ := vec_fold_frame (lanes e.acts) n f w e.g
    refine wrote_group he _ _ ?_ ?_ rfl rfl
    · rw [hx]
    · refine ⟨?_, fun _ _ => by rw [hx]; rfl, fun _ _ _ _ => by rw [hx]; rfl, fun _ _ => by rw [hx]; rfl, fun _ _ _ _ => rfl⟩
      intro l hl r hr
      rw [vec_fold _ _ _ _ _ _ _ (fun i hi => ((mem_lanes _ i).1 hi).1) hl hr]
      simp only [mem_lanes, hl, true_and, vecWrites]
      by_cases hc : e.acts.getLsbD l = true ∧ n.toNat ≤ r ∧ r < n.toNat + w ∧ r ≠ 255
      · rw [if_pos hc]; simp [hc, -BitVec.getLsbD_eq_getElem]
      · rw [if_neg hc]
        have : ¬ ((e.acts.getLsbD l && r != 255 && decide (n.toNat ≤ r) && decide (r < n.toNat + w)) = true) := by
          simp only [Bool.and_eq_true, bne_iff_ne, decide_eq_true_eq]; tauto
        rw [if_neg this]; rfl
  | s n => exact absurd h (hd n)
  | _ =>
    rw [h] at none
    exact none (fun _ _ => rfl) (by funext l r; rfl)

/-- Results written: D and the latch as R30, R98 and R125 say. -/
theorem wrote_result {s : State} {e : Ctx} (he : Entered s e) (hd : e.dstFits) (w : Nat) (f : Nat → Nat) :
    Wrote e (Writes.result e w f) (e.write w f) := by
  have nothing : ∀ x : Writes, x = {} → Wrote e x e.s := fun x hx => by rw [hx]; exact wrote_nothing he
  have latchNone : ∀ on : Nat → Bool, (∀ l, on l = false) → ∀ q g, latchWrites q on g = fun _ _ => none := fun on h q g => latchWrites_off q on g h
  unfold Ctx.write Ctx.dstFits at *
  simp only
  cases hu : e.o.hdr.u
  · simp only [hu, Bool.false_eq_true, if_false] at hd ⊢
    have base : Wrote e { vec := vecWrites e.o.d (fun l => !e.o.hdr.nwb && e.acts.getLsbD l) w f }
        (if e.o.hdr.nwb then e.s else e.s.modGroup e.gk (fun g => (lanes e.acts).foldl (fun g i => g.setSel e.o.d i (f i) w) g)) := by
      cases hn : e.o.hdr.nwb
      · simp only [Bool.not_false, Bool.true_and, Bool.false_eq_true, if_false]
        exact wrote_vec he w f (fun n h => by rw [h] at hd; exact hd)
      · simp only [Bool.not_true, Bool.false_and, if_true]
        exact nothing _ (by rw [vecWrites_off _ _ _ _ (fun _ => rfl)])
    have e1 : Writes.result e w f = { vec := vecWrites e.o.d (fun l => !e.o.hdr.nwb && e.acts.getLsbD l) w f
                                      latch := latchWrites e.o.hdr.lq.toNat (fun l => e.o.hdr.le && e.acts.getLsbD l) f } := by
      unfold Writes.result
      simp only [hu, Bool.not_false, Bool.true_and, Bool.false_and, Bool.false_eq_true, if_false, uniWrites_off]
    rw [e1]
    cases hle : e.o.hdr.le
    · simp only [Bool.false_and, Bool.false_eq_true, if_false, latchNone _ (fun _ => rfl)]
      exact base
    · simp only [Bool.true_and, if_true]
      exact base.latch _ _ _ rfl
  · simp only [hu, if_true] at hd ⊢
    cases ha : e.actsOnce
    · simp only [Bool.false_eq_true, if_false]
      refine nothing _ ?_
      unfold Writes.result
      simp only [hu, ha, Bool.not_true, Bool.false_and, Bool.and_false, if_true, vecWrites_off _ _ _ _ (fun _ => rfl), uniWrites_off, latchNone _ (fun _ => rfl)]
    · simp only [if_true]
      have base : Wrote e { uni := uniWrites e.o.d (!e.o.hdr.nwb) w (f e.lead) }
          (if e.o.hdr.nwb then e.s else e.s.modGroup e.gk (fun g => g.setSel e.o.d 0 (f e.lead) w)) := by
        cases hn : e.o.hdr.nwb
        · simp only [Bool.not_false, Bool.false_eq_true, if_false]
          exact wrote_uniform he w (f e.lead) (fun n h => by rw [h] at hd; exact hd)
        · simp only [Bool.not_true, if_true]
          exact nothing _ (by rw [uniWrites_off])
      have e1 : Writes.result e w f = { uni := uniWrites e.o.d (!e.o.hdr.nwb) w (f e.lead)
                                        latch := latchWrites e.o.hdr.lq.toNat (fun l => e.o.hdr.le && e.p.mask.getLsbD l) (fun _ => f e.lead) } := by
        unfold Writes.result
        simp only [hu, ha, Bool.not_true, Bool.false_and, Bool.true_and, Bool.and_true, if_true, vecWrites_off _ _ _ _ (fun _ => rfl)]
      rw [e1]
      cases hle : e.o.hdr.le
      · simp only [Bool.false_and, Bool.false_eq_true, if_false, latchNone _ (fun _ => rfl)]
        exact base
      · simp only [Bool.true_and, if_true]
        exact base.latch _ _ _ rfl

/-- A complete instruction whose only effect is its results. -/
theorem result_done {s : State} {e : Ctx} (he : Entered s e) (hd : e.dstFits) (w : Nat) (f : Nat → Nat) :
    DoneNext s e (Writes.result e w f) (e.result w f) := (wrote_result he hd w f).advance he

end Sys2Proof.Machine
end

