-- ==== Sys2Proof/Laws/State.lean ====
section
/-! SUPPORT. What each update of the state leaves alone, field by field, and what the accessors read after it. -/

namespace Sys2Proof.Machine

/-! ### Reading back what was set -/

@[simp] theorem core_setCore (s : State) (c : Nat) (x : Core) : (s.setCore c x).core c = x := by simp [State.core, State.setCore]
theorem core_setCore_ne (s : State) {c k : Nat} (x : Core) (h : k ≠ c) : (s.setCore c x).core k = s.core k := by
  simp [State.core, State.setCore, mgetD_mset_ne _ _ _ h]
@[simp] theorem part_setPart (s : State) (p : Nat) (x : Part) : (s.setPart p x).part p = x := by simp [State.part, State.setPart]
theorem part_setPart_ne (s : State) {p k : Nat} (x : Part) (h : k ≠ p) : (s.setPart p x).part k = s.part k := by
  simp [State.part, State.setPart, mgetD_mset_ne _ _ _ h]
@[simp] theorem pdie_setPdie (s : State) (p d : Nat) (x : PDie) : (s.setPdie p d x).pdie p d = x := by
  simp [State.pdie, State.setPdie, Part.die, Part.setDie]
theorem pdie_setPdie_ne (s : State) {p d k e : Nat} (x : PDie) (h : k ≠ p ∨ e ≠ d) : (s.setPdie p d x).pdie k e = s.pdie k e := by
  by_cases hk : k = p
  · subst hk
    rcases h with h | h
    · exact absurd rfl h
    · simp [State.pdie, State.setPdie, Part.die, Part.setDie, mgetD_mset_ne _ _ _ h]
  · simp [State.pdie, State.setPdie, part_setPart_ne _ _ hk]
@[simp] theorem asidRec_setAsidRec (s : State) (p a : Nat) (x : AsidRec) : (s.setAsidRec p a x).asidRec p a = x := by
  simp [State.asidRec, State.setAsidRec]
theorem asidRec_setAsidRec_ne (s : State) {p a k b : Nat} (x : AsidRec) (h : k ≠ p ∨ b ≠ a) : (s.setAsidRec p a x).asidRec k b = s.asidRec k b := by
  by_cases hk : k = p
  · subst hk
    rcases h with h | h
    · exact absurd rfl h
    · simp [State.asidRec, State.setAsidRec, mgetD_mset_ne _ _ _ h]
  · simp [State.asidRec, State.setAsidRec, part_setPart_ne _ _ hk]
@[simp] theorem asidRec_setPdie (s : State) (p d k a : Nat) (x : PDie) : (s.setPdie p d x).asidRec k a = s.asidRec k a := by
  by_cases hk : k = p
  · subst hk; simp [State.asidRec, State.setPdie, Part.setDie]
  · simp [State.asidRec, State.setPdie, part_setPart_ne _ _ hk]
@[simp] theorem pdie_setAsidRec (s : State) (p d k a : Nat) (x : AsidRec) : (s.setAsidRec p a x).pdie k d = s.pdie k d := by
  by_cases hk : k = p
  · subst hk; simp [State.pdie, State.setAsidRec, Part.die]
  · simp [State.pdie, State.setAsidRec, part_setPart_ne _ _ hk]
@[simp] theorem saggar_setSaggar (s : State) (k : Nat) (x : Saggar) : (s.setSaggar k x).saggar k = x := by simp [State.saggar, State.setSaggar]
theorem saggar_setSaggar_ne (s : State) {k j : Nat} (x : Saggar) (h : j ≠ k) : (s.setSaggar k x).saggar j = s.saggar j := by
  simp [State.saggar, State.setSaggar, mgetD_mset_ne _ _ _ h]
@[simp] theorem trace_setTrace (s : State) (d : Nat) (x : TraceCore) : (s.setTrace d x).trace d = x := by simp [State.trace, State.setTrace]
theorem trace_setTrace_ne (s : State) {d k : Nat} (x : TraceCore) (h : k ≠ d) : (s.setTrace d x).trace k = s.trace k := by
  simp [State.trace, State.setTrace, mgetD_mset_ne _ _ _ h]
@[simp] theorem queue_setQueue (s : State) (p d q : Nat) (x : HwQueue) : (s.setQueue p d q x).queue p d q = x := by
  simp [State.queue, State.setQueue]
theorem queue_setQueue_ne (s : State) {p d q k : Nat} (x : HwQueue) (h : k ≠ q) : (s.setQueue p d q x).queue p d k = s.queue p d k := by
  simp [State.queue, State.setQueue, mgetD_mset_ne _ _ _ h]


/-! ### setQuarter -/

@[simp] theorem tick_setQuarter_frame (s : State) (q : Nat) (x : Quarter) : (s.setQuarter q x).tick = s.tick := rfl
@[simp] theorem agenda_setQuarter_frame (s : State) (q : Nat) (x : Quarter) : (s.setQuarter q x).agenda = s.agenda := rfl
@[simp] theorem cur_setQuarter_frame (s : State) (q : Nat) (x : Quarter) : (s.setQuarter q x).cur = s.cur := rfl
@[simp] theorem lastQ_setQuarter_frame (s : State) (q : Nat) (x : Quarter) : (s.setQuarter q x).lastQ = s.lastQ := rfl
@[simp] theorem nextId_setQuarter_frame (s : State) (q : Nat) (x : Quarter) : (s.setQuarter q x).nextId = s.nextId := rfl
@[simp] theorem mem_setQuarter_frame (s : State) (q : Nat) (x : Quarter) : (s.setQuarter q x).mem = s.mem := rfl
@[simp] theorem poison_setQuarter_frame (s : State) (q : Nat) (x : Quarter) : (s.setQuarter q x).poison = s.poison := rfl
@[simp] theorem groups_setQuarter_frame (s : State) (q : Nat) (x : Quarter) : (s.setQuarter q x).groups = s.groups := rfl
@[simp] theorem cores_setQuarter_frame (s : State) (q : Nat) (x : Quarter) : (s.setQuarter q x).cores = s.cores := rfl
@[simp] theorem tlbs_setQuarter_frame (s : State) (q : Nat) (x : Quarter) : (s.setQuarter q x).tlbs = s.tlbs := rfl
@[simp] theorem replicas_setQuarter_frame (s : State) (q : Nat) (x : Quarter) : (s.setQuarter q x).replicas = s.replicas := rfl
@[simp] theorem walks_setQuarter_frame (s : State) (q : Nat) (x : Quarter) : (s.setQuarter q x).walks = s.walks := rfl
@[simp] theorem images_setQuarter_frame (s : State) (q : Nat) (x : Quarter) : (s.setQuarter q x).images = s.images := rfl
@[simp] theorem ccores_setQuarter_frame (s : State) (q : Nat) (x : Quarter) : (s.setQuarter q x).ccores = s.ccores := rfl
@[simp] theorem outbox_setQuarter_frame (s : State) (q : Nat) (x : Quarter) : (s.setQuarter q x).outbox = s.outbox := rfl
@[simp] theorem columns_setQuarter_frame (s : State) (q : Nat) (x : Quarter) : (s.setQuarter q x).columns = s.columns := rfl
@[simp] theorem dirty_setQuarter_frame (s : State) (q : Nat) (x : Quarter) : (s.setQuarter q x).dirty = s.dirty := rfl
@[simp] theorem accesses_setQuarter_frame (s : State) (q : Nat) (x : Quarter) : (s.setQuarter q x).accesses = s.accesses := rfl
@[simp] theorem loads_setQuarter_frame (s : State) (q : Nat) (x : Quarter) : (s.setQuarter q x).loads = s.loads := rfl
@[simp] theorem xfers_setQuarter_frame (s : State) (q : Nat) (x : Quarter) : (s.setQuarter q x).xfers = s.xfers := rfl
@[simp] theorem barReqs_setQuarter_frame (s : State) (q : Nat) (x : Quarter) : (s.setQuarter q x).barReqs = s.barReqs := rfl
@[simp] theorem sends_setQuarter_frame (s : State) (q : Nat) (x : Quarter) : (s.setQuarter q x).sends = s.sends := rfl
@[simp] theorem packets_setQuarter_frame (s : State) (q : Nat) (x : Quarter) : (s.setQuarter q x).packets = s.packets := rfl
@[simp] theorem returns_setQuarter_frame (s : State) (q : Nat) (x : Quarter) : (s.setQuarter q x).returns = s.returns := rfl
@[simp] theorem peers_setQuarter_frame (s : State) (q : Nat) (x : Quarter) : (s.setQuarter q x).peers = s.peers := rfl
@[simp] theorem launchReqs_setQuarter_frame (s : State) (q : Nat) (x : Quarter) : (s.setQuarter q x).launchReqs = s.launchReqs := rfl
@[simp] theorem launches_setQuarter_frame (s : State) (q : Nat) (x : Quarter) : (s.setQuarter q x).launches = s.launches := rfl
@[simp] theorem insts_setQuarter_frame (s : State) (q : Nat) (x : Quarter) : (s.setQuarter q x).insts = s.insts := rfl
@[simp] theorem jobs_setQuarter_frame (s : State) (q : Nat) (x : Quarter) : (s.setQuarter q x).jobs = s.jobs := rfl
@[simp] theorem frecs_setQuarter_frame (s : State) (q : Nat) (x : Quarter) : (s.setQuarter q x).frecs = s.frecs := rfl
@[simp] theorem coil_setQuarter_frame (s : State) (q : Nat) (x : Quarter) : (s.setQuarter q x).coil = s.coil := rfl
@[simp] theorem coilq_setQuarter_frame (s : State) (q : Nat) (x : Quarter) : (s.setQuarter q x).coilq = s.coilq := rfl
@[simp] theorem grove_setQuarter_frame (s : State) (q : Nat) (x : Quarter) : (s.setQuarter q x).grove = s.grove := rfl
@[simp] theorem decs_setQuarter_frame (s : State) (q : Nat) (x : Quarter) : (s.setQuarter q x).decs = s.decs := rfl
@[simp] theorem saggars_setQuarter_frame (s : State) (q : Nat) (x : Quarter) : (s.setQuarter q x).saggars = s.saggars := rfl
@[simp] theorem redirects_setQuarter_frame (s : State) (q : Nat) (x : Quarter) : (s.setQuarter q x).redirects = s.redirects := rfl
@[simp] theorem saved_setQuarter_frame (s : State) (q : Nat) (x : Quarter) : (s.setQuarter q x).saved = s.saved := rfl
@[simp] theorem parts_setQuarter_frame (s : State) (q : Nat) (x : Quarter) : (s.setQuarter q x).parts = s.parts := rfl
@[simp] theorem traces_setQuarter_frame (s : State) (q : Nat) (x : Quarter) : (s.setQuarter q x).traces = s.traces := rfl
@[simp] theorem pkg_setQuarter_frame (s : State) (q : Nat) (x : Quarter) : (s.setQuarter q x).pkg = s.pkg := rfl

/-! ### setCore -/

@[simp] theorem tick_setCore_frame (s : State) (c : Nat) (x : Core) : (s.setCore c x).tick = s.tick := rfl
@[simp] theorem agenda_setCore_frame (s : State) (c : Nat) (x : Core) : (s.setCore c x).agenda = s.agenda := rfl
@[simp] theorem cur_setCore_frame (s : State) (c : Nat) (x : Core) : (s.setCore c x).cur = s.cur := rfl
@[simp] theorem lastQ_setCore_frame (s : State) (c : Nat) (x : Core) : (s.setCore c x).lastQ = s.lastQ := rfl
@[simp] theorem nextId_setCore_frame (s : State) (c : Nat) (x : Core) : (s.setCore c x).nextId = s.nextId := rfl
@[simp] theorem mem_setCore_frame (s : State) (c : Nat) (x : Core) : (s.setCore c x).mem = s.mem := rfl
@[simp] theorem poison_setCore_frame (s : State) (c : Nat) (x : Core) : (s.setCore c x).poison = s.poison := rfl
@[simp] theorem groups_setCore_frame (s : State) (c : Nat) (x : Core) : (s.setCore c x).groups = s.groups := rfl
@[simp] theorem quarters_setCore_frame (s : State) (c : Nat) (x : Core) : (s.setCore c x).quarters = s.quarters := rfl
@[simp] theorem tlbs_setCore_frame (s : State) (c : Nat) (x : Core) : (s.setCore c x).tlbs = s.tlbs := rfl
@[simp] theorem replicas_setCore_frame (s : State) (c : Nat) (x : Core) : (s.setCore c x).replicas = s.replicas := rfl
@[simp] theorem walks_setCore_frame (s : State) (c : Nat) (x : Core) : (s.setCore c x).walks = s.walks := rfl
@[simp] theorem images_setCore_frame (s : State) (c : Nat) (x : Core) : (s.setCore c x).images = s.images := rfl
@[simp] theorem ccores_setCore_frame (s : State) (c : Nat) (x : Core) : (s.setCore c x).ccores = s.ccores := rfl
@[simp] theorem outbox_setCore_frame (s : State) (c : Nat) (x : Core) : (s.setCore c x).outbox = s.outbox := rfl
@[simp] theorem columns_setCore_frame (s : State) (c : Nat) (x : Core) : (s.setCore c x).columns = s.columns := rfl
@[simp] theorem dirty_setCore_frame (s : State) (c : Nat) (x : Core) : (s.setCore c x).dirty = s.dirty := rfl
@[simp] theorem accesses_setCore_frame (s : State) (c : Nat) (x : Core) : (s.setCore c x).accesses = s.accesses := rfl
@[simp] theorem loads_setCore_frame (s : State) (c : Nat) (x : Core) : (s.setCore c x).loads = s.loads := rfl
@[simp] theorem xfers_setCore_frame (s : State) (c : Nat) (x : Core) : (s.setCore c x).xfers = s.xfers := rfl
@[simp] theorem barReqs_setCore_frame (s : State) (c : Nat) (x : Core) : (s.setCore c x).barReqs = s.barReqs := rfl
@[simp] theorem sends_setCore_frame (s : State) (c : Nat) (x : Core) : (s.setCore c x).sends = s.sends := rfl
@[simp] theorem packets_setCore_frame (s : State) (c : Nat) (x : Core) : (s.setCore c x).packets = s.packets := rfl
@[simp] theorem returns_setCore_frame (s : State) (c : Nat) (x : Core) : (s.setCore c x).returns = s.returns := rfl
@[simp] theorem peers_setCore_frame (s : State) (c : Nat) (x : Core) : (s.setCore c x).peers = s.peers := rfl
@[simp] theorem launchReqs_setCore_frame (s : State) (c : Nat) (x : Core) : (s.setCore c x).launchReqs = s.launchReqs := rfl
@[simp] theorem launches_setCore_frame (s : State) (c : Nat) (x : Core) : (s.setCore c x).launches = s.launches := rfl
@[simp] theorem insts_setCore_frame (s : State) (c : Nat) (x : Core) : (s.setCore c x).insts = s.insts := rfl
@[simp] theorem jobs_setCore_frame (s : State) (c : Nat) (x : Core) : (s.setCore c x).jobs = s.jobs := rfl
@[simp] theorem frecs_setCore_frame (s : State) (c : Nat) (x : Core) : (s.setCore c x).frecs = s.frecs := rfl
@[simp] theorem coil_setCore_frame (s : State) (c : Nat) (x : Core) : (s.setCore c x).coil = s.coil := rfl
@[simp] theorem coilq_setCore_frame (s : State) (c : Nat) (x : Core) : (s.setCore c x).coilq = s.coilq := rfl
@[simp] theorem grove_setCore_frame (s : State) (c : Nat) (x : Core) : (s.setCore c x).grove = s.grove := rfl
@[simp] theorem decs_setCore_frame (s : State) (c : Nat) (x : Core) : (s.setCore c x).decs = s.decs := rfl
@[simp] theorem saggars_setCore_frame (s : State) (c : Nat) (x : Core) : (s.setCore c x).saggars = s.saggars := rfl
@[simp] theorem redirects_setCore_frame (s : State) (c : Nat) (x : Core) : (s.setCore c x).redirects = s.redirects := rfl
@[simp] theorem saved_setCore_frame (s : State) (c : Nat) (x : Core) : (s.setCore c x).saved = s.saved := rfl
@[simp] theorem parts_setCore_frame (s : State) (c : Nat) (x : Core) : (s.setCore c x).parts = s.parts := rfl
@[simp] theorem traces_setCore_frame (s : State) (c : Nat) (x : Core) : (s.setCore c x).traces = s.traces := rfl
@[simp] theorem pkg_setCore_frame (s : State) (c : Nat) (x : Core) : (s.setCore c x).pkg = s.pkg := rfl

/-! ### setPart -/

@[simp] theorem tick_setPart_frame (s : State) (p : Nat) (x : Part) : (s.setPart p x).tick = s.tick := rfl
@[simp] theorem agenda_setPart_frame (s : State) (p : Nat) (x : Part) : (s.setPart p x).agenda = s.agenda := rfl
@[simp] theorem cur_setPart_frame (s : State) (p : Nat) (x : Part) : (s.setPart p x).cur = s.cur := rfl
@[simp] theorem lastQ_setPart_frame (s : State) (p : Nat) (x : Part) : (s.setPart p x).lastQ = s.lastQ := rfl
@[simp] theorem nextId_setPart_frame (s : State) (p : Nat) (x : Part) : (s.setPart p x).nextId = s.nextId := rfl
@[simp] theorem mem_setPart_frame (s : State) (p : Nat) (x : Part) : (s.setPart p x).mem = s.mem := rfl
@[simp] theorem poison_setPart_frame (s : State) (p : Nat) (x : Part) : (s.setPart p x).poison = s.poison := rfl
@[simp] theorem groups_setPart_frame (s : State) (p : Nat) (x : Part) : (s.setPart p x).groups = s.groups := rfl
@[simp] theorem quarters_setPart_frame (s : State) (p : Nat) (x : Part) : (s.setPart p x).quarters = s.quarters := rfl
@[simp] theorem cores_setPart_frame (s : State) (p : Nat) (x : Part) : (s.setPart p x).cores = s.cores := rfl
@[simp] theorem tlbs_setPart_frame (s : State) (p : Nat) (x : Part) : (s.setPart p x).tlbs = s.tlbs := rfl
@[simp] theorem replicas_setPart_frame (s : State) (p : Nat) (x : Part) : (s.setPart p x).replicas = s.replicas := rfl
@[simp] theorem walks_setPart_frame (s : State) (p : Nat) (x : Part) : (s.setPart p x).walks = s.walks := rfl
@[simp] theorem images_setPart_frame (s : State) (p : Nat) (x : Part) : (s.setPart p x).images = s.images := rfl
@[simp] theorem ccores_setPart_frame (s : State) (p : Nat) (x : Part) : (s.setPart p x).ccores = s.ccores := rfl
@[simp] theorem outbox_setPart_frame (s : State) (p : Nat) (x : Part) : (s.setPart p x).outbox = s.outbox := rfl
@[simp] theorem columns_setPart_frame (s : State) (p : Nat) (x : Part) : (s.setPart p x).columns = s.columns := rfl
@[simp] theorem dirty_setPart_frame (s : State) (p : Nat) (x : Part) : (s.setPart p x).dirty = s.dirty := rfl
@[simp] theorem accesses_setPart_frame (s : State) (p : Nat) (x : Part) : (s.setPart p x).accesses = s.accesses := rfl
@[simp] theorem loads_setPart_frame (s : State) (p : Nat) (x : Part) : (s.setPart p x).loads = s.loads := rfl
@[simp] theorem xfers_setPart_frame (s : State) (p : Nat) (x : Part) : (s.setPart p x).xfers = s.xfers := rfl
@[simp] theorem barReqs_setPart_frame (s : State) (p : Nat) (x : Part) : (s.setPart p x).barReqs = s.barReqs := rfl
@[simp] theorem sends_setPart_frame (s : State) (p : Nat) (x : Part) : (s.setPart p x).sends = s.sends := rfl
@[simp] theorem packets_setPart_frame (s : State) (p : Nat) (x : Part) : (s.setPart p x).packets = s.packets := rfl
@[simp] theorem returns_setPart_frame (s : State) (p : Nat) (x : Part) : (s.setPart p x).returns = s.returns := rfl
@[simp] theorem peers_setPart_frame (s : State) (p : Nat) (x : Part) : (s.setPart p x).peers = s.peers := rfl
@[simp] theorem launchReqs_setPart_frame (s : State) (p : Nat) (x : Part) : (s.setPart p x).launchReqs = s.launchReqs := rfl
@[simp] theorem launches_setPart_frame (s : State) (p : Nat) (x : Part) : (s.setPart p x).launches = s.launches := rfl
@[simp] theorem insts_setPart_frame (s : State) (p : Nat) (x : Part) : (s.setPart p x).insts = s.insts := rfl
@[simp] theorem jobs_setPart_frame (s : State) (p : Nat) (x : Part) : (s.setPart p x).jobs = s.jobs := rfl
@[simp] theorem frecs_setPart_frame (s : State) (p : Nat) (x : Part) : (s.setPart p x).frecs = s.frecs := rfl
@[simp] theorem coil_setPart_frame (s : State) (p : Nat) (x : Part) : (s.setPart p x).coil = s.coil := rfl
@[simp] theorem coilq_setPart_frame (s : State) (p : Nat) (x : Part) : (s.setPart p x).coilq = s.coilq := rfl
@[simp] theorem grove_setPart_frame (s : State) (p : Nat) (x : Part) : (s.setPart p x).grove = s.grove := rfl
@[simp] theorem decs_setPart_frame (s : State) (p : Nat) (x : Part) : (s.setPart p x).decs = s.decs := rfl
@[simp] theorem saggars_setPart_frame (s : State) (p : Nat) (x : Part) : (s.setPart p x).saggars = s.saggars := rfl
@[simp] theorem redirects_setPart_frame (s : State) (p : Nat) (x : Part) : (s.setPart p x).redirects = s.redirects := rfl
@[simp] theorem saved_setPart_frame (s : State) (p : Nat) (x : Part) : (s.setPart p x).saved = s.saved := rfl
@[simp] theorem traces_setPart_frame (s : State) (p : Nat) (x : Part) : (s.setPart p x).traces = s.traces := rfl
@[simp] theorem pkg_setPart_frame (s : State) (p : Nat) (x : Part) : (s.setPart p x).pkg = s.pkg := rfl

/-! ### setPdie -/

@[simp] theorem tick_setPdie_frame (s : State) (p d : Nat) (x : PDie) : (s.setPdie p d x).tick = s.tick := rfl
@[simp] theorem agenda_setPdie_frame (s : State) (p d : Nat) (x : PDie) : (s.setPdie p d x).agenda = s.agenda := rfl
@[simp] theorem cur_setPdie_frame (s : State) (p d : Nat) (x : PDie) : (s.setPdie p d x).cur = s.cur := rfl
@[simp] theorem lastQ_setPdie_frame (s : State) (p d : Nat) (x : PDie) : (s.setPdie p d x).lastQ = s.lastQ := rfl
@[simp] theorem nextId_setPdie_frame (s : State) (p d : Nat) (x : PDie) : (s.setPdie p d x).nextId = s.nextId := rfl
@[simp] theorem mem_setPdie_frame (s : State) (p d : Nat) (x : PDie) : (s.setPdie p d x).mem = s.mem := rfl
@[simp] theorem poison_setPdie_frame (s : State) (p d : Nat) (x : PDie) : (s.setPdie p d x).poison = s.poison := rfl
@[simp] theorem groups_setPdie_frame (s : State) (p d : Nat) (x : PDie) : (s.setPdie p d x).groups = s.groups := rfl
@[simp] theorem quarters_setPdie_frame (s : State) (p d : Nat) (x : PDie) : (s.setPdie p d x).quarters = s.quarters := rfl
@[simp] theorem cores_setPdie_frame (s : State) (p d : Nat) (x : PDie) : (s.setPdie p d x).cores = s.cores := rfl
@[simp] theorem tlbs_setPdie_frame (s : State) (p d : Nat) (x : PDie) : (s.setPdie p d x).tlbs = s.tlbs := rfl
@[simp] theorem replicas_setPdie_frame (s : State) (p d : Nat) (x : PDie) : (s.setPdie p d x).replicas = s.replicas := rfl
@[simp] theorem walks_setPdie_frame (s : State) (p d : Nat) (x : PDie) : (s.setPdie p d x).walks = s.walks := rfl
@[simp] theorem images_setPdie_frame (s : State) (p d : Nat) (x : PDie) : (s.setPdie p d x).images = s.images := rfl
@[simp] theorem ccores_setPdie_frame (s : State) (p d : Nat) (x : PDie) : (s.setPdie p d x).ccores = s.ccores := rfl
@[simp] theorem outbox_setPdie_frame (s : State) (p d : Nat) (x : PDie) : (s.setPdie p d x).outbox = s.outbox := rfl
@[simp] theorem columns_setPdie_frame (s : State) (p d : Nat) (x : PDie) : (s.setPdie p d x).columns = s.columns := rfl
@[simp] theorem dirty_setPdie_frame (s : State) (p d : Nat) (x : PDie) : (s.setPdie p d x).dirty = s.dirty := rfl
@[simp] theorem accesses_setPdie_frame (s : State) (p d : Nat) (x : PDie) : (s.setPdie p d x).accesses = s.accesses := rfl
@[simp] theorem loads_setPdie_frame (s : State) (p d : Nat) (x : PDie) : (s.setPdie p d x).loads = s.loads := rfl
@[simp] theorem xfers_setPdie_frame (s : State) (p d : Nat) (x : PDie) : (s.setPdie p d x).xfers = s.xfers := rfl
@[simp] theorem barReqs_setPdie_frame (s : State) (p d : Nat) (x : PDie) : (s.setPdie p d x).barReqs = s.barReqs := rfl
@[simp] theorem sends_setPdie_frame (s : State) (p d : Nat) (x : PDie) : (s.setPdie p d x).sends = s.sends := rfl
@[simp] theorem packets_setPdie_frame (s : State) (p d : Nat) (x : PDie) : (s.setPdie p d x).packets = s.packets := rfl
@[simp] theorem returns_setPdie_frame (s : State) (p d : Nat) (x : PDie) : (s.setPdie p d x).returns = s.returns := rfl
@[simp] theorem peers_setPdie_frame (s : State) (p d : Nat) (x : PDie) : (s.setPdie p d x).peers = s.peers := rfl
@[simp] theorem launchReqs_setPdie_frame (s : State) (p d : Nat) (x : PDie) : (s.setPdie p d x).launchReqs = s.launchReqs := rfl
@[simp] theorem launches_setPdie_frame (s : State) (p d : Nat) (x : PDie) : (s.setPdie p d x).launches = s.launches := rfl
@[simp] theorem insts_setPdie_frame (s : State) (p d : Nat) (x : PDie) : (s.setPdie p d x).insts = s.insts := rfl
@[simp] theorem jobs_setPdie_frame (s : State) (p d : Nat) (x : PDie) : (s.setPdie p d x).jobs = s.jobs := rfl
@[simp] theorem frecs_setPdie_frame (s : State) (p d : Nat) (x : PDie) : (s.setPdie p d x).frecs = s.frecs := rfl
@[simp] theorem coil_setPdie_frame (s : State) (p d : Nat) (x : PDie) : (s.setPdie p d x).coil = s.coil := rfl
@[simp] theorem coilq_setPdie_frame (s : State) (p d : Nat) (x : PDie) : (s.setPdie p d x).coilq = s.coilq := rfl
@[simp] theorem grove_setPdie_frame (s : State) (p d : Nat) (x : PDie) : (s.setPdie p d x).grove = s.grove := rfl
@[simp] theorem decs_setPdie_frame (s : State) (p d : Nat) (x : PDie) : (s.setPdie p d x).decs = s.decs := rfl
@[simp] theorem saggars_setPdie_frame (s : State) (p d : Nat) (x : PDie) : (s.setPdie p d x).saggars = s.saggars := rfl
@[simp] theorem redirects_setPdie_frame (s : State) (p d : Nat) (x : PDie) : (s.setPdie p d x).redirects = s.redirects := rfl
@[simp] theorem saved_setPdie_frame (s : State) (p d : Nat) (x : PDie) : (s.setPdie p d x).saved = s.saved := rfl
@[simp] theorem traces_setPdie_frame (s : State) (p d : Nat) (x : PDie) : (s.setPdie p d x).traces = s.traces := rfl
@[simp] theorem pkg_setPdie_frame (s : State) (p d : Nat) (x : PDie) : (s.setPdie p d x).pkg = s.pkg := rfl

/-! ### setAsidRec -/

@[simp] theorem tick_setAsidRec_frame (s : State) (p a : Nat) (x : AsidRec) : (s.setAsidRec p a x).tick = s.tick := rfl
@[simp] theorem agenda_setAsidRec_frame (s : State) (p a : Nat) (x : AsidRec) : (s.setAsidRec p a x).agenda = s.agenda := rfl
@[simp] theorem cur_setAsidRec_frame (s : State) (p a : Nat) (x : AsidRec) : (s.setAsidRec p a x).cur = s.cur := rfl
@[simp] theorem lastQ_setAsidRec_frame (s : State) (p a : Nat) (x : AsidRec) : (s.setAsidRec p a x).lastQ = s.lastQ := rfl
@[simp] theorem nextId_setAsidRec_frame (s : State) (p a : Nat) (x : AsidRec) : (s.setAsidRec p a x).nextId = s.nextId := rfl
@[simp] theorem mem_setAsidRec_frame (s : State) (p a : Nat) (x : AsidRec) : (s.setAsidRec p a x).mem = s.mem := rfl
@[simp] theorem poison_setAsidRec_frame (s : State) (p a : Nat) (x : AsidRec) : (s.setAsidRec p a x).poison = s.poison := rfl
@[simp] theorem groups_setAsidRec_frame (s : State) (p a : Nat) (x : AsidRec) : (s.setAsidRec p a x).groups = s.groups := rfl
@[simp] theorem quarters_setAsidRec_frame (s : State) (p a : Nat) (x : AsidRec) : (s.setAsidRec p a x).quarters = s.quarters := rfl
@[simp] theorem cores_setAsidRec_frame (s : State) (p a : Nat) (x : AsidRec) : (s.setAsidRec p a x).cores = s.cores := rfl
@[simp] theorem tlbs_setAsidRec_frame (s : State) (p a : Nat) (x : AsidRec) : (s.setAsidRec p a x).tlbs = s.tlbs := rfl
@[simp] theorem replicas_setAsidRec_frame (s : State) (p a : Nat) (x : AsidRec) : (s.setAsidRec p a x).replicas = s.replicas := rfl
@[simp] theorem walks_setAsidRec_frame (s : State) (p a : Nat) (x : AsidRec) : (s.setAsidRec p a x).walks = s.walks := rfl
@[simp] theorem images_setAsidRec_frame (s : State) (p a : Nat) (x : AsidRec) : (s.setAsidRec p a x).images = s.images := rfl
@[simp] theorem ccores_setAsidRec_frame (s : State) (p a : Nat) (x : AsidRec) : (s.setAsidRec p a x).ccores = s.ccores := rfl
@[simp] theorem outbox_setAsidRec_frame (s : State) (p a : Nat) (x : AsidRec) : (s.setAsidRec p a x).outbox = s.outbox := rfl
@[simp] theorem columns_setAsidRec_frame (s : State) (p a : Nat) (x : AsidRec) : (s.setAsidRec p a x).columns = s.columns := rfl
@[simp] theorem dirty_setAsidRec_frame (s : State) (p a : Nat) (x : AsidRec) : (s.setAsidRec p a x).dirty = s.dirty := rfl
@[simp] theorem accesses_setAsidRec_frame (s : State) (p a : Nat) (x : AsidRec) : (s.setAsidRec p a x).accesses = s.accesses := rfl
@[simp] theorem loads_setAsidRec_frame (s : State) (p a : Nat) (x : AsidRec) : (s.setAsidRec p a x).loads = s.loads := rfl
@[simp] theorem xfers_setAsidRec_frame (s : State) (p a : Nat) (x : AsidRec) : (s.setAsidRec p a x).xfers = s.xfers := rfl
@[simp] theorem barReqs_setAsidRec_frame (s : State) (p a : Nat) (x : AsidRec) : (s.setAsidRec p a x).barReqs = s.barReqs := rfl
@[simp] theorem sends_setAsidRec_frame (s : State) (p a : Nat) (x : AsidRec) : (s.setAsidRec p a x).sends = s.sends := rfl
@[simp] theorem packets_setAsidRec_frame (s : State) (p a : Nat) (x : AsidRec) : (s.setAsidRec p a x).packets = s.packets := rfl
@[simp] theorem returns_setAsidRec_frame (s : State) (p a : Nat) (x : AsidRec) : (s.setAsidRec p a x).returns = s.returns := rfl
@[simp] theorem peers_setAsidRec_frame (s : State) (p a : Nat) (x : AsidRec) : (s.setAsidRec p a x).peers = s.peers := rfl
@[simp] theorem launchReqs_setAsidRec_frame (s : State) (p a : Nat) (x : AsidRec) : (s.setAsidRec p a x).launchReqs = s.launchReqs := rfl
@[simp] theorem launches_setAsidRec_frame (s : State) (p a : Nat) (x : AsidRec) : (s.setAsidRec p a x).launches = s.launches := rfl
@[simp] theorem insts_setAsidRec_frame (s : State) (p a : Nat) (x : AsidRec) : (s.setAsidRec p a x).insts = s.insts := rfl
@[simp] theorem jobs_setAsidRec_frame (s : State) (p a : Nat) (x : AsidRec) : (s.setAsidRec p a x).jobs = s.jobs := rfl
@[simp] theorem frecs_setAsidRec_frame (s : State) (p a : Nat) (x : AsidRec) : (s.setAsidRec p a x).frecs = s.frecs := rfl
@[simp] theorem coil_setAsidRec_frame (s : State) (p a : Nat) (x : AsidRec) : (s.setAsidRec p a x).coil = s.coil := rfl
@[simp] theorem coilq_setAsidRec_frame (s : State) (p a : Nat) (x : AsidRec) : (s.setAsidRec p a x).coilq = s.coilq := rfl
@[simp] theorem grove_setAsidRec_frame (s : State) (p a : Nat) (x : AsidRec) : (s.setAsidRec p a x).grove = s.grove := rfl
@[simp] theorem decs_setAsidRec_frame (s : State) (p a : Nat) (x : AsidRec) : (s.setAsidRec p a x).decs = s.decs := rfl
@[simp] theorem saggars_setAsidRec_frame (s : State) (p a : Nat) (x : AsidRec) : (s.setAsidRec p a x).saggars = s.saggars := rfl
@[simp] theorem redirects_setAsidRec_frame (s : State) (p a : Nat) (x : AsidRec) : (s.setAsidRec p a x).redirects = s.redirects := rfl
@[simp] theorem saved_setAsidRec_frame (s : State) (p a : Nat) (x : AsidRec) : (s.setAsidRec p a x).saved = s.saved := rfl
@[simp] theorem traces_setAsidRec_frame (s : State) (p a : Nat) (x : AsidRec) : (s.setAsidRec p a x).traces = s.traces := rfl
@[simp] theorem pkg_setAsidRec_frame (s : State) (p a : Nat) (x : AsidRec) : (s.setAsidRec p a x).pkg = s.pkg := rfl

/-! ### modGroup -/

@[simp] theorem tick_modGroup_frame (s : State) (k : Nat) (f : Group → Group) : (s.modGroup k f).tick = s.tick := rfl
@[simp] theorem agenda_modGroup_frame (s : State) (k : Nat) (f : Group → Group) : (s.modGroup k f).agenda = s.agenda := rfl
@[simp] theorem cur_modGroup_frame (s : State) (k : Nat) (f : Group → Group) : (s.modGroup k f).cur = s.cur := rfl
@[simp] theorem lastQ_modGroup_frame (s : State) (k : Nat) (f : Group → Group) : (s.modGroup k f).lastQ = s.lastQ := rfl
@[simp] theorem nextId_modGroup_frame (s : State) (k : Nat) (f : Group → Group) : (s.modGroup k f).nextId = s.nextId := rfl
@[simp] theorem mem_modGroup_frame (s : State) (k : Nat) (f : Group → Group) : (s.modGroup k f).mem = s.mem := rfl
@[simp] theorem poison_modGroup_frame (s : State) (k : Nat) (f : Group → Group) : (s.modGroup k f).poison = s.poison := rfl
@[simp] theorem quarters_modGroup_frame (s : State) (k : Nat) (f : Group → Group) : (s.modGroup k f).quarters = s.quarters := rfl
@[simp] theorem cores_modGroup_frame (s : State) (k : Nat) (f : Group → Group) : (s.modGroup k f).cores = s.cores := rfl
@[simp] theorem tlbs_modGroup_frame (s : State) (k : Nat) (f : Group → Group) : (s.modGroup k f).tlbs = s.tlbs := rfl
@[simp] theorem replicas_modGroup_frame (s : State) (k : Nat) (f : Group → Group) : (s.modGroup k f).replicas = s.replicas := rfl
@[simp] theorem walks_modGroup_frame (s : State) (k : Nat) (f : Group → Group) : (s.modGroup k f).walks = s.walks := rfl
@[simp] theorem images_modGroup_frame (s : State) (k : Nat) (f : Group → Group) : (s.modGroup k f).images = s.images := rfl
@[simp] theorem ccores_modGroup_frame (s : State) (k : Nat) (f : Group → Group) : (s.modGroup k f).ccores = s.ccores := rfl
@[simp] theorem outbox_modGroup_frame (s : State) (k : Nat) (f : Group → Group) : (s.modGroup k f).outbox = s.outbox := rfl
@[simp] theorem columns_modGroup_frame (s : State) (k : Nat) (f : Group → Group) : (s.modGroup k f).columns = s.columns := rfl
@[simp] theorem dirty_modGroup_frame (s : State) (k : Nat) (f : Group → Group) : (s.modGroup k f).dirty = s.dirty := rfl
@[simp] theorem accesses_modGroup_frame (s : State) (k : Nat) (f : Group → Group) : (s.modGroup k f).accesses = s.accesses := rfl
@[simp] theorem loads_modGroup_frame (s : State) (k : Nat) (f : Group → Group) : (s.modGroup k f).loads = s.loads := rfl
@[simp] theorem xfers_modGroup_frame (s : State) (k : Nat) (f : Group → Group) : (s.modGroup k f).xfers = s.xfers := rfl
@[simp] theorem barReqs_modGroup_frame (s : State) (k : Nat) (f : Group → Group) : (s.modGroup k f).barReqs = s.barReqs := rfl
@[simp] theorem sends_modGroup_frame (s : State) (k : Nat) (f : Group → Group) : (s.modGroup k f).sends = s.sends := rfl
@[simp] theorem packets_modGroup_frame (s : State) (k : Nat) (f : Group → Group) : (s.modGroup k f).packets = s.packets := rfl
@[simp] theorem returns_modGroup_frame (s : State) (k : Nat) (f : Group → Group) : (s.modGroup k f).returns = s.returns := rfl
@[simp] theorem peers_modGroup_frame (s : State) (k : Nat) (f : Group → Group) : (s.modGroup k f).peers = s.peers := rfl
@[simp] theorem launchReqs_modGroup_frame (s : State) (k : Nat) (f : Group → Group) : (s.modGroup k f).launchReqs = s.launchReqs := rfl
@[simp] theorem launches_modGroup_frame (s : State) (k : Nat) (f : Group → Group) : (s.modGroup k f).launches = s.launches := rfl
@[simp] theorem insts_modGroup_frame (s : State) (k : Nat) (f : Group → Group) : (s.modGroup k f).insts = s.insts := rfl
@[simp] theorem jobs_modGroup_frame (s : State) (k : Nat) (f : Group → Group) : (s.modGroup k f).jobs = s.jobs := rfl
@[simp] theorem frecs_modGroup_frame (s : State) (k : Nat) (f : Group → Group) : (s.modGroup k f).frecs = s.frecs := rfl
@[simp] theorem coil_modGroup_frame (s : State) (k : Nat) (f : Group → Group) : (s.modGroup k f).coil = s.coil := rfl
@[simp] theorem coilq_modGroup_frame (s : State) (k : Nat) (f : Group → Group) : (s.modGroup k f).coilq = s.coilq := rfl
@[simp] theorem grove_modGroup_frame (s : State) (k : Nat) (f : Group → Group) : (s.modGroup k f).grove = s.grove := rfl
@[simp] theorem decs_modGroup_frame (s : State) (k : Nat) (f : Group → Group) : (s.modGroup k f).decs = s.decs := rfl
@[simp] theorem saggars_modGroup_frame (s : State) (k : Nat) (f : Group → Group) : (s.modGroup k f).saggars = s.saggars := rfl
@[simp] theorem redirects_modGroup_frame (s : State) (k : Nat) (f : Group → Group) : (s.modGroup k f).redirects = s.redirects := rfl
@[simp] theorem saved_modGroup_frame (s : State) (k : Nat) (f : Group → Group) : (s.modGroup k f).saved = s.saved := rfl
@[simp] theorem parts_modGroup_frame (s : State) (k : Nat) (f : Group → Group) : (s.modGroup k f).parts = s.parts := rfl
@[simp] theorem traces_modGroup_frame (s : State) (k : Nat) (f : Group → Group) : (s.modGroup k f).traces = s.traces := rfl
@[simp] theorem pkg_modGroup_frame (s : State) (k : Nat) (f : Group → Group) : (s.modGroup k f).pkg = s.pkg := rfl

/-! ### modPath -/

@[simp] theorem tick_modPath_frame (s : State) (k i : Nat) (f : Path → Path) : (s.modPath k i f).tick = s.tick := rfl
@[simp] theorem agenda_modPath_frame (s : State) (k i : Nat) (f : Path → Path) : (s.modPath k i f).agenda = s.agenda := rfl
@[simp] theorem cur_modPath_frame (s : State) (k i : Nat) (f : Path → Path) : (s.modPath k i f).cur = s.cur := rfl
@[simp] theorem lastQ_modPath_frame (s : State) (k i : Nat) (f : Path → Path) : (s.modPath k i f).lastQ = s.lastQ := rfl
@[simp] theorem nextId_modPath_frame (s : State) (k i : Nat) (f : Path → Path) : (s.modPath k i f).nextId = s.nextId := rfl
@[simp] theorem mem_modPath_frame (s : State) (k i : Nat) (f : Path → Path) : (s.modPath k i f).mem = s.mem := rfl
@[simp] theorem poison_modPath_frame (s : State) (k i : Nat) (f : Path → Path) : (s.modPath k i f).poison = s.poison := rfl
@[simp] theorem quarters_modPath_frame (s : State) (k i : Nat) (f : Path → Path) : (s.modPath k i f).quarters = s.quarters := rfl
@[simp] theorem cores_modPath_frame (s : State) (k i : Nat) (f : Path → Path) : (s.modPath k i f).cores = s.cores := rfl
@[simp] theorem tlbs_modPath_frame (s : State) (k i : Nat) (f : Path → Path) : (s.modPath k i f).tlbs = s.tlbs := rfl
@[simp] theorem replicas_modPath_frame (s : State) (k i : Nat) (f : Path → Path) : (s.modPath k i f).replicas = s.replicas := rfl
@[simp] theorem walks_modPath_frame (s : State) (k i : Nat) (f : Path → Path) : (s.modPath k i f).walks = s.walks := rfl
@[simp] theorem images_modPath_frame (s : State) (k i : Nat) (f : Path → Path) : (s.modPath k i f).images = s.images := rfl
@[simp] theorem ccores_modPath_frame (s : State) (k i : Nat) (f : Path → Path) : (s.modPath k i f).ccores = s.ccores := rfl
@[simp] theorem outbox_modPath_frame (s : State) (k i : Nat) (f : Path → Path) : (s.modPath k i f).outbox = s.outbox := rfl
@[simp] theorem columns_modPath_frame (s : State) (k i : Nat) (f : Path → Path) : (s.modPath k i f).columns = s.columns := rfl
@[simp] theorem dirty_modPath_frame (s : State) (k i : Nat) (f : Path → Path) : (s.modPath k i f).dirty = s.dirty := rfl
@[simp] theorem accesses_modPath_frame (s : State) (k i : Nat) (f : Path → Path) : (s.modPath k i f).accesses = s.accesses := rfl
@[simp] theorem loads_modPath_frame (s : State) (k i : Nat) (f : Path → Path) : (s.modPath k i f).loads = s.loads := rfl
@[simp] theorem xfers_modPath_frame (s : State) (k i : Nat) (f : Path → Path) : (s.modPath k i f).xfers = s.xfers := rfl
@[simp] theorem barReqs_modPath_frame (s : State) (k i : Nat) (f : Path → Path) : (s.modPath k i f).barReqs = s.barReqs := rfl
@[simp] theorem sends_modPath_frame (s : State) (k i : Nat) (f : Path → Path) : (s.modPath k i f).sends = s.sends := rfl
@[simp] theorem packets_modPath_frame (s : State) (k i : Nat) (f : Path → Path) : (s.modPath k i f).packets = s.packets := rfl
@[simp] theorem returns_modPath_frame (s : State) (k i : Nat) (f : Path → Path) : (s.modPath k i f).returns = s.returns := rfl
@[simp] theorem peers_modPath_frame (s : State) (k i : Nat) (f : Path → Path) : (s.modPath k i f).peers = s.peers := rfl
@[simp] theorem launchReqs_modPath_frame (s : State) (k i : Nat) (f : Path → Path) : (s.modPath k i f).launchReqs = s.launchReqs := rfl
@[simp] theorem launches_modPath_frame (s : State) (k i : Nat) (f : Path → Path) : (s.modPath k i f).launches = s.launches := rfl
@[simp] theorem insts_modPath_frame (s : State) (k i : Nat) (f : Path → Path) : (s.modPath k i f).insts = s.insts := rfl
@[simp] theorem jobs_modPath_frame (s : State) (k i : Nat) (f : Path → Path) : (s.modPath k i f).jobs = s.jobs := rfl
@[simp] theorem frecs_modPath_frame (s : State) (k i : Nat) (f : Path → Path) : (s.modPath k i f).frecs = s.frecs := rfl
@[simp] theorem coil_modPath_frame (s : State) (k i : Nat) (f : Path → Path) : (s.modPath k i f).coil = s.coil := rfl
@[simp] theorem coilq_modPath_frame (s : State) (k i : Nat) (f : Path → Path) : (s.modPath k i f).coilq = s.coilq := rfl
@[simp] theorem grove_modPath_frame (s : State) (k i : Nat) (f : Path → Path) : (s.modPath k i f).grove = s.grove := rfl
@[simp] theorem decs_modPath_frame (s : State) (k i : Nat) (f : Path → Path) : (s.modPath k i f).decs = s.decs := rfl
@[simp] theorem saggars_modPath_frame (s : State) (k i : Nat) (f : Path → Path) : (s.modPath k i f).saggars = s.saggars := rfl
@[simp] theorem redirects_modPath_frame (s : State) (k i : Nat) (f : Path → Path) : (s.modPath k i f).redirects = s.redirects := rfl
@[simp] theorem saved_modPath_frame (s : State) (k i : Nat) (f : Path → Path) : (s.modPath k i f).saved = s.saved := rfl
@[simp] theorem parts_modPath_frame (s : State) (k i : Nat) (f : Path → Path) : (s.modPath k i f).parts = s.parts := rfl
@[simp] theorem traces_modPath_frame (s : State) (k i : Nat) (f : Path → Path) : (s.modPath k i f).traces = s.traces := rfl
@[simp] theorem pkg_modPath_frame (s : State) (k i : Nat) (f : Path → Path) : (s.modPath k i f).pkg = s.pkg := rfl

/-! ### setSaggar -/

@[simp] theorem tick_setSaggar_frame (s : State) (k : Nat) (x : Saggar) : (s.setSaggar k x).tick = s.tick := rfl
@[simp] theorem agenda_setSaggar_frame (s : State) (k : Nat) (x : Saggar) : (s.setSaggar k x).agenda = s.agenda := rfl
@[simp] theorem cur_setSaggar_frame (s : State) (k : Nat) (x : Saggar) : (s.setSaggar k x).cur = s.cur := rfl
@[simp] theorem lastQ_setSaggar_frame (s : State) (k : Nat) (x : Saggar) : (s.setSaggar k x).lastQ = s.lastQ := rfl
@[simp] theorem nextId_setSaggar_frame (s : State) (k : Nat) (x : Saggar) : (s.setSaggar k x).nextId = s.nextId := rfl
@[simp] theorem mem_setSaggar_frame (s : State) (k : Nat) (x : Saggar) : (s.setSaggar k x).mem = s.mem := rfl
@[simp] theorem poison_setSaggar_frame (s : State) (k : Nat) (x : Saggar) : (s.setSaggar k x).poison = s.poison := rfl
@[simp] theorem groups_setSaggar_frame (s : State) (k : Nat) (x : Saggar) : (s.setSaggar k x).groups = s.groups := rfl
@[simp] theorem quarters_setSaggar_frame (s : State) (k : Nat) (x : Saggar) : (s.setSaggar k x).quarters = s.quarters := rfl
@[simp] theorem cores_setSaggar_frame (s : State) (k : Nat) (x : Saggar) : (s.setSaggar k x).cores = s.cores := rfl
@[simp] theorem tlbs_setSaggar_frame (s : State) (k : Nat) (x : Saggar) : (s.setSaggar k x).tlbs = s.tlbs := rfl
@[simp] theorem replicas_setSaggar_frame (s : State) (k : Nat) (x : Saggar) : (s.setSaggar k x).replicas = s.replicas := rfl
@[simp] theorem walks_setSaggar_frame (s : State) (k : Nat) (x : Saggar) : (s.setSaggar k x).walks = s.walks := rfl
@[simp] theorem images_setSaggar_frame (s : State) (k : Nat) (x : Saggar) : (s.setSaggar k x).images = s.images := rfl
@[simp] theorem ccores_setSaggar_frame (s : State) (k : Nat) (x : Saggar) : (s.setSaggar k x).ccores = s.ccores := rfl
@[simp] theorem outbox_setSaggar_frame (s : State) (k : Nat) (x : Saggar) : (s.setSaggar k x).outbox = s.outbox := rfl
@[simp] theorem columns_setSaggar_frame (s : State) (k : Nat) (x : Saggar) : (s.setSaggar k x).columns = s.columns := rfl
@[simp] theorem dirty_setSaggar_frame (s : State) (k : Nat) (x : Saggar) : (s.setSaggar k x).dirty = s.dirty := rfl
@[simp] theorem accesses_setSaggar_frame (s : State) (k : Nat) (x : Saggar) : (s.setSaggar k x).accesses = s.accesses := rfl
@[simp] theorem loads_setSaggar_frame (s : State) (k : Nat) (x : Saggar) : (s.setSaggar k x).loads = s.loads := rfl
@[simp] theorem xfers_setSaggar_frame (s : State) (k : Nat) (x : Saggar) : (s.setSaggar k x).xfers = s.xfers := rfl
@[simp] theorem barReqs_setSaggar_frame (s : State) (k : Nat) (x : Saggar) : (s.setSaggar k x).barReqs = s.barReqs := rfl
@[simp] theorem sends_setSaggar_frame (s : State) (k : Nat) (x : Saggar) : (s.setSaggar k x).sends = s.sends := rfl
@[simp] theorem packets_setSaggar_frame (s : State) (k : Nat) (x : Saggar) : (s.setSaggar k x).packets = s.packets := rfl
@[simp] theorem returns_setSaggar_frame (s : State) (k : Nat) (x : Saggar) : (s.setSaggar k x).returns = s.returns := rfl
@[simp] theorem peers_setSaggar_frame (s : State) (k : Nat) (x : Saggar) : (s.setSaggar k x).peers = s.peers := rfl
@[simp] theorem launchReqs_setSaggar_frame (s : State) (k : Nat) (x : Saggar) : (s.setSaggar k x).launchReqs = s.launchReqs := rfl
@[simp] theorem launches_setSaggar_frame (s : State) (k : Nat) (x : Saggar) : (s.setSaggar k x).launches = s.launches := rfl
@[simp] theorem insts_setSaggar_frame (s : State) (k : Nat) (x : Saggar) : (s.setSaggar k x).insts = s.insts := rfl
@[simp] theorem jobs_setSaggar_frame (s : State) (k : Nat) (x : Saggar) : (s.setSaggar k x).jobs = s.jobs := rfl
@[simp] theorem frecs_setSaggar_frame (s : State) (k : Nat) (x : Saggar) : (s.setSaggar k x).frecs = s.frecs := rfl
@[simp] theorem coil_setSaggar_frame (s : State) (k : Nat) (x : Saggar) : (s.setSaggar k x).coil = s.coil := rfl
@[simp] theorem coilq_setSaggar_frame (s : State) (k : Nat) (x : Saggar) : (s.setSaggar k x).coilq = s.coilq := rfl
@[simp] theorem grove_setSaggar_frame (s : State) (k : Nat) (x : Saggar) : (s.setSaggar k x).grove = s.grove := rfl
@[simp] theorem decs_setSaggar_frame (s : State) (k : Nat) (x : Saggar) : (s.setSaggar k x).decs = s.decs := rfl
@[simp] theorem redirects_setSaggar_frame (s : State) (k : Nat) (x : Saggar) : (s.setSaggar k x).redirects = s.redirects := rfl
@[simp] theorem saved_setSaggar_frame (s : State) (k : Nat) (x : Saggar) : (s.setSaggar k x).saved = s.saved := rfl
@[simp] theorem parts_setSaggar_frame (s : State) (k : Nat) (x : Saggar) : (s.setSaggar k x).parts = s.parts := rfl
@[simp] theorem traces_setSaggar_frame (s : State) (k : Nat) (x : Saggar) : (s.setSaggar k x).traces = s.traces := rfl
@[simp] theorem pkg_setSaggar_frame (s : State) (k : Nat) (x : Saggar) : (s.setSaggar k x).pkg = s.pkg := rfl

/-! ### setTrace -/

@[simp] theorem tick_setTrace_frame (s : State) (d : Nat) (x : TraceCore) : (s.setTrace d x).tick = s.tick := rfl
@[simp] theorem agenda_setTrace_frame (s : State) (d : Nat) (x : TraceCore) : (s.setTrace d x).agenda = s.agenda := rfl
@[simp] theorem cur_setTrace_frame (s : State) (d : Nat) (x : TraceCore) : (s.setTrace d x).cur = s.cur := rfl
@[simp] theorem lastQ_setTrace_frame (s : State) (d : Nat) (x : TraceCore) : (s.setTrace d x).lastQ = s.lastQ := rfl
@[simp] theorem nextId_setTrace_frame (s : State) (d : Nat) (x : TraceCore) : (s.setTrace d x).nextId = s.nextId := rfl
@[simp] theorem mem_setTrace_frame (s : State) (d : Nat) (x : TraceCore) : (s.setTrace d x).mem = s.mem := rfl
@[simp] theorem poison_setTrace_frame (s : State) (d : Nat) (x : TraceCore) : (s.setTrace d x).poison = s.poison := rfl
@[simp] theorem groups_setTrace_frame (s : State) (d : Nat) (x : TraceCore) : (s.setTrace d x).groups = s.groups := rfl
@[simp] theorem quarters_setTrace_frame (s : State) (d : Nat) (x : TraceCore) : (s.setTrace d x).quarters = s.quarters := rfl
@[simp] theorem cores_setTrace_frame (s : State) (d : Nat) (x : TraceCore) : (s.setTrace d x).cores = s.cores := rfl
@[simp] theorem tlbs_setTrace_frame (s : State) (d : Nat) (x : TraceCore) : (s.setTrace d x).tlbs = s.tlbs := rfl
@[simp] theorem replicas_setTrace_frame (s : State) (d : Nat) (x : TraceCore) : (s.setTrace d x).replicas = s.replicas := rfl
@[simp] theorem walks_setTrace_frame (s : State) (d : Nat) (x : TraceCore) : (s.setTrace d x).walks = s.walks := rfl
@[simp] theorem images_setTrace_frame (s : State) (d : Nat) (x : TraceCore) : (s.setTrace d x).images = s.images := rfl
@[simp] theorem ccores_setTrace_frame (s : State) (d : Nat) (x : TraceCore) : (s.setTrace d x).ccores = s.ccores := rfl
@[simp] theorem outbox_setTrace_frame (s : State) (d : Nat) (x : TraceCore) : (s.setTrace d x).outbox = s.outbox := rfl
@[simp] theorem columns_setTrace_frame (s : State) (d : Nat) (x : TraceCore) : (s.setTrace d x).columns = s.columns := rfl
@[simp] theorem dirty_setTrace_frame (s : State) (d : Nat) (x : TraceCore) : (s.setTrace d x).dirty = s.dirty := rfl
@[simp] theorem accesses_setTrace_frame (s : State) (d : Nat) (x : TraceCore) : (s.setTrace d x).accesses = s.accesses := rfl
@[simp] theorem loads_setTrace_frame (s : State) (d : Nat) (x : TraceCore) : (s.setTrace d x).loads = s.loads := rfl
@[simp] theorem xfers_setTrace_frame (s : State) (d : Nat) (x : TraceCore) : (s.setTrace d x).xfers = s.xfers := rfl
@[simp] theorem barReqs_setTrace_frame (s : State) (d : Nat) (x : TraceCore) : (s.setTrace d x).barReqs = s.barReqs := rfl
@[simp] theorem sends_setTrace_frame (s : State) (d : Nat) (x : TraceCore) : (s.setTrace d x).sends = s.sends := rfl
@[simp] theorem packets_setTrace_frame (s : State) (d : Nat) (x : TraceCore) : (s.setTrace d x).packets = s.packets := rfl
@[simp] theorem returns_setTrace_frame (s : State) (d : Nat) (x : TraceCore) : (s.setTrace d x).returns = s.returns := rfl
@[simp] theorem peers_setTrace_frame (s : State) (d : Nat) (x : TraceCore) : (s.setTrace d x).peers = s.peers := rfl
@[simp] theorem launchReqs_setTrace_frame (s : State) (d : Nat) (x : TraceCore) : (s.setTrace d x).launchReqs = s.launchReqs := rfl
@[simp] theorem launches_setTrace_frame (s : State) (d : Nat) (x : TraceCore) : (s.setTrace d x).launches = s.launches := rfl
@[simp] theorem insts_setTrace_frame (s : State) (d : Nat) (x : TraceCore) : (s.setTrace d x).insts = s.insts := rfl
@[simp] theorem jobs_setTrace_frame (s : State) (d : Nat) (x : TraceCore) : (s.setTrace d x).jobs = s.jobs := rfl
@[simp] theorem frecs_setTrace_frame (s : State) (d : Nat) (x : TraceCore) : (s.setTrace d x).frecs = s.frecs := rfl
@[simp] theorem coil_setTrace_frame (s : State) (d : Nat) (x : TraceCore) : (s.setTrace d x).coil = s.coil := rfl
@[simp] theorem coilq_setTrace_frame (s : State) (d : Nat) (x : TraceCore) : (s.setTrace d x).coilq = s.coilq := rfl
@[simp] theorem grove_setTrace_frame (s : State) (d : Nat) (x : TraceCore) : (s.setTrace d x).grove = s.grove := rfl
@[simp] theorem decs_setTrace_frame (s : State) (d : Nat) (x : TraceCore) : (s.setTrace d x).decs = s.decs := rfl
@[simp] theorem saggars_setTrace_frame (s : State) (d : Nat) (x : TraceCore) : (s.setTrace d x).saggars = s.saggars := rfl
@[simp] theorem redirects_setTrace_frame (s : State) (d : Nat) (x : TraceCore) : (s.setTrace d x).redirects = s.redirects := rfl
@[simp] theorem saved_setTrace_frame (s : State) (d : Nat) (x : TraceCore) : (s.setTrace d x).saved = s.saved := rfl
@[simp] theorem parts_setTrace_frame (s : State) (d : Nat) (x : TraceCore) : (s.setTrace d x).parts = s.parts := rfl
@[simp] theorem pkg_setTrace_frame (s : State) (d : Nat) (x : TraceCore) : (s.setTrace d x).pkg = s.pkg := rfl

/-! ### modLaunch -/

@[simp] theorem tick_modLaunch_frame (s : State) (k : Nat) (f : Launch → Launch) : (s.modLaunch k f).tick = s.tick := rfl
@[simp] theorem agenda_modLaunch_frame (s : State) (k : Nat) (f : Launch → Launch) : (s.modLaunch k f).agenda = s.agenda := rfl
@[simp] theorem cur_modLaunch_frame (s : State) (k : Nat) (f : Launch → Launch) : (s.modLaunch k f).cur = s.cur := rfl
@[simp] theorem lastQ_modLaunch_frame (s : State) (k : Nat) (f : Launch → Launch) : (s.modLaunch k f).lastQ = s.lastQ := rfl
@[simp] theorem nextId_modLaunch_frame (s : State) (k : Nat) (f : Launch → Launch) : (s.modLaunch k f).nextId = s.nextId := rfl
@[simp] theorem mem_modLaunch_frame (s : State) (k : Nat) (f : Launch → Launch) : (s.modLaunch k f).mem = s.mem := rfl
@[simp] theorem poison_modLaunch_frame (s : State) (k : Nat) (f : Launch → Launch) : (s.modLaunch k f).poison = s.poison := rfl
@[simp] theorem groups_modLaunch_frame (s : State) (k : Nat) (f : Launch → Launch) : (s.modLaunch k f).groups = s.groups := rfl
@[simp] theorem quarters_modLaunch_frame (s : State) (k : Nat) (f : Launch → Launch) : (s.modLaunch k f).quarters = s.quarters := rfl
@[simp] theorem cores_modLaunch_frame (s : State) (k : Nat) (f : Launch → Launch) : (s.modLaunch k f).cores = s.cores := rfl
@[simp] theorem tlbs_modLaunch_frame (s : State) (k : Nat) (f : Launch → Launch) : (s.modLaunch k f).tlbs = s.tlbs := rfl
@[simp] theorem replicas_modLaunch_frame (s : State) (k : Nat) (f : Launch → Launch) : (s.modLaunch k f).replicas = s.replicas := rfl
@[simp] theorem walks_modLaunch_frame (s : State) (k : Nat) (f : Launch → Launch) : (s.modLaunch k f).walks = s.walks := rfl
@[simp] theorem images_modLaunch_frame (s : State) (k : Nat) (f : Launch → Launch) : (s.modLaunch k f).images = s.images := rfl
@[simp] theorem ccores_modLaunch_frame (s : State) (k : Nat) (f : Launch → Launch) : (s.modLaunch k f).ccores = s.ccores := rfl
@[simp] theorem outbox_modLaunch_frame (s : State) (k : Nat) (f : Launch → Launch) : (s.modLaunch k f).outbox = s.outbox := rfl
@[simp] theorem columns_modLaunch_frame (s : State) (k : Nat) (f : Launch → Launch) : (s.modLaunch k f).columns = s.columns := rfl
@[simp] theorem dirty_modLaunch_frame (s : State) (k : Nat) (f : Launch → Launch) : (s.modLaunch k f).dirty = s.dirty := rfl
@[simp] theorem accesses_modLaunch_frame (s : State) (k : Nat) (f : Launch → Launch) : (s.modLaunch k f).accesses = s.accesses := rfl
@[simp] theorem loads_modLaunch_frame (s : State) (k : Nat) (f : Launch → Launch) : (s.modLaunch k f).loads = s.loads := rfl
@[simp] theorem xfers_modLaunch_frame (s : State) (k : Nat) (f : Launch → Launch) : (s.modLaunch k f).xfers = s.xfers := rfl
@[simp] theorem barReqs_modLaunch_frame (s : State) (k : Nat) (f : Launch → Launch) : (s.modLaunch k f).barReqs = s.barReqs := rfl
@[simp] theorem sends_modLaunch_frame (s : State) (k : Nat) (f : Launch → Launch) : (s.modLaunch k f).sends = s.sends := rfl
@[simp] theorem packets_modLaunch_frame (s : State) (k : Nat) (f : Launch → Launch) : (s.modLaunch k f).packets = s.packets := rfl
@[simp] theorem returns_modLaunch_frame (s : State) (k : Nat) (f : Launch → Launch) : (s.modLaunch k f).returns = s.returns := rfl
@[simp] theorem peers_modLaunch_frame (s : State) (k : Nat) (f : Launch → Launch) : (s.modLaunch k f).peers = s.peers := rfl
@[simp] theorem launchReqs_modLaunch_frame (s : State) (k : Nat) (f : Launch → Launch) : (s.modLaunch k f).launchReqs = s.launchReqs := rfl
@[simp] theorem insts_modLaunch_frame (s : State) (k : Nat) (f : Launch → Launch) : (s.modLaunch k f).insts = s.insts := rfl
@[simp] theorem jobs_modLaunch_frame (s : State) (k : Nat) (f : Launch → Launch) : (s.modLaunch k f).jobs = s.jobs := rfl
@[simp] theorem frecs_modLaunch_frame (s : State) (k : Nat) (f : Launch → Launch) : (s.modLaunch k f).frecs = s.frecs := rfl
@[simp] theorem coil_modLaunch_frame (s : State) (k : Nat) (f : Launch → Launch) : (s.modLaunch k f).coil = s.coil := rfl
@[simp] theorem coilq_modLaunch_frame (s : State) (k : Nat) (f : Launch → Launch) : (s.modLaunch k f).coilq = s.coilq := rfl
@[simp] theorem grove_modLaunch_frame (s : State) (k : Nat) (f : Launch → Launch) : (s.modLaunch k f).grove = s.grove := rfl
@[simp] theorem decs_modLaunch_frame (s : State) (k : Nat) (f : Launch → Launch) : (s.modLaunch k f).decs = s.decs := rfl
@[simp] theorem saggars_modLaunch_frame (s : State) (k : Nat) (f : Launch → Launch) : (s.modLaunch k f).saggars = s.saggars := rfl
@[simp] theorem redirects_modLaunch_frame (s : State) (k : Nat) (f : Launch → Launch) : (s.modLaunch k f).redirects = s.redirects := rfl
@[simp] theorem saved_modLaunch_frame (s : State) (k : Nat) (f : Launch → Launch) : (s.modLaunch k f).saved = s.saved := rfl
@[simp] theorem parts_modLaunch_frame (s : State) (k : Nat) (f : Launch → Launch) : (s.modLaunch k f).parts = s.parts := rfl
@[simp] theorem traces_modLaunch_frame (s : State) (k : Nat) (f : Launch → Launch) : (s.modLaunch k f).traces = s.traces := rfl
@[simp] theorem pkg_modLaunch_frame (s : State) (k : Nat) (f : Launch → Launch) : (s.modLaunch k f).pkg = s.pkg := rfl

/-! ### setPkg -/

@[simp] theorem tick_setPkg_frame (s : State) (f : Package → Package) : (s.setPkg f).tick = s.tick := rfl
@[simp] theorem agenda_setPkg_frame (s : State) (f : Package → Package) : (s.setPkg f).agenda = s.agenda := rfl
@[simp] theorem cur_setPkg_frame (s : State) (f : Package → Package) : (s.setPkg f).cur = s.cur := rfl
@[simp] theorem lastQ_setPkg_frame (s : State) (f : Package → Package) : (s.setPkg f).lastQ = s.lastQ := rfl
@[simp] theorem nextId_setPkg_frame (s : State) (f : Package → Package) : (s.setPkg f).nextId = s.nextId := rfl
@[simp] theorem mem_setPkg_frame (s : State) (f : Package → Package) : (s.setPkg f).mem = s.mem := rfl
@[simp] theorem poison_setPkg_frame (s : State) (f : Package → Package) : (s.setPkg f).poison = s.poison := rfl
@[simp] theorem groups_setPkg_frame (s : State) (f : Package → Package) : (s.setPkg f).groups = s.groups := rfl
@[simp] theorem quarters_setPkg_frame (s : State) (f : Package → Package) : (s.setPkg f).quarters = s.quarters := rfl
@[simp] theorem cores_setPkg_frame (s : State) (f : Package → Package) : (s.setPkg f).cores = s.cores := rfl
@[simp] theorem tlbs_setPkg_frame (s : State) (f : Package → Package) : (s.setPkg f).tlbs = s.tlbs := rfl
@[simp] theorem replicas_setPkg_frame (s : State) (f : Package → Package) : (s.setPkg f).replicas = s.replicas := rfl
@[simp] theorem walks_setPkg_frame (s : State) (f : Package → Package) : (s.setPkg f).walks = s.walks := rfl
@[simp] theorem images_setPkg_frame (s : State) (f : Package → Package) : (s.setPkg f).images = s.images := rfl
@[simp] theorem ccores_setPkg_frame (s : State) (f : Package → Package) : (s.setPkg f).ccores = s.ccores := rfl
@[simp] theorem outbox_setPkg_frame (s : State) (f : Package → Package) : (s.setPkg f).outbox = s.outbox := rfl
@[simp] theorem columns_setPkg_frame (s : State) (f : Package → Package) : (s.setPkg f).columns = s.columns := rfl
@[simp] theorem dirty_setPkg_frame (s : State) (f : Package → Package) : (s.setPkg f).dirty = s.dirty := rfl
@[simp] theorem accesses_setPkg_frame (s : State) (f : Package → Package) : (s.setPkg f).accesses = s.accesses := rfl
@[simp] theorem loads_setPkg_frame (s : State) (f : Package → Package) : (s.setPkg f).loads = s.loads := rfl
@[simp] theorem xfers_setPkg_frame (s : State) (f : Package → Package) : (s.setPkg f).xfers = s.xfers := rfl
@[simp] theorem barReqs_setPkg_frame (s : State) (f : Package → Package) : (s.setPkg f).barReqs = s.barReqs := rfl
@[simp] theorem sends_setPkg_frame (s : State) (f : Package → Package) : (s.setPkg f).sends = s.sends := rfl
@[simp] theorem packets_setPkg_frame (s : State) (f : Package → Package) : (s.setPkg f).packets = s.packets := rfl
@[simp] theorem returns_setPkg_frame (s : State) (f : Package → Package) : (s.setPkg f).returns = s.returns := rfl
@[simp] theorem peers_setPkg_frame (s : State) (f : Package → Package) : (s.setPkg f).peers = s.peers := rfl
@[simp] theorem launchReqs_setPkg_frame (s : State) (f : Package → Package) : (s.setPkg f).launchReqs = s.launchReqs := rfl
@[simp] theorem launches_setPkg_frame (s : State) (f : Package → Package) : (s.setPkg f).launches = s.launches := rfl
@[simp] theorem insts_setPkg_frame (s : State) (f : Package → Package) : (s.setPkg f).insts = s.insts := rfl
@[simp] theorem jobs_setPkg_frame (s : State) (f : Package → Package) : (s.setPkg f).jobs = s.jobs := rfl
@[simp] theorem frecs_setPkg_frame (s : State) (f : Package → Package) : (s.setPkg f).frecs = s.frecs := rfl
@[simp] theorem coil_setPkg_frame (s : State) (f : Package → Package) : (s.setPkg f).coil = s.coil := rfl
@[simp] theorem coilq_setPkg_frame (s : State) (f : Package → Package) : (s.setPkg f).coilq = s.coilq := rfl
@[simp] theorem grove_setPkg_frame (s : State) (f : Package → Package) : (s.setPkg f).grove = s.grove := rfl
@[simp] theorem decs_setPkg_frame (s : State) (f : Package → Package) : (s.setPkg f).decs = s.decs := rfl
@[simp] theorem saggars_setPkg_frame (s : State) (f : Package → Package) : (s.setPkg f).saggars = s.saggars := rfl
@[simp] theorem redirects_setPkg_frame (s : State) (f : Package → Package) : (s.setPkg f).redirects = s.redirects := rfl
@[simp] theorem saved_setPkg_frame (s : State) (f : Package → Package) : (s.setPkg f).saved = s.saved := rfl
@[simp] theorem parts_setPkg_frame (s : State) (f : Package → Package) : (s.setPkg f).parts = s.parts := rfl
@[simp] theorem traces_setPkg_frame (s : State) (f : Package → Package) : (s.setPkg f).traces = s.traces := rfl

/-! ### rewrite -/

@[simp] theorem tick_rewrite_frame (s : State) (a : Nat) (bs : List Byte) : (s.rewrite a bs).tick = s.tick := rfl
@[simp] theorem agenda_rewrite_frame (s : State) (a : Nat) (bs : List Byte) : (s.rewrite a bs).agenda = s.agenda := rfl
@[simp] theorem cur_rewrite_frame (s : State) (a : Nat) (bs : List Byte) : (s.rewrite a bs).cur = s.cur := rfl
@[simp] theorem lastQ_rewrite_frame (s : State) (a : Nat) (bs : List Byte) : (s.rewrite a bs).lastQ = s.lastQ := rfl
@[simp] theorem nextId_rewrite_frame (s : State) (a : Nat) (bs : List Byte) : (s.rewrite a bs).nextId = s.nextId := rfl
@[simp] theorem poison_rewrite_frame (s : State) (a : Nat) (bs : List Byte) : (s.rewrite a bs).poison = s.poison := rfl
@[simp] theorem groups_rewrite_frame (s : State) (a : Nat) (bs : List Byte) : (s.rewrite a bs).groups = s.groups := rfl
@[simp] theorem quarters_rewrite_frame (s : State) (a : Nat) (bs : List Byte) : (s.rewrite a bs).quarters = s.quarters := rfl
@[simp] theorem cores_rewrite_frame (s : State) (a : Nat) (bs : List Byte) : (s.rewrite a bs).cores = s.cores := rfl
@[simp] theorem tlbs_rewrite_frame (s : State) (a : Nat) (bs : List Byte) : (s.rewrite a bs).tlbs = s.tlbs := rfl
@[simp] theorem replicas_rewrite_frame (s : State) (a : Nat) (bs : List Byte) : (s.rewrite a bs).replicas = s.replicas := rfl
@[simp] theorem walks_rewrite_frame (s : State) (a : Nat) (bs : List Byte) : (s.rewrite a bs).walks = s.walks := rfl
@[simp] theorem images_rewrite_frame (s : State) (a : Nat) (bs : List Byte) : (s.rewrite a bs).images = s.images := rfl
@[simp] theorem ccores_rewrite_frame (s : State) (a : Nat) (bs : List Byte) : (s.rewrite a bs).ccores = s.ccores := rfl
@[simp] theorem outbox_rewrite_frame (s : State) (a : Nat) (bs : List Byte) : (s.rewrite a bs).outbox = s.outbox := rfl
@[simp] theorem columns_rewrite_frame (s : State) (a : Nat) (bs : List Byte) : (s.rewrite a bs).columns = s.columns := rfl
@[simp] theorem dirty_rewrite_frame (s : State) (a : Nat) (bs : List Byte) : (s.rewrite a bs).dirty = s.dirty := rfl
@[simp] theorem accesses_rewrite_frame (s : State) (a : Nat) (bs : List Byte) : (s.rewrite a bs).accesses = s.accesses := rfl
@[simp] theorem loads_rewrite_frame (s : State) (a : Nat) (bs : List Byte) : (s.rewrite a bs).loads = s.loads := rfl
@[simp] theorem xfers_rewrite_frame (s : State) (a : Nat) (bs : List Byte) : (s.rewrite a bs).xfers = s.xfers := rfl
@[simp] theorem barReqs_rewrite_frame (s : State) (a : Nat) (bs : List Byte) : (s.rewrite a bs).barReqs = s.barReqs := rfl
@[simp] theorem sends_rewrite_frame (s : State) (a : Nat) (bs : List Byte) : (s.rewrite a bs).sends = s.sends := rfl
@[simp] theorem packets_rewrite_frame (s : State) (a : Nat) (bs : List Byte) : (s.rewrite a bs).packets = s.packets := rfl
@[simp] theorem returns_rewrite_frame (s : State) (a : Nat) (bs : List Byte) : (s.rewrite a bs).returns = s.returns := rfl
@[simp] theorem peers_rewrite_frame (s : State) (a : Nat) (bs : List Byte) : (s.rewrite a bs).peers = s.peers := rfl
@[simp] theorem launchReqs_rewrite_frame (s : State) (a : Nat) (bs : List Byte) : (s.rewrite a bs).launchReqs = s.launchReqs := rfl
@[simp] theorem launches_rewrite_frame (s : State) (a : Nat) (bs : List Byte) : (s.rewrite a bs).launches = s.launches := rfl
@[simp] theorem insts_rewrite_frame (s : State) (a : Nat) (bs : List Byte) : (s.rewrite a bs).insts = s.insts := rfl
@[simp] theorem jobs_rewrite_frame (s : State) (a : Nat) (bs : List Byte) : (s.rewrite a bs).jobs = s.jobs := rfl
@[simp] theorem frecs_rewrite_frame (s : State) (a : Nat) (bs : List Byte) : (s.rewrite a bs).frecs = s.frecs := rfl
@[simp] theorem coil_rewrite_frame (s : State) (a : Nat) (bs : List Byte) : (s.rewrite a bs).coil = s.coil := rfl
@[simp] theorem coilq_rewrite_frame (s : State) (a : Nat) (bs : List Byte) : (s.rewrite a bs).coilq = s.coilq := rfl
@[simp] theorem grove_rewrite_frame (s : State) (a : Nat) (bs : List Byte) : (s.rewrite a bs).grove = s.grove := rfl
@[simp] theorem decs_rewrite_frame (s : State) (a : Nat) (bs : List Byte) : (s.rewrite a bs).decs = s.decs := rfl
@[simp] theorem saggars_rewrite_frame (s : State) (a : Nat) (bs : List Byte) : (s.rewrite a bs).saggars = s.saggars := rfl
@[simp] theorem redirects_rewrite_frame (s : State) (a : Nat) (bs : List Byte) : (s.rewrite a bs).redirects = s.redirects := rfl
@[simp] theorem saved_rewrite_frame (s : State) (a : Nat) (bs : List Byte) : (s.rewrite a bs).saved = s.saved := rfl
@[simp] theorem parts_rewrite_frame (s : State) (a : Nat) (bs : List Byte) : (s.rewrite a bs).parts = s.parts := rfl
@[simp] theorem traces_rewrite_frame (s : State) (a : Nat) (bs : List Byte) : (s.rewrite a bs).traces = s.traces := rfl
@[simp] theorem pkg_rewrite_frame (s : State) (a : Nat) (bs : List Byte) : (s.rewrite a bs).pkg = s.pkg := rfl

/-! ### zeroBytes -/

@[simp] theorem tick_zeroBytes_frame (s : State) (a n : Nat) : (s.zeroBytes a n).tick = s.tick := rfl
@[simp] theorem agenda_zeroBytes_frame (s : State) (a n : Nat) : (s.zeroBytes a n).agenda = s.agenda := rfl
@[simp] theorem cur_zeroBytes_frame (s : State) (a n : Nat) : (s.zeroBytes a n).cur = s.cur := rfl
@[simp] theorem lastQ_zeroBytes_frame (s : State) (a n : Nat) : (s.zeroBytes a n).lastQ = s.lastQ := rfl
@[simp] theorem nextId_zeroBytes_frame (s : State) (a n : Nat) : (s.zeroBytes a n).nextId = s.nextId := rfl
@[simp] theorem groups_zeroBytes_frame (s : State) (a n : Nat) : (s.zeroBytes a n).groups = s.groups := rfl
@[simp] theorem quarters_zeroBytes_frame (s : State) (a n : Nat) : (s.zeroBytes a n).quarters = s.quarters := rfl
@[simp] theorem cores_zeroBytes_frame (s : State) (a n : Nat) : (s.zeroBytes a n).cores = s.cores := rfl
@[simp] theorem tlbs_zeroBytes_frame (s : State) (a n : Nat) : (s.zeroBytes a n).tlbs = s.tlbs := rfl
@[simp] theorem replicas_zeroBytes_frame (s : State) (a n : Nat) : (s.zeroBytes a n).replicas = s.replicas := rfl
@[simp] theorem walks_zeroBytes_frame (s : State) (a n : Nat) : (s.zeroBytes a n).walks = s.walks := rfl
@[simp] theorem images_zeroBytes_frame (s : State) (a n : Nat) : (s.zeroBytes a n).images = s.images := rfl
@[simp] theorem ccores_zeroBytes_frame (s : State) (a n : Nat) : (s.zeroBytes a n).ccores = s.ccores := rfl
@[simp] theorem outbox_zeroBytes_frame (s : State) (a n : Nat) : (s.zeroBytes a n).outbox = s.outbox := rfl
@[simp] theorem columns_zeroBytes_frame (s : State) (a n : Nat) : (s.zeroBytes a n).columns = s.columns := rfl
@[simp] theorem dirty_zeroBytes_frame (s : State) (a n : Nat) : (s.zeroBytes a n).dirty = s.dirty := rfl
@[simp] theorem accesses_zeroBytes_frame (s : State) (a n : Nat) : (s.zeroBytes a n).accesses = s.accesses := rfl
@[simp] theorem loads_zeroBytes_frame (s : State) (a n : Nat) : (s.zeroBytes a n).loads = s.loads := rfl
@[simp] theorem xfers_zeroBytes_frame (s : State) (a n : Nat) : (s.zeroBytes a n).xfers = s.xfers := rfl
@[simp] theorem barReqs_zeroBytes_frame (s : State) (a n : Nat) : (s.zeroBytes a n).barReqs = s.barReqs := rfl
@[simp] theorem sends_zeroBytes_frame (s : State) (a n : Nat) : (s.zeroBytes a n).sends = s.sends := rfl
@[simp] theorem packets_zeroBytes_frame (s : State) (a n : Nat) : (s.zeroBytes a n).packets = s.packets := rfl
@[simp] theorem returns_zeroBytes_frame (s : State) (a n : Nat) : (s.zeroBytes a n).returns = s.returns := rfl
@[simp] theorem peers_zeroBytes_frame (s : State) (a n : Nat) : (s.zeroBytes a n).peers = s.peers := rfl
@[simp] theorem launchReqs_zeroBytes_frame (s : State) (a n : Nat) : (s.zeroBytes a n).launchReqs = s.launchReqs := rfl
@[simp] theorem launches_zeroBytes_frame (s : State) (a n : Nat) : (s.zeroBytes a n).launches = s.launches := rfl
@[simp] theorem insts_zeroBytes_frame (s : State) (a n : Nat) : (s.zeroBytes a n).insts = s.insts := rfl
@[simp] theorem jobs_zeroBytes_frame (s : State) (a n : Nat) : (s.zeroBytes a n).jobs = s.jobs := rfl
@[simp] theorem frecs_zeroBytes_frame (s : State) (a n : Nat) : (s.zeroBytes a n).frecs = s.frecs := rfl
@[simp] theorem coil_zeroBytes_frame (s : State) (a n : Nat) : (s.zeroBytes a n).coil = s.coil := rfl
@[simp] theorem coilq_zeroBytes_frame (s : State) (a n : Nat) : (s.zeroBytes a n).coilq = s.coilq := rfl
@[simp] theorem grove_zeroBytes_frame (s : State) (a n : Nat) : (s.zeroBytes a n).grove = s.grove := rfl
@[simp] theorem decs_zeroBytes_frame (s : State) (a n : Nat) : (s.zeroBytes a n).decs = s.decs := rfl
@[simp] theorem saggars_zeroBytes_frame (s : State) (a n : Nat) : (s.zeroBytes a n).saggars = s.saggars := rfl
@[simp] theorem redirects_zeroBytes_frame (s : State) (a n : Nat) : (s.zeroBytes a n).redirects = s.redirects := rfl
@[simp] theorem saved_zeroBytes_frame (s : State) (a n : Nat) : (s.zeroBytes a n).saved = s.saved := rfl
@[simp] theorem parts_zeroBytes_frame (s : State) (a n : Nat) : (s.zeroBytes a n).parts = s.parts := rfl
@[simp] theorem traces_zeroBytes_frame (s : State) (a n : Nat) : (s.zeroBytes a n).traces = s.traces := rfl
@[simp] theorem pkg_zeroBytes_frame (s : State) (a n : Nat) : (s.zeroBytes a n).pkg = s.pkg := rfl

/-! ### setQueue -/

@[simp] theorem tick_setQueue_frame (s : State) (p d q : Nat) (x : HwQueue) : (s.setQueue p d q x).tick = s.tick := rfl
@[simp] theorem agenda_setQueue_frame (s : State) (p d q : Nat) (x : HwQueue) : (s.setQueue p d q x).agenda = s.agenda := rfl
@[simp] theorem cur_setQueue_frame (s : State) (p d q : Nat) (x : HwQueue) : (s.setQueue p d q x).cur = s.cur := rfl
@[simp] theorem lastQ_setQueue_frame (s : State) (p d q : Nat) (x : HwQueue) : (s.setQueue p d q x).lastQ = s.lastQ := rfl
@[simp] theorem nextId_setQueue_frame (s : State) (p d q : Nat) (x : HwQueue) : (s.setQueue p d q x).nextId = s.nextId := rfl
@[simp] theorem mem_setQueue_frame (s : State) (p d q : Nat) (x : HwQueue) : (s.setQueue p d q x).mem = s.mem := rfl
@[simp] theorem poison_setQueue_frame (s : State) (p d q : Nat) (x : HwQueue) : (s.setQueue p d q x).poison = s.poison := rfl
@[simp] theorem groups_setQueue_frame (s : State) (p d q : Nat) (x : HwQueue) : (s.setQueue p d q x).groups = s.groups := rfl
@[simp] theorem quarters_setQueue_frame (s : State) (p d q : Nat) (x : HwQueue) : (s.setQueue p d q x).quarters = s.quarters := rfl
@[simp] theorem cores_setQueue_frame (s : State) (p d q : Nat) (x : HwQueue) : (s.setQueue p d q x).cores = s.cores := rfl
@[simp] theorem tlbs_setQueue_frame (s : State) (p d q : Nat) (x : HwQueue) : (s.setQueue p d q x).tlbs = s.tlbs := rfl
@[simp] theorem replicas_setQueue_frame (s : State) (p d q : Nat) (x : HwQueue) : (s.setQueue p d q x).replicas = s.replicas := rfl
@[simp] theorem walks_setQueue_frame (s : State) (p d q : Nat) (x : HwQueue) : (s.setQueue p d q x).walks = s.walks := rfl
@[simp] theorem images_setQueue_frame (s : State) (p d q : Nat) (x : HwQueue) : (s.setQueue p d q x).images = s.images := rfl
@[simp] theorem ccores_setQueue_frame (s : State) (p d q : Nat) (x : HwQueue) : (s.setQueue p d q x).ccores = s.ccores := rfl
@[simp] theorem outbox_setQueue_frame (s : State) (p d q : Nat) (x : HwQueue) : (s.setQueue p d q x).outbox = s.outbox := rfl
@[simp] theorem columns_setQueue_frame (s : State) (p d q : Nat) (x : HwQueue) : (s.setQueue p d q x).columns = s.columns := rfl
@[simp] theorem dirty_setQueue_frame (s : State) (p d q : Nat) (x : HwQueue) : (s.setQueue p d q x).dirty = s.dirty := rfl
@[simp] theorem accesses_setQueue_frame (s : State) (p d q : Nat) (x : HwQueue) : (s.setQueue p d q x).accesses = s.accesses := rfl
@[simp] theorem loads_setQueue_frame (s : State) (p d q : Nat) (x : HwQueue) : (s.setQueue p d q x).loads = s.loads := rfl
@[simp] theorem xfers_setQueue_frame (s : State) (p d q : Nat) (x : HwQueue) : (s.setQueue p d q x).xfers = s.xfers := rfl
@[simp] theorem barReqs_setQueue_frame (s : State) (p d q : Nat) (x : HwQueue) : (s.setQueue p d q x).barReqs = s.barReqs := rfl
@[simp] theorem sends_setQueue_frame (s : State) (p d q : Nat) (x : HwQueue) : (s.setQueue p d q x).sends = s.sends := rfl
@[simp] theorem packets_setQueue_frame (s : State) (p d q : Nat) (x : HwQueue) : (s.setQueue p d q x).packets = s.packets := rfl
@[simp] theorem returns_setQueue_frame (s : State) (p d q : Nat) (x : HwQueue) : (s.setQueue p d q x).returns = s.returns := rfl
@[simp] theorem peers_setQueue_frame (s : State) (p d q : Nat) (x : HwQueue) : (s.setQueue p d q x).peers = s.peers := rfl
@[simp] theorem launchReqs_setQueue_frame (s : State) (p d q : Nat) (x : HwQueue) : (s.setQueue p d q x).launchReqs = s.launchReqs := rfl
@[simp] theorem launches_setQueue_frame (s : State) (p d q : Nat) (x : HwQueue) : (s.setQueue p d q x).launches = s.launches := rfl
@[simp] theorem insts_setQueue_frame (s : State) (p d q : Nat) (x : HwQueue) : (s.setQueue p d q x).insts = s.insts := rfl
@[simp] theorem jobs_setQueue_frame (s : State) (p d q : Nat) (x : HwQueue) : (s.setQueue p d q x).jobs = s.jobs := rfl
@[simp] theorem frecs_setQueue_frame (s : State) (p d q : Nat) (x : HwQueue) : (s.setQueue p d q x).frecs = s.frecs := rfl
@[simp] theorem coil_setQueue_frame (s : State) (p d q : Nat) (x : HwQueue) : (s.setQueue p d q x).coil = s.coil := rfl
@[simp] theorem coilq_setQueue_frame (s : State) (p d q : Nat) (x : HwQueue) : (s.setQueue p d q x).coilq = s.coilq := rfl
@[simp] theorem grove_setQueue_frame (s : State) (p d q : Nat) (x : HwQueue) : (s.setQueue p d q x).grove = s.grove := rfl
@[simp] theorem decs_setQueue_frame (s : State) (p d q : Nat) (x : HwQueue) : (s.setQueue p d q x).decs = s.decs := rfl
@[simp] theorem saggars_setQueue_frame (s : State) (p d q : Nat) (x : HwQueue) : (s.setQueue p d q x).saggars = s.saggars := rfl
@[simp] theorem redirects_setQueue_frame (s : State) (p d q : Nat) (x : HwQueue) : (s.setQueue p d q x).redirects = s.redirects := rfl
@[simp] theorem saved_setQueue_frame (s : State) (p d q : Nat) (x : HwQueue) : (s.setQueue p d q x).saved = s.saved := rfl
@[simp] theorem traces_setQueue_frame (s : State) (p d q : Nat) (x : HwQueue) : (s.setQueue p d q x).traces = s.traces := rfl
@[simp] theorem pkg_setQueue_frame (s : State) (p d q : Nat) (x : HwQueue) : (s.setQueue p d q x).pkg = s.pkg := rfl

/-! ### setMig -/

@[simp] theorem tick_setMig_frame (s : State) (p d : Nat) (x : Migrate) : (s.setMig p d x).tick = s.tick := rfl
@[simp] theorem agenda_setMig_frame (s : State) (p d : Nat) (x : Migrate) : (s.setMig p d x).agenda = s.agenda := rfl
@[simp] theorem cur_setMig_frame (s : State) (p d : Nat) (x : Migrate) : (s.setMig p d x).cur = s.cur := rfl
@[simp] theorem lastQ_setMig_frame (s : State) (p d : Nat) (x : Migrate) : (s.setMig p d x).lastQ = s.lastQ := rfl
@[simp] theorem nextId_setMig_frame (s : State) (p d : Nat) (x : Migrate) : (s.setMig p d x).nextId = s.nextId := rfl
@[simp] theorem mem_setMig_frame (s : State) (p d : Nat) (x : Migrate) : (s.setMig p d x).mem = s.mem := rfl
@[simp] theorem poison_setMig_frame (s : State) (p d : Nat) (x : Migrate) : (s.setMig p d x).poison = s.poison := rfl
@[simp] theorem groups_setMig_frame (s : State) (p d : Nat) (x : Migrate) : (s.setMig p d x).groups = s.groups := rfl
@[simp] theorem quarters_setMig_frame (s : State) (p d : Nat) (x : Migrate) : (s.setMig p d x).quarters = s.quarters := rfl
@[simp] theorem cores_setMig_frame (s : State) (p d : Nat) (x : Migrate) : (s.setMig p d x).cores = s.cores := rfl
@[simp] theorem tlbs_setMig_frame (s : State) (p d : Nat) (x : Migrate) : (s.setMig p d x).tlbs = s.tlbs := rfl
@[simp] theorem replicas_setMig_frame (s : State) (p d : Nat) (x : Migrate) : (s.setMig p d x).replicas = s.replicas := rfl
@[simp] theorem walks_setMig_frame (s : State) (p d : Nat) (x : Migrate) : (s.setMig p d x).walks = s.walks := rfl
@[simp] theorem images_setMig_frame (s : State) (p d : Nat) (x : Migrate) : (s.setMig p d x).images = s.images := rfl
@[simp] theorem ccores_setMig_frame (s : State) (p d : Nat) (x : Migrate) : (s.setMig p d x).ccores = s.ccores := rfl
@[simp] theorem outbox_setMig_frame (s : State) (p d : Nat) (x : Migrate) : (s.setMig p d x).outbox = s.outbox := rfl
@[simp] theorem columns_setMig_frame (s : State) (p d : Nat) (x : Migrate) : (s.setMig p d x).columns = s.columns := rfl
@[simp] theorem dirty_setMig_frame (s : State) (p d : Nat) (x : Migrate) : (s.setMig p d x).dirty = s.dirty := rfl
@[simp] theorem accesses_setMig_frame (s : State) (p d : Nat) (x : Migrate) : (s.setMig p d x).accesses = s.accesses := rfl
@[simp] theorem loads_setMig_frame (s : State) (p d : Nat) (x : Migrate) : (s.setMig p d x).loads = s.loads := rfl
@[simp] theorem xfers_setMig_frame (s : State) (p d : Nat) (x : Migrate) : (s.setMig p d x).xfers = s.xfers := rfl
@[simp] theorem barReqs_setMig_frame (s : State) (p d : Nat) (x : Migrate) : (s.setMig p d x).barReqs = s.barReqs := rfl
@[simp] theorem sends_setMig_frame (s : State) (p d : Nat) (x : Migrate) : (s.setMig p d x).sends = s.sends := rfl
@[simp] theorem packets_setMig_frame (s : State) (p d : Nat) (x : Migrate) : (s.setMig p d x).packets = s.packets := rfl
@[simp] theorem returns_setMig_frame (s : State) (p d : Nat) (x : Migrate) : (s.setMig p d x).returns = s.returns := rfl
@[simp] theorem peers_setMig_frame (s : State) (p d : Nat) (x : Migrate) : (s.setMig p d x).peers = s.peers := rfl
@[simp] theorem launchReqs_setMig_frame (s : State) (p d : Nat) (x : Migrate) : (s.setMig p d x).launchReqs = s.launchReqs := rfl
@[simp] theorem launches_setMig_frame (s : State) (p d : Nat) (x : Migrate) : (s.setMig p d x).launches = s.launches := rfl
@[simp] theorem insts_setMig_frame (s : State) (p d : Nat) (x : Migrate) : (s.setMig p d x).insts = s.insts := rfl
@[simp] theorem jobs_setMig_frame (s : State) (p d : Nat) (x : Migrate) : (s.setMig p d x).jobs = s.jobs := rfl
@[simp] theorem frecs_setMig_frame (s : State) (p d : Nat) (x : Migrate) : (s.setMig p d x).frecs = s.frecs := rfl
@[simp] theorem coil_setMig_frame (s : State) (p d : Nat) (x : Migrate) : (s.setMig p d x).coil = s.coil := rfl
@[simp] theorem coilq_setMig_frame (s : State) (p d : Nat) (x : Migrate) : (s.setMig p d x).coilq = s.coilq := rfl
@[simp] theorem grove_setMig_frame (s : State) (p d : Nat) (x : Migrate) : (s.setMig p d x).grove = s.grove := rfl
@[simp] theorem decs_setMig_frame (s : State) (p d : Nat) (x : Migrate) : (s.setMig p d x).decs = s.decs := rfl
@[simp] theorem saggars_setMig_frame (s : State) (p d : Nat) (x : Migrate) : (s.setMig p d x).saggars = s.saggars := rfl
@[simp] theorem redirects_setMig_frame (s : State) (p d : Nat) (x : Migrate) : (s.setMig p d x).redirects = s.redirects := rfl
@[simp] theorem saved_setMig_frame (s : State) (p d : Nat) (x : Migrate) : (s.setMig p d x).saved = s.saved := rfl
@[simp] theorem traces_setMig_frame (s : State) (p d : Nat) (x : Migrate) : (s.setMig p d x).traces = s.traces := rfl
@[simp] theorem pkg_setMig_frame (s : State) (p d : Nat) (x : Migrate) : (s.setMig p d x).pkg = s.pkg := rfl

/-! ### setJob -/

@[simp] theorem tick_setJob_frame (s : State) (k : Nat) (x : Job) : (s.setJob k x).tick = s.tick := rfl
@[simp] theorem agenda_setJob_frame (s : State) (k : Nat) (x : Job) : (s.setJob k x).agenda = s.agenda := rfl
@[simp] theorem cur_setJob_frame (s : State) (k : Nat) (x : Job) : (s.setJob k x).cur = s.cur := rfl
@[simp] theorem lastQ_setJob_frame (s : State) (k : Nat) (x : Job) : (s.setJob k x).lastQ = s.lastQ := rfl
@[simp] theorem nextId_setJob_frame (s : State) (k : Nat) (x : Job) : (s.setJob k x).nextId = s.nextId := rfl
@[simp] theorem mem_setJob_frame (s : State) (k : Nat) (x : Job) : (s.setJob k x).mem = s.mem := rfl
@[simp] theorem poison_setJob_frame (s : State) (k : Nat) (x : Job) : (s.setJob k x).poison = s.poison := rfl
@[simp] theorem groups_setJob_frame (s : State) (k : Nat) (x : Job) : (s.setJob k x).groups = s.groups := rfl
@[simp] theorem quarters_setJob_frame (s : State) (k : Nat) (x : Job) : (s.setJob k x).quarters = s.quarters := rfl
@[simp] theorem cores_setJob_frame (s : State) (k : Nat) (x : Job) : (s.setJob k x).cores = s.cores := rfl
@[simp] theorem tlbs_setJob_frame (s : State) (k : Nat) (x : Job) : (s.setJob k x).tlbs = s.tlbs := rfl
@[simp] theorem replicas_setJob_frame (s : State) (k : Nat) (x : Job) : (s.setJob k x).replicas = s.replicas := rfl
@[simp] theorem walks_setJob_frame (s : State) (k : Nat) (x : Job) : (s.setJob k x).walks = s.walks := rfl
@[simp] theorem images_setJob_frame (s : State) (k : Nat) (x : Job) : (s.setJob k x).images = s.images := rfl
@[simp] theorem ccores_setJob_frame (s : State) (k : Nat) (x : Job) : (s.setJob k x).ccores = s.ccores := rfl
@[simp] theorem outbox_setJob_frame (s : State) (k : Nat) (x : Job) : (s.setJob k x).outbox = s.outbox := rfl
@[simp] theorem columns_setJob_frame (s : State) (k : Nat) (x : Job) : (s.setJob k x).columns = s.columns := rfl
@[simp] theorem dirty_setJob_frame (s : State) (k : Nat) (x : Job) : (s.setJob k x).dirty = s.dirty := rfl
@[simp] theorem accesses_setJob_frame (s : State) (k : Nat) (x : Job) : (s.setJob k x).accesses = s.accesses := rfl
@[simp] theorem loads_setJob_frame (s : State) (k : Nat) (x : Job) : (s.setJob k x).loads = s.loads := rfl
@[simp] theorem xfers_setJob_frame (s : State) (k : Nat) (x : Job) : (s.setJob k x).xfers = s.xfers := rfl
@[simp] theorem barReqs_setJob_frame (s : State) (k : Nat) (x : Job) : (s.setJob k x).barReqs = s.barReqs := rfl
@[simp] theorem sends_setJob_frame (s : State) (k : Nat) (x : Job) : (s.setJob k x).sends = s.sends := rfl
@[simp] theorem packets_setJob_frame (s : State) (k : Nat) (x : Job) : (s.setJob k x).packets = s.packets := rfl
@[simp] theorem returns_setJob_frame (s : State) (k : Nat) (x : Job) : (s.setJob k x).returns = s.returns := rfl
@[simp] theorem peers_setJob_frame (s : State) (k : Nat) (x : Job) : (s.setJob k x).peers = s.peers := rfl
@[simp] theorem launchReqs_setJob_frame (s : State) (k : Nat) (x : Job) : (s.setJob k x).launchReqs = s.launchReqs := rfl
@[simp] theorem launches_setJob_frame (s : State) (k : Nat) (x : Job) : (s.setJob k x).launches = s.launches := rfl
@[simp] theorem insts_setJob_frame (s : State) (k : Nat) (x : Job) : (s.setJob k x).insts = s.insts := rfl
@[simp] theorem frecs_setJob_frame (s : State) (k : Nat) (x : Job) : (s.setJob k x).frecs = s.frecs := rfl
@[simp] theorem coil_setJob_frame (s : State) (k : Nat) (x : Job) : (s.setJob k x).coil = s.coil := rfl
@[simp] theorem coilq_setJob_frame (s : State) (k : Nat) (x : Job) : (s.setJob k x).coilq = s.coilq := rfl
@[simp] theorem grove_setJob_frame (s : State) (k : Nat) (x : Job) : (s.setJob k x).grove = s.grove := rfl
@[simp] theorem decs_setJob_frame (s : State) (k : Nat) (x : Job) : (s.setJob k x).decs = s.decs := rfl
@[simp] theorem saggars_setJob_frame (s : State) (k : Nat) (x : Job) : (s.setJob k x).saggars = s.saggars := rfl
@[simp] theorem redirects_setJob_frame (s : State) (k : Nat) (x : Job) : (s.setJob k x).redirects = s.redirects := rfl
@[simp] theorem saved_setJob_frame (s : State) (k : Nat) (x : Job) : (s.setJob k x).saved = s.saved := rfl
@[simp] theorem parts_setJob_frame (s : State) (k : Nat) (x : Job) : (s.setJob k x).parts = s.parts := rfl
@[simp] theorem traces_setJob_frame (s : State) (k : Nat) (x : Job) : (s.setJob k x).traces = s.traces := rfl
@[simp] theorem pkg_setJob_frame (s : State) (k : Nat) (x : Job) : (s.setJob k x).pkg = s.pkg := rfl

/-! ### setCoil -/

@[simp] theorem tick_setCoil_frame (s : State) (k : Nat) (x : CoilSlot) : (s.setCoil k x).tick = s.tick := rfl
@[simp] theorem agenda_setCoil_frame (s : State) (k : Nat) (x : CoilSlot) : (s.setCoil k x).agenda = s.agenda := rfl
@[simp] theorem cur_setCoil_frame (s : State) (k : Nat) (x : CoilSlot) : (s.setCoil k x).cur = s.cur := rfl
@[simp] theorem lastQ_setCoil_frame (s : State) (k : Nat) (x : CoilSlot) : (s.setCoil k x).lastQ = s.lastQ := rfl
@[simp] theorem nextId_setCoil_frame (s : State) (k : Nat) (x : CoilSlot) : (s.setCoil k x).nextId = s.nextId := rfl
@[simp] theorem mem_setCoil_frame (s : State) (k : Nat) (x : CoilSlot) : (s.setCoil k x).mem = s.mem := rfl
@[simp] theorem poison_setCoil_frame (s : State) (k : Nat) (x : CoilSlot) : (s.setCoil k x).poison = s.poison := rfl
@[simp] theorem groups_setCoil_frame (s : State) (k : Nat) (x : CoilSlot) : (s.setCoil k x).groups = s.groups := rfl
@[simp] theorem quarters_setCoil_frame (s : State) (k : Nat) (x : CoilSlot) : (s.setCoil k x).quarters = s.quarters := rfl
@[simp] theorem cores_setCoil_frame (s : State) (k : Nat) (x : CoilSlot) : (s.setCoil k x).cores = s.cores := rfl
@[simp] theorem tlbs_setCoil_frame (s : State) (k : Nat) (x : CoilSlot) : (s.setCoil k x).tlbs = s.tlbs := rfl
@[simp] theorem replicas_setCoil_frame (s : State) (k : Nat) (x : CoilSlot) : (s.setCoil k x).replicas = s.replicas := rfl
@[simp] theorem walks_setCoil_frame (s : State) (k : Nat) (x : CoilSlot) : (s.setCoil k x).walks = s.walks := rfl
@[simp] theorem images_setCoil_frame (s : State) (k : Nat) (x : CoilSlot) : (s.setCoil k x).images = s.images := rfl
@[simp] theorem ccores_setCoil_frame (s : State) (k : Nat) (x : CoilSlot) : (s.setCoil k x).ccores = s.ccores := rfl
@[simp] theorem outbox_setCoil_frame (s : State) (k : Nat) (x : CoilSlot) : (s.setCoil k x).outbox = s.outbox := rfl
@[simp] theorem columns_setCoil_frame (s : State) (k : Nat) (x : CoilSlot) : (s.setCoil k x).columns = s.columns := rfl
@[simp] theorem dirty_setCoil_frame (s : State) (k : Nat) (x : CoilSlot) : (s.setCoil k x).dirty = s.dirty := rfl
@[simp] theorem accesses_setCoil_frame (s : State) (k : Nat) (x : CoilSlot) : (s.setCoil k x).accesses = s.accesses := rfl
@[simp] theorem loads_setCoil_frame (s : State) (k : Nat) (x : CoilSlot) : (s.setCoil k x).loads = s.loads := rfl
@[simp] theorem xfers_setCoil_frame (s : State) (k : Nat) (x : CoilSlot) : (s.setCoil k x).xfers = s.xfers := rfl
@[simp] theorem barReqs_setCoil_frame (s : State) (k : Nat) (x : CoilSlot) : (s.setCoil k x).barReqs = s.barReqs := rfl
@[simp] theorem sends_setCoil_frame (s : State) (k : Nat) (x : CoilSlot) : (s.setCoil k x).sends = s.sends := rfl
@[simp] theorem packets_setCoil_frame (s : State) (k : Nat) (x : CoilSlot) : (s.setCoil k x).packets = s.packets := rfl
@[simp] theorem returns_setCoil_frame (s : State) (k : Nat) (x : CoilSlot) : (s.setCoil k x).returns = s.returns := rfl
@[simp] theorem peers_setCoil_frame (s : State) (k : Nat) (x : CoilSlot) : (s.setCoil k x).peers = s.peers := rfl
@[simp] theorem launchReqs_setCoil_frame (s : State) (k : Nat) (x : CoilSlot) : (s.setCoil k x).launchReqs = s.launchReqs := rfl
@[simp] theorem launches_setCoil_frame (s : State) (k : Nat) (x : CoilSlot) : (s.setCoil k x).launches = s.launches := rfl
@[simp] theorem insts_setCoil_frame (s : State) (k : Nat) (x : CoilSlot) : (s.setCoil k x).insts = s.insts := rfl
@[simp] theorem jobs_setCoil_frame (s : State) (k : Nat) (x : CoilSlot) : (s.setCoil k x).jobs = s.jobs := rfl
@[simp] theorem frecs_setCoil_frame (s : State) (k : Nat) (x : CoilSlot) : (s.setCoil k x).frecs = s.frecs := rfl
@[simp] theorem coilq_setCoil_frame (s : State) (k : Nat) (x : CoilSlot) : (s.setCoil k x).coilq = s.coilq := rfl
@[simp] theorem grove_setCoil_frame (s : State) (k : Nat) (x : CoilSlot) : (s.setCoil k x).grove = s.grove := rfl
@[simp] theorem decs_setCoil_frame (s : State) (k : Nat) (x : CoilSlot) : (s.setCoil k x).decs = s.decs := rfl
@[simp] theorem saggars_setCoil_frame (s : State) (k : Nat) (x : CoilSlot) : (s.setCoil k x).saggars = s.saggars := rfl
@[simp] theorem redirects_setCoil_frame (s : State) (k : Nat) (x : CoilSlot) : (s.setCoil k x).redirects = s.redirects := rfl
@[simp] theorem saved_setCoil_frame (s : State) (k : Nat) (x : CoilSlot) : (s.setCoil k x).saved = s.saved := rfl
@[simp] theorem parts_setCoil_frame (s : State) (k : Nat) (x : CoilSlot) : (s.setCoil k x).parts = s.parts := rfl
@[simp] theorem traces_setCoil_frame (s : State) (k : Nat) (x : CoilSlot) : (s.setCoil k x).traces = s.traces := rfl
@[simp] theorem pkg_setCoil_frame (s : State) (k : Nat) (x : CoilSlot) : (s.setCoil k x).pkg = s.pkg := rfl

/-! ### modInst -/

@[simp] theorem tick_modInst_frame (s : State) (k : Nat) (f : GInst → GInst) : (s.modInst k f).tick = s.tick := rfl
@[simp] theorem agenda_modInst_frame (s : State) (k : Nat) (f : GInst → GInst) : (s.modInst k f).agenda = s.agenda := rfl
@[simp] theorem cur_modInst_frame (s : State) (k : Nat) (f : GInst → GInst) : (s.modInst k f).cur = s.cur := rfl
@[simp] theorem lastQ_modInst_frame (s : State) (k : Nat) (f : GInst → GInst) : (s.modInst k f).lastQ = s.lastQ := rfl
@[simp] theorem nextId_modInst_frame (s : State) (k : Nat) (f : GInst → GInst) : (s.modInst k f).nextId = s.nextId := rfl
@[simp] theorem mem_modInst_frame (s : State) (k : Nat) (f : GInst → GInst) : (s.modInst k f).mem = s.mem := rfl
@[simp] theorem poison_modInst_frame (s : State) (k : Nat) (f : GInst → GInst) : (s.modInst k f).poison = s.poison := rfl
@[simp] theorem groups_modInst_frame (s : State) (k : Nat) (f : GInst → GInst) : (s.modInst k f).groups = s.groups := rfl
@[simp] theorem quarters_modInst_frame (s : State) (k : Nat) (f : GInst → GInst) : (s.modInst k f).quarters = s.quarters := rfl
@[simp] theorem cores_modInst_frame (s : State) (k : Nat) (f : GInst → GInst) : (s.modInst k f).cores = s.cores := rfl
@[simp] theorem tlbs_modInst_frame (s : State) (k : Nat) (f : GInst → GInst) : (s.modInst k f).tlbs = s.tlbs := rfl
@[simp] theorem replicas_modInst_frame (s : State) (k : Nat) (f : GInst → GInst) : (s.modInst k f).replicas = s.replicas := rfl
@[simp] theorem walks_modInst_frame (s : State) (k : Nat) (f : GInst → GInst) : (s.modInst k f).walks = s.walks := rfl
@[simp] theorem images_modInst_frame (s : State) (k : Nat) (f : GInst → GInst) : (s.modInst k f).images = s.images := rfl
@[simp] theorem ccores_modInst_frame (s : State) (k : Nat) (f : GInst → GInst) : (s.modInst k f).ccores = s.ccores := rfl
@[simp] theorem outbox_modInst_frame (s : State) (k : Nat) (f : GInst → GInst) : (s.modInst k f).outbox = s.outbox := rfl
@[simp] theorem columns_modInst_frame (s : State) (k : Nat) (f : GInst → GInst) : (s.modInst k f).columns = s.columns := rfl
@[simp] theorem dirty_modInst_frame (s : State) (k : Nat) (f : GInst → GInst) : (s.modInst k f).dirty = s.dirty := rfl
@[simp] theorem accesses_modInst_frame (s : State) (k : Nat) (f : GInst → GInst) : (s.modInst k f).accesses = s.accesses := rfl
@[simp] theorem loads_modInst_frame (s : State) (k : Nat) (f : GInst → GInst) : (s.modInst k f).loads = s.loads := rfl
@[simp] theorem xfers_modInst_frame (s : State) (k : Nat) (f : GInst → GInst) : (s.modInst k f).xfers = s.xfers := rfl
@[simp] theorem barReqs_modInst_frame (s : State) (k : Nat) (f : GInst → GInst) : (s.modInst k f).barReqs = s.barReqs := rfl
@[simp] theorem sends_modInst_frame (s : State) (k : Nat) (f : GInst → GInst) : (s.modInst k f).sends = s.sends := rfl
@[simp] theorem packets_modInst_frame (s : State) (k : Nat) (f : GInst → GInst) : (s.modInst k f).packets = s.packets := rfl
@[simp] theorem returns_modInst_frame (s : State) (k : Nat) (f : GInst → GInst) : (s.modInst k f).returns = s.returns := rfl
@[simp] theorem peers_modInst_frame (s : State) (k : Nat) (f : GInst → GInst) : (s.modInst k f).peers = s.peers := rfl
@[simp] theorem launchReqs_modInst_frame (s : State) (k : Nat) (f : GInst → GInst) : (s.modInst k f).launchReqs = s.launchReqs := rfl
@[simp] theorem launches_modInst_frame (s : State) (k : Nat) (f : GInst → GInst) : (s.modInst k f).launches = s.launches := rfl
@[simp] theorem jobs_modInst_frame (s : State) (k : Nat) (f : GInst → GInst) : (s.modInst k f).jobs = s.jobs := rfl
@[simp] theorem frecs_modInst_frame (s : State) (k : Nat) (f : GInst → GInst) : (s.modInst k f).frecs = s.frecs := rfl
@[simp] theorem coil_modInst_frame (s : State) (k : Nat) (f : GInst → GInst) : (s.modInst k f).coil = s.coil := rfl
@[simp] theorem coilq_modInst_frame (s : State) (k : Nat) (f : GInst → GInst) : (s.modInst k f).coilq = s.coilq := rfl
@[simp] theorem grove_modInst_frame (s : State) (k : Nat) (f : GInst → GInst) : (s.modInst k f).grove = s.grove := rfl
@[simp] theorem decs_modInst_frame (s : State) (k : Nat) (f : GInst → GInst) : (s.modInst k f).decs = s.decs := rfl
@[simp] theorem saggars_modInst_frame (s : State) (k : Nat) (f : GInst → GInst) : (s.modInst k f).saggars = s.saggars := rfl
@[simp] theorem redirects_modInst_frame (s : State) (k : Nat) (f : GInst → GInst) : (s.modInst k f).redirects = s.redirects := rfl
@[simp] theorem saved_modInst_frame (s : State) (k : Nat) (f : GInst → GInst) : (s.modInst k f).saved = s.saved := rfl
@[simp] theorem parts_modInst_frame (s : State) (k : Nat) (f : GInst → GInst) : (s.modInst k f).parts = s.parts := rfl
@[simp] theorem traces_modInst_frame (s : State) (k : Nat) (f : GInst → GInst) : (s.modInst k f).traces = s.traces := rfl
@[simp] theorem pkg_modInst_frame (s : State) (k : Nat) (f : GInst → GInst) : (s.modInst k f).pkg = s.pkg := rfl

/-! ### setChan -/

@[simp] theorem tick_setChan_frame (s : State) (k ch : Nat) (x : Chan) : (s.setChan k ch x).tick = s.tick := rfl
@[simp] theorem agenda_setChan_frame (s : State) (k ch : Nat) (x : Chan) : (s.setChan k ch x).agenda = s.agenda := rfl
@[simp] theorem cur_setChan_frame (s : State) (k ch : Nat) (x : Chan) : (s.setChan k ch x).cur = s.cur := rfl
@[simp] theorem lastQ_setChan_frame (s : State) (k ch : Nat) (x : Chan) : (s.setChan k ch x).lastQ = s.lastQ := rfl
@[simp] theorem nextId_setChan_frame (s : State) (k ch : Nat) (x : Chan) : (s.setChan k ch x).nextId = s.nextId := rfl
@[simp] theorem mem_setChan_frame (s : State) (k ch : Nat) (x : Chan) : (s.setChan k ch x).mem = s.mem := rfl
@[simp] theorem poison_setChan_frame (s : State) (k ch : Nat) (x : Chan) : (s.setChan k ch x).poison = s.poison := rfl
@[simp] theorem groups_setChan_frame (s : State) (k ch : Nat) (x : Chan) : (s.setChan k ch x).groups = s.groups := rfl
@[simp] theorem quarters_setChan_frame (s : State) (k ch : Nat) (x : Chan) : (s.setChan k ch x).quarters = s.quarters := rfl
@[simp] theorem cores_setChan_frame (s : State) (k ch : Nat) (x : Chan) : (s.setChan k ch x).cores = s.cores := rfl
@[simp] theorem tlbs_setChan_frame (s : State) (k ch : Nat) (x : Chan) : (s.setChan k ch x).tlbs = s.tlbs := rfl
@[simp] theorem replicas_setChan_frame (s : State) (k ch : Nat) (x : Chan) : (s.setChan k ch x).replicas = s.replicas := rfl
@[simp] theorem walks_setChan_frame (s : State) (k ch : Nat) (x : Chan) : (s.setChan k ch x).walks = s.walks := rfl
@[simp] theorem images_setChan_frame (s : State) (k ch : Nat) (x : Chan) : (s.setChan k ch x).images = s.images := rfl
@[simp] theorem ccores_setChan_frame (s : State) (k ch : Nat) (x : Chan) : (s.setChan k ch x).ccores = s.ccores := rfl
@[simp] theorem outbox_setChan_frame (s : State) (k ch : Nat) (x : Chan) : (s.setChan k ch x).outbox = s.outbox := rfl
@[simp] theorem columns_setChan_frame (s : State) (k ch : Nat) (x : Chan) : (s.setChan k ch x).columns = s.columns := rfl
@[simp] theorem dirty_setChan_frame (s : State) (k ch : Nat) (x : Chan) : (s.setChan k ch x).dirty = s.dirty := rfl
@[simp] theorem accesses_setChan_frame (s : State) (k ch : Nat) (x : Chan) : (s.setChan k ch x).accesses = s.accesses := rfl
@[simp] theorem loads_setChan_frame (s : State) (k ch : Nat) (x : Chan) : (s.setChan k ch x).loads = s.loads := rfl
@[simp] theorem xfers_setChan_frame (s : State) (k ch : Nat) (x : Chan) : (s.setChan k ch x).xfers = s.xfers := rfl
@[simp] theorem barReqs_setChan_frame (s : State) (k ch : Nat) (x : Chan) : (s.setChan k ch x).barReqs = s.barReqs := rfl
@[simp] theorem sends_setChan_frame (s : State) (k ch : Nat) (x : Chan) : (s.setChan k ch x).sends = s.sends := rfl
@[simp] theorem packets_setChan_frame (s : State) (k ch : Nat) (x : Chan) : (s.setChan k ch x).packets = s.packets := rfl
@[simp] theorem returns_setChan_frame (s : State) (k ch : Nat) (x : Chan) : (s.setChan k ch x).returns = s.returns := rfl
@[simp] theorem peers_setChan_frame (s : State) (k ch : Nat) (x : Chan) : (s.setChan k ch x).peers = s.peers := rfl
@[simp] theorem launchReqs_setChan_frame (s : State) (k ch : Nat) (x : Chan) : (s.setChan k ch x).launchReqs = s.launchReqs := rfl
@[simp] theorem insts_setChan_frame (s : State) (k ch : Nat) (x : Chan) : (s.setChan k ch x).insts = s.insts := rfl
@[simp] theorem jobs_setChan_frame (s : State) (k ch : Nat) (x : Chan) : (s.setChan k ch x).jobs = s.jobs := rfl
@[simp] theorem frecs_setChan_frame (s : State) (k ch : Nat) (x : Chan) : (s.setChan k ch x).frecs = s.frecs := rfl
@[simp] theorem coil_setChan_frame (s : State) (k ch : Nat) (x : Chan) : (s.setChan k ch x).coil = s.coil := rfl
@[simp] theorem coilq_setChan_frame (s : State) (k ch : Nat) (x : Chan) : (s.setChan k ch x).coilq = s.coilq := rfl
@[simp] theorem grove_setChan_frame (s : State) (k ch : Nat) (x : Chan) : (s.setChan k ch x).grove = s.grove := rfl
@[simp] theorem decs_setChan_frame (s : State) (k ch : Nat) (x : Chan) : (s.setChan k ch x).decs = s.decs := rfl
@[simp] theorem saggars_setChan_frame (s : State) (k ch : Nat) (x : Chan) : (s.setChan k ch x).saggars = s.saggars := rfl
@[simp] theorem redirects_setChan_frame (s : State) (k ch : Nat) (x : Chan) : (s.setChan k ch x).redirects = s.redirects := rfl
@[simp] theorem saved_setChan_frame (s : State) (k ch : Nat) (x : Chan) : (s.setChan k ch x).saved = s.saved := rfl
@[simp] theorem parts_setChan_frame (s : State) (k ch : Nat) (x : Chan) : (s.setChan k ch x).parts = s.parts := rfl
@[simp] theorem traces_setChan_frame (s : State) (k ch : Nat) (x : Chan) : (s.setChan k ch x).traces = s.traces := rfl
@[simp] theorem pkg_setChan_frame (s : State) (k ch : Nat) (x : Chan) : (s.setChan k ch x).pkg = s.pkg := rfl

end Sys2Proof.Machine
end

