-- ==== Sys2Proof/Tests/Slice0.lean ====
section
/-! SUPPORT. Tests of the decoder, of well-formedness and of single steps, and witnesses for the hypotheses of the statements. -/

namespace Sys2Proof.Tests.Slice0

open Sys2Proof Sys2Proof.Machine

-- One theorem after another: in one process with the whole package, hundreds of them at once would ask for too many threads.
set_option Elab.async false

/-! ### Words assembled from the spec's tables of fields, opcodes and selectors (R30, R92, R95, R103, R105 to R119) -/

/-- A header with no guard, no latch and no chain. -/
def plain : Hdr := { pg := 7, pn := false, u := false, ch := false, nwb := false, le := false, lq := 0 }

def mk (d a b : Sel) (c : CField) (imm : Imm) : Ops := { hdr := plain, d := d, a := a, b := b, c := c, imm := imm }

/-- A base word and what follows it decode to the instruction. -/
def reads (x : Nat × Nat × Instr) : Bool :=
  match decode x.1 x.2.1 with
  | .ok i => decide (i = x.2.2)
  | .error _ => false

def controlWords0 : List (Nat × Nat × Instr) :=
  [ (0x0007FBFDFEFF1C00, 0x0, .nop (mk .zero .zero .zero (.sel .zero) .none)),
    (0x0007FBFDFEFF1C05, 0x40, .bra (mk .zero .zero .zero (.sel .zero) (.i32 0x40))),
    (0x0007FBFDFEFF0409, 0x18, .brp { mk .zero .zero .zero (.sel .zero) (.i32 0x18) with hdr := { plain with pg := 1 } }),
    (0x0007FBFE0CFF1C0C, 0x0, .brx (mk .zero (.s 6) .zero (.sel .zero) .none)),
    (0x0007FBFDFF081C11, 0x100, .call (mk (.s 8) .zero .zero (.sel .zero) (.i32 0x100))),
    (0x0007FBFE10FF1C14, 0x0, .ret (mk .zero (.s 8) .zero (.sel .zero) .none)),
    (0x0207FBFDFEFF1C19, 0x4C, .jarm 2 (mk .zero .zero .zero (.sel .zero) (.i32 0x4c))),
    (0x0207FBFDFEFF1C1C, 0x0, .join 2 (mk .zero .zero .zero (.sel .zero) .none)),
    (0x0307FBFDFEFF1C20, 0x0, .jdrop 3 (mk .zero .zero .zero (.sel .zero) .none)),
    (0x0007FBFE08FF1C25, 0x1C, .loop (mk .zero (.s 4) .zero (.sel .zero) (.i32 0x1c))),
    (0x0007FBFDFEFF1C28, 0x0, .loopx (mk .zero .zero .zero (.sel .zero) .none)),
    (0x0007FBFDFEFF1C2C, 0x0, .yield (mk .zero .zero .zero (.sel .zero) .none)),
    (0x0007FBFDFEFF1C30, 0x0, .exit (mk .zero .zero .zero (.sel .zero) .none)),
    (0x0007FBFDFEFF1C34, 0x0, .tileb (mk .zero .zero .zero (.sel .zero) .none)),
    (0xC807FBFDFEFF1C38, 0x0, .trap 0xC8 (mk .zero .zero .zero (.sel .zero) .none)),
    (0x0007FBFDFEFF1C3C, 0x0, .eret (mk .zero .zero .zero (.sel .zero) .none)),
    (0x0707FBFDFEFF1C40, 0x0, .bkpt 7 (mk .zero .zero .zero (.sel .zero) .none)),
    (0x0007FBFEAF561C44, 0x0, .voteAll (mk (.p 2) (.p 3) .zero (.sel .zero) .none)),
    (0x0107FBFEAF561C44, 0x0, .voteAny (mk (.p 2) (.p 3) .zero (.sel .zero) .none)),
    (0x0207FBFEAF051C44, 0x0, .voteBallot (mk (.s 5) (.p 3) .zero (.sel .zero) .none)),
    (0x0007FBFE08FF1C48, 0x0, .fuse (mk .zero (.s 4) .zero (.sel .zero) .none)),
    (0x0007FBFDFEFF1C4C, 0x0, .split (mk .zero .zero .zero (.sel .zero) .none)),
    (0x0307FBFDFEFF1C50, 0x0, .grow 3 (mk .zero .zero .zero (.sel .zero) .none)),
    (0x2307FBFDFF551C50, 0x0, .growNb 3 (mk (.p 1) .zero .zero (.sel .zero) .none)) ]

def controlWords1 : List (Nat × Nat × Instr) :=
  [ (0x0307FBFDFEFF1C54, 0x0, .shrink 3 (mk .zero .zero .zero (.sel .zero) .none)),
    (0x0007FBFDFEFF1C59, 0x0, .gang (mk .zero .zero .zero (.sel .zero) (.i32 0x0))),
    (0x0007FBFDFF091C5C, 0x0, .pathqLive (mk (.s 9) .zero .zero (.sel .zero) .none)),
    (0x0107FBFDFF091C5C, 0x0, .pathqMlo (mk (.s 9) .zero .zero (.sel .zero) .none)),
    (0x0207FBFDFF091C5C, 0x0, .pathqMhi (mk (.s 9) .zero .zero (.sel .zero) .none)) ]

theorem test_decode_control : (controlWords0 ++ controlWords1).all reads = true := by decide +kernel

def integerWords0 : List (Nat × Nat × Instr) :=
  [ (0x0207F80802031C80, 0x0, .iadd .i32 (mk (.v 3) (.v 1) (.v 2) (.sel .zero) .none)),
    (0x0207F80802031C84, 0x0, .isub .i32 (mk (.v 3) (.v 1) (.v 2) (.sel .zero) .none)),
    (0x0207F80802031C88, 0x0, .imul .i32 (mk (.v 3) (.v 1) (.v 2) (.sel .zero) .none)),
    (0x0207F80802031C8C, 0x0, .imulh .i32 (mk (.v 3) (.v 1) (.v 2) (.sel .zero) .none)),
    (0x0207F80802031C94, 0x0, .idiv .i32 (mk (.v 3) (.v 1) (.v 2) (.sel .zero) .none)),
    (0x0207F80802031C98, 0x0, .irem .i32 (mk (.v 3) (.v 1) (.v 2) (.sel .zero) .none)),
    (0x0207F80802031C9C, 0x0, .imin .i32 (mk (.v 3) (.v 1) (.v 2) (.sel .zero) .none)),
    (0x0207F80802031CA0, 0x0, .imax .i32 (mk (.v 3) (.v 1) (.v 2) (.sel .zero) .none)),
    (0x0700602810041C90, 0x0, .imad .n64 (mk (.v 4) (.v 8) (.v 10) (.sel (.v 12)) .none)),
    (0x0207FBFC02031CA4, 0x0, .iabs .i32 (mk (.v 3) (.v 1) .zero (.sel .zero) .none)),
    (0x0307FBFC04041CA8, 0x0, .ineg .i64 (mk (.v 4) (.v 2) .zero (.sel .zero) .none)),
    (0xA607F80802031CAC, 0x0, .shadd .n32 5 (mk (.v 3) (.v 1) (.v 2) (.sel .zero) .none)),
    (0x12000BFC02011C80, 0x0, .iadd .i32 (mk (.v 1) (.v 1) .zero (.raw 1) .none)),
    (0x0207FBFC02011C81, 0x5, .iadd .i32 (mk (.v 1) (.v 1) .zero (.sel .zero) (.i32 0x5))),
    (0x0A07F80802031CB0, 0x0, .and .b32 (mk (.v 3) (.v 1) (.v 2) (.sel .zero) .none)),
    (0x0A07F80802031CB4, 0x0, .or .b32 (mk (.v 3) (.v 1) (.v 2) (.sel .zero) .none)),
    (0x0A07F80802031CB8, 0x0, .xor .b32 (mk (.v 3) (.v 1) (.v 2) (.sel .zero) .none)),
    (0x0A07FBFC02031CBC, 0x0, .not .b32 (mk (.v 3) (.v 1) .zero (.sel .zero) .none)),
    (0x0607F80802031CC0, 0x0, .shl .n32 (mk (.v 3) (.v 1) (.v 2) (.sel .zero) .none)),
    (0x0607F80802031CC4, 0x0, .shr .n32 (mk (.v 3) (.v 1) (.v 2) (.sel .zero) .none)),
    (0x0607F80802031CC8, 0x0, .sar .n32 (mk (.v 3) (.v 1) (.v 2) (.sel .zero) .none)),
    (0x0B07FBFC10031CCC, 0x0, .popc .b64 (mk (.v 3) (.v 8) .zero (.sel .zero) .none)),
    (0x0A07FBFC02031CD0, 0x0, .clz .b32 (mk (.v 3) (.v 1) .zero (.sel .zero) .none)),
    (0x0A07FBFC02031CD4, 0x0, .brev .b32 (mk (.v 3) (.v 1) .zero (.sel .zero) .none)) ]

def integerWords1 : List (Nat × Nat × Instr) :=
  [ (0x0A07F80802031CD8, 0x0, .bfx .b32 (mk (.v 3) (.v 1) (.v 2) (.sel .zero) .none)),
    (0x0A00200802031CDC, 0x0, .bfi .b32 (mk (.v 3) (.v 1) (.v 2) (.sel (.v 4)) .none)),
    (0x4207F80803551CE0, 0x0, .icmp .i32 .lt (mk (.p 1) (.v 1) (.v 2) (.sel .zero) .none)),
    (0x0A0AC00802031CE4, 0x0, .sel .b32 (mk (.v 3) (.v 1) (.v 2) (.sel (.p 4)) .none)),
    (0x0A07FBFC02031CE8, 0x0, .mov .b32 (mk (.v 3) (.v 1) .zero (.sel .zero) .none)),
    (0x0C07FBFC08081CE8, 0x0, .mov .b128 (mk (.v 8) (.v 4) .zero (.sel .zero) .none)),
    (0x0A07FBFDFE031CED, 0xDEADBEEF, .movi .b32 (mk (.v 3) .zero .zero (.sel .zero) (.i32 0xdeadbeef))),
    (0x0B07FBFDFF045CEE, 0x123456789ABCDEF0, .movi .b64 { mk (.s 4) .zero .zero (.sel .zero) (.i64 0x123456789abcdef0) with hdr := { plain with u := true } }),
    (0x0607FD5AAB571CF0, 0x0, .plop 6 (mk (.p 3) (.p 1) (.p 2) (.sel .zero) .none)),
    (0x0A07F80806051CF4, 0x0, .shflIdx .b32 (mk (.v 5) (.v 3) (.v 2) (.sel .zero) .none)),
    (0x2A07F80806051CF4, 0x0, .shflUp .b32 (mk (.v 5) (.v 3) (.v 2) (.sel .zero) .none)),
    (0x4A07F80806051CF4, 0x0, .shflDown .b32 (mk (.v 5) (.v 3) (.v 2) (.sel .zero) .none)),
    (0x6A07F80806051CF4, 0x0, .shflXor .b32 (mk (.v 5) (.v 3) (.v 2) (.sel .zero) .none)),
    (0x0A07FC0806051CF8, 0x0, .bcst .b32 (mk (.v 5) (.v 3) (.s 2) (.sel .zero) .none)),
    (0x0A07FC0807051CFC, 0x0, .rdln .b32 (mk (.s 5) (.v 3) (.s 2) (.sel .zero) .none)),
    (0x0A07FBFEC0031D00, 0x0, .rdsp (mk (.v 3) (.sp .lane) .zero (.sel .zero) .none)),
    (0x0A07FBFE0B6F1D04, 0x0, .wrsp (mk (.sp .prio) (.s 5) .zero (.sel .zero) .none)) ]

theorem test_decode_integer : (integerWords0 ++ integerWords1).all reads = true := by decide +kernel

def affineWords : List (Nat × Nat × Instr) :=
  [ (0x0007FC220D421D20, 0x0, .aset (mk (.a 2) (.s 6) (.s 8) (.sel .zero) .none)),
    (0x0007FC21FF421D22, 0x200001000, .aset (mk (.a 2) .zero (.s 8) (.sel .zero) (.i64 0x200001000))),
    (0x0007FBFE85421D25, 0xFFFFF000, .aadd (mk (.a 2) (.a 2) .zero (.sel .zero) (.i32 0xfffff000))),
    (0x0007FC2285431D28, 0x0, .ascl (mk (.a 3) (.a 2) (.s 8) (.sel .zero) .none)),
    (0x0007FBFE84031D2C, 0x0, .amat .lo (mk (.v 3) (.a 2) .zero (.sel .zero) .none)),
    (0x0107FBFE84031D2C, 0x0, .amat .hi (mk (.v 3) (.a 2) .zero (.sel .zero) .none)),
    (0x0007FBFE85031D30, 0x0, .aget .lo (mk (.s 3) (.a 2) .zero (.sel .zero) .none)),
    (0x0107FBFE85031D30, 0x0, .aget .hi (mk (.s 3) (.a 2) .zero (.sel .zero) .none)),
    (0x0207FBFE85031D30, 0x0, .aget .stride (mk (.s 3) (.a 2) .zero (.sel .zero) .none)) ]

theorem test_decode_affine : (affineWords).all reads = true := by decide +kernel

def floatWords0 : List (Nat × Nat × Instr) :=
  [ (0x0D07F80802031D40, 0x0, .fadd (mk (.v 3) (.v 1) (.v 2) (.sel .zero) .none)),
    (0x0D07F80802031D44, 0x0, .fsub (mk (.v 3) (.v 1) (.v 2) (.sel .zero) .none)),
    (0x0D07F80802031D48, 0x0, .fmul (mk (.v 3) (.v 1) (.v 2) (.sel .zero) .none)),
    (0x0D07F80802031D70, 0x0, .fdiv (mk (.v 3) (.v 1) (.v 2) (.sel .zero) .none)),
    (0x0D07F80802031D50, 0x0, .fmin (mk (.v 3) (.v 1) (.v 2) (.sel .zero) .none)),
    (0x0D07F80802031D54, 0x0, .fmax (mk (.v 3) (.v 1) (.v 2) (.sel .zero) .none)),
    (0x0D00200802031D4C, 0x0, .ffma (mk (.v 3) (.v 1) (.v 2) (.sel (.v 4)) .none)),
    (0x0D00200802031D4E, 0x5, .ffma (mk (.v 3) (.v 1) (.v 2) (.sel (.v 4)) (.i64 0x5))),
    (0x0D07FBFC02031D58, 0x0, .fabs (mk (.v 3) (.v 1) .zero (.sel .zero) .none)),
    (0x0D07FBFC02031D5C, 0x0, .fneg (mk (.v 3) (.v 1) .zero (.sel .zero) .none)),
    (0x0D07FBFC02031D64, 0x0, .frcp (mk (.v 3) (.v 1) .zero (.sel .zero) .none)),
    (0x0D07FBFC02031D68, 0x0, .frsq (mk (.v 3) (.v 1) .zero (.sel .zero) .none)),
    (0x0D07FBFC02031D6C, 0x0, .fsqrt (mk (.v 3) (.v 1) .zero (.sel .zero) .none)),
    (0x0D07FBFC02031D74, 0x0, .fexp2 (mk (.v 3) (.v 1) .zero (.sel .zero) .none)),
    (0x0D07FBFC02031D78, 0x0, .flog2 (mk (.v 3) (.v 1) .zero (.sel .zero) .none)),
    (0x0D07FBFC02031D7C, 0x0, .fsin (mk (.v 3) (.v 1) .zero (.sel .zero) .none)),
    (0x0D07FBFC02031D80, 0x0, .fcos (mk (.v 3) (.v 1) .zero (.sel .zero) .none)),
    (0x0D07FBFC02031D84, 0x0, .ftanh (mk (.v 3) (.v 1) .zero (.sel .zero) .none)),
    (0x0D07FBFC02031D88, 0x0, .fsigm (mk (.v 3) (.v 1) .zero (.sel .zero) .none)),
    (0x0D07FBFC02031D90, 0x0, .fclass (mk (.v 3) (.v 1) .zero (.sel .zero) .none)),
    (0xAD07F80803551D60, 0x0, .fcmp .ge (mk (.p 1) (.v 1) (.v 2) (.sel .zero) .none)),
    (0x4D07FBFC02031D8C, 0x0, .frnd .rdn (mk (.v 3) (.v 1) .zero (.sel .zero) .none)),
    (0x0D07FBFC02031D8C, 0x0, .frnd .fmt (mk (.v 3) (.v 1) .zero (.sel .zero) .none)),
    (0x0D07F80802031D94, 0x0, .fscl (mk (.v 3) (.v 1) (.v 2) (.sel .zero) .none)) ]

def floatWords1 : List (Nat × Nat × Instr) :=
  [ (0x0DD7F80802049D48, 0x0, .fmul { mk (.v 4) (.v 1) (.v 2) (.sel .zero) .none with hdr := { plain with ch := true, nwb := true, le := true, lq := 1 } }) ]

theorem test_decode_float : (floatWords0 ++ floatWords1).all reads = true := by decide +kernel

def convertWords : List (Nat × Nat × Instr) :=
  [ (0x1007FBFC02031DC0, 0x0, .cvt .f16 .f32 (mk (.v 3) (.v 1) .zero (.sel .zero) .none)),
    (0x0D07FBFC02041DC0, 0x0, .cvt .f32 .i64 (mk (.v 4) (.v 1) .zero (.sel .zero) .none)),
    (0x0307FC1002031DC6, 0x0, .cvtb .e4m3 (mk (.v 3) (.v 1) (.s 4) (.sel .zero) (.i64 0x0))),
    (0x0407FC1002031DC6, 0xB, .cvtb .e5m2 (mk (.v 3) (.v 1) (.s 4) (.sel .zero) (.i64 0xb))),
    (0x0507FC1002031DC8, 0x0, .cvtn (mk (.v 3) (.v 1) (.s 4) (.sel .zero) .none)),
    (0x5007FC1002031DCC, 0x0, .cvtx .ni (mk (.v 3) (.v 1) (.s 4) (.sel .zero) .none)),
    (0x0D07FBFC02031DE0, 0x0, .redtAdd .f32 (mk (.v 3) (.v 1) .zero (.sel .zero) .none)),
    (0x1207FBFC02031DE0, 0x0, .redtMax .i32 (mk (.v 3) (.v 1) .zero (.sel .zero) .none)),
    (0x2607FBFC02031DE0, 0x0, .redtMin .n32 (mk (.v 3) (.v 1) .zero (.sel .zero) .none)),
    (0x0207FBFC02031DE4, 0x0, .scan .i32 (mk (.v 3) (.v 1) .zero (.sel .zero) .none)),
    (0x0D07FC1002031DE8, 0x0, .sample (mk (.v 3) (.v 1) (.s 4) (.sel .zero) .none)),
    (0x0A07FC1A08FF1DEC, 0x0, .rngk (mk .zero (.s 4) (.s 6) (.sel .zero) .none)),
    (0x0607FBFDFE031DF0, 0x0, .rngu .n32 (mk (.v 3) .zero .zero (.sel .zero) .none)),
    (0x0D07FBFDFE031DF4, 0x0, .rngn (mk (.v 3) .zero .zero (.sel .zero) .none)),
    (0x0D082C1002031DF8, 0x0, .vmask (mk (.v 3) (.v 1) (.s 4) (.sel (.s 5)) .none)) ]

theorem test_decode_convert : (convertWords).all reads = true := by decide +kernel

def distributionWords : List (Nat × Nat × Instr) :=
  [ (0x0407FBFC10101E00, 0x0, .dorg 2 (mk (.v 16) (.v 8) .zero (.sel .zero) .none)),
    (0x0007F80802101E04, 0x0, .dset .m (mk (.v 16) (.v 1) (.v 2) (.sel .zero) .none)),
    (0x0007F82810101E08, 0x0, .dadd .m (mk (.v 16) (.v 8) (.v 10) (.sel .zero) .none)),
    (0x0007F82810101E0C, 0x0, .dsub .m (mk (.v 16) (.v 8) (.v 10) (.sel .zero) .none)),
    (0x0007F82810101E10, 0x0, .dmul .m (mk (.v 16) (.v 8) (.v 10) (.sel .zero) .none)),
    (0x0007F82810101E18, 0x0, .ddiv .m (mk (.v 16) (.v 8) (.v 10) (.sel .zero) .none)),
    (0x0100A03010101E14, 0x0, .dfma .t (mk (.v 16) (.v 8) (.v 12) (.sel (.v 20)) .none)),
    (0x0007FBFC10101E1C, 0x0, .drcp .m (mk (.v 16) (.v 8) .zero (.sel .zero) .none)),
    (0x0007FBFC10101E20, 0x0, .dsqrt .m (mk (.v 16) (.v 8) .zero (.sel .zero) .none)),
    (0x0007FBFC10101E24, 0x0, .dexp .m (mk (.v 16) (.v 8) .zero (.sel .zero) .none)),
    (0x0007FBFC10101E28, 0x0, .dlog .m (mk (.v 16) (.v 8) .zero (.sel .zero) .none)),
    (0x0007FBFC10101E2C, 0x0, .dtanh .m (mk (.v 16) (.v 8) .zero (.sel .zero) .none)),
    (0x0007FBFC10101E30, 0x0, .dsigm .m (mk (.v 16) (.v 8) .zero (.sel .zero) .none)),
    (0x0007F82810101E34, 0x0, .dmax .m (mk (.v 16) (.v 8) (.v 10) (.sel .zero) .none)),
    (0x0107F83010101E38, 0x0, .dmin .t (mk (.v 16) (.v 8) (.v 12) (.sel .zero) .none)),
    (0x0007FC1010101E3C, 0x0, .dscl .m (mk (.v 16) (.v 8) (.s 4) (.sel .zero) .none)),
    (0x0107FBFC10031E40, 0x0, .dvar .t (mk (.v 3) (.v 8) .zero (.sel .zero) .none)),
    (0x0007FBFC10031E44, 0x0, .dstd .m (mk (.v 3) (.v 8) .zero (.sel .zero) .none)),
    (0x0307FBFC10031E48, 0x0, .dsens 1 (mk (.v 3) (.v 8) .zero (.sel .zero) .none)),
    (0x0107FBFC10101E4C, 0x0, .dindep (mk (.v 16) (.v 8) .zero (.sel .zero) .none)),
    (0x0007FBFC10101E50, 0x0, .dtrk (mk (.v 16) (.v 8) .zero (.sel .zero) .none)),
    (0x0800F3FC10101E54, 0x0, .dcvt .bf16 .m (mk (.v 16) (.v 8) .zero (.sel (.v 30)) .none)),
    (0x0107FBFC10101E58, 0x0, .dred .t (mk (.v 16) (.v 8) .zero (.sel .zero) .none)) ]

theorem test_decode_distribution : (distributionWords).all reads = true := by decide +kernel

def memoryWords : List (Nat × Nat × Instr) :=
  [ (0x8D07FBFE80041E80, 0x0, .ld .dev .sl .b64 (mk (.v 4) (.a 0) .zero (.sel .zero) .none)),
    (0xB807F80608FF1E85, 0xFFFFFFF0, .st .sys .by .n8 (mk .zero (.s 4) (.v 1) (.sel .zero) (.i32 0xfffffff0))),
    (0x0307FBFE08041E88, 0x0, .lds .i16 (mk (.v 4) (.s 4) .zero (.sel .zero) .none)),
    (0x0607F82208FF1E8C, 0x0, .sts .b128 (mk .zero (.s 4) (.v 8) (.sel .zero) .none)),
    (0x0007FBFE08041E90, 0x0, .ldv .n8 (mk (.v 4) (.s 4) .zero (.sel .zero) .none)),
    (0x0407F80608FF1E94, 0x0, .stv .b32 (mk .zero (.s 4) (.v 1) (.sel .zero) .none)),
    (0x5007FBFE80FF1E98, 0x0, .pref .cl .ll (mk .zero (.a 0) .zero (.sel .zero) .none)),
    (0x2007FBFE80FF1E9C, 0x0, .cctlWb .tm (mk .zero (.a 0) .zero (.sel .zero) .none)),
    (0x2107FBFE80FF1E9C, 0x0, .cctlInv .tm (mk .zero (.a 0) .zero (.sel .zero) .none)),
    (0x2207FBFE80FF1E9C, 0x0, .cctlWbinv .tm (mk .zero (.a 0) .zero (.sel .zero) .none)),
    (0x8407FBFE80041EA0, 0x0, .ldrg .dev .df (mk (.v 4) (.a 0) .zero (.sel .zero) .none)),
    (0x80019BFDFEFF1EA4, 0x0, .fence .dev (mk .zero .zero .zero (.raw 51) .none)),
    (0x4107FBFDFEFF1EA4, 0x0, .fenceSc .cl (mk .zero .zero .zero (.raw 255) .none)),
    (0x9900401A80041EC0, 0x0, .atom .dev true .cas (mk (.v 4) (.a 0) (.v 6) (.sel (.v 8)) .none)),
    (0x8A07F81A80041EC0, 0x0, .atom .dev false .fadd (mk (.v 4) (.a 0) (.v 6) (.sel .zero) .none)),
    (0x2807F81A08041EC4, 0x0, .atoms .tm false .exch (mk (.v 4) (.s 4) (.v 6) (.sel .zero) .none)),
    (0x8A07F80E80FF06C8, 0x0, .datom .dev { mk .zero (.a 0) (.v 3) (.sel .zero) .none with hdr := { plain with pg := 1 } }),
    (0x8007FC1A08FF1ECC, 0x0, .dflush .dev (mk .zero (.s 4) (.s 6) (.sel .zero) .none)),
    (0x8007FBFE80041ED0, 0x0, .dstat .dev (mk (.v 4) (.a 0) .zero (.sel .zero) .none)),
    (0x9007F80A86FF1ED4, 0x0, .radd .dev (mk .zero (.a 3) (.v 2) (.sel .zero) .none)),
    (0x9007F80A86FF1ED8, 0x0, .rmerge .dev (mk .zero (.a 3) (.v 2) (.sel .zero) .none)) ]

theorem test_decode_memory : (memoryWords).all reads = true := by decide +kernel

def syncWords : List (Nat × Nat × Instr) :=
  [ (0x40083C1A08FF1EE0, 0x0, .binit .cl (mk .zero (.s 4) (.s 6) (.sel (.s 7)) .none)),
    (0x0007FBFE08FF1EE4, 0x0, .barr (mk .zero (.s 4) .zero (.sel .zero) .none)),
    (0x0107FC1A08FF1EE4, 0x0, .barrBytes (mk .zero (.s 4) (.s 6) (.sel .zero) .none)),
    (0x0007FC1A08FF1EE8, 0x0, .bexp (mk .zero (.s 4) (.s 6) (.sel .zero) .none)),
    (0x0007FC1A09091EEC, 0x0, .bwait (mk (.s 9) (.s 4) (.s 6) (.sel .zero) .none)),
    (0x0007FC1A09091EF0, 0x0, .btry (mk (.s 9) (.s 4) (.s 6) (.sel .zero) .none)),
    (0x0207FC1A08FF1EF4, 0x0, .watch 2 (mk .zero (.s 4) (.s 6) (.sel .zero) .none)),
    (0x0507FC1A08FF1F00, 0x0, .send 5 (mk .zero (.s 4) (.s 6) (.sel .zero) .none)),
    (0x0507FBFE09091F04, 0x0, .recv 5 (mk (.s 9) (.s 4) .zero (.sel .zero) .none)),
    (0x4507FBFE09091F04, 0x0, .recvTry 5 (mk (.s 9) (.s 4) .zero (.sel .zero) .none)),
    (0x0507FC1A08FF1F0A, 0x3, .sendr 5 (mk .zero (.s 4) (.s 6) (.sel .zero) (.i64 0x3))),
    (0x0507FC1A08FF1F0E, 0xF, .mcst 5 (mk .zero (.s 4) (.s 6) (.sel .zero) (.i64 0xf))),
    (0x0507FBFDFF091F10, 0x0, .chqFree 5 (mk (.s 9) .zero .zero (.sel .zero) .none)),
    (0x4507FBFDFF091F10, 0x0, .chqFilled 5 (mk (.s 9) .zero .zero (.sel .zero) .none)) ]

theorem test_decode_sync : (syncWords).all reads = true := by decide +kernel

def matrixWords : List (Nat × Nat × Instr) :=
  [ (0x0307FBFE08FF1F20, 0x0, .mld 3 (mk .zero (.s 4) .zero (.sel .zero) .none)),
    (0x0307FBFE11061F26, 0x1002, .tld 3 (mk (.s 6) (.s 8) .zero (.sel .zero) (.i64 0x1002))),
    (0x8307FBFDFF061F26, 0x0, .tldTrn 3 (mk (.s 6) .zero .zero (.sel .zero) (.i64 0x0))),
    (0x0307FBFDFF061F2A, 0x0, .tst 3 (mk (.s 6) .zero .zero (.sel .zero) (.i64 0x0))),
    (0x5A07FC2610FF1F2C, 0x0, .mma true 3 2 (mk .zero (.s 8) (.s 9) (.sel .zero) .none)),
    (0x4007FBFDFEFF1F30, 0x0, .mzero true (mk .zero .zero .zero (.sel .zero) .none)),
    (0x0007FBFE08041F34, 0x0, .mrd false (mk (.v 4) (.s 4) .zero (.sel .zero) .none)),
    (0x4007F81208FF1F38, 0x0, .mwr true (mk .zero (.s 4) (.v 4) (.sel .zero) .none)),
    (0x0307FBFDFEFF1F3C, 0x0, .mperm 3 (mk .zero .zero .zero (.sel .zero) .none)),
    (0x0007FBFE09091F40, 0x0, .mqry (mk (.s 9) (.s 4) .zero (.sel .zero) .none)) ]

theorem test_decode_matrix : (matrixWords).all reads = true := by decide +kernel

def engineWords : List (Nat × Nat × Instr) :=
  [ (0x0007FBFE09091F60, 0x0, .job (mk (.s 9) (.s 4) .zero (.sel .zero) .none)),
    (0x0007FBFE0B091F64, 0x0, .jqry (mk (.s 9) (.s 5) .zero (.sel .zero) .none)),
    (0x0007FC1A09091F68, 0x0, .launch (mk (.s 9) (.s 4) (.s 6) (.sel .zero) .none)),
    (0x0007FBFE08FF1F6C, 0x0, .gsig (mk .zero (.s 4) .zero (.sel .zero) .none)),
    (0x0007FBFDFF281F71, 0x8, .taskget (mk (.s 40) .zero .zero (.sel .zero) (.i32 0x8))),
    (0x0107FCA20B551F70, 0x0, .taskgetNb (mk (.p 1) (.s 5) (.s 40) (.sel .zero) .none)),
    (0x0007FBFE50FF1F74, 0x0, .taskdone (mk .zero (.s 40) .zero (.sel .zero) .none)),
    (0x0007FBFE09091F78, 0x0, .taskadd (mk (.s 9) (.s 4) .zero (.sel .zero) .none)),
    (0x0007FBFE09091F80, 0x0, .cbind (mk (.s 9) (.s 4) .zero (.sel .zero) .none)),
    (0x00083C1A08FF1F84, 0x0, .cmaskS (mk .zero (.s 4) (.s 6) (.sel (.s 7)) .none)),
    (0x01083C1A08FF1F84, 0x0, .cmaskV (mk .zero (.s 4) (.s 6) (.sel (.s 7)) .none)),
    (0x02083C1A08FF1F84, 0x0, .cmaskM (mk .zero (.s 4) (.s 6) (.sel (.s 7)) .none)),
    (0x0007FC1E0D091F88, 0x0, .cfeed (mk (.s 9) (.s 6) (.s 7) (.sel .zero) .none)),
    (0x0007FBFE0D091F8C, 0x0, .cfork (mk (.s 9) (.s 6) .zero (.sel .zero) .none)),
    (0x0007FC1E0CFF1F90, 0x0, .croll (mk .zero (.s 6) (.s 7) (.sel .zero) .none)),
    (0x0007FC1E0CFF1F94, 0x0, .cdrop (mk .zero (.s 6) (.s 7) (.sel .zero) .none)),
    (0x0007FC1A08FF1F98, 0x0, .csave (mk .zero (.s 4) (.s 6) (.sel .zero) .none)),
    (0x0007FBFE09091F9C, 0x0, .cload (mk (.s 9) (.s 4) .zero (.sel .zero) .none)),
    (0x0007FBFE0D091FA0, 0x0, .cstat (mk (.s 9) (.s 6) .zero (.sel .zero) .none)),
    (0x0007FBFDFF091FC1, 0x3, .sysr (mk (.s 9) .zero .zero (.sel .zero) (.i32 0x3))),
    (0x0007FBFE0AFF1FC5, 0x3, .sysw (mk .zero (.s 5) .zero (.sel .zero) (.i32 0x3))),
    (0x0007FBFDFF551FC8, 0x0, .step (mk (.p 1) .zero .zero (.sel .zero) .none)),
    (0x0007FBFE0AFF1FCD, 0x10, .evt (mk .zero (.s 5) .zero (.sel .zero) (.i32 0x10))),
    (0x0007FBFDFF081FD0, 0x0, .clock (mk (.s 8) .zero .zero (.sel .zero) .none)) ]

theorem test_decode_engine : (engineWords).all reads = true := by decide +kernel

/-! ### A machine about to execute an instruction -/

/-- A level-3 entry of the address space of a placed program, for the GiB `i`. -/
def mapGiB (i e : Nat) (s : State) : State := s.writeNat (progRoot + 0x2000 + 8 * i) 8 e

/-- A placed program's machine with more of its address space mapped (GiB 1 without X, GiB 2 MS, GiB 3 a peer's, GiB 4 read only, GiB 5 for the system alone),
a launch of two groups with every right, banks 0 to 3 as scratch and 4 to 7 as TOB, channel 5 from the team to itself, and path 0 of group 0 executing. -/
def base : State :=
  let s := State.reset.withFetchWord 64 0
  let s := mapGiB 5 0x9F (mapGiB 4 0x07 (mapGiB 3 0x5F (mapGiB 2 0x3F (mapGiB 1 0x0F s))))
  let l := { s.launch 0 with
    banks := 0xAA55, scratch := 0x20000, epoch := 3, qrights := BitVec.allOnes 64, sys := true, step := true, handler := 0x11000, ngroups := 2, prio := 2,
    chans := [{ id := 5, slots := 2, size := 64, pcl := 0, pteam := 0, cons := [(0, 0)] }] }
  { s with cur := some ⟨0, 0⟩, agenda := [], launches := mset s.launches 0 l }

/-- Registers that tell lanes apart: v0 to v31 hold their number plus the lane plus 1, s4 and s8 addresses, p1 lanes 0, 2, 4 and 6, p2 lanes 4 to 7, p3 all. -/
def filled (g : Group) : Group :=
  { g with
    v := (List.range 32).flatMap (fun r => (List.range 8).map (fun l => (r * 64 + l, BitVec.ofNat 32 (r + l + 1)))),
    s := [(4, 0x20000), (6, 64), (8, 0x20040), (10, 3)], a := [(0, ⟨0x20000, 4⟩), (2, ⟨0x20100, 8⟩), (3, ⟨0x20200, 8⟩)],
    p := [(1, 0x55), (2, 0xF0), (3, 0xFF)] }

def demo : State := base.modGroup 0 filled

/-- The machine with its group or its path otherwise. -/
def ofGroup (f : Group → Group) : State := demo.modGroup 0 f
def ofPath (f : Path → Path) : State := demo.modPath 0 0 f
def ofLaunch (f : Launch → Launch) : State := demo.modLaunch 0 f

/-- A case of a statement: an instruction, the machine it issues in, and what else the statement asks of its contexts. -/
structure Case where
  s : State
  i : Instr
  p : Ctx → Ctx → Bool := fun _ _ => true

/-- The instruction issues with nothing holding it up, and the rest is met. -/
def Case.met (x : Case) : Bool :=
  x.i.WF && (match x.s.ctx x.i with
    | none => false
    | some c0 =>
      let c := c0.enter
      c.pendingKeys.isEmpty && c.latchWait.isNone && !c.chainBad && !c.loopEndBad && (neverFaults x.i || c.outside.isNone) && x.p c c.capture)

/-- A case that is met is one of `Issues`. -/
theorem issues_of_met (x : Case) (h : x.met = true) : ∃ c e, Issues x.i x.s c e ∧ x.p c e = true := by
  unfold Case.met at h
  cases hc : x.s.ctx x.i with
  | none => simp [hc] at h
  | some c0 =>
    simp only [hc, Bool.and_eq_true, List.isEmpty_iff, Option.isNone_iff_eq_none, Bool.not_eq_true', Bool.or_eq_true] at h
    obtain ⟨h0, ⟨⟨⟨⟨h1, h2⟩, h3⟩, h4⟩, h5⟩, h6⟩ := h
    exact ⟨c0.enter, c0.enter.capture, ⟨h0, ⟨c0, hc, rfl⟩, h1, h2, h3, h4, h5, rfl⟩, h6⟩

/-- The instructions of a list of words issue in the machine above. -/
def issue (l : List (Nat × Nat × Instr)) : Bool := l.all (fun x => ({ s := demo, i := x.2.2 } : Case).met)

/-- Each instruction of the spec's tables issues there (with `issues_of_met`: a case of `Issues` for the result statements). -/
theorem witness_issues : issue (controlWords0 ++ controlWords1 ++ integerWords0 ++ integerWords1 ++ affineWords) = true ∧
    issue (floatWords0 ++ floatWords1 ++ convertWords ++ distributionWords) = true ∧ issue (memoryWords ++ syncWords ++ matrixWords ++ engineWords) = true := by
  decide +kernel

/-! ### Control -/

def jumpOps (d a : Sel) (n : Nat) : Ops := mk d a .zero (.sel .zero) (.i32 (BitVec.ofNat 32 n))
def regOps (d a : Sel) : Ops := mk d a .zero (.sel .zero) .none
def guarded (k : BitVec 3) (o : Ops) : Ops := { o with hdr := { o.hdr with pg := k } }

/-- A path inside the program, in `n` loops whose bodies lie at 0x10020. -/
def inLoops (n : Nat) : State := ofPath (fun p => { p with loops := List.replicate n { start := 0x10020, endofs := 0x40, count := 2 } })

/-- Paths of one group that run beside path 0, one for each lane above the first. -/
def paths (n : Nat) (st : PState) : State :=
  ofGroup (fun g => { g with
    paths := g.paths.flatMap (fun x => (List.range n).map (fun k =>
      (k, { x.2 with entry := some k, mask := BitVec.ofNat 64 (if k = 0 then 2 ^ (9 - n) - 1 else 2 ^ (8 - k)), st := if k = 0 then .ready else st })))
    nextPid := n })

def target (e : Ctx) : Pc := e.p.pc + (BitVec.ofNat 32 (imm32 e.o.imm)).signExtend 56

/-- A register pair s6, s7 of this value. -/
def pairS6 (n : Nat) : State := ofGroup (fun g => { g with s := zset (zset g.s 6 (BitVec.ofNat 32 n)) 7 (BitVec.ofNat 32 (n / 2 ^ 32)) })

def casesBranches : List Case :=
  let in1 := (inLoops 1).modGroup 0 (fun g => { g with s := zset g.s 6 0x10040 })
  let brp := guarded 1 (jumpOps .zero .zero 0x18)
  [ { s := demo, i := .nop (regOps .zero .zero) },
    { s := inLoops 1, i := .bra (jumpOps .zero .zero 0x20), p := fun _ e => unwind e.p.loops e.p.pc (target e) == some e.p.loops },
    { s := inLoops 1, i := .bra (jumpOps .zero .zero 0x24), p := fun _ e => unwind e.p.loops e.p.pc (target e) == none },
    { s := pairS6 0xFFFFFFFFFFFFFC, i := .brx (regOps .zero (.s 6)), p := fun c _ => c.val (.s 6) 2 0 == 2 ^ 56 - 4 },
    { s := pairS6 0x10002, i := .brx (regOps .zero (.s 6)), p := fun c _ => c.val (.s 6) 2 0 % 4 != 0 },
    { s := pairS6 (2 ^ 56), i := .brx (regOps .zero (.s 6)), p := fun c _ => c.val (.s 6) 2 0 == 2 ^ 56 },
    { s := in1, i := .brx (regOps .zero (.s 6)), p := fun c e => unwind e.p.loops e.p.pc (BitVec.ofNat 56 (c.val (.s 6) 2 0)) == none },
    { s := inLoops 4, i := .call (jumpOps (.s 8) .zero 0x24) },
    { s := pairS6 0xFFFFFFFFFFFFFC, i := .ret (regOps .zero (.s 6)), p := fun c _ => c.val (.s 6) 2 0 == 2 ^ 56 - 4 },
    { s := pairS6 0x10002, i := .ret (regOps .zero (.s 6)), p := fun c _ => c.val (.s 6) 2 0 % 4 != 0 },
    { s := pairS6 (2 ^ 56), i := .ret (regOps .zero (.s 6)), p := fun c _ => c.val (.s 6) 2 0 == 2 ^ 56 },
    { s := demo, i := .brp (guarded 0 brp), p := fun _ e => e.acts == 0 },
    { s := inLoops 1, i := .brp (guarded 1 (jumpOps .zero .zero 0x24)), p := fun _ e => e.acts != 0 && unwind e.p.loops e.p.pc (target e) == none },
    { s := demo, i := .brp (guarded 3 brp), p := fun _ e => e.acts != 0 && e.acts == e.p.mask && unwind e.p.loops e.p.pc (target e) == some [] },
    { s := paths 7 .ready, i := .brp brp, p := fun _ e => e.acts != 0 && e.acts != e.p.mask && decide (e.g.paths.length + 1 = 8 + e.g.spill) &&
        (mget? e.g.paths e.g.nextPid).isNone && e.g.freeEntry == some 7 && (unwind e.p.loops e.p.pc (target e)).isSome },
    { s := (paths 8 .ready).modPath 0 0 (fun p => { p with mask := 3 }), i := .brp brp, p := fun _ e => e.acts != 0 && e.acts != e.p.mask &&
        decide (8 + e.g.spill ≤ e.g.paths.length) && (unwind e.p.loops e.p.pc (target e)).isSome } ]

theorem witness_Branches : casesBranches.all Case.met = true := by decide +kernel

/-- A machine with a word at 0x10100. -/
def wordAt100 (w : Nat) : State := demo.writeNat 0x10100 8 w

/-- What a LOOP with a count of zero finds at the end of its body: 0 an instruction, 1 poison, 2 a LEN of 11, 3 a page that faults, 4 one that refuses. -/
def loopAt (e : Ctx) : Nat :=
  match e.s.rangeAll e.q e.part e.asid e.sys .fetch (e.p.pc + BitVec.ofNat 56 (imm32 e.o.imm)).toNat 8 with
  | (.ok ls, s) => if s.poisonedLocs ls then 1 else if (Len.ofCode (leNat (s.readLocs ls) % 4)).isNone then 2 else 0
  | (.error ((_, .fault _) :: _), _) => 3
  | (.error ((_, .prot) :: _), _) => 4
  | (.error ((_, .peer _ _ _) :: _), _) => 4
  | _ => 5

def casesLoops : List Case :=
  let loop := fun (n : Nat) => Instr.loop (jumpOps .zero (.s 4) n)
  let zero := fun (n : Nat) => Instr.loop (jumpOps .zero (.s 5) n)
  [ { s := (inLoops 3).modGroup 0 (fun g => { g with s := zset g.s 4 1 }), i := loop 12, p := fun _ e => e.p.loops.length == 3 && e.val (.s 4) 1 0 == 1 },
    { s := ofGroup (fun g => { g with s := zset g.s 4 0xFFFFFFFF }), i := loop 0x7FFFFFFC, p := fun _ e => e.val (.s 4) 1 0 % 2 ^ 24 == 2 ^ 24 - 1 },
    { s := wordAt100 2, i := zero 0x100, p := fun _ e => loopAt e == 0 }, { s := wordAt100 3, i := zero 0x100, p := fun _ e => loopAt e == 2 },
    { s := { wordAt100 3 with poison := [0x808] }, i := zero 0x100, p := fun _ e => loopAt e == 1 },
    { s := mapGiB 1 0 demo, i := zero 0x3FFF0000, p := fun _ e => loopAt e == 3 }, { s := demo, i := zero 0x3FFF0000, p := fun _ e => loopAt e == 4 },
    { s := demo, i := loop 8 }, { s := demo, i := loop 14 }, { s := demo, i := loop 0x80000000 }, { s := inLoops 4, i := loop 12 },
    { s := inLoops 1, i := .loopx (regOps .zero .zero), p := fun _ e => !e.p.loops.isEmpty },
    { s := demo, i := .loopx (regOps .zero .zero), p := fun _ e => e.p.loops.isEmpty } ]

theorem witness_Loops : casesLoops.all Case.met = true := by decide +kernel

/-- A path in a loop whose body ends at 0x10060. -/
def looping (n : BitVec 24) : Machine.Path :=
  { entry := some 0, mask := 1, pc := 0x10060, fmt := 0xFC000, loops := [{ start := 0x10020, endofs := 0x40, count := n }], st := .ready, stamp := 0, since := 0,
    idle := 0, boosted := false, ilen := 0, ipc := 0, back := none, lastCh := false, noCut := none, hold := false }

/-- A body's last instruction with more iterations to go, with the last one done, and an instruction that does not end the body (R132). -/
theorem test_loop_ends : (loopStep (looping 2) 0x10060 0x10068).pc = 0x10020 ∧ (loopStep (looping 1) 0x10060 0x10068).loops = [] ∧
    (loopStep (looping 1) 0x10058 0x10060).pc = 0x10060 := by decide +kernel

/-- Rejoin register 2 armed for a JOIN at 0x10000. -/
def armed (m a : Mask) (s : State) : State :=
  s.modGroup 0 (fun g => g.setRej 2 { jpc := 0x10000, armed := true, lost := false, expected := m, arrived := a, fmt := 0xFC001, stack := [] })

def casesRejoining : List Case :=
  let join := Instr.join 2 (regOps .zero .zero)
  let jarm := fun (a : Sel) => Instr.jarm 2 (mk .zero a .zero (.sel .zero) (.i32 0x4C))
  let arrives := fun (e : Ctx) => let j := e.g.rej 2; j.armed && e.p.pc == j.jpc && e.p.mask &&& ~~~j.expected == 0
  let other := fun (e : Ctx) => e.g.paths.any (fun x => x.1 != e.pid && !x.2.st.isParked)
  [ { s := demo, i := jarm .zero, p := fun _ e => !(e.g.rej 2).armed && e.p.mask == 0xFF },
    { s := armed 0xF0 0 (pairS6 0x81), i := jarm (.s 6), p := fun _ e => (e.g.rej 2).arrived == 0 && e.val (.s 6) 2 0 == 0x81 },
    { s := demo, i := join, p := fun _ e => !(e.g.rej 2).armed },
    { s := (armed 0xFF 0 demo).modPath 0 0 (fun p => { p with pc := 0x10008 }), i := join, p := fun _ e => (e.g.rej 2).armed && e.p.pc != (e.g.rej 2).jpc },
    { s := armed 0x7F 0 demo, i := join, p := fun _ e => (e.g.rej 2).armed && e.p.mask &&& ~~~(e.g.rej 2).expected != 0 },
    { s := armed 0xFF 0 (paths 2 .ready), i := join, p := fun _ e => arrives e && (e.g.rej 2).arrived ||| e.p.mask != (e.g.rej 2).expected && other e },
    { s := armed 0xFF 0x80 (paths 2 (.parked 2)), i := join, p := fun _ e => arrives e && (e.g.rej 2).arrived ||| e.p.mask == (e.g.rej 2).expected },
    { s := armed 0xFF 0 demo, i := join, p := fun _ e => arrives e && (e.g.rej 2).arrived ||| e.p.mask == (e.g.rej 2).expected },
    { s := demo, i := .jdrop 2 (regOps .zero .zero), p := fun _ e => !(e.g.rej 2).armed },
    { s := armed 0xFF 0x80 (paths 2 (.parked 2)), i := .jdrop 2 (regOps .zero .zero), p := fun _ e => (e.g.rej 2).armed && e.g.paths.any (fun x => x.1 != e.pid && x.2.st == .parked 2 && !x.2.hold) } ]

theorem witness_LoopEndsAndRejoining : casesRejoining.all Case.met = true := by decide +kernel

def casesExits : List Case :=
  let held := demo.setPdie 0 0 { demo.pdie 0 0 with bkhold := true }
  [ { s := demo, i := .yield (regOps .zero .zero), p := fun _ e => match (e.s.core e.core).team with | some t => t.preempt.isNone | none => true },
    { s := demo, i := .tileb (regOps .zero .zero), p := fun _ e => match (e.s.core e.core).team with | some t => t.preempt.isNone | none => true },
    { s := paths 2 .ready, i := .exit (regOps .zero .zero), p := fun _ e => e.g.paths.any (fun x => x.1 != e.pid && !x.2.st.isParked) },
    { s := demo, i := .trap 0xC8 (regOps .zero .zero) },
    { s := demo, i := .bkpt 7 (regOps .zero .zero), p := fun _ e => !(e.s.pdie e.part e.die).bkhold },
    { s := held, i := .bkpt 7 (regOps .zero .zero), p := fun _ e => (e.s.pdie e.part e.die).bkhold } ]

theorem witness_ExitsAndSoftwareTraps : casesExits.all Case.met = true := by decide +kernel

/-- The machine in its trap handler, after a TRAP 5. -/
def inHandler : State := { demo.trapAt 0 0 ⟨.swtrap, 5⟩ 0x10000 0x10008 with cur := some ⟨0, 0⟩ }

/-- A frame in its place in the save record, and poison in none of it. -/
def framed (e : Ctx) : Bool :=
  match e.s.range e.q e.part e.asid true .load (e.s.saveBase e.core + 0x1000 + 1024 * e.g.rank) 896 with
  | (.ok ls, s') => !s'.poisonedLocs ls && (frameOf e.g.width (leNat (s'.readLocs ls)) e.p).isSome && mget? s'.groups e.gk == some e.g
  | _ => false

theorem witness_TrapEntryAndReturn :
    ([ { s := demo, i := .eret (regOps .zero .zero), p := fun c _ => c.g.handler.isNone },
       { s := inHandler, i := .eret (regOps .zero .zero), p := fun c e => c.g.handler.isSome && framed e } ] : List Case).all Case.met = true ∧
    (mget? demo.groups 0).isSome = true ∧ (demo.quarter 0).chain = none ∧ (demo.trace 0).tctl.getLsbD 1 = false ∧ (demo.launch 0).handler ≠ 0 ∧
    (match demo.range 0 0 1 true .store (demo.saveBase 0 + 0x1000) 896 with | (.ok _, _) => true | _ => false) = true := by decide +kernel

def casesFuseAndSplit : List Case :=
  let pair := fun (st : PState) => base.modGroup 0 filled |> fun s => { s with groups := s.groups.flatMap (fun x =>
    [x, (1, { x.2 with rank := 1, paths := x.2.paths.map (fun y => (y.1, { y.2 with st := st })) })]) }
  let fuse := Instr.fuse (regOps .zero (.s 10))
  let uni := fun (n : W32) (s : State) => s.modGroup 0 (fun g => { g with s := zset g.s 10 n })
  let wide := fun (n : Nat) => ofGroup (fun g => { g with width := n, live := fullMask n, paths := g.paths.map (fun y => (y.1, { y.2 with mask := fullMask n })) })
  [ { s := uni 1 (pair .ready), i := fuse, p := fun c e => !c.fuseBad (c.val (.s 10) 1 0) && e.g.pending.isEmpty && (mget? e.s.groups 1).any (fun h => h.fusing != some 0) },
    { s := uni 0 demo, i := fuse, p := fun c _ => c.fuseBad (c.val (.s 10) 1 0) },
    { s := uni 1 (pair (.blocked (.fuse 0))), i := fuse, p := fun c e => !c.fuseBad (c.val (.s 10) 1 0) && e.g.pending.isEmpty &&
        (match mget? e.s.groups 1 with | some h => h.fusing == some 0 && h.width == e.g.width | none => false) },
    { s := wide 16, i := .split (regOps .zero .zero), p := fun c e => c.g.width != 8 && !c.s.notWhole c.gk c.g && e.g.pending.isEmpty && c.s.freeSlot c.q == some 1 },
    { s := demo, i := .split (regOps .zero .zero), p := fun c _ => c.g.width == 8 },
    { s := armed 0xFF 0 (wide 64), i := .split (regOps .zero .zero), p := fun c _ => c.s.notWhole c.gk c.g },
    { s := { wide 64 with groups := (wide 64).groups.flatMap (fun x => (List.range 16).map (fun k => (k, x.2))) }, i := .split (regOps .zero .zero),
      p := fun c _ => (c.s.freeSlot c.q).isNone } ]

theorem witness_FuseAndSplit : casesFuseAndSplit.all Case.met = true := by decide +kernel

def casesGrowthAndGangs : List Case :=
  let pair := fun (lid : Nat) => { demo with groups := demo.groups.flatMap (fun x => [x, (1, { x.2 with rank := 1, launch := lid })]) }
  let blocks := fun (n m : Nat) => (ofGroup (fun g => { g with blocks := n, base := m })).modLaunch 0 (fun l => { l with regs := m })
  let fits := fun (e : Ctx) (n : Nat) => e.quarter.growq.isEmpty && decide (e.g.width * n ≤ e.s.freeBlocks e.q)
  let waits := (blocks 29 29).setQuarter 0 { demo.quarter 0 with growq := [{ gk := 1, pid := 0, n := 2 }] }
  let ganged := fun (lid : Nat) => (pair lid).setQuarter 0 { demo.quarter 0 with gang := 0x2000010 }
  [ { s := demo, i := .grow 1 (regOps .zero .zero), p := fun _ e => decide (32 < e.g.blocks + 1) },
    { s := blocks 29 29, i := .grow 3 (regOps .zero .zero), p := fun _ e => decide (e.g.blocks + 3 = 32) && fits e 3 },
    { s := waits, i := .grow 3 (regOps .zero .zero), p := fun _ e => decide (e.g.blocks + 3 = 32) && !fits e 3 },
    { s := blocks 29 29, i := .growNb 3 (regOps (.p 1) .zero), p := fun _ e => decide (e.g.blocks + 3 = 32) && fits e 3 },
    { s := waits, i := .growNb 3 (regOps (.p 1) .zero), p := fun _ e => decide (e.g.blocks + 3 = 32) && !fits e 3 },
    { s := blocks 32 29, i := .shrink 3 (regOps .zero .zero), p := fun _ e => decide (e.launch.regs + 3 = e.g.blocks) },
    { s := blocks 31 29, i := .shrink 3 (regOps .zero .zero), p := fun _ e => decide (e.g.blocks < e.launch.regs + 3) },
    { s := demo, i := .gang (jumpOps .zero .zero 0), p := fun c _ => !c.gangBad 0 },
    { s := demo, i := .growNb 1 (regOps (.p 1) .zero), p := fun _ e => decide (32 < e.g.blocks + 1) },
    { s := demo, i := .gang (jumpOps .zero .zero 0x2000010), p := fun c _ => c.gangBad 0x2000010 },
    { s := pair 0, i := .gang (jumpOps .zero .zero 0x2000010), p := fun c _ => !c.gangBad 0x2000010 && (gangSlots c.quarter.gang).isEmpty },
    { s := ganged 0, i := .gang (jumpOps .zero .zero 0), p := fun c _ => !c.gangBad 0 && gangSlots c.quarter.gang == [0, 1] },
    { s := ganged 1, i := .gang (jumpOps .zero .zero 0), p := fun c _ => !c.gangBad 0 && (mget? c.s.groups 1).any (fun g => g.launch != c.g.launch) } ]

theorem witness_GrowthAndGangs : casesGrowthAndGangs.all Case.met = true := by decide +kernel


/-! ### Memory -/

/-- The places of a list of lanes, looked up in order, and the state after them. -/
def places (f : Nat → State → Place × State) : List Nat → State → List (Nat × Place) × State
  | [], s => ([], s)
  | l :: ls, s =>
    let r := f l s
    let y := places f ls r.2
    ((l, r.1) :: y.1, y.2)

def placeIn (ps : List (Nat × Place)) (l : Nat) : Place := mgetD ps l .prot

/-- `Reaches` as a test: what it asks of an access, with `own` for the issuing team's own scratch and `ms` for a memory-side page. -/
def reaches (e : Ctx) (f : Nat → State → Place × State) (n sets : Nat) (reads own ms : Bool) : Bool :=
  let r := places f e.actLanes e.s
  !e.actLanes.isEmpty && e.doneLanes == 0 && !e.g.fenceHolds sets && e.actLanes.all (fun l => e.ea l % n == 0 &&
    (match placeIn r.1 l with
     | .at loc h _ => (!reads || (r.2.poisoned loc n).isNone) && (decide (bankBase ≤ loc) && bankCore loc == e.core) == own && (!ms || h == .ms)
     | _ => false))

/-- Two teams in a row of two cores. -/
def twoTeams : State :=
  let s := ofLaunch (fun l => { l with clw := 2 })
  s.setCore 1 { s.core 1 with team := some { launch := 0, clid := 0, idx := 1, preempt := none, since := 0 } }

/-- Affine register 5 holding addresses `b`, `b + k`, … by lane. -/
def at5 (b k : Nat) (s : State) : State := s.modGroup 0 (fun g => { g with a := mset g.a 5 ⟨BitVec.ofNat 64 b, BitVec.ofNat 32 k⟩ })

def memOps (d b : Sel) : Ops := mk d (.a 5) b (.sel .zero) .none

def casesInFlight : List Case :=
  let far := at5 0x1100010 16 twoTeams
  let ms := at5 0x80020000 8 demo
  [ { s := at5 0x20000 8 demo, i := .ld .dev .df .b64 (memOps (.v 4) .zero), p := fun _ e => reaches e (atVirtual .load e) 8 1 true false false },
    { s := at5 0xFFFFFFE0000100 16 demo, i := .ld .sys .by .i8 (memOps (.v 4) .zero), p := fun _ e => reaches e (atVirtual .load e) 1 1 true false false },
    { s := far, i := .lds .i16 (memOps (.v 4) .zero), p := fun _ e => reaches e (atScratch 2 e) 2 1 true false false },
    { s := at5 0x7FFF70 16 demo, i := .ldv .b128 (memOps (.v 4) .zero), p := fun _ e => reaches e (atVault e) 16 1 true false false },
    { s := at5 0x20000 16 demo, i := .st .die .ll .b128 (memOps .zero (.v 8)), p := fun _ e => reaches e (atVirtual .store e) 16 2 false false false },
    { s := far, i := .sts .b64 (memOps .zero (.v 8)), p := fun _ e => reaches e (atScratch 8 e) 8 2 false false false },
    { s := at5 0 1 demo, i := .stv .n8 (memOps .zero (.v 8)), p := fun _ e => reaches e (atVault e) 1 2 false false false },
    { s := at5 0x20000 0 demo, i := .atom .dev true .cas { memOps (.v 4) (.v 8) with c := .sel (.v 10) }, p := fun _ e => reaches e (atVirtual .atomic e) 8 4 true false false },
    { s := far, i := .atoms .cl false .fadd (memOps (.v 4) (.v 8)), p := fun _ e => reaches e (atTeam .cl 4 e) 4 4 true false false },
    { s := ms, i := .ldrg .dev .df (memOps (.v 4) .zero), p := fun _ e => reaches e (atVirtual .load e) 8 1 true false true },
    { s := ms, i := .radd .dev (memOps .zero (.v 8)), p := fun _ e => reaches e (atVirtual .atomic e) 8 4 true false true },
    { s := ms, i := .rmerge .sys (memOps .zero (.v 8)), p := fun _ e => reaches e (atVirtual .atomic e) 8 4 true false true } ]

theorem witness_AccessesInFlight : casesInFlight.all Case.met = true := by decide +kernel

/-- No access in flight has to be performed before those of `e`, which are `n` bytes each. -/
def unhindered (e : Ctx) : Bool := e.s.accesses.isEmpty && e.s.xfers.isEmpty && e.quarter.chain.isNone

def casesOwnScratch : List Case :=
  [ { s := at5 0x1FFF0 2 demo, i := .lds .i16 (memOps (.v 4) .zero), p := fun _ e => reaches e (atScratch 2 e) 2 1 true true false && unhindered e },
    { s := at5 0x100 0 demo, i := .sts .b32 (memOps .zero (.v 8)), p := fun _ e => reaches e (atScratch 4 e) 4 2 false true false && unhindered e },
    { s := at5 0x1FF80 16 demo, i := .sts .b128 (memOps .zero (.v 8)), p := fun _ e => reaches e (atScratch 16 e) 16 2 false true false && unhindered e },
    { s := at5 0x100 0 demo, i := .atoms .tm false .add (memOps (.v 4) (.v 8)), p := fun _ e => reaches e (atTeam .tm 4 e) 4 4 true true false && unhindered e },
    { s := at5 0x200 8 demo, i := .atoms .tm true .exch (memOps (.v 4) (.v 8)), p := fun _ e => reaches e (atTeam .tm 8 e) 8 4 true true false && unhindered e } ]

theorem witness_OwnScratch : casesOwnScratch.all Case.met = true := by decide +kernel

/-- The first lane of an access that a test picks out, with the places of all of them. -/
def firstLane (e : Ctx) (f : Nat → State → Place × State) (q : Nat → Place → State → Bool) : Option Nat :=
  let r := places f e.actLanes e.s
  e.actLanes.find? (fun l => q l (placeIn r.1 l) r.2)

def isRefused (e : Ctx) (sc : Scope) (n l : Nat) : Place → Bool
  | .prot => true
  | .peer _ _ _ => sc != .sys || e.ea l % n != 0
  | _ => e.ea l % n != 0

def isPoisoned (n : Nat) (y : State) : Place → Bool
  | .at a _ _ => (y.poisoned a n).isSome
  | _ => false

def isFaulting : Place → Bool
  | .fault _ => true
  | _ => false

/-- Lanes 0 and 1 act under p4: lane 0's page is in the unit's TLB, lane 1's, a GiB higher, faults. -/
def halfMapped (k : AccKind) : State :=
  let s := mapGiB 1 0 ((at5 0x20000 0x40000000 demo).modGroup 0 (fun g => { g with p := zset g.p 4 3 }))
  { (s.place 0 0 1 true k 0x20000).2 with walks := [] }

def mixed (e : Ctx) (k : AccKind) : Bool :=
  let ps := (places (atVirtual k e) e.actLanes e.s).1
  e.actLanes == [0, 1] && (match placeIn ps 0, placeIn ps 1 with | .at a _ _, .fault _ => decide (a < bankBase) | _, _ => false)

def casesAccessFaults : List Case :=
  let ld := fun (sc : Scope) => Instr.ld sc .df .b32 (memOps (.v 4) .zero)
  let st := fun (sc : Scope) => Instr.st sc .df .b32 (memOps .zero (.v 8))
  let one := fun (s : State) => s.modGroup 0 (fun g => { g with p := zset g.p 4 0x10 })
  let ld4 := Instr.ld .dev .df .b32 (guarded 4 (memOps (.v 4) .zero))
  let st4 := Instr.st .dev .df .b32 (guarded 4 (memOps .zero (.v 8)))
  let load := fun (sc : Scope) (q : Ctx → Nat → Place → State → Bool) (_ e : Ctx) =>
    e.doneLanes == 0 && (firstLane e (atVirtual .load e) (fun l p _ => isRefused e sc 4 l p)).isNone && (firstLane e (atVirtual .load e) (q e)).isSome
  [ { s := at5 0x20000 2 demo, i := ld .dev, p := fun _ e => firstLane e (atVirtual .load e) (fun l p _ => isRefused e .dev 4 l p) == some 1 },
    { s := at5 0xC0020000 4 demo, i := ld .dev, p := fun _ e => firstLane e (atVirtual .load e) (fun l p _ => isRefused e .dev 4 l p) == some 0 },
    { s := { at5 0x20000 16 demo with poison := [0x1001] }, i := ld .dev, p := load .dev (fun _ _ p y => isPoisoned 4 y p) },
    { s := one (at5 0x180000000 4 demo), i := ld4, p := load .dev (fun _ _ p _ => isFaulting p) },
    { s := halfMapped .load, i := ld4, p := fun _ e => e.doneLanes == 0 && mixed e .load }, { s := halfMapped .store, i := st4, p := fun _ e => e.doneLanes == 0 && mixed e .store },
    { s := at5 0x100000000 4 demo, i := st .dev, p := fun _ e => firstLane e (atVirtual .store e) (fun l p _ => isRefused e .dev 4 l p) == some 0 },
    { s := one (at5 0x180000000 4 demo), i := st4, p := fun _ e => (firstLane e (atVirtual .store e) (fun l p _ => isRefused e .dev 4 l p)).isNone &&
        e.actLanes.all (fun l => isFaulting (placeIn (places (atVirtual .store e) e.actLanes e.s).1 l)) } ]

theorem witness_AccessFaults : casesAccessFaults.all Case.met = true := by decide +kernel

/-- The machine after an instruction of the group, nothing settled. -/
def after (s : State) (i : Instr) : State := match exec i s with | .next t => t | _ => s

/-- Accesses of a load, a store and an atomic under way; the first of each, at 0x20000 on, may be performed. -/
def loading : State := after (at5 0x20000 8 demo) (.ld .dev .df .b64 (memOps (.v 4) .zero))
def storing : State := after (at5 0x20000 8 demo) (.st .dev .df .b64 (memOps .zero (.v 8)))
def adding : State := after (at5 0x20000 0 demo) (.atom .dev false .add (memOps (.v 4) (.v 8)))
def poisoned : State := { loading with poison := [0x1000] }

/-- An access that may be performed, and meets a test. -/
def flying (s : State) (id : Nat) (q : Access → Bool) : Bool := match mget? s.accesses id with | some a => s.canPerform id a && q a | none => false

/-- A load whose lanes are all performed. -/
def returning : State := (List.range 8).foldl (fun s k => after s (.accessPerform (k + 1))) loading

theorem witness_AccessesPerform :
    ([flying storing 1 (fun a => match a.op with | .store _ => true | _ => false),
      flying loading 8 (fun a => (match a.op with | .load _ => true | _ => false) && (loading.poisoned a.loc a.len).isNone && decide (2 ≤ a.scope.code) &&
        (mget? loading.loads a.iid).isSome),
      flying adding 1 (fun a => match a.op with | .atomic _ _ _ _ => true | _ => false), !flying adding 2 (fun _ => true), (mget? adding.accesses 2).isSome,
      flying poisoned 1 (fun a => (poisoned.poisoned a.loc a.len).isSome)] : List Bool).all id = true ∧
    ((mget? loading.loads 0).map (fun l => l.left)) = some 0xFF ∧
    ((mget? returning.loads 0).map (fun l => (l.left, l.poison, l.latch, l.nwb, l.dst, l.words))) = some (0, none, none, false, .v 4, 2) := by decide +kernel

def casesCaches : List Case :=
  [ { s := at5 0x20000 128 demo, i := .pref .cl .ll (memOps .zero .zero) },
    { s := at5 0x20000 128 demo, i := .cctlWb .cl (memOps .zero .zero), p := fun _ e => reaches e (atCached .cl e) 1 2 false false false },
    { s := at5 0x20000 128 demo, i := .cctlInv .tm (memOps .zero .zero), p := fun _ e => reaches e (atCached .tm e) 1 2 false false false },
    { s := at5 0xC0020000 128 demo, i := .cctlWbinv .sys (memOps .zero .zero), p := fun _ e => reaches e (atCached .sys e) 1 2 false false false } ]

theorem witness_CachesAndSectors : casesCaches.all Case.met = true := by decide +kernel

def fenceOps (sets : BitVec 9) : Ops := { memOps .zero .zero with a := .zero, c := .raw sets }

/-- A path blocked in a FENCE that waits for the store of `storing`. -/
def fencing : State := after { storing with cur := some ⟨0, 0⟩ } (.fence .dev (fenceOps 0x33))

def casesFences : List Case :=
  let busy := { storing with cur := some ⟨0, 0⟩ }
  [ { s := demo, i := .fence .dev (guarded 0 (fenceOps 0x33)), p := fun _ e => !e.actsOnce },
    { s := demo, i := .fenceSc .cl (fenceOps 0xFF), p := fun _ e => e.actsOnce && (e.predAccs 15).isEmpty && (e.s.xfersOf e.gk).isEmpty },
    { s := busy, i := .fence .dev (fenceOps 0x33), p := fun _ e => e.actsOnce && !(e.predAccs 3).isEmpty } ]

theorem witness_Fences : casesFences.all Case.met = true ∧
    ((mget? fencing.groups 0).bind (fun g => (mget? g.paths 0).map (fun p => p.st))) = some (.blocked (.fence .dev [1, 2, 3, 4, 5, 6, 7, 8] [] [] [] 3)) ∧
    fencing.fenceMet .dev [1, 2, 3, 4, 5, 6, 7, 8] [] [] [] = false ∧ fencing.fenceMet .tm [1, 2, 3, 4, 5, 6, 7, 8] [] [] [] = false ∧
    ({ fencing with accesses := [] } : State).fenceMet .dev [1, 2, 3, 4, 5, 6, 7, 8] [] [] [] = true := by
  decide +kernel

def noEpoch (s : State) : State := s.modLaunch 0 (fun l => { l with epoch := 0 })

def casesDatom : List Case :=
  let ms := at5 0x80020000 4 demo
  let flush := fun (g : BitVec 3) => Instr.dflush .dev (guarded g (memOps .zero (.s 6)))
  let datom := Instr.datom .dev (memOps .zero (.v 8))
  let dstat := Instr.dstat .dev (memOps (.v 4) .zero)
  [ { s := ms, i := datom, p := fun _ e => reaches e (atVirtual .atomic e) 4 4 true false true && e.launch.epoch != 0 && (mget? e.g.unfinished e.pid).isNone &&
        !e.g.dead && e.p.st == .ready },
    { s := noEpoch ms, i := datom, p := fun _ e => e.launch.epoch == 0 && !e.actLanes.isEmpty },
    { s := ms, i := dstat, p := fun _ e => reaches e (atVirtual .load e) 4 1 false false true && e.launch.epoch != 0 },
    { s := noEpoch ms, i := dstat, p := fun _ e => e.launch.epoch == 0 && !e.actLanes.isEmpty },
    { s := ms, i := flush 0, p := fun _ e => !e.actsOnce },
    { s := noEpoch ms, i := flush 7, p := fun _ e => e.actsOnce && e.launch.epoch == 0 },
    { s := at5 (2 ^ 56) 0 ms, i := flush 7, p := fun _ e => e.actsOnce && e.ea e.lead == 2 ^ 56 },
    { s := at5 (2 ^ 56 - 4) 0 ms, i := flush 7, p := fun _ e => e.actsOnce && e.launch.epoch != 0 && e.ea e.lead == 2 ^ 56 - 4 && !e.g.fenceHolds 4 },
    { s := at5 0x180000000 0 ms, i := flush 7, p := fun _ e => e.actsOnce && e.launch.epoch != 0 && !e.g.fenceHolds 4 &&
        !((e.s.spanPlaces e.q e.part e.asid e.sys .load (spans 2 (e.ea e.lead) 64)).1.filterMap spanFault).isEmpty } ]

theorem witness_DeterministicAtomics : casesDatom.all Case.met = true := by decide +kernel

/-- DATOMs of eight lanes to one word of a memory-side page under way, and the word's unit holding sixteen addends. -/
def datoms : State := after (at5 0x80020000 0 demo) (.datom .dev (memOps .zero (.v 8)))
def taken (n : Nat) (s : State) : State :=
  s.setSaggar 0 { s.saggar 0 with words := [(dkey 3 0x20000, { DWord.fresh 3 0 with held := (List.range n).map (fun k => (k, 0x3F800000)) })] }
def tracking (s : State) : Option Nat := ((s.saggar 0).track (dkey 3 0x20000) 3 s.tick).map (fun x => x.1.held.length)
def crowded (s : State) : State :=
  s.setSaggar 0 { s.saggar 0 with words := (List.range 1024).map (fun k => (dkey 3 (0x40000 + 4 * k), { DWord.fresh 3 0 with held := [(0, 0)] })) }

/-- Ring words read and written in a memory-side page. -/
def ringing (i : Ops → Instr) (d : Sel) (b : Sel) : State := after (at5 0x80020000 8 demo) (i (memOps d b))
def ringOp (s : State) (q : Op → Bool) : Bool := flying s 1 (fun a => q a.op && (s.poisoned a.loc a.len).isNone)

theorem witness_TrackedAndRingWords :
    flying datoms 1 (fun a => (match a.op with | .datom _ _ => true | _ => false) && (datoms.poisoned a.loc a.len).isNone && a.loc == 0x20000 &&
      (datoms.launch a.launch).epoch == 3 && stackOf a.loc == 0) = true ∧
    tracking (taken 15 datoms) = some 15 ∧ tracking (taken 16 datoms) = some 16 ∧ tracking (crowded datoms) = none ∧
    flying (after (at5 0x80020000 0 demo) (.dstat .dev (memOps (.v 4) .zero))) 1 (fun a => a.op == .dstat) = true ∧
    ringOp (ringing (.ldrg .dev .df) (.v 4) .zero) (· == .ldrg) = true ∧
    ringOp (ringing (.radd .dev) .zero (.v 8)) (fun o => match o with | .radd _ => true | _ => false) = true ∧
    ringOp (ringing (.rmerge .dev) .zero (.v 8)) (fun o => match o with | .rmerge _ => true | _ => false) = true := by decide +kernel

/-! ### Barriers and channels -/

/-- A barrier object at scratch offset 0x100 of core `core`, expecting two arrivals. -/
def objOf (scope arrived phase : Nat) : Obj :=
  { landed := 0, target := 0, rsv := 0, scope := scope, lvalid := false, lidx := 0, cvalid := false, cidx := 0, watch := false, ovb := false, arrived := arrived,
    expected := 2, phase := phase }

def objLoc (core : Nat) : Nat := bankLoc core 0 0x100
def pair (r : Nat) (n : Nat) (s : State) : State :=
  s.modGroup 0 (fun g => { g with s := zset (zset g.s r (BitVec.ofNat 32 n)) (r + 1) (BitVec.ofNat 32 (n / 2 ^ 32)) })

/-- s12 is the object's address; s6 a phase, an expected count or bytes. -/
def withObj (core : Nat) (b : Obj) (n : Nat) (s : State) : State := pair 6 n (pair 12 (0x100 + if core = 0 then 0 else 0x1100000) (s.setObj (objLoc core) b))

def barOps (d b c : Sel) : Ops := mk d (.s 12) b (.sel c) .none

theorem witness_BarrierPhases :
    (objOf 1 2 7).arrived = (objOf 1 2 7).expected ∧ (objOf 1 2 7).target ≤ (objOf 1 2 7).landed ∧ (objOf 1 1 7).arrived ≠ (objOf 1 1 7).expected ∧
    Obj.ofNat (objOf 5 1 65535).toNat = objOf 5 1 65535 ∧ (objOf 1 0 32768).over 0 = true ∧ (objOf 1 0 32769).over 0 = false ∧ (objOf 1 0 0).over 0 = false := by
  decide +kernel

def here (e : Ctx) : Bool :=
  let ea := e.addr e.o.a e.lead
  e.actsOnce && ea % 16 == 0 && (match e.scratchPlace ea 16 with | .at loc h _ => h == .scratch && bankCore loc == e.core | _ => false)

def casesBarriers : List Case :=
  let at0 := fun (a ph n : Nat) => withObj 0 (objOf 2 a ph) n demo
  let quiet := fun (e : Ctx) => here e && (e.s.accsOf e.gk).isEmpty
  let out := fun (e : Ctx) => e.actsOnce && e.scratchPlace (e.addr e.o.a e.lead) 16 == .prot
  let idle := fun (i : Instr) => ({ s := at0 0 0 0, i := i, p := fun _ e => !e.actsOnce } : Case)
  let o := barOps .zero .zero .zero
  let ob := barOps .zero (.s 6) .zero
  let od := barOps (.s 9) (.s 6) .zero
  let oi := barOps .zero (.s 6) (.s 10)
  [ { s := at0 0 0 65535, i := .binit .tm oi, p := fun _ e => here e && e.val (.s 6) 1 0 == 65535 },
    { s := at0 0 0 3, i := .binit .sys oi, p := fun _ e => here e && e.val (.s 6) 1 0 % 65536 != 0 },
    { s := at0 1 9 0, i := .barr o, p := fun _ e => quiet e },
    { s := at0 2 9 0, i := .barr o, p := fun _ e => quiet e && (e.s.obj (objLoc 0)).arrived == 2 },
    { s := at0 0 9 64, i := .barrBytes ob, p := fun _ e => quiet e },
    { s := at0 0 9 0xFFFFFFFF, i := .bexp ob, p := fun _ e => here e },
    { s := at0 0 9 8, i := .bwait od, p := fun _ e => here e && (e.s.obj (objLoc 0)).check.over 8 },
    { s := at0 0 9 9, i := .bwait od, p := fun _ e => here e && !(e.s.obj (objLoc 0)).check.over 9 },
    { s := at0 0 9 8, i := .btry od, p := fun _ e => here e },
    { s := at0 0 9 9, i := .btry od, p := fun _ e => here e },
    { s := at0 0 9 0, i := .watch 3 o, p := fun _ e => here e && e.o.b.isZero },
    { s := pair 14 0x20008 (at0 0 9 0), i := .watch 3 (barOps .zero (.s 14) .zero), p := fun _ e => here e && (match (e.vplace .load 0x20008 e.s).1 with | .at _ _ _ => true | _ => false) &&
        decide ((e.s.core e.core).watches.length < 16) },
    idle (.binit .cl (guarded 0 oi)), idle (.barr (guarded 0 o)), idle (.barrBytes (guarded 0 ob)), idle (.bexp (guarded 0 ob)), idle (.bwait (guarded 0 od)),
    idle (.btry (guarded 0 od)), idle (.watch 0 (guarded 0 o)),
    { s := pair 12 0x1FFF8 (at0 0 0 0), i := .barr o, p := fun _ e => e.actsOnce && e.addr (.s 12) 0 % 16 != 0 },
    { s := pair 12 0x20000 (at0 0 0 0), i := .barrBytes ob, p := fun _ e => out e },
    { s := pair 12 0x20000 (at0 0 0 0), i := .bexp ob, p := fun _ e => out e },
    { s := pair 12 0x20000 (at0 0 0 0), i := .btry od, p := fun _ e => out e },
    { s := withObj 1 (objOf 2 0 9) 0 twoTeams, i := .barr o, p := fun _ e => e.actsOnce && (match e.scratchPlace (e.addr e.o.a e.lead) 16 with | .at loc _ _ => bankCore loc == 1 | _ => false) },
    { s := withObj 0 (objOf 2 0 9) 0 { storing with cur := some ⟨0, 0⟩ }, i := .barr o, p := fun _ e => here e && !(e.s.accsOf e.gk).isEmpty } ]

/-- An arrival on its way to another core, and a BWAIT parked at its own. -/
def arriving (scope arrived : Nat) : State := after (withObj 1 (objOf scope arrived 9) 0 twoTeams) (.barr (barOps .zero .zero .zero))
def awaiting : State := after (withObj 0 (objOf 2 0 9) 9 demo) (.bwait (barOps (.s 9) (.s 6) .zero))
def reached (s : State) (q : BarReq → Bool) (r : BarRes → Bool) : Bool := match mget? s.barReqs 0 with | some x => q x && r (s.barUnit x).1 | none => false
def watched (hit : Bool) : State := (withObj 0 (objOf 2 0 9) 0 demo).setCore 0 { demo.core 0 with watches := [(0, { obj := objLoc 0, idx := 1, word := 0x20000, va := 0x20000, hit := hit })] }

theorem witness_Barriers : casesBarriers.all Case.met = true ∧
    ([reached (arriving 2 0) (arriving 2 0).barReady (· == .done), reached (arriving 2 2) (arriving 2 2).barReady (· == .trap .barOver),
      reached (arriving 1 0) (arriving 1 0).barReady (· == .trap .prot), reached awaiting (fun x => x.parked && !awaiting.barReady x) (fun _ => true),
      reached (awaiting.setObj (objLoc 0) (objOf 2 0 10)) ((awaiting.setObj (objLoc 0) (objOf 2 0 10)).barReady) (fun x => match x with | .word _ _ a => a | _ => false),
      reached { awaiting with barReqs := awaiting.barReqs.map (fun x => (x.1, { x.2 with parked := false })) } (fun _ => true) (· == .wait)] : List Bool).all id = true ∧
    ([true, false].all (fun h => match mget? ((watched h).core 0).watches 0 with | some w => w.hit == h | none => false)) = true := by decide +kernel

def sendOps (n : Nat) (imm : Imm) : Ops := { barOps .zero (.s 6) .zero with imm := imm } |> fun o => if n = 0 then guarded 0 o else o
def sendState (n : Nat) (x : Chan) : State := (pair 6 n (pair 12 0x1FFC0 demo)).modLaunch 0 (fun l => { l with chan := [(5, x)] })
def sendCase (q : Ctx → Bool) (s : State) (o : Ops) (i : Ops → Instr) : Case := { s := s, i := i o, p := fun _ e => e.launch.chanRec 5 == some { id := 5, slots := 2, size := 64, pcl := 0, pteam := 0, cons := [(0, 0)] } && q e }
def lawful (e : Ctx) : Bool := e.actsOnce && !(e.launch.chanOf 5).broken && e.val (.s 6) 1 0 != 0 && decide (e.val (.s 6) 1 0 ≤ 64) && e.ownRange (e.addr (.s 12) 0) (e.val (.s 6) 1 0) && !e.g.fenceHolds 2

def open1 : Chan := { allow := [1], filled := [[]], broken := false }

def casesSends : List Case :=
  [(.send 5, .none), (.sendr 5, .i64 3), (.mcst 5, .i64 15)].flatMap (fun (x : (Ops → Instr) × Imm) =>
    [ sendCase (fun e => !e.actsOnce) (sendState 64 open1) (sendOps 0 x.2) x.1,
      sendCase (fun e => e.actsOnce && (e.launch.chanOf 5).broken) (sendState 64 { open1 with broken := true }) (sendOps 1 x.2) x.1,
      sendCase (fun e => e.actsOnce && e.val (.s 6) 1 0 == 65) (sendState 65 open1) (sendOps 1 x.2) x.1,
      sendCase (fun e => e.actsOnce && e.val (.s 6) 1 0 == 0) (sendState 0 open1) (sendOps 1 x.2) x.1,
      sendCase lawful (sendState 64 open1) (sendOps 1 x.2) x.1 ])

/-- Every stop of a route in these machines is the one consumer. -/
theorem stops_one (s : State) (r : ChanRec) (h : r.cons.length = 1) (lid core : Nat) (t : BitVec 24) : ∀ k ∈ s.stopsOf lid r core t, k = 0 := by
  intro k hk
  unfold State.stopsOf at hk
  simp only [List.mem_filterMap] at hk
  obtain ⟨c, -, hc⟩ := hk
  split at hc
  · split at hc
    · unfold ChanRec.consumer at hc
      simp only at hc
      split at hc
      · rename_i hl; rw [h] at hl; simp only [Option.some.injEq] at hc; omega
      · cases hc
    · cases hc
  · cases hc

/-- A send of a route may go where the one consumer has an allowance, and may not behind an earlier send. -/
theorem witness_ChannelSends : casesSends.all Case.met = true ∧
    (∀ q : SendReq, q.launch = 0 → q.ch = 5 → (∀ k ∈ q.cons, k = 0) → (sendState 64 open1).canSend 0 q = true) ∧
    (∀ q : SendReq, q.launch = 0 → q.ch = 5 → q.cons ≠ [] → (∀ k ∈ q.cons, k = 0) → (sendState 64 { open1 with allow := [0] }).canSend 0 q = false) := by
  have h1 : hasAllowances (((sendState 64 open1).launch 0).chanOf 5) [0] = true ∧ (sendState 64 open1).sends = [] := by decide +kernel
  have h2 : hasAllowances (((sendState 64 { open1 with allow := [0] }).launch 0).chanOf 5) [0] = false := by decide +kernel
  refine ⟨by decide +kernel, ?_, ?_⟩
  · intro q h h' hk
    unfold State.canSend
    rw [h, h', h1.2]
    simp only [hasAllowances, List.all_cons, List.all_nil, Bool.and_true] at h1
    simp only [hasAllowances, List.any_nil, Bool.not_false, Bool.and_true, List.all_eq_true]
    intro k hm
    rw [hk k hm]
    exact h1.1
  · intro q h h' hc hk
    unfold State.canSend
    rw [h, h']
    simp only [hasAllowances, List.all_cons, List.all_nil, Bool.and_true] at h2
    obtain ⟨k, hm⟩ := List.exists_mem_of_ne_nil _ hc
    have : (q.cons.all (fun k => decide (0 < listGet 0 (((sendState 64 { open1 with allow := [0] }).launch 0).chanOf 5).allow k))) = false := by
      rw [List.all_eq_false]
      exact ⟨k, hm, by rw [hk k hm]; simpa using h2⟩
    simp only [hasAllowances]
    rw [this]
    rfl

def slotOf (n : Nat) : Data := { bytes := List.replicate n 0x5A, bad := [] }
def recvOps : Ops := barOps (.s 9) .zero .zero

def casesReceives : List Case :=
  let full : Chan := { open1 with filled := [[slotOf 64]] }
  let off := fun (i : Instr) => sendCase (fun e => !e.actsOnce) (sendState 0 open1) (guarded 0 recvOps) (fun _ => i)
  let elsewhere := fun (s : State) => s.setCore 0 { s.core 0 with team := (s.core 0).team.map (fun t => { t with idx := 3 }) }
  let got := fun (e : Ctx) => e.actsOnce && !(e.launch.chanOf 5).broken && !e.g.fenceHolds 1
  ([Instr.recv 5, Instr.recvTry 5].flatMap (fun i =>
    [ sendCase (fun e => got e && (listGet [] (e.launch.chanOf 5).filled 0).length == 1 && decide (e.addr (.s 12) 0 + 64 = e.launch.scratch)) (sendState 0 full) recvOps i,
      sendCase (fun e => e.actsOnce && (e.launch.chanOf 5).broken) (sendState 0 { open1 with broken := true }) recvOps i,
      { s := elsewhere (sendState 0 open1), i := i recvOps, p := fun _ e => e.actsOnce && (match e.launch.chanRec 5 with | some r => (e.consumes r).isNone | none => false) },
      sendCase (fun e => got e && (listGet [] (e.launch.chanOf 5).filled 0).isEmpty && e.ownRange (e.addr (.s 12) 0) 1) (sendState 0 open1) recvOps i ])) ++
  [ off (.recv 5 (guarded 0 recvOps)), off (.recvTry 5 (guarded 0 recvOps)), off (.chqFree 5 (guarded 0 (mk (.s 9) .zero .zero (.sel .zero) .none))),
    off (.chqFilled 5 (guarded 0 (mk (.s 9) .zero .zero (.sel .zero) .none))),
    sendCase got (sendState 0 open1) (mk (.s 9) .zero .zero (.sel .zero) .none) (.chqFree 5),
    sendCase got (sendState 0 full) (mk (.s 9) .zero .zero (.sel .zero) .none) (.chqFilled 5) ]

/-- A send that waits, one whose allowance has come, its packet, and an allowance on its way back. -/
def sending (n : Nat) : State := after (sendState 64 { open1 with allow := [n] }) (.send 5 (sendOps 1 .none))
def allowed : State := (sending 0).modLaunch 0 (fun l => { l with chan := [(5, open1)] })
def received : State := after (sendState 0 { open1 with filled := [[slotOf 64]] }) (.recv 5 recvOps)

theorem witness_ChannelReceives : casesReceives.all Case.met = true ∧
    ((mget? (sending 0).sends 0).map (fun r => (sending 0).canSend 0 r)) = some false ∧ ((mget? allowed.sends 0).map (fun r => allowed.canSend 0 r)) = some true ∧
    ((mget? allowed.groups 0).bind (fun g => (mget? g.paths 0).map (fun p => (p.st, g.runs 0)))) = some (.waiting (.send 0), true) ∧
    ((mget? (sending 1).packets 1).map (fun p => (p.launch, p.ch, p.con))) = some (0, 5, 0) ∧ (sending 1).receivers 0 0 0 5 = [] ∧
    mget? received.returns 0 = some (0, 5, 0) := by decide +kernel

/-- The machine after an event. -/
def did (f : State → Host.Outcome State Fault Refusal) (s : State) : State := match f s with | .next t => t | _ => s

/-! ### Moulds and the matrix unit -/

/-- A record of one-byte elements (R282), 64 rows of 64 bytes at `base`, in tiles of one row of 32 bytes, and one that loads its permutation `ofs` blocks on. -/
def mouldRec (base ofs : Nat) : Nat := base + 2 * 2 ^ 73 + 64 * 2 ^ 128 + 64 * 2 ^ 176 + 64 * 2 ^ 192 + ofs * 2 ^ 384

/-- Slot 2 holds a mould with rows at 0x20000, slot 3 one with a permutation at 0x20040. -/
def moulded : State :=
  demo.setQuarter 0 (((demo.quarter 0).setSlot 2 { mould := BitVec.ofNat 512 (mouldRec 0x20000 0), valid := true, perm := none }).setSlot 3
    { mould := BitVec.ofNat 512 (mouldRec 0x20000 1), valid := true, perm := none })

def fromS4 : Ops := mk .zero (.s 4) .zero (.sel .zero) .none
/-- The bytes at s4 can be read as a record with what a test asks. -/
def recordAt (e : Ctx) (va n : Nat) (q : Nat → Bool) : Bool := match e.readRecord va n with | .ok (bs, _) => q (leNat bs) | .error _ => false
def s4At (n : Nat) (s : State) : State := pair 4 n s

/-- A transfer of slot 2's mould at TOB offset 0x400 passes every check. -/
def tileGoes (e : Ctx) : Bool :=
  let md := Mould.ofNat (mouldRec 0x20000 0)
  let pages := pagesOf ((md.layout false e.tileIdx).1.flatMap cutPiece)
  let found := (e.s.placePages (mouldUnit e.core) e.part e.asid e.sys .store pages).1
  e.actsOnce && (e.quarter.slot 2).valid && e.val (.s 4) 1 e.lead == 0x400 && decide (0x400 + md.imgSize ≤ tobBytes e.launch.banks) && !e.g.fenceHolds 8 &&
    found.all (fun y => match y.2.2 with | .at _ _ _ => true | _ => false)

def casesMoulds : List Case :=
  let holds := fun (w : Nat) => demo.writeNat 0x20000 64 w
  let ready := fun (e : Ctx) => e.actsOnce && e.addr (.s 4) e.lead % 64 == 0
  let perm := fun (w : Nat) => moulded.writeNat 0x20040 2 w
  let tile := fun (i : Ops → Instr) => ({ s := s4At 0x400 moulded, i := i (mk (.s 4) .zero .zero (.sel .zero) (.i64 0)), p := fun _ e => tileGoes e } : Case)
  let wrong := fun (n : Nat) (i : Ops → Instr) => ({ s := s4At n moulded, i := i (mk (.s 4) .zero .zero (.sel .zero) (.i64 0)), p := fun _ e => e.actsOnce &&
    (decide (n % 1024 ≠ 0) || decide (tobBytes e.launch.banks < n + (Mould.ofNat (mouldRec 0x20000 0)).imgSize)) } : Case)
  [ { s := s4At 0x20020 demo, i := .mld 3 fromS4, p := fun _ e => e.actsOnce && e.addr (.s 4) e.lead % 64 == 32 },
    { s := holds (mouldRec 0x20000 0), i := .mld 3 fromS4, p := fun _ e => ready e && recordAt e 0x20000 64 (fun w => !(Mould.ofNat w).bad) },
    { s := holds 0, i := .mld 3 fromS4, p := fun _ e => ready e && recordAt e 0x20000 64 (fun w => (Mould.ofNat w).bad) },
    { s := demo, i := .mperm 3 { fromS4 with a := .zero }, p := fun c _ => !(c.quarter.slot 3).valid },
    { s := moulded, i := .mperm 2 { fromS4 with a := .zero }, p := fun _ e => e.actsOnce && (Mould.ofNat (e.quarter.slot 2).mould.toNat).permOfs == 0 },
    { s := perm 511, i := .mperm 3 { fromS4 with a := .zero }, p := fun _ e => e.actsOnce && recordAt e 0x20040 1024 (fun w => (permOf 512 (natLe 1024 w)).isSome) },
    { s := perm 512, i := .mperm 3 { fromS4 with a := .zero }, p := fun _ e => e.actsOnce && recordAt e 0x20040 1024 (fun w => (permOf 512 (natLe 1024 w)).isNone) },
    { s := demo, i := .tst 3 (mk (.s 4) .zero .zero (.sel .zero) (.i64 0)), p := fun c _ => !(c.quarter.slot 3).valid },
    tile (.tld 2), tile (.tst 2), wrong 0x420 (.tld 2), wrong 0x20000 (.tst 2),
    { s := moulded, i := .tldTrn 2 (mk (.s 4) .zero .zero (.sel .zero) (.i64 0)), p := fun _ e => e.actsOnce && !(Mould.ofNat (e.quarter.slot 2).mould.toNat).tiled } ]

/-- Tile transfers under way: a TLD and a TST that may be performed, and one that an earlier TLD of the same bytes holds up. -/
def tiling (i : Ops → Instr) : State := after (s4At 0x400 moulded) (i (mk (.s 4) .zero .zero (.sel .zero) (.i64 0)))
def xferOk (s : State) (id : Nat) (out waits : Bool) : Bool :=
  match mget? s.xfers id with | some x => x.out == out && s.xferWaits id x == waits && s.xferReaches x && decide (x.runs.length = 1) | none => false

theorem witness_Moulds : casesMoulds.all Case.met = true ∧
    ([xferOk (tiling (.tld 2)) 0 false false, xferOk (tiling (.tst 2)) 0 true false,
      xferOk (after { tiling (.tld 2) with cur := some ⟨0, 0⟩ } (.tst 2 (mk (.s 4) .zero .zero (.sel .zero) (.i64 0)))) 1 true true] : List Bool).all id = true := by
  decide +kernel

/-- Quarter 0 as the machine above has it, with more in it. -/
def unitOf' (f : Quarter → Quarter) (s : State) : State := s.setQuarter 0 (f (s.quarter 0))
def mmaOf (id : Nat) (acc running : Bool) : MmaOp :=
  { id := id, acc := acc, zero := false, gk := 0, a := (moulded.quarter 0).slot 2, b := (moulded.quarter 0).slot 3, aOfs := 0, bOfs := 0x1000, fmt := 0xFC000,
    running := running }

def casesMatrix : List Case :=
  let mma := Instr.mma true 3 2 (mk .zero (.s 4) (.s 6) (.sel .zero) .none)
  let at' := fun (s : State) => s4At 0 (s.modGroup 0 (fun g => { g with s := zset g.s 6 0x1000 }))
  let gang := fun (s : State) => (s.setQuarter 0 { s.quarter 0 with gang := 0x2000010 })
  let two := { at' moulded with groups := (at' moulded).groups.flatMap (fun x => [x, (1, { x.2 with rank := 1 })]) }
  let busy := fun (acc : Bool) => unitOf' (fun q => { q with mmaq := [mmaOf 0 acc false] })
  let word := fun (n : Nat) (s : State) => s.modGroup 0 (fun g => { g with s := zset g.s 4 (BitVec.ofNat 32 n) })
  let mrd := fun (acc : Bool) (d : BitVec 8) => Instr.mrd acc (mk (.v d) (.s 4) .zero (.sel .zero) .none)
  let mwr := fun (acc : Bool) (b : BitVec 8) => Instr.mwr acc (mk .zero (.s 4) (.v b) (.sel .zero) .none)
  let ok := fun (c e : Ctx) (x : Sel) => (c.accDetail x).isNone && (e.pairPending x).isEmpty
  let mqry := Instr.mqry (mk (.s 9) (.s 4) .zero (.sel .zero) .none)
  [ { s := demo, i := mma, p := fun c _ => c.mmaDetail 2 3 == some 9 },
    { s := at' moulded, i := mma, p := fun c e => (c.mmaDetail 2 3).isNone && e.actsOnce && (mmaOf 0 true false).images.all (fun r => r.1 % 1024 == 0 &&
        decide (r.1 + r.2 ≤ tobBytes e.launch.banks)) && e.val (.s 6) 1 0 == 0x1000 && e.s.tldsOn e.q (mmaOf 0 true false).images == [] && !e.quarter.mmaFull &&
        (e.s.mmaPoison e.core (mmaOf 0 true false)).isNone && (gangSlots e.quarter.gang).isEmpty },
    { s := gang two, i := mma, p := fun c e => (c.mmaDetail 2 3).isNone && e.actsOnce && gangSlots e.quarter.gang == [0, 1] && e.quarter.round.isNone },
    { s := demo, i := .mzero true (regOps .zero .zero), p := fun c e => c.gangDetail.isNone && e.actsOnce && e.quarter.mmaq == [] },
    { s := busy true moulded, i := .mzero true (regOps .zero .zero), p := fun c e => c.gangDetail.isNone && e.actsOnce && e.quarter.mmaq.any (fun y => y.acc == true) },
    { s := word 0x7F8 demo, i := mrd false 4, p := fun c e => ok c e (.v 4) && e.acts != 0 && !e.quarter.mmaq.any (fun m => m.acc == false) && e.accWord == 0x7F8 },
    { s := word 0x2E3F (busy true demo), i := mwr false 4, p := fun c e => ok c e (.v 4) && e.acts != 0 && bit e.accWord 13 },
    { s := word 0x1000 (busy false demo), i := mrd false 4, p := fun c e => ok c e (.v 4) && e.acts != 0 && e.quarter.mmaq.any (fun m => m.acc == false) },
    { s := word 0x2000 (busy true demo), i := mwr true 4, p := fun c e => ok c e (.v 4) && e.acts != 0 && e.quarter.mmaq.any (fun m => m.acc == true) },
    { s := word 2 demo, i := mqry, p := fun c e => c.val (.s 4) 1 c.lead == 2 && e.actsOnce }, { s := word 3 demo, i := mqry, p := fun c _ => c.actsOnce && c.val (.s 4) 1 c.lead == 3 } ]

theorem witness_MatrixOperations : casesMatrix.all Case.met = true ∧
    ((unitOf' (fun q => { q with mmaq := [mmaOf 1 true true, mmaOf 2 false false] }) moulded).quarter 0).mmaq = [mmaOf 1 true true] ++ mmaOf 2 false false :: [] ∧
    (mmaOf 1 true true).isMma = true ∧ (mmaOf 2 false false).isMma = true := by
  decide +kernel

/-! ### Jobs and queues -/

/-- A FILL of `n` bytes at `w`, without an object, landing at scope .dev (R332). -/
def fillCard (w n : Nat) : Nat := 1 + 4 * 2 ^ 8 + 2 ^ 12 + w * 2 ^ 256 + n * 2 ^ 320 + 0x11223344 * 2 ^ 416
/-- A MOULD card whose moulds lie one and two blocks on. -/
def mouldCard : Nat := 3 + 4 * 2 ^ 8 + 2 ^ 12 + 0x30000 * 2 ^ 64 + 0x1000 * 2 ^ 128 + 0x40000 * 2 ^ 256 + 0x1000 * 2 ^ 320 + 2 ^ 352 + 2 * 2 ^ 384
/-- One row of 32 bytes. -/
def smallMould (base : Nat) : Nat := base + 2 ^ 73 + 32 * 2 ^ 128

def jobOps (d : Sel) : Ops := mk d (.s 4) .zero (.sel .zero) .none
def carded (w : Nat) : State := demo.writeNat 0x20000 64 w

/-- A card at 0x20000 with two moulds of one row behind it, and the moulds of a card at 0x41000. -/
def moulds (w : Nat) : State :=
  ((((carded w).writeNat 0x20040 64 (smallMould 0x30000)).writeNat 0x20080 64 (smallMould 0x40000)).writeNat 0x41040 64 (smallMould 0x30000)).writeNat 0x41080 64 (smallMould 0x40000)

def casesJobs : List Case :=
  let job := fun (d : Sel) => Instr.job (jobOps d)
  let room := fun (e : Ctx) => e.actsOnce && e.addr (.s 4) e.lead % 64 == 0 && !e.g.fenceHolds 8 && decide (e.s.openJobs e.die < 1024)
  let code := fun (e : Ctx) (q : Nat → Bool) => room e && recordAt e 0x20000 64 (fun w => (Card.ofNat w).kind != 3 && q (e.cardCode (Card.ofNat w) true))
  [ { s := s4At 0x20020 demo, i := job (.s 9), p := fun _ e => e.actsOnce && e.addr (.s 4) e.lead % 64 == 32 },
    { s := carded (fillCard 0x30000 64), i := job (.s 9), p := fun _ e => code e (· == 0) }, { s := carded (fillCard 0x30000 64), i := job .zero, p := fun _ e => code e (· == 0) },
    { s := carded (fillCard 0x30000 0), i := job (.s 9), p := fun _ e => code e (· == 10) }, { s := carded (fillCard 0x30000 0), i := job .zero, p := fun _ e => code e (· == 10) },
    { s := moulds mouldCard, i := job (.s 9), p := fun _ e => room e && recordAt e 0x20000 64 (fun w => (Card.ofNat w).kind == 3 && e.cardCode (Card.ofNat w) true == 0) &&
        recordAt e 0x20040 64 (fun a => recordAt e 0x20080 64 (fun b => mouldsOk (Card.ofNat mouldCard) (Mould.ofNat a) (Mould.ofNat b))) },
    { s := demo, i := .jqry (mk (.s 9) (.s 5) .zero (.sel .zero) .none), p := fun _ e => e.actsOnce } ]

/-- A FILL waiting, running, and all written; a second one of the same bytes waits for it. -/
def submitted : State := after (carded (fillCard 0x30000 64)) (.job (jobOps (.s 9)))
def started : State := did (execJobStart 0) submitted
def filledJob : State := did (execEngineBytesLand 0 64) started
def jobIs (s : State) (id : Nat) (q : Job → Bool) : Bool := match mget? s.jobs id with | some j => q j | none => false

theorem witness_Jobs : casesJobs.all Case.met = true ∧
    ([jobIs submitted 0 (fun j => j.st == .waiting && !submitted.jobBlocked j && !submitted.jobHeld j && j.c.kind == 1),
      jobIs (after { submitted with cur := some ⟨0, 0⟩ } (.job (jobOps (.s 9)))) 1 (fun j =>
        (after { submitted with cur := some ⟨0, 0⟩ } (.job (jobOps (.s 9)))).jobBlocked j),
      jobIs started 0 (fun j => started.jobGoes 0 j && decide (j.pos < j.goal) && j.moulds == [] && j.got == [] && !started.jobFar j && j.piece 64 == 64 &&
        (match (started.spanPlaces j.eng j.part j.asid j.sys .engWrite (spans 2 (j.c.w + j.pos) 64)).1 with | [(_, _, .at loc _ _)] => started.mayWrite j.die loc 64 && decide (stackOf loc / 4 = j.die) | _ => false)),
      jobIs filledJob 0 (fun j => filledJob.jobGoes 0 j && decide (j.goal ≤ j.pos))] : List Bool).all id = true ∧
    filledJob.bytes 0x30000 4 = [0x44, 0x33, 0x22, 0x11] := by
  decide +kernel

/-- Queue 3 takes device entries: its ring of 16 entries lies at 0x60000, with TAIL at `t`. -/
def queued (dev : Bool) (t : W16) (s : State) : State := s.setQueue 0 0 3 { HwQueue.reset with base := 0x60000, en := true, dev := dev, tail := t }
def launchOps (d : Sel) : Ops := mk d (.s 4) (.s 10) (.sel .zero) .none
def nodeAt (a w : Nat) (s : State) : State := s.writeNat a 64 w

def casesQueues : List Case :=
  let may := fun (c : Ctx) => decide (c.queueOperand < 64) && c.launch.qrights.getLsbD c.queueOperand && (c.s.queue c.part c.die c.queueOperand).dev && c.actsOnce
  let quiet := fun (e : Ctx) => e.s.released (e.s.accsOf e.gk) (e.s.jobsOf e.gk e.g.launch)
  let full := fun (e : Ctx) => (e.s.queue e.part e.die 3).full
  let event := nodeAt 0x20000 5 demo
  let gsig := Instr.gsig (mk .zero (.s 4) .zero (.sel .zero) .none)
  let there := fun (e : Ctx) => match e.resolve .atomic (e.addr (.s 4) e.lead) 64 with
    | .ok ([x], _) => e.actsOnce && (e.waitsFor (.load .b32) [x]).isEmpty && (e.s.poisonedLocs [x]) == false | _ => false
  [ { s := queued true 0 demo, i := .launch (launchOps (.s 9)), p := fun c e => may c && quiet e && !full e && (match (e.vplace .load 0x20000 e.s).1 with | .at _ _ _ => true | _ => false) },
    { s := queued true 16 demo, i := .launch (launchOps (.s 9)), p := fun c e => may c && quiet e && full e },
    { s := queued true 16 demo, i := .launch (launchOps .zero), p := fun c e => may c && quiet e && full e },
    { s := queued true 0 { storing with cur := some ⟨0, 0⟩ }, i := .launch (launchOps .zero), p := fun c e => may c && !quiet e },
    { s := queued false 0 demo, i := .launch (launchOps (.s 9)), p := fun c _ => c.actsOnce && !may c },
    { s := demo.modGroup 0 (fun g => { g with s := zset g.s 10 64 }), i := .launch (launchOps (.s 9)), p := fun c _ => c.actsOnce && c.queueOperand == 64 },
    { s := s4At 0x20020 demo, i := gsig, p := fun _ e => e.actsOnce && e.addr (.s 4) e.lead % 64 == 32 },
    { s := event, i := gsig, p := fun _ e => there e && quiet e && leNat (e.s.bytes 0x20000 64) % 16 == 5 }, { s := demo, i := gsig, p := fun _ e => there e },
    { s := { nodeAt 0x20040 5 storing with cur := some ⟨0, 0⟩ } |> s4At 0x20040, i := gsig, p := fun _ e => there e && !quiet e } ]

/-- A LAUNCH that waits for room until the queue has some, a GSIG waiting at its node, and a request whose path is gone. -/
def launching (t : W16) : State := queued true t (after (queued true 16 demo) (.launch (launchOps .zero)))
def requestIs (s : State) (q : LaunchReq → Bool) : Bool := match s.launchReqs with | [(_, r)] => q r | _ => false
/-- An entry in queue 3 that names this node. -/
def entered (w : Nat) : State := (queued false 1 demo).physWrite 0 0x60000 (natLe 32 w)
def entryCode (s : State) (w : Nat) : Bool := s.nextQueue 0 0 == some 3 && s.physWord 0x60000 32 == w && (s.rangeOf 0 0x60000).isSome && (s.poisoned (s.phys 0x60000) 32).isNone

theorem witness_HardwareQueues : casesQueues.all Case.met = true ∧
    ([requestIs (launching 16) (fun r => (launching 16).launchWaits 0 r && !(launching 16).launchReady r), requestIs (launching 15) (fun r => (launching 15).launchWaits 0 r && (launching 15).launchReady r),
      requestIs { launching 15 with groups := [] } (fun r => !({ launching 15 with groups := [] } : State).launchWaits 0 r),
      !(demo.queue 0 0 3).dev, ((queued true 0 demo).queue 0 0 3).dev, demo.nextQueue 0 0 == none,
      entryCode (entered 0x20000) 0x20000, entryCode (entered (2 ^ 172)) (2 ^ 172), entryCode (entered 0x20020) 0x20020,
      entryCode (entered (0x20000 + 2 ^ 160)) (0x20000 + 2 ^ 160)] : List Bool).all id = true := by
  decide +kernel

/-- A launch of its program over a grid of clusters of two teams. -/
def gridOf (cosched : Bool) (n : Nat) : State :=
  { demo with launches := mset demo.launches 5 { demo.launch 0 with clw := 2, grid := n, nextCl := 0, teams := 0, seq := 9, cosched := cosched } }

theorem witness_PlacingClusters :
    ([(gridOf false 1).mayPlace 5 ((gridOf false 1).launch 5), (gridOf false 1).findRect ((gridOf false 1).launch 5) 0 (gridOf false 1).hasTeam true == some (0, 0, 1),
      !(gridOf false 0).mayPlace 5 ((gridOf false 0).launch 5), (gridOf true 2).mayPlace 5 ((gridOf true 2).launch 5),
      (gridOf true 2).findAll ((gridOf true 2).launch 5) (gridOf true 2).hasTeam true 2 0 [] == some [(0, 0, 1), (0, 0, 3)],
      ((gridOf true 2).findAll ((gridOf true 2).launch 5) (fun _ => true) true 2 0 []).isNone] : List Bool).all id = true := by
  decide +kernel

/-! ### Graphs -/

/-- A node at 0x40000 with a body at 0x41000, a successor one block on, and what else its kind asks, in an instance of queue 0. -/
def nodeWord (kind x : Nat) : Nat := kind + 2 ^ 8 + 2 ^ 64 + 0x41000 * 2 ^ 192 + x
def nodeOf (a w : Nat) (st : NState) : GNode := { GNode.fresh a with bytes := BitVec.ofNat 512 w, st := st }
def instOf (ns : List GNode) : GInst :=
  { part := 0, die := 0, queue := 0, asid := 1, tag := 0, status := 0, nodes := ns.map (fun n => (n.addr, n)), rights := none, parent := none, depth := 0, fnode := 0,
    code := 0, capHit := false, ran := 0, frec := none }
def graph (st : NState) (kind x : Nat) (s : State) : State := { s with insts := [(7, instOf [nodeOf 0x40000 (nodeWord kind x) st, nodeOf 0x40040 0 (.counting 2)])] }

/-- A legal descriptor: one cluster of one group of eight lanes of a program at 0x10000, in the address space of its instance. -/
def descWord : Nat := 0x10000 + 0xFC000 * 2 ^ 192 + 2 ^ 280 + 2 ^ 308
def inGraph (s : State) (q : GInst → GNode → Bool) : Bool :=
  match s.node 7 0x40000 with | some (x, n) => !s.instFailed 7 && n.frec.isNone && q x n | none => false
def gives (r : DRes × State) (q : Nat → State → Bool) : Bool := match r with | (.ok bs, s) => q (leNat bs) s | _ => false
def descFor (x : GInst) (s : State) (w : Nat) : List Nat := s.descCodes (Launch.ofNat w 0x41000 x.part 0 7 0x40000 s.nextId []) w [] x.asid x.rights
def kernelWith (w : Nat) : State := graph .ready 0 0 (demo.writeNat 0x41000 128 w)
def jobsetWith (w : Nat) : State := graph .ready 1 0 ((moulds w).writeNat 0x41000 64 w)
def comparing (kind v : Nat) (st : NState) : State := graph st kind (2 ^ 288 + 7 * 2 ^ 320 + 0x42000 * 2 ^ 384) (demo.writeNat 0x41000 4 v)
/-- A HOST node for control core 0, whose queue has four entries at 0x60000. -/
def hosting (f : GNode → GNode) : State :=
  ((graph .running 6 0 demo).modNode 7 0x40000 f).setPkg (fun k => { k with host := [(0, { Ring.reset with base := 0x60000, log2n := 2 })] })

theorem witness_GraphNodes :
    ([inGraph (kernelWith descWord) (fun x n => n.kind == 0 && gives ((kernelWith descWord).dispRead x n.body 128) (fun w s => gives (s.dispRead x (bits w 512 64) 0) (fun _ t =>
        descFor x t w == [] && !(t.asidRec 0 1).busy && !t.epochBusy 0 0))),
      inGraph (kernelWith 0) (fun x n => gives ((kernelWith 0).dispRead x n.body 128) (fun w s => (descFor x s w).min? == some 3)),
      inGraph { kernelWith 0 with poison := [0x2080] } (fun x n => ({ kernelWith 0 with poison := [0x2080] } : State).dispRead x n.body 128 |>.1 |> (· == .bad)),
      inGraph (jobsetWith (fillCard 0x30000 64)) (fun x n => n.kind == 1 && decide (n.prog < n.ncard) && decide ((jobsetWith 0).openJobs 0 < 1024) &&
        gives (((jobsetWith (fillCard 0x30000 64)).countRun 7).dispRead x n.body 64) (fun w s => (Card.ofNat w).early (s.nodeCard x 0 (Card.ofNat w) true))),
      inGraph (jobsetWith mouldCard) (fun x n => gives (((jobsetWith mouldCard).countRun 7).dispRead x n.body 64) (fun w s => !(Card.ofNat w).early (s.nodeCard x 0 (Card.ofNat w) true) &&
        gives (s.dispRead x 0x41040 64) (fun _ t => gives (t.dispRead x 0x41080 64) (fun _ _ => true)))),
      inGraph (comparing 2 7 .ready) (fun x n => n.kind == 2 && gives ((comparing 2 7 .ready).dispRead x n.body 8) (fun w _ => n.compare w)),
      inGraph (comparing 3 7 .running) (fun _ n => n.kind == 3 && n.sub.isNone && decide (n.prog < n.cap) && n.compare 7), inGraph (comparing 3 8 .running) (fun _ n => !n.compare 8),
      inGraph ((comparing 3 7 .running).modNode 7 0x40000 (fun n => { n with prog := 1 })) (fun _ n => n.prog == n.cap && n.compare 7),
      inGraph (graph .ready 4 0 demo) (fun _ n => n.kind == 4 && n.st == .ready), inGraph (graph .ready 5 0 demo) (fun x n => n.kind == 5 && gives ((graph .ready 5 0 demo).dispRead x 0x40020 4) (fun w _ => w == 0)),
      inGraph (graph .ready 5 0 (demo.writeNat 0x40020 4 1)) (fun x _ => gives ((graph .ready 5 0 (demo.writeNat 0x40020 4 1)).dispRead x 0x40020 4) (fun w s => w == 1 && gives (s.dispWrite x 0x40020 [0, 0, 0, 0]) (fun _ _ => true))),
      inGraph (hosting id) (fun x n => n.kind == 6 && (hosting id).nodeCodes x n false == [] && n.watch.isNone && (hosting id).hostCore x n == some 0 &&
        (match (hosting id).dispLocs x .engRead 0x40024 4 with | (.ok [y], _) => y.len == 4 | _ => false)),
      inGraph ((hosting id).setPkg (fun k => { k with host := [(0, { Ring.reset with tail := 1 })] })) (fun x n => (((hosting id).setPkg (fun k => { k with host := [(0, { Ring.reset with tail := 1 })] })).hostCore x n).isNone),
      inGraph (hosting (fun n => { n with watch := some (0x40024, true) })) (fun _ n => n.watch == some (0x40024, true) && !n.hit),
      inGraph (graph .running 1 0 demo) (fun _ n => (graph .running 1 0 demo).nodeOver 7 0x40000 { n with prog := 1 } && ((graph .running 1 0 demo).launchOf 7 0x40000).isNone),
      inGraph { graph .running 0 0 demo with launches := [(5, { demo.launch 0 with inst := 7, node := 0x40000, nextCl := 1, grid := 1, teams := 0, epoch := 0 })] } (fun _ _ => true),
      inGraph (graph .running 4 0 demo) (fun x n => n.succs == [0x40040] && (match mget? x.nodes 0x40040 with | some m => m.st == .counting 2 | none => false))] : List Bool).all id = true := by
  decide +kernel

/-! ### The grove -/

def taskOf (st : GroveSt) (cnt : Nat) : Task := { st := st, type := 3, cnt := cnt, succ := [6, 5], arg := 7, part := 0, asid := 1, stamp := 1 }
def groved (st : GroveSt) (held : List Nat) (s : State) : State := { s with grove := [(4, taskOf st 0), (5, taskOf .waiting 1), (6, taskOf .waiting 2)] }.modGroup 0 (fun g => { g with tasks := held, s := zset (zset g.s 10 8) 11 0x30004 })

def casesGrove : List Case :=
  let get := Instr.taskget (mk (.s 40) (.s 10) .zero (.sel .zero) .none)
  let nb := Instr.taskgetNb (mk (.p 1) (.s 10) (.s 40) (.sel .zero) .none)
  let done := Instr.taskdone (mk .zero (.s 11) .zero (.sel .zero) .none)
  let add := Instr.taskadd (mk (.s 9) (.s 4) .zero (.sel .zero) .none)
  let mask := fun (e : Ctx) => e.val (.s 10) 1 e.lead
  let record := fun (w : Nat) => groved .ready [] (demo.writeNat 0x20000 64 w)
  [ { s := groved .ready [] demo, i := get, p := fun _ e => e.actsOnce && mask e == 8 && (e.s.readyTask 0 0 1 8).any (fun x => x.1 == 4) },
    { s := groved .running [] demo, i := get, p := fun _ e => e.actsOnce && (e.s.readyTask 0 0 1 (mask e)).isNone },
    { s := demo.modGroup 0 (fun g => { g with s := zset g.s 10 128 }), i := get, p := fun c _ => c.actsOnce && c.maskOperand == 128 },
    { s := groved .ready [] demo, i := nb, p := fun _ e => e.actsOnce && (e.s.readyTask 0 0 1 (mask e)).any (fun x => x.1 == 4) },
    { s := groved .running [] demo, i := nb, p := fun _ e => e.actsOnce && (e.s.readyTask 0 0 1 (mask e)).isNone },
    { s := groved .running [] demo, i := done, p := fun _ e => e.actsOnce && e.maskOperand == 0x30004 && !e.g.tasks.contains 4 },
    { s := groved .running [4] demo, i := done, p := fun _ e => e.actsOnce && e.g.tasks.contains 4 && e.s.accsOf 0 == [] && e.s.jobsOf 0 e.g.launch == [] && (mget? e.s.grove 4).isSome },
    { s := groved .running [4] { storing with cur := some ⟨0, 0⟩ }, i := done, p := fun _ e => e.actsOnce && e.g.tasks.contains 4 && e.s.accsOf 0 != [] },
    { s := record (3 + 2 * 2 ^ 16 + 0x8005 * 2 ^ 64), i := add, p := fun _ e => e.actsOnce && e.s.awaited .die (e.s.accsOf 0) == [] &&
        recordAt e 0x20000 64 (fun w => !e.s.taskBad 0 w && mfree e.s.grove (e.s.groveOpen 0 0).2 (e.s.groveOpen 0 0).1 == some 0) },
    { s := record 7, i := add, p := fun _ e => e.actsOnce && recordAt e 0x20000 64 (fun w => e.s.taskBad 0 w) },
    { s := s4At 0x20020 demo, i := add, p := fun _ e => e.actsOnce && e.addr (.s 4) e.lead % 64 == 32 } ]

/-- The decrements of a task that is done. -/
def ended : State := after (groved .running [4] demo) (.taskdone (mk .zero (.s 11) .zero (.sel .zero) .none))
theorem witness_GroveTasks : casesGrove.all Case.met = true ∧
    (match ended.decs with
     | [(n, d), (m, e)] => ended.decTurn n d && !ended.decTurn m e && decide (d.entry = 6) && (mget? ended.grove 6).any (fun t => t.cnt == 2) && (mget? ended.grove 5).any (fun t => t.cnt == 1)
     | _ => false) = true := by
  decide +kernel

/-! ### The coil engine -/

/-- A header of an image of one state, one symbol and one token, at 0x30000. -/
def imageHdr : Nat :=
  1 + 2 ^ 16 + 2 ^ 48 + 2 ^ 96 + 0xFFFFFFFF * 2 ^ 128 + 2 ^ 192 + 2 ^ 224 + 2 ^ 256 + 2 ^ 288 + 2 ^ 320 + 8 * 2 ^ 384 + 9 * 2 ^ 416
def coilSlot : CoilSlot :=
  { part := 0, asid := 1, image := 0x30000, hdr := BitVec.ofNat 512 imageHdr, bound := 0, cfg := { state := 0, stack := [], dead := false },
    snaps := [(1, { state := 0, stack := [], dead := false })], sys := true }
/-- Slot 2 is bound; s10 names it and s4 is 0x20000. -/
def coiled (s : State) : State := { s with coil := [(2, coilSlot)] }.modGroup 0 (fun g => { g with s := zset g.s 10 2 })
def uniIs (r n : Nat) (s : State) : State := s.modGroup 0 (fun g => { g with s := zset g.s r (BitVec.ofNat 32 n) })
/-- A save record of a slot in state 0 with the snapshots that LIVE names. -/
def saveWord (live : Nat) : Nat := 0x30000 + 2 ^ 112 + live * 2 ^ 128

def casesCoil : List Case :=
  let on := fun (e : Ctx) => e.actsOnce && (e.s.coilSlot 0 2).isSome && !e.s.coilQueued 2
  let at2 := fun (b : Nat) => uniIs 11 b (coiled demo)
  let hb := fun (i : Ops → Instr) (d b : Sel) => i (mk d (.s 10) b (.sel .zero) .none)
  let bind := Instr.cbind (mk (.s 9) (.s 4) .zero (.sel .zero) .none)
  let save := Instr.csave (mk .zero (.s 4) (.s 10) (.sel .zero) .none)
  let load := Instr.cload (mk (.s 9) (.s 4) .zero (.sel .zero) .none)
  let image := fun (s : State) (w : Nat) => s.writeNat 0x20000 64 w
  let saved := fun (s : State) (w : Nat) => (s.writeNat 0x20000 64 w).writeNat 0x30000 64 imageHdr
  let reads := fun (e : Ctx) (q : Nat → Bool) => e.actsOnce && recordAt e 0x20000 576 q && recordAt e 0x30000 64 (fun h => !imgBad h)
  let accept := fun (e : Ctx) => let r := (Walker.begin e.s 2 coilSlot []).accept coilSlot.cfg; r.2.fault.isNone && !r.2.held
  [ { s := at2 0, i := hb .cfork (.s 9) .zero, p := fun _ e => on e && mfree coilSlot.snaps 64 0 == some 0 },
    { s := { coiled demo with coil := [(2, { coilSlot with snaps := (List.range 64).map (fun k => (k, coilSlot.cfg)) })] }, i := hb .cfork (.s 9) .zero, p := fun _ e => on e },
    { s := at2 1, i := hb .croll .zero (.s 11), p := fun _ e => on e && e.val (.s 11) 1 0 == 1 }, { s := at2 0, i := hb .croll .zero (.s 11), p := fun _ e => on e && (mget? coilSlot.snaps 0).isNone },
    { s := at2 1, i := hb .cdrop .zero (.s 11), p := fun _ e => on e }, { s := at2 0xFFFFFFFF, i := hb .cdrop .zero (.s 11), p := fun _ e => on e && e.s.coilq == [] },
    { s := at2 0, i := hb .cstat (.s 9) .zero, p := fun _ e => on e && accept e },
    { s := uniIs 10 2048 (at2 0), i := hb .cstat (.s 9) .zero, p := fun _ e => e.actsOnce && (e.s.coilSlot 0 2048).isNone },
    { s := demo, i := .cmaskS (mk .zero (.s 4) (.s 10) (.sel (.s 12)) .none), p := fun _ e => e.actsOnce && (e.s.coilSlot 0 3).isNone },
    { s := at2 0, i := hb .cfeed (.s 9) (.s 11), p := fun _ e => on e && decide (e.val (.s 11) 1 0 < coilSlot.h.v) }, { s := at2 1, i := hb .cfeed (.s 9) (.s 11), p := fun _ e => on e && decide (coilSlot.h.v ≤ 1) },
    { s := s4At 0x20020 demo, i := bind, p := fun _ e => e.actsOnce && e.addr (.s 4) e.lead % 64 == 32 },
    { s := image demo imageHdr, i := bind, p := fun _ e => e.actsOnce && recordAt e 0x20000 64 (fun w => !imgBad w) && e.s.freeCoil 0 0 == some 0 },
    { s := image demo 0, i := bind, p := fun _ e => e.actsOnce && recordAt e 0x20000 64 imgBad },
    { s := image { demo with parts := demo.parts.map (fun p => (p.1, { p.2 with regions := 12 })) } imageHdr, i := bind, p := fun _ e => e.actsOnce && recordAt e 0x20000 64 (fun w => !imgBad w) && (e.s.freeCoil 0 0).isNone },
    { s := at2 0, i := save, p := fun _ e => on e && (match e.savePlaces 0x20000 coilSlot.records with | .ok _ => true | .error _ => false) },
    { s := saved demo (saveWord 0), i := load, p := fun _ e => reads e (fun w => !saveBad (w % 2 ^ 512) && (cfgOf (ImgHdr.ofNat imageHdr) (bits w 64 26) (natLe 512 (w / 2 ^ 512))).isSome) && e.s.freeCoil 0 0 == some 0 },
    { s := saved demo 0, i := load, p := fun _ e => reads e (fun w => saveBad (w % 2 ^ 512)) } ]

theorem witness_CoilSlots : casesCoil.all Case.met = true ∧ coilSlot.cfg.stack.length ≤ 256 ∧ (∀ y ∈ coilSlot.snaps, y.2.stack.length ≤ 256) ∧
    coilSlot.cfg.state.toNat < coilSlot.h.nstate := by
  decide +kernel

/-- A CMASK of slot 2 to 0x20000 of memory with its object in scratch, and a CFEED of token 0, waiting; and the mask walked. -/
def masking : State := after (uniIs 12 0x100 (coiled demo)) (.cmaskM (mk .zero (.s 4) (.s 10) (.sel (.s 12)) .none))
def feeding : State := after (uniIs 11 0 (coiled demo)) (.cfeed (mk (.s 9) (.s 10) (.s 11) (.sel .zero) .none))
def masked : State := did (execCoilMaskWalk 0) masking
def oldest (s : State) (q : CoilReq → Bool) : Bool := match s.coilNext 0 with | some (_, r) => q r | none => false

def maskCase (i : Ops → Instr) (s : State) : Case :=
  { s := s, i := i (mk .zero (.s 4) (.s 10) (.sel (.s 12)) .none), p := fun _ e => e.actsOnce && (e.s.coilSlot 0 2).isSome && !e.g.fenceHolds 8 }

def casesMasks : List Case :=
  let cmask := fun (i : Ops → Instr) (c : Nat) (s : State) => maskCase i (uniIs 12 c (coiled s))
  let units := fun (t : Nat) (e : Ctx) => match e.maskUnits t 1 with | .ok _ => true | .error _ => false
  let too := fun (x : Case) (q : Ctx → Bool) => Case.mk x.s x.i (fun c e => x.p c e && q e)
  [ too (cmask .cmaskM 0x100 demo) (units 2), too (cmask .cmaskS 0x100 (uniIs 4 0x400 demo)) (units 0), too (cmask .cmaskV 0x100 (uniIs 4 0x400 demo)) (fun _ => true),
    too (cmask .cmaskM 0x108 demo) (units 2), too (cmask .cmaskM 0x100 (s4At 0x20010 demo)) (fun e => e.addr (.s 4) e.lead % 32 == 16) ]

theorem witness_CoilMasks : casesMasks.all Case.met = true ∧
    ([oldest masking (fun r => r.feed.isNone && (let w := ((Walker.begin masking 2 coilSlot []).mask coilSlot.cfg).2; w.fault.isNone && !w.held)),
      oldest feeding (fun r => r.feed == some (some 0, .s 9) && (let y := (Walker.begin feeding 2 coilSlot []).feed coilSlot.cfg 0; let w := (y.2.accept y.1).2; w.fault.isNone && !w.held)),
      (match masked.coilq with | [(_, r)] => r.units == [0] && r.cfg.isSome && decide (r.bar + 16 ≤ listGet 0 r.dst 0 ∨ listGet 0 r.dst 0 + (unitBytes r.mask 0).length ≤ r.bar) | _ => false)] : List Bool).all id = true := by
  decide +kernel

/-! ### System instructions, the step and its sweeps -/

/-- Partition 0 owns the trace core of die 0, which is as given. -/
def traced (f : TraceCore → TraceCore) (s : State) : State :=
  (s.setPkg (fun k => { k with town := [some 0, none] })).setTrace 0 (f TraceCore.reset)

def sysOps (d a : Sel) (n : Nat) : Ops := mk d a .zero (.sel .zero) (.i32 (BitVec.ofNat 32 n))
def plainTeam : State := ofLaunch (fun l => { l with sys := false, step := false })

def casesSystem : List Case :=
  let r := fun (n : Nat) => Instr.sysr (sysOps (.s 9) .zero n)
  let w := fun (n : Nat) => Instr.sysw (sysOps .zero (.s 10) n)
  let gets := fun (n : Nat) (v : Bool) (c e : Ctx) => e.actsOnce && sysAssigned n && c.sysPriv n == v
  let may := fun (n : Nat) => [({ s := traced id demo, i := r n, p := gets n false } : Case), { s := traced id demo, i := w n, p := gets n false }]
  ([0, 0x100, 0x282, 0x290, 0x300].flatMap may) ++
  [ { s := demo, i := r 5, p := fun c _ => c.actsOnce && !sysAssigned 5 }, { s := demo, i := w 5, p := fun c _ => c.actsOnce && !sysAssigned 5 },
    { s := plainTeam, i := r 0x100, p := gets 0x100 true }, { s := plainTeam, i := w 0x307, p := gets 0x307 true }, { s := demo, i := w 4, p := fun c _ => c.actsOnce && sysAssigned 4 },
    { s := demo, i := w 1 }, { s := demo, i := w 2 }, { s := demo, i := w 3 } ]

theorem witness_SystemRegisters : casesSystem.all Case.met = true := by decide +kernel

def ofSpace (f : AsidRec → AsidRec) (s : State) : State := s.setAsidRec 0 1 (f (s.asidRec 0 1))
/-- A ring region of one block at 0x80020000, a page of the memory side, its entry at 0x60000 and its last round at step `n`. -/
def ringed (n : BitVec 24) : State :=
  ofSpace (fun r => { r with gstep := 5, nreg := 1, rrtab := 0x60000, last := [(0, { s0 := n, frec := none })] }) (demo.writeNat 0x60000 32 (0x80020000 + 64 * 2 ^ 64 + 2 ^ 192))
def swept (pos : Nat) (base : Nat) : State := ofSpace (fun r => { r with rounds := [(0, { s0 := 5, base := base, len := 64, pos := pos, ent := 0x60000 })] }) (ringed 4)
/-- A STEP at the keeper, and one whose value is on its way with two quarters to go. -/
def stepping : State := after demo (.step (mk (.p 1) .zero .zero (.sel .zero) .none))
def flown : State := ofSpace (fun r => { r with flight := some { units := [1], quarters := [0], gk := 0, pid := 0 } }) stepping
def decaying (run : Option (Nat × Byte × W32)) : State := demo.setPart 0 { demo.part 0 with decayw := { (demo.part 0).decayw with run := run } }

def casesSteps : List Case :=
  let evt := fun (n : Nat) => Instr.evt (sysOps .zero (.s 5) n)
  let step := Instr.step (mk (.p 1) .zero .zero (.sel .zero) .none)
  let clock := Instr.clock (mk (.s 8) .zero .zero (.sel .zero) .none)
  [ { s := demo, i := evt 0x7FFF, p := fun _ e => e.actsOnce && decide (e.gk < 12288) && decide (e.asid < 4096) && decide (e.p.entry.getD 0 < 8) },
    { s := plainTeam, i := step, p := fun c _ => c.actsOnce && !c.launch.step },
    { s := demo, i := step, p := fun c e => e.actsOnce && c.launch.step && !e.g.dead && e.s.released (e.s.accsOf 0) (e.s.jobsOf 0 0) && e.s.stepsWaiting 0 == [] &&
        (e.s.part 0).asids.all (fun x => x.2.flight.isNone) },
    { s := demo, i := clock, p := fun _ e => e.actsOnce && e.s.quietFor 0 }, { s := paths 2 (.blocked (.peer 0)), i := clock, p := fun _ e => e.actsOnce && !e.s.quietFor 0 } ]

theorem witness_StepsAndSweeps : casesSteps.all Case.met = true ∧
    ([minBy? (fun (y : Nat × Nat × Nat) => y.2.2) (stepping.stepsWaiting 0) == some (0, 0, 0), (stepping.part 0).asids.all (fun x => x.2.flight.isNone), (stepping.keeperStep 0 1).1,
      ((mget? stepping.groups 0).bind (fun g => mget? g.paths 0)).any (fun p => p.st == .blocked (.step [] [] (.p 1))), (flown.asidRec 0 1).flight.isSome,
      !(((ringed 4).writeNat 0x6001C 3 (2 ^ 23)).keeperStep 0 1).1, demo.stepsWaiting 0 == [],
      (ringed 4).mayRound 0 1 0, !(ringed 5).mayRound 0 1 0, (match ((swept 0 0x80020000).sweepPlace 0 1 0x80020000).1 with | .ok _ => true | _ => false),
      (match ((swept 0 0x20000).sweepPlace 0 1 0x20000).1 with | .error _ => true | _ => false), (mget? ((swept 64 0x80020000).asidRec 0 1).rounds 0).isSome,
      (swept 0 0x80020000).partOfStack 0 == some 0, (swept 0 0x80020000).sweepsAt 0 0 == [(16, 1, 0, 0x20000)], ((swept 0 0x80020000).spend 0 1 0).isSome, (ringed 4).sweepsAt 0 0 == [],
      (demo.poisoned 0x20000 8).isNone, (demo.part 0).decayw.run.isNone, (decaying (some (1, 2, 0x3F000000))).asidRec 0 1 != AsidRec.reset, (lambdaOf 0x3F000000).isSome, (lambdaOf 0x3F800001).isNone]
      : List Bool).all id = true := by
  decide +kernel

/-! ### Trace, filters and what a quarter does of itself -/

def recordOf : TraceRec := { word := 0, path := none }
def ringing' (st : SeqSt) (tail : W16) : State := traced (fun t => { t with tctl := 1, st := st, tbase := 0x60000, tail := tail, queues := [(0, [recordOf])] }) demo

theorem witness_Tracing :
    ([demo.pkg.town.length == 2, demo.mayOwn 0 0, (traced id demo).mayOwn 0 1, listGet none (traced id demo).pkg.town 0 == some 0, filterOk [0x00, 0x01], !filterOk [0x16],
      (demo.namedPath 0 (2 ^ 17)) == some (0, 0), (demo.namedPath 0 (96 + 2 ^ 17)).isNone, (ofPath (fun p => { p with st := .held })).namedPath 0 (2 ^ 18) == some (0, 0),
      mgetD ((ringing' .capture 0).trace 0).queues 0 [] == [recordOf], ((ringing' .capture 0).trace 0).tctl.getLsbD 0, ((ringing' .capture 0).spend 0 2 0).isSome,
      !((ringing' .capture 0).trace 0).on, ((ringing' .capture 0).trace 0).writes, decide (((ringing' .capture 64).trace 0).ring ≤ 64), !((ringing' .idle 0).trace 0).writes,
      ((ringing' .capture 0).rangeOf 0 0x60000).isSome, (demo.samples 0 none).length == 1, (oldestSample (demo.samples 0 none)).isSome, (demo.samples 1 none).isEmpty,
      ((traced (fun t => { t with tctl := 8 }) demo).trace 0).tctl.getLsbD 3] : List Bool).all id = true ∧
    ((traced (fun t => { t with st := .armed, tseq := 0x100 }) demo).trace 0).aset ≠ 0 ∧ multiples 256 0 1 = [0] := by
  decide +kernel

theorem witness_FilterPrograms : filterScan [0x00, 0x01, 0x05] 3 0 = some ([0, 2], []) ∧ filterOk [0x00, 0x01, 0x05] = true ∧
    (({ pc := 2, stack := [1, 2], cnt := [] } : Machine.Filter).next [0x00, 0x01, 0x05] 0).isSome = true ∧ (({ pc := 0, stack := [], cnt := [] } : Machine.Filter).next [0x05] 0).isNone = true := by
  decide +kernel

/-- A counter rises by at least one a step, so every bound in cycles is met after that many steps. -/
theorem cycle_ge (u t : Nat) : t ≤ Config.unitCycle u t := by
  induction t with
  | zero => simp
  | succ t ih => simp only [Config.unitCycle]; omega

/-- Path 1 is spilled and ready again, in a table that is full or not. -/
def comingBack (full : Bool) : State :=
  (paths (if full then 9 else 2) (.parked 0)).modPath 0 (if full then 8 else 1) (fun p => { p with entry := none, st := .ready, mask := 0 })
def chained : State :=
  { ofPath (fun p => { p with lastCh := true, pc := 0x10008, st := .waiting (.load 3) }) with cur := none }.writeNat 0x10008 8 0x0DD7F80802049D48 |> fun s =>
  s.setQuarter 0 { s.quarter 0 with chain := some { gk := 0, pid := 0, head := 0x10000, count := 1, written := [], waitLoad := [], ctr := 0, since := 0 } }
def growing (n : Nat) : State := (ofGroup (fun g => { g with blocks := n })).setQuarter 0 { demo.quarter 0 with growq := [{ gk := 0, pid := 0, n := 3 }] }
def starving : State :=
  let s := ofGroup (fun g => { g with watchdog := 2 ^ 20 })
  { s with tick := 65536, groups := s.groups ++ [(1, { (s.groups.headD (0, Launch.empty.group 0 0 0)).2 with watchdog := 0 })] }
def pathOf (s : State) (pid : Nat) (q : Group → Machine.Path → Bool) : Bool := match mget? s.groups 0 with | some g => (match mget? g.paths pid with | some p => q g p | none => false) | none => false

/-- A group with a path ready and without an issue since reset starves after 65,536 steps. -/
theorem starves_of (s : State) (gk : Nat) (hn : 65536 ≤ s.tick)
    (h : s.groups.any (fun x => quarterOf x.1 == quarterOf gk && x.1 != gk && x.2.lastIssue == 0 &&
      x.2.paths.any (fun y => x.2.runs y.1 && y.2.st == .ready && y.2.since == 0)) = true) : s.starves gk = true := by
  have hc : 65536 ≤ s.coreCycle (coreOf gk) := le_trans hn (cycle_ge _ _)
  simp only [State.starves, List.any_eq_true, Bool.and_eq_true, decide_eq_true_eq, beq_iff_eq] at h ⊢
  obtain ⟨x, hx, ⟨⟨h1, h2⟩, h3⟩, y, hy, h4, h5⟩ := h
  exact ⟨x, hx, ⟨⟨h1, h2⟩, by omega⟩, y, hy, h4, by omega⟩

theorem witness_QuarterEvents :
    ([pathOf (comingBack false) 1 (fun g p => g.oldestSpilled == some (1, p) && g.fillEntry == some (1, none)), pathOf (comingBack true) 8 (fun g p => g.oldestSpilled == some (8, p) && g.fillEntry == some (1, some 1)),
      pathOf demo 0 (fun g _ => g.oldestSpilled.isNone), pathOf (growing 29) 0 (fun g _ => g.blocks + 3 == 32 && decide (g.width * 3 ≤ (growing 29).freeBlocks 0)),
      pathOf chained 0 (fun _ p => p.st != .ready && p.noCut.isNone && (match (chained.quarter 0).chain with | some k => k.gk == 0 && chained.inside k 0 0 | none => false)),
      pathOf demo 0 (fun g p => g.watchdog == 0 && p.st == .ready),
      pathOf starving 0 (fun g _ => g.watchdog == 2 ^ 20 && g.handler.isNone && !g.dead && !g.stopped && g.park.isNone && g.struck == some 0),
      pathOf inHandler 0 (fun g p => g.handler == some { pid := 0, since := 0, reported := false } && p.st == .ready)] : List Bool).all id = true ∧ starving.starves 0 = true :=
  ⟨by decide +kernel, starves_of _ _ (by decide) (by decide +kernel)⟩

/-! ### Faults, generations, peers, migration and pre-emption -/

def recOf (kind : Nat) (posted : Bool) : FRec :=
  { id := 3, part := 0, die := 0, kind := kind, cause := 0, asid := 1, gk := some 0, mask := 1, pc := 0x10000, va := 0x20000, posted := posted }
/-- A record, with `n` entries waiting in the ring of 64 at 0x60000. -/
def faulting (kind : Nat) (posted : Bool) (n : W16) : State :=
  { demo.setPdie 0 0 { demo.pdie 0 0 with fq := { Ring.reset with base := 0x60000, tail := n } } with frecs := [(3, recOf kind posted)] }
def parkedAt (recs : List Nat) : State :=
  (faulting 0 true 1).modGroup 0 (fun g => { g with park := some { pid := 0, mask := 1, recs := recs, worst := 0, lane := 0, va := 0, pc := 0 } })

theorem witness_FaultQueues :
    ([faultRing 0 == 64, (faulting 0 false 63).rangeOf 0 0x60000 |>.isSome, (recOf 12 false).kind == 12,
      ((parkedAt [3]).frecs.find? (fun f => f.2.posted && f.2.part == 0 && f.2.die == 0 && f.1 % 2 ^ 16 == 3)).isSome,
      (match mget? (parkedAt [3]).groups 0 with | some g => g.park.any (fun x => x.recs == [3] && x.worst == 0) && !g.stopped | none => false),
      (match mget? (parkedAt [3, 4]).groups 0 with | some g => g.park.any (fun x => (x.recs.filter (fun r => r != 3)) != []) | none => false),
      (parkedAt [3]).groups.length == 1, (parkedAt [3]).coilq.isEmpty && (parkedAt [3]).jobs.isEmpty && (parkedAt [3]).insts.isEmpty] : List Bool).all id = true := by
  decide +kernel

def shootOf (depth : Nat) (cs : List Nat) (here : Bool) : Shoot := { depth := depth, since := 0, children := cs, acks := [], silent := [], here := here }
def raising (next : Option W16) (x : Option Shoot) : State := ofSpace (fun r => { r with busy := true, next := next, shoot := x, nshare := 2 }) demo
/-- Entry 0 of the aperture table at 0x60000 names address space 1 and a page; the fence table, at 0x70000, has package 9 in its bitmap. -/
def opened (va : Nat) : State :=
  { (((demo.writeNat 0x60000 8 (1 + va + 2 ^ 62 + 2 ^ 63)).writeNat 0x78001 1 2).setPart 0 { demo.part 0 with aper := 0x60000, naper := 1, fence := 0x70000 }) with cur := none }
def reqOf (pkg ofs : Nat) (w : PeerDo) : PeerReq := { part := 0, pkg := pkg, frame := 0, ofs := ofs, len := 8, what := w }
def comesTo (s : State) (r : PeerReq) (q : Place → State → Bool) : Bool :=
  match s.aperture r with | some (a, page) => let x := s.place (collectiveUnit (s.firstDie 0)) 0 a false (peerKind r.what) (page + r.ofs % 65536); q x.1 x.2 | none => false
/-- A load of one lane that went to package 1, with its answer still to come. -/
def asking (fail : Option Trap) : State :=
  let s := after (at5 0xC0020000 0 demo) (.ld .sys .df .b32 { memOps (.v 4) .zero with hdr := { plain with pg := 1 } })
  { s with peers := (s.peers.take 1).map (fun x => (x.1, { x.2 with fail := fail })) }
def asked (s : State) (q : Nat → PeerOut → Bool) : Bool := match s.peers with | [(id, o)] => q id o | _ => false

theorem witness_GenerationsAndPeers :
    ([(raising (some 1) none).asidRec 0 1 |>.busy, !(demo.asidRec 0 1).busy, !(demo.asidRec 0 1).shared, ((ofSpace (fun r => { r with gen := 0xFFFF, shared := true }) demo).asidRec 0 1).gen == 0xFFFF,
      ((raising (some 0) (some (shootOf 0 [1, 2] false))).asidRec 0 1).shoot.any (fun x => x.children != [] && x.acks == []), (demo.asidRec 0 1).next.isNone,
      ((raising (some 5) (some (shootOf 5 [] false))).asidRec 0 1).shoot.any (fun x => x.children == [] && x.depth != 0),
      ((raising none (some (shootOf 1 [9] true))).asidRec 0 1).shoot.any (fun x => x.here && x.children.contains 9 && (mget? x.acks 9).isNone && !x.children.contains 8),
      (childrenOf 0 9) == [1, 2, 3, 4, 5, 6, 7, 8], (childrenOf 1 9) == [9],
      (opened 0x20000).isFenced 0 1 9, (demo.part 1).st == .free, ((opened 0x20000).aperture { reqOf 1 0 .load with frame := 1 }).isNone,
      comesTo (opened 0x20000) (reqOf 9 0 .load) (fun p s => (match p with | .at loc .cacheable _ => s.mayRead 0 loc 8 && (s.poisoned loc 8).isNone | _ => false)),
      comesTo (opened 0x20000) (reqOf 9 65535 .load) (fun p _ => (match p with | .at _ _ _ => true | _ => false)), comesTo (opened 0x40000000000) (reqOf 9 0 .load) (fun p _ => (match p with | .fault _ => true | _ => false)),
      comesTo (opened 0x100020000) (reqOf 9 0 (.store [1])) (fun p _ => p == .prot), comesTo (opened 0x80020000) (reqOf 9 0 .ldrg) (fun p _ => (match p with | .at _ .ms _ => true | _ => false)),
      comesTo (opened 0x20000) (reqOf 9 0 (.store [1, 2])) (fun p s => (match p with | .at loc .cacheable _ => s.mayWrite 0 loc 2 | _ => false)),
      asked (asking none) (fun id o => o.job.isNone && o.fail.isNone && (match mget? (asking none).groups o.gk with | some g => !g.dead && (match mget? g.paths o.pid with | some p => p.st == .blocked (.peer o.acc.iid) | none => false) | none => false) &&
        (mget? (asking none).loads o.acc.iid).isSome && !({ asking none with peers := merase (asking none).peers id } : State).owesPeer o.gk o.pid),
      asked (asking (some ⟨.remoteFault, 0⟩)) (fun _ o => (asking (some ⟨.remoteFault, 0⟩)).peerPath o && !(asking (some ⟨.remoteFault, 0⟩)).peerLater o && !(asking (some ⟨.remoteFault, 0⟩)).trapHeld o.gk o.pid &&
        !(asking (some ⟨.remoteFault, 0⟩)).isStopped o.gk)] : List Bool).all id = true := by
  decide +kernel

/-- GiB 6 is mapped by 2 MiB pages, the first at frame 0x200000 on stack 0, and a GiB of stack 1 belongs to the partition too. -/
def paged (dst : Nat) (s : State) : State :=
  (((mapGiB 6 (1 + (progRoot + 0x3000)) s).setPkg (fun k => { k with mir := mset k.mir 1 (BitVec.ofNat 128 (2 ^ 56 + 2 ^ 48 - 1 + 64 * 2 ^ 64 + 64 * 2 ^ 80)) })).writeNat (progRoot + 0x3000) 8 (0x200000 + 0x3F)).setPdie 0 0
    { s.pdie 0 0 with mig := { Migrate.reset with va := 0x180000000, dst := BitVec.ofNat 64 dst } }
def moveOf : Redirect := { src := 0x200000, dst := 2 ^ 36, size := 0x200000, asid := 1, vpage := 0x18000 }
def migrating (rs : Map Redirect) (dst : Nat) : State :=
  { (paged dst demo).setPdie 0 0 { (paged dst demo).pdie 0 0 with mig := { ((paged dst demo).pdie 0 0).mig with copying := some moveOf, busy := rs.isEmpty } } with redirects := rs }

theorem witness_Migration :
    ([(match (paged (2 ^ 36) demo).moveTarget 0 1 0x180000000 (2 ^ 36) with | .ok r => r == moveOf && ((paged (2 ^ 36) demo).throttled 0 4 1 r.vpage).isNone | .error _ => false),
      (match (paged 0 demo).moveTarget 0 1 0x180000000 0 with | .ok _ => false | .error k => k == 3), ((migrating [] (2 ^ 36)).pdie 0 0).mig.copying == some moveOf,
      ((migrating [(0, moveOf)] 0x200000).redirects.find? (fun r => r.1 / 16 == 0 && r.2.src == 0x200000 && ((migrating [(0, moveOf)] 0x200000).rangeOf 0 r.2.src).isSome)).isSome,
      (let s := (paged (2 ^ 36) demo).setSaggar 0 { Saggar.idle with thrash := [{ asid := 1, vpage := 0x18000, count := 4, start := 0, pinned := some 0 }] }
       (s.throttled 0 4 1 0x18000).isSome && ((s.saggar 0).thrash.find? (fun t => t.asid == 1 && t.vpage == 0x18000)).any (fun x => x.pinned == some 0))] : List Bool).all id = true := by
  decide +kernel

/-- A request to save the team of core 0, which waits at a GROW, and has stopped or not. -/
def preemptingTo (save : Nat) (stopped : Bool) : State :=
  let s := ofGroup (fun g => { g with blocks := 1, stopped := stopped, paths := g.paths.map (fun p => (p.1, { p.2 with st := .blocked (.grow 1) })) })
  let s := s.setCore 0 { s.core 0 with team := (s.core 0).team.map (fun t => { t with preempt := some 4 }) }
  let s := s.modLaunch 0 (fun l => { l with save := save, banks := 0, desc := 0x400 })
  { s.setPdie 0 0 { s.pdie 0 0 with pre := { Preempt.reset with run := some 4, runAll := true } } with cur := none }
def preempting (stopped : Bool) : State := preemptingTo 0x1000000 stopped
/-- Its record lies on pages that do not exist. -/
def unsaved : State := preemptingTo 0x40000000000 true
/-- Its team saved, and asked for by a RESUMEA. -/
def savedTeam : Saved :=
  { launch := 0, clid := 0, idx := 0, core := 0, groups := [(0, { Launch.empty.group 0 0 0 with blocks := 1, stopped := true })], quarters := [], watches := [], cards := [],
    resume := false, move := false }
def savedAt (resume : Bool) : State :=
  let s := (preempting true).setPdie 0 0 PDie.reset
  { (s.modLaunch 0 (fun l => { l with nextCl := 1 })).setCore 0 Core.idle with groups := [], saved := [(9, { savedTeam with resume := resume })] }

theorem witness_Preemption :
    ([(demo.pdie 0 0).pre.run.isNone, (match mget? (preempting false).groups 0 with | some g => (preempting false).mayStop 0 g && (preempting false).toStop 0 g == some 0 | none => false),
      (match mget? demo.groups 0 with | some g => !demo.mayStop 0 g && (demo.toStop 0 g).isNone | none => false),
      (preempting true).toSave 0 0 4 == [0], (preempting true).settled 0, !(preempting false).settled 0, ((preempting true).core 0).team.isSome,
      (match unsaved.partLocs 0 (unsaved.launch 0) .store (unsaved.saveBase 0) ((unsaved.savedParts 0 (unsaved.launch 0)).map (fun y => (y.1, y.2.length))) with
       | (.error _, _) => true | _ => false),
      ((savedAt false).restoreSpots 9 0).isNone,
      (savedAt true).restoreSpots 9 0 == some [(9, 0)], (savedAt true).recordReady 9 0, savedTeam.groups.all (fun y => y.2.park.isNone && y.2.handler.isNone),
      (match mget? inHandler.groups 0 with | some g => g.handler.isSome && frameLaidOut 0 && (rejOf g.width 0 0 8).isSome && !frameLaidOut (2 ^ 60) | none => false),
      (demo.launches.find? (fun x => x.2.part == 0 && x.2.desc == 0)).isSome, (demo.launch 0).chans != []] : List Bool).all id = true := by
  decide +kernel

/-! ### The package -/

def commanded (f : Pcmd → Pcmd) (s : State) : State := s.setPkg (fun k => { k with pcmd := f k.pcmd })
def inRegions (x y : PartSt × Nat) : State := (demo.setPart 0 { demo.part 0 with st := x.1, regions := x.2 }).setPart 1 { Part.reset with st := y.1, regions := y.2 }
def quiesced (op : Nat) : State :=
  commanded (fun c => { c with busy := true, op := op, first := 0, t := 1, regions := 2 })
    { State.reset with parts := [(0, { Part.reset with st := .quiescing, regions := 3 }), (1, { Part.reset with st := if op = 2 then .quiescing else .free, regions := if op = 2 then 12 else 0 })] }

theorem witness_PartitionCommands :
    ([!State.reset.pkg.pcmd.busy, (demo.part 0).st == .running, (State.reset.part 0).st == .free, legalShape 3, !legalShape 6, (State.reset.partOfRegion 0).isNone, (demo.partOfRegion 0).isSome,
      legalShape (((inRegions (.running, 3) (.running, 12)).part 0).regions ||| ((inRegions (.running, 3) (.running, 12)).part 1).regions),
      !legalShape (((inRegions (.running, 1) (.running, 8)).part 0).regions ||| ((inRegions (.running, 1) (.running, 8)).part 1).regions),
      ((inRegions (.running, 3) (.free, 0)).part 1).st == .free, (2 &&& 3 == 2) && legalShape 2 && legalShape (3 - 2), demo.pkg.mir.any (fun x => mirV x.2 && mirPart x.2 == 0),
      (demo.setPkg (fun k => { k with mir := mset k.mir 16 (BitVec.ofNat 128 (2 ^ 57)) })).rangeLegal 0 (BitVec.ofNat 128 (2 ^ 57)) == false, State.reset.rangeLegal 0 0,
      (quiesced 4).quiet, (quiesced 2).quiet, (quiesced 3).quiet, !(commanded (fun c => { c with busy := true, op := 3 }) (queued false 1 demo)).quiet,
      (({ State.reset with parts := [(0, { Part.reset with st := .starting })] } : State).part 0).st == .starting] : List Bool).all id = true := by
  decide +kernel

def starting (phase : Nat) (warm : Bool) (cfail wfail : Nat) : State :=
  demo.setPkg (fun k => { k with phase := phase, starting := true, warm := warm, cfail := cfail, wfail := wfail })

theorem witness_Starting :
    ([!demo.pkg.safe && demo.pkg.powered && !demo.pkg.starting, (demo.setPkg (fun k => { k with safe := true })).pkg.safe, !(demo.setPkg (fun k => { k with powered := false })).pkg.powered,
      (starting 5 false 2 0).pkg.starting, (starting 6 true 0 1).pkg.warm, demo.pkg.meas.length == 4, demo.pkg.meas.all (fun m => m.length == 32),
      (demo.rangeOf 0 0x60000).isSome, demo.pkg.portAttn.isNone, (demo.setPkg (fun k => { k with portAttn := some [0, 0, 0, 0] })).pkg.portAttn.isSome, (demo.part 0).attn.run.isNone, (demo.part 0).attn.nonce.length == 4] : List Bool).all id = true := by
  decide +kernel

def repairing (op target left : Nat) : State :=
  State.reset.setPkg (fun k => { k with rcmd := { busy := true, status := 0, target := target, op := op, left := left } })

theorem witness_RepairsAndErrors :
    ([!demo.pkg.rcmd.busy, demo.targetOk 1 5, !demo.targetOk 1 96, demo.spareLeft 1 5, !(demo.setPkg (fun k => { k with coreSpares := [0, 0, 0, 0] })).spareLeft 1 5,
      demo.targetOk 2 64, demo.targetOk 3 64, demo.targetOk 5 3, demo.targetOk 6 7, demo.targetOk 7 15, (repairing 2 64 3).pkg.rcmd.busy, decide (0 < (repairing 2 64 3).pkg.rcmd.left),
      ((repairing 2 64 3).repairUnit 2 64).1.isNone, (repairing 1 5 0).retireReady 5, ((repairing 1 5 0).core (retireCoreOf 5)).team.isNone, (repairing 1 5 0).pkg.coreSpares.length == 4,
      ((repairing 7 15 0).partOfRegion 3).isNone, decide (0 < listGet 0 (repairing 5 3 0).pkg.laneSpares 1),
      (demo.writeNat 0x10000 8 0x0207F80802031C80).reads 0 0, decide (8 ≤ mgetD [(2, 7)] 2 0 + 1), (demo.patrolPart 0 0).isNone || (demo.spend 0 0 300).isSome] : List Bool).all id = true := by
  decide +kernel

theorem witness_AvailabilityAndRegisters :
    ([demo.pkg.powered, !demo.pkg.failed.contains 3, (demo.setPkg (fun k => { k with failed := [3] })).pkg.failed.contains 3, (demo.part 0).st != .free, (demo.part 1).st == .free,
      !(demo.asidRec 0 1).busy, (demo.asidRec 0 1).en, !(demo.asidRec 0 2).en, demo.partOnDie 0 1, (demo.setPkg (fun k => { k with islands := [(3, { freq := 1, volt := 1, on := true })] })).island 3 |>.on,
      (mget? (demo.setPkg (fun k => { k with shadows := [(1, { base := 0, len := 1, buddy := 2, v := true, queue := [(0, [1])] })] })).pkg.shadows 1).isSome,
      !demo.pkg.rcmd.busy, !demo.pkg.pcmd.busy, demo.pkg.serves, demo.pcmdReady, !(demo.setPkg (fun k => { k with safe := true })).pkg.serves] : List Bool).all id = true := by
  decide +kernel

/-- A control core of partition 0 that is about to read and to write its control space, with no access under way and with a store. -/
theorem witness_control :
    (let s := fun (v : Option W64) (st : Bool) => ({ (demo.ccoreTake 3 (.access (.store [1]) .dev 1 0 1)).ccoresOn with
        ccores := mset [] 3 ({ ops := [.control 8 v], vals := [] } : Ccore) } : State)
      |> fun s => if st then s else { s with accesses := [] }
     [demo.partOfRegion (3 / 4) == some 0, (s none true).accesses.any (fun a => a.2.gk == ccoreKey 3 && !a.2.crossing && a.2.op.isStore),
      ((s none true).controlOn 3 0).ccores != (s none true).ccores, (s (some 5) true).controlOn 3 0 == s (some 5) true,
      ((s (some 5) false).controlOn 3 0).ccores != (s (some 5) false).ccores] : List Bool).all id = true := by
  decide +kernel

/-- Bounds that the package's own counters end: after that many steps they have ended, and before the first none has. -/
theorem witness_bounds (t : Nat) (h : 2 ^ 30 ≤ t) :
    ({ quiesced 3 with tick := t } : State).quiesceDue = true ∧ (quiesced 3).quiesceDue = false ∧
    ({ starting 1 false 0 0 with tick := t } : State).phaseLate = true ∧ (starting 1 false 0 0).phaseLate = false ∧
    10000000 ≤ ({ demo with tick := t } : State).mboelCycle - demo.pkg.beatAt ∧ demo.mboelCycle - demo.pkg.beatAt < 10000000 := by
  have hc : t ≤ Config.unitCycle 1020 t := cycle_ge _ _
  refine ⟨?_, by decide +kernel, ?_, by decide +kernel, ?_, by decide +kernel⟩
  · simp only [State.quiesceDue, decide_eq_true_eq]
    exact (show 2 ^ 30 ≤ Config.unitCycle 1020 t - 0 by omega)
  · simp only [State.phaseLate, decide_eq_true_eq]
    exact (show 1000000 < Config.unitCycle 1020 t - 0 by omega)
  · exact (show 10000000 ≤ Config.unitCycle 1020 t - 0 by omega)

/-- A save record has its header to be paid for. -/
theorem saveBeats_pos (s : State) (c : Nat) (x : Team) : 64 ≤ s.saveBeats c x := by
  simp [State.saveBeats, State.savedParts, State.internal]

/-- Budgets: an account of the period, of the one before and of an older one. -/
theorem witness_budgets (t : Nat) (h : 2 ^ 20 ≤ t) :
    (let b : Spent := { period := 0, n := 16384, last := 3 }
     let s := migrating [] (2 ^ 36)
     let u : State := s.setPdie 0 0 { s.pdie 0 0 with mig := { (s.pdie 0 0).mig with left := 5 } }
     let saves := (preempting true).setBudget 0 4 { (preempting true).budget 0 4 with spent := [(0, { b with n := 65536 })] }
     u.unspent 0 3 0 = 16384 ∧ (u.setBudget 0 3 { u.budget 0 3 with spent := [(0, b)] }).unspent 0 3 0 = 0 ∧
       (demo.setBudget 0 3 { demo.budget 0 3 with spent := [(0, b)] }).spentBy 0 3 0 = b ∧
       saves.unspent 0 4 0 = 0 ∧ (saves.core 0).team.isSome = true) ∧
    (∃ k, ({ demo with tick := t } : State).budgetCycle 3 0 / 65536 = k + 1 ∧ 1 ≤ k) := by
  have hc : t ≤ Config.unitCycle 1010 t := cycle_ge _ _
  refine ⟨by decide +kernel, Config.unitCycle 1010 t / 65536 - 1, ?_, ?_⟩
  · exact (show Config.unitCycle 1010 t / 65536 = _ by omega)
  · omega

/-! ### Words and the step -/

/-- A NOP placed where the next step fetches it. -/
def placed : State := State.reset.withFetchWord 64 0x0007FBFDFEFF1C00

theorem witness_StepRunsDecoded :
    placed.agenda = [.issue 0] ∧
    (match ({ placed with agenda := [], lastQ := 0 } : State).pick 0 with
     | some k => k.gk == 0 && k.pid == 0
     | none => false) = true ∧
    (match mget? placed.groups 0 with
     | some g => (match mget? g.paths 0 with
       | some p =>
         !g.wdDue && (match ((({ placed with agenda := [], lastQ := 0 } : State).loseLatches 0 0 0).place 0 0 1 false .fetch p.pc.toNat) with
           | (.at loc .cacheable _, s1) => (s1.toRows loc 4).poisoned loc 1 == none && (s1.toRows loc 4).word loc 8 == 0x0007FBFDFEFF1C00 && decide (p.pc.toNat % 32 + 8 ≤ 32)
           | _ => false)
       | none => false)
     | none => false) = true := by
  decide +kernel

theorem witness_RoundTrip : (Instr.nop (mk .zero .zero .zero (.sel .zero) .none)).WF = true ∧
    (Instr.nop (mk .zero .zero .zero (.sel .zero) .none)).encode = some (64, 0x0007FBFDFEFF1C00, 0) := by
  decide +kernel

theorem witness_StepKeepsMemory : State.reset.memOk ∧ ∃ t, step placed = .next t := by
  exact ⟨by unfold State.memOk; decide +kernel, _, rfl⟩
end Sys2Proof.Tests.Slice0
end

/-! PROOF. System registers (O43). -/

namespace Sys2Proof.Machine

/-! ### SYSW writes what sA holds (R246), not the last source -/

/-- SYSW 3, s5: the stream counter CTR is to take the word that s5 holds (R246, R247). IMM32 is the register's number. -/
def syswCtrOps : Ops :=
  { hdr := { pg := 7, pn := false, u := false, ch := false, nwb := false, le := false, lq := 0 }
    d := .zero, a := .s 5, b := .zero, c := .sel .zero, imm := .i32 3 }

/-- A running path about to execute it, with 7 in s5. -/
def syswCtrState : State :=
  { (State.reset.withProgram []).modGroup 0 (fun g => { g with s := [(5, 7)] }) with cur := some ⟨0, 0⟩ }

/-- The instruction issues there and acts, and its last source is the immediate 3. -/
theorem syswCtr_issues : ∃ c e, Issues (.sysw syswCtrOps) syswCtrState c e ∧ e.gk = 0 ∧ e.actsOnce = true ∧ e.opd syswCtrOps.a true false 1 e.lead = 3 := by
  have key : ((syswCtrState.ctx (.sysw syswCtrOps)).any fun c0 =>
      let c := c0.enter
      let e := c.capture
      decide (c.pendingKeys = []) && decide (c.latchWait = none) && !c.chainBad && !c.loopEndBad && decide (c.outside = none) &&
        decide (e.gk = 0) && e.actsOnce && decide (e.opd syswCtrOps.a true false 1 e.lead = 3)) = true := by decide +kernel
  obtain ⟨c0, hc, hall⟩ := (Option.any_eq_true _ _).1 key
  simp only [Bool.and_eq_true, decide_eq_true_eq, Bool.not_eq_true'] at hall
  obtain ⟨⟨⟨⟨⟨⟨⟨hkeys, hlatch⟩, hchain⟩, hloop⟩, houtside⟩, hgk⟩, hacts⟩, hsource⟩ := hall
  exact ⟨_, _, ⟨by decide +kernel, ⟨c0, hc, rfl⟩, hkeys, hlatch, hchain, hloop, .inr houtside, rfl⟩, hgk, hacts, hsource⟩

/-- CTR of a group after an outcome. -/
def ctrAfter (gk : Nat) : Host.Outcome State Fault Refusal → Option W32
  | .next t => (mget? t.groups gk).map (·.ctr)
  | _ => none

/-- The model writes the word that s5 holds. -/
theorem syswCtr_writes_register : ctrAfter 0 (exec (.sysw syswCtrOps) syswCtrState) = some 7 := by decide +kernel

/-- A complete instruction leaves in CTR what its writes put there. -/
theorem ctrAfter_of_completes {i : Instr} {s : State} {e : Ctx} {w : Writes} (h : Completes i s e w) :
    ctrAfter e.gk (exec i s) = some (w.group e.g).ctr := by
  obtain ⟨t, hexec, -, g, p, hg, -, hgroup, -⟩ := h
  rw [hexec, ctrAfter, hg, Option.map_some, hgroup]
  rfl

/-- Refutes O43: the statement takes the value written as the last source, which in a 96-bit form is IMM32, here the register's own number; SYSW writes the word
of sA (R246). With 7 in s5, SYSW 3, s5 leaves CTR = 7, where the statement asks for 3. -/
theorem not_systemRegisters : ¬ Obligations.SystemRegisters := by
  unfold Obligations.SystemRegisters
  intro h
  obtain ⟨c, e, hissues, hgk, hacts, hsource⟩ := syswCtr_issues
  obtain ⟨-, -, -, -, hsysw⟩ := h syswCtrState c e syswCtrOps
  obtain ⟨-, -, -, -, -, -, hctr, -⟩ := hsysw hissues
  have hafter := ctrAfter_of_completes (hctr rfl)
  simp only [hgk, syswCtr_writes_register, if_pos hacts, hsource] at hafter
  exact absurd hafter (by decide)

end Sys2Proof.Machine

/-! PROOF. Firmware, shadows, heartbeats, power and the control spaces (O55). -/

namespace Sys2Proof

/-! ### Bits and little-endian bytes -/

theorem getLsbD_eq_bit {w : Nat} (v : BitVec w) (i : Nat) : v.getLsbD i = bit v.toNat i := by
  rw [← BitVec.testBit_toNat, Nat.testBit_eq_decide_div_mod_eq]; rfl

@[simp] theorem length_natLe (k n : Nat) : (natLe k n).length = k := by
  induction k generalizing n with
  | zero => rfl
  | succ k ih => simp [natLe, ih]

theorem leNat_natLe (k n : Nat) : leNat (natLe k n) = n % 256 ^ k := by
  induction k generalizing n with
  | zero => simp [natLe, leNat, Nat.mod_one]
  | succ k ih => rw [natLe, leNat, ih, Nat.pow_succ', Nat.mod_mul]; rfl

end Sys2Proof

namespace Sys2Proof.Machine

/-! ### Reading a word that was written -/

theorem word_eq_leNat {s : State} {loc : Nat} {bs : List Byte} (h : ∀ i < bs.length, s.byte (loc + i) = bs.getD i 0) : s.word loc bs.length = leNat bs := by
  unfold State.word State.bytes
  congr 1
  refine List.ext_getElem (by simp) fun i hi hb => ?_
  rw [List.getElem_map, List.getElem_range, h i hb, List.getD_eq_getElem _ _ hb]

theorem byte_homeWrite (s : State) (c d : Bool) (loc : Nat) (bs : List Byte) (x : Nat) :
    (s.homeWrite c d loc bs).byte x = if loc ≤ x ∧ x < loc + bs.length then bs.getD (x - loc) 0 else s.byte x := by
  unfold State.byte
  rw [homeWrite_mem]
  exact byte_write s loc bs x

theorem word_homeWrite (s : State) (c d : Bool) (loc : Nat) (bs : List Byte) : (s.homeWrite c d loc bs).word loc bs.length = leNat bs :=
  word_eq_leNat fun i hi => by rw [byte_homeWrite, if_pos (by omega), Nat.add_sub_cancel_left]

theorem physWrite_of_range {s : State} {p pa : Nat} (h : (s.rangeOf p pa).isSome = true) (bs : List Byte) :
    s.physWrite p pa bs = s.homeWrite true false (s.phys pa) bs := if_pos h

/-! ### What a write of memory leaves alone -/

/-- Groups, partitions, redirects, messages sent and the packages declared failed are as they were. -/
structure WriteKeeps (s t : State) : Prop where
  groups : t.groups = s.groups
  parts : t.parts = s.parts
  redirects : t.redirects = s.redirects
  outbox : t.outbox = s.outbox
  failed : t.pkg.failed = s.pkg.failed

namespace WriteKeeps

theorem refl (s : State) : WriteKeeps s s := ⟨rfl, rfl, rfl, rfl, rfl⟩

theorem trans {s t u : State} (h : WriteKeeps s t) (k : WriteKeeps t u) : WriteKeeps s u :=
  ⟨k.groups.trans h.groups, k.parts.trans h.parts, k.redirects.trans h.redirects, k.outbox.trans h.outbox, k.failed.trans h.failed⟩

theorem foldl {α : Type} {f : State → α → State} (h : ∀ s x, WriteKeeps s (f s x)) (l : List α) (s : State) : WriteKeeps s (l.foldl f s) := by
  induction l generalizing s with
  | nil => exact refl s
  | cons x l ih => exact (h s x).trans (ih (f s x))

theorem write (s : State) (a : Nat) (bs : List Byte) : WriteKeeps s (s.write a bs) := by
  unfold State.write
  split_ifs <;> exact ⟨rfl, rfl, rfl, rfl, rfl⟩

theorem toRows (s : State) (loc n : Nat) : WriteKeeps s (s.toRows loc n) := by
  unfold State.toRows
  split_ifs
  · exact foldl (fun s x => by split_ifs <;> exact ⟨rfl, rfl, rfl, rfl, rfl⟩) _ s
  · exact refl s

theorem putLines (s : State) (c d : Bool) (loc : Nat) (bs : List Byte) : WriteKeeps s (s.putLines c d loc bs) := by
  unfold State.putLines
  refine trans ?_ (write _ loc bs)
  split_ifs
  · exact foldl (f := fun s x => (s.dropReplicas x).setDirty x) (fun _ _ => ⟨rfl, rfl, rfl, rfl, rfl⟩) _ s
  · exact foldl (f := fun s x => s.dropReplicas x) (fun _ _ => ⟨rfl, rfl, rfl, rfl, rfl⟩) _ s
  · exact refl s

theorem homeWrite (s : State) (c d : Bool) (loc : Nat) (bs : List Byte) : WriteKeeps s (s.homeWrite c d loc bs) := by
  unfold State.homeWrite
  refine trans ?_ (putLines _ c d loc bs)
  split_ifs
  · exact toRows s _ _
  · exact refl s

theorem physWrite (s : State) (p pa : Nat) (bs : List Byte) : WriteKeeps s (s.physWrite p pa bs) := by
  unfold State.physWrite
  split_ifs
  · exact homeWrite s _ _ _ _
  · exact refl s

theorem postFault (s : State) (r : FRec) : WriteKeeps s (s.postFault r).2 := ⟨rfl, rfl, rfl, rfl, rfl⟩

theorem fenceOff (s : State) (p asid pkg : Nat) : WriteKeeps s (s.fenceOff p asid pkg) := by
  unfold State.fenceOff
  cases s.freeFence p <;> exact trans (physWrite s _ _ _) (postFault _ _)

theorem part {s t : State} (h : WriteKeeps s t) (p : Nat) : t.part p = s.part p := by unfold State.part; rw [h.parts]
theorem asidRec {s t : State} (h : WriteKeeps s t) (p a : Nat) : t.asidRec p a = s.asidRec p a := by unfold State.asidRec; rw [h.part]
theorem phys {s t : State} (h : WriteKeeps s t) (pa : Nat) : t.phys pa = s.phys pa := by unfold State.phys; rw [h.redirects]

end WriteKeeps

/-! ### Firmware (R462) -/

/-- The image put into the inactive slot. -/
def Firmware.put (f : Firmware) (image : List Byte) : Firmware := if f.active then { f with a := image } else { f with b := image }

theorem Firmware.image_put (f : Firmware) (im : List Byte) : (f.put im).image = f.image := by
  unfold Firmware.put Firmware.image; cases f.active <;> rfl

theorem Firmware.active_put (f : Firmware) (im : List Byte) : (f.put im).active = f.active := by
  unfold Firmware.put; cases f.active <;> rfl

theorem Firmware.inactive_put (f : Firmware) (im : List Byte) : (if f.active then (f.put im).a else (f.put im).b) = im := by
  unfold Firmware.put; cases f.active <;> rfl

theorem Firmware.image_switched (f : Firmware) (im : List Byte) : ({ f.put im with active := !f.active } : Firmware).image = im := by
  unfold Firmware.put Firmware.image; cases f.active <;> rfl

theorem Firmware.kept_put (f : Firmware) (im : List Byte) : (if f.active then (f.put im).b else (f.put im).a) = f.image := by
  unfold Firmware.put Firmware.image; cases f.active <;> rfl

/-- The package once a good image of a kind has been taken: the slots switched, microcode to be loaded, the image measured. -/
def Package.taken (k : Package) (kind : Nat) (image : List Byte) : Package :=
  let k1 := { k with firmware := mset k.firmware kind { (k.fw kind).put image with active := !((k.fw kind).put image).active } }
  let k2 := if kind = 2 then { k1 with microcode := microUnits } else k1
  if k.phase = 7 && !k.starting && !k.safe then k2.extend kind image else k2

theorem Package.fw_taken (k : Package) (kind : Nat) (im : List Byte) :
    (k.taken kind im).fw kind = { (k.fw kind).put im with active := !(k.fw kind).active } := by
  unfold Package.taken
  rw [Firmware.active_put]
  dsimp only
  split_ifs <;> exact mgetD_mset_self _ _ _ _

theorem Package.microcode_taken (k : Package) (im : List Byte) : (k.taken 2 im).microcode = microUnits := by
  unfold Package.taken
  simp only [if_true]
  split_ifs <;> rfl

theorem Package.meas_taken {k : Package} (kind : Nat) (im : List Byte) (h7 : k.phase = 7) (hs : k.starting = false) (hsafe : k.safe = false) :
    (k.taken kind im).meas = listSet k.meas kind (sha256 (listGet [] k.meas kind ++ sha256 im)) := by
  unfold Package.taken
  rw [if_pos (by simp [h7, hs, hsafe])]
  split_ifs <;> rfl

theorem firmwareUpdate_refused {s : State} {k : Nat} (h : 3 ≤ k ∨ s.pkg.powered = false) (im : List Byte) (v : Bool) :
    exec (.firmwareUpdate k im v) s = .next s := by
  show execFirmwareUpdate k im v s = _
  unfold execFirmwareUpdate
  rw [if_pos (by simpa using h)]

theorem firmwareUpdate_bad {s : State} {k : Nat} (hk : k < 3) (hp : s.pkg.powered = true) (im : List Byte) :
    exec (.firmwareUpdate k im false) s = .next (s.setPkg fun x => { x with firmware := mset x.firmware k ((s.pkg.fw k).put im) }) := by
  show execFirmwareUpdate k im false s = _
  unfold execFirmwareUpdate
  rw [if_neg (by simp [hp, hk])]
  rfl

theorem firmwareUpdate_good {s : State} {k : Nat} (hk : k < 3) (hp : s.pkg.powered = true) (im : List Byte) :
    exec (.firmwareUpdate k im true) s = .next (s.setPkg fun x => x.taken k im) := by
  show execFirmwareUpdate k im true s = _
  unfold execFirmwareUpdate
  rw [if_neg (by simp [hp, hk])]
  unfold State.setPkg Package.taken Firmware.put
  simp only [Bool.not_true, Bool.false_eq_true, if_false]
  congr 1
  by_cases h2 : k = 2 <;> cases hb : (decide (s.pkg.phase = 7) && !s.pkg.starting && !s.pkg.safe) <;> simp [h2, hb]

/-! ### Microcode, shadow regions, power (R462, R463, R465) -/

theorem mem_microcodeLoad (s : State) (n k : Nat) :
    k ∈ (s.setPkg fun x => { x with microcode := x.microcode.filter (fun u => u != n) }).pkg.microcode ↔ k ∈ s.pkg.microcode ∧ k ≠ n := by
  simp [State.setPkg]

theorem shadowAck_some {s : State} {p i : Nat} {x : Shadow} (h : mget? s.pkg.shadows (4 * p + i) = some x) :
    exec (.shadowAck p i) s = .next (s.setPkg fun k => { k with shadows := mset k.shadows (4 * p + i) { x with queue := x.queue.drop 1 } }) := by
  show execShadowAck p i s = _
  simp only [execShadowAck, State.setPkg, mmodify, h]

theorem shadowAck_none {s : State} {p i : Nat} (h : mget? s.pkg.shadows (4 * p + i) = none) : exec (.shadowAck p i) s = .next (s.setPkg fun k => k) := by
  show execShadowAck p i s = _
  simp only [execShadowAck, State.setPkg, mmodify, h]

theorem shadowMirrorReceive_performed {s : State} {g p i pa : Nat} {data : List Byte} (hp : p < 4) (hi : i < 4) (hg : g ∉ s.pkg.failed)
    (hpa : pa + data.length ≤ 2 ^ 39) :
    exec (.shadowMirrorReceive g p i pa data) s = .next ((s.write (s.phys pa) data).send [.mirrored g p i]) := by
  show execShadowMirrorReceive g p i pa data s = _
  unfold execShadowMirrorReceive
  rw [if_neg]
  simp only [Bool.or_eq_true, List.contains_iff_mem, decide_eq_true_eq, not_or]
  exact ⟨⟨⟨hg, Nat.not_lt.2 hpa⟩, Nat.not_le.2 hp⟩, Nat.not_le.2 hi⟩

theorem shadowMirrorReceive_failed {s : State} {g : Nat} (hg : g ∈ s.pkg.failed) (p i pa : Nat) (data : List Byte) :
    exec (.shadowMirrorReceive g p i pa data) s = .next s := by
  show execShadowMirrorReceive g p i pa data s = _
  unfold execShadowMirrorReceive
  rw [if_pos (by simp [hg])]

theorem byte_send (s : State) (ms : List PkgMsg) (x : Nat) : (s.send ms).byte x = s.byte x := rfl

theorem powerThrottle_on {s : State} {n : Nat} (hn : n < 224) (h : (s.island n).on = true) (f : Nat) :
    exec (.powerThrottle n f) s = .next (s.setPkg fun k => { k with islands := mset k.islands n { freq := f, volt := Config.islandVolt n f, on := true } }) := by
  show execPowerThrottle n f s = _
  unfold execPowerThrottle
  rw [if_pos (by simp [hn, h])]

theorem powerThrottle_off {s : State} {n : Nat} (h : 224 ≤ n ∨ (s.island n).on = false) (f : Nat) : exec (.powerThrottle n f) s = .next s := by
  show execPowerThrottle n f s = _
  unfold execPowerThrottle
  rw [if_neg]
  rcases h with h | h
  · simp [Nat.not_lt.2 h]
  · simp [h]

/-! ### Heartbeats and a failed package (R341, R464) -/

theorem heartbeat_due {s : State} (hp : s.pkg.powered = true) (h : 10000000 ≤ s.mboelCycle - s.pkg.beatAt) :
    exec .heartbeat s =
      .next ((s.setPkg fun k => { k with beats := k.beats + 1, beatAt := s.mboelCycle }).send (s.neighbours.map fun n => .beat n)) := by
  show execHeartbeat s = _
  unfold execHeartbeat beatPeriod
  rw [if_neg (by simp [hp, h])]

theorem heartbeat_early {s : State} (h : s.pkg.powered = false ∨ s.mboelCycle - s.pkg.beatAt < 10000000) : exec .heartbeat s = .next s := by
  show execHeartbeat s = _
  unfold execHeartbeat beatPeriod
  rw [if_pos]
  rcases h with h | h
  · simp [h]
  · rw [decide_eq_true h, Bool.true_or]

section Miss
variable {s : State} {g : Nat}

theorem heartbeatMiss_ignored (h : g ∈ s.pkg.failed ∨ ¬10000000 ≤ s.mboelCycle - mgetD s.pkg.heard g 0) : exec (.heartbeatMiss g) s = .next s := by
  show execHeartbeatMiss g s = _
  unfold execHeartbeatMiss beatPeriod
  rw [if_pos]
  simpa only [Bool.or_eq_true, List.contains_iff_mem, decide_eq_true_eq, Nat.not_le] using h

/-- One that is due is counted, and the fifth declares the package failed. -/
theorem heartbeatMiss_due (hg : g ∉ s.pkg.failed) (h : 10000000 ≤ s.mboelCycle - mgetD s.pkg.heard g 0) :
    exec (.heartbeatMiss g) s = .next (if mgetD s.pkg.missed g 0 + 1 < 5 then
        s.setPkg fun k => { k with missed := mset k.missed g (mgetD s.pkg.missed g 0 + 1), heard := mset k.heard g s.mboelCycle }
      else (s.setPkg fun k => { k with missed := merase k.missed g, failed := g :: k.failed }).fenceAll g) := by
  show execHeartbeatMiss g s = _
  unfold execHeartbeatMiss beatPeriod
  rw [if_neg]
  simpa only [Bool.or_eq_true, List.contains_iff_mem, decide_eq_true_eq, not_or, Nat.not_lt] using And.intro hg h

end Miss

/-- A package fenced from one shared space. -/
def State.fenceSpace (pkg : Nat) (s : State) (x : Nat × Nat) : State :=
  let t := s.fenceOff x.1 x.2 pkg
  t.setAsidRec x.1 x.2 { t.asidRec x.1 x.2 with fenced := true }

theorem fenceAll_eq (s : State) (pkg : Nat) : s.fenceAll pkg = s.sharedSpaces.foldl (State.fenceSpace pkg) s := rfl

theorem fenced_fenceSpace (s : State) (pkg : Nat) (x y : Nat × Nat) :
    ((s.fenceSpace pkg x).asidRec y.1 y.2).fenced = true ↔ y = x ∨ (s.asidRec y.1 y.2).fenced = true := by
  unfold State.fenceSpace
  by_cases h : y = x
  · simp [h]
  · have hne : y.1 ≠ x.1 ∨ y.2 ≠ x.2 := by
      by_contra hc
      exact h (Prod.ext (by tauto) (by tauto))
    simp only [asidRec_setAsidRec_ne _ _ hne, (WriteKeeps.fenceOff s x.1 x.2 pkg).asidRec, h, false_or]

@[simp] theorem groups_setAsidRec (s : State) (p a : Nat) (r : AsidRec) : (s.setAsidRec p a r).groups = s.groups := rfl
@[simp] theorem pkg_setAsidRec (s : State) (p a : Nat) (r : AsidRec) : (s.setAsidRec p a r).pkg = s.pkg := rfl

theorem groups_fenceSpace (s : State) (pkg : Nat) (x : Nat × Nat) : (s.fenceSpace pkg x).groups = s.groups := by
  rw [State.fenceSpace, groups_setAsidRec, (WriteKeeps.fenceOff s x.1 x.2 pkg).groups]

theorem failed_fenceSpace (s : State) (pkg : Nat) (x : Nat × Nat) : (s.fenceSpace pkg x).pkg.failed = s.pkg.failed := by
  rw [State.fenceSpace, pkg_setAsidRec, (WriteKeeps.fenceOff s x.1 x.2 pkg).failed]

/-- Spaces fenced one after another: those fenced before stay so. -/
theorem foldl_fenceSpace (pkg : Nat) (l : List (Nat × Nat)) (s : State) :
    let t := l.foldl (State.fenceSpace pkg) s
    t.groups = s.groups ∧ t.pkg.failed = s.pkg.failed ∧ ∀ y, (t.asidRec y.1 y.2).fenced = true ↔ y ∈ l ∨ (s.asidRec y.1 y.2).fenced = true := by
  induction l generalizing s with
  | nil => simp
  | cons x l ih =>
    obtain ⟨hgroups, hfailed, hfenced⟩ := ih (s.fenceSpace pkg x)
    rw [List.foldl_cons]
    refine ⟨by rw [hgroups, groups_fenceSpace], by rw [hfailed, failed_fenceSpace], fun y => ?_⟩
    rw [hfenced, fenced_fenceSpace, List.mem_cons]
    tauto

theorem fenceAll_spec (s : State) (pkg : Nat) :
    (s.fenceAll pkg).groups = s.groups ∧ (s.fenceAll pkg).pkg.failed = s.pkg.failed ∧
      ∀ x ∈ s.sharedSpaces, ((s.fenceAll pkg).asidRec x.1 x.2).fenced = true := by
  obtain ⟨hgroups, hfailed, hfenced⟩ := foldl_fenceSpace pkg s.sharedSpaces s
  exact ⟨hgroups, hfailed, fun x hx => (hfenced x).2 (.inl hx)⟩

/-! ### A failed package's copy behind an aperture (R463) -/

theorem buddyMap_refused {s : State} {g p i f : Nat} (h : g ∉ s.pkg.failed ∨ 4 ≤ i ∨ (s.part p).naper ≤ f) (a v : Nat) :
    exec (.buddyMap g p i f a v) s = .next s := by
  show execBuddyMap g p i f a v s = _
  unfold execBuddyMap
  rw [if_pos]
  rcases h with h | h | h <;> simp [h]

/-- The aperture word of a page of an address space. -/
def apertureWord (a v : Nat) : Nat := 2 ^ 63 + 2 ^ 62 + v % 2 ^ 40 * 2 ^ 16 + a % 4096

theorem buddyMap_mapped {s : State} {g p i f : Nat} (hg : g ∈ s.pkg.failed) (hi : i < 4) (hf : f < (s.part p).naper) (a v : Nat) :
    exec (.buddyMap g p i f a v) s = .next (s.physWrite p ((s.part p).aper.toNat + 8 * f) (natLe 8 (apertureWord a v))) := by
  show execBuddyMap g p i f a v s = _
  unfold execBuddyMap
  rw [if_neg (by simp [hg, hi, hf])]
  rfl

theorem apertureWord_lt (a v : Nat) : apertureWord a v < 256 ^ 8 := by
  unfold apertureWord
  omega

theorem fields_apertureWord (a v : Nat) :
    bit (apertureWord a v) 63 = true ∧ bit (apertureWord a v) 62 = true ∧ bits (apertureWord a v) 0 12 = a % 4096 ∧
      bits (apertureWord a v) 16 40 = v % 2 ^ 40 := by
  unfold apertureWord bit bits
  simp only [beq_iff_eq]
  omega

/-- A word written by physical address is read there. -/
theorem physWord_physWrite {s : State} {p pa : Nat} (h : (s.rangeOf p pa).isSome = true) {n : Nat} (hn : n < 256 ^ 8) :
    (s.physWrite p pa (natLe 8 n)).physWord pa 8 = n := by
  unfold State.physWord
  rw [(WriteKeeps.physWrite s p pa _).phys, physWrite_of_range h]
  have hword := word_homeWrite s true false (s.phys pa) (natLe 8 n)
  rw [length_natLe, leNat_natLe, Nat.mod_eq_of_lt hn] at hword
  exact hword

/-! ### Writes of package control space (R431, R444, R466) -/

theorem registerWrite_eq (w : CsWrite) (s : State) : exec (.registerWrite w) s = execRegisterWrite w s := rfl

section Package
variable {s : State} {a f : Nat} {v : W64}

theorem registerWrite_misaligned (h : a % 8 ≠ 0) (q : Option Nat) : exec (.registerWrite { part := q, addr := a, val := v, first := f }) s = .next s := by
  rw [registerWrite_eq]
  unfold execRegisterWrite State.writeControl
  cases q <;> simp [h]

theorem registerWrite_unpowered (h : s.pkg.powered = false) : exec (.registerWrite { part := none, addr := a, val := v, first := f }) s = .next s := by
  simp [registerWrite_eq, execRegisterWrite, Package.serves, h]

theorem registerWrite_safe (h : s.pkg.safe = true) (ha : a ≠ 0x62000) : exec (.registerWrite { part := none, addr := a, val := v, first := f }) s = .next s := by
  simp [registerWrite_eq, execRegisterWrite, Package.serves, h, ha]

/-- Mboel serving, an aligned write of package control space is performed. -/
theorem registerWrite_package (h : s.pkg.serves = true) (ha : a % 8 = 0) :
    exec (.registerWrite { part := none, addr := a, val := v, first := f }) s = .next (s.writePackage a v.toNat f) := by
  simp [registerWrite_eq, execRegisterWrite, h, ha]

end Package

section Registers
variable (s : State) (v f : Nat)

theorem writePackage_town : s.writePackage 0x10 v f = s.writeTown v := rfl
theorem writePackage_pcmd : s.writePackage 0x1000 v f = s.writePcmd v f := rfl
theorem writePackage_qbound : s.writePackage 0x1008 v f = s.setPkg fun k => { k with qbound := BitVec.ofNat 32 v } := rfl
theorem writePackage_rcmd : s.writePackage 0x2000 v f = s.writeRcmd v := rfl

theorem writePcmd_busy {s : State} (h : s.pkg.pcmd.busy = true) : s.writePcmd v f = s := if_pos h
theorem writeRcmd_busy {s : State} (h : s.pkg.rcmd.busy = true) : s.writeRcmd v = s := if_pos h

/-- RCMD written with GO is the command (R454). -/
theorem writeRcmd_go {s : State} (h : s.pkg.rcmd.busy = false) (hgo : bit v 63 = true) : s.writeRcmd v = s.repair (bits v 0 4) (bits v 8 40) := by
  unfold State.writeRcmd
  rw [h, if_neg (by decide), if_pos hgo]

/-- A memory-interleave range in force is read-only (R435). -/
theorem writePackage_mir {i : Nat} (hi : i < 16) : s.writePackage (0x30000 + 16 * i) v f = s := by
  interval_cases i <;> rfl

theorem writePackage_lsl {p d : Nat} (hp : p < 4) (hd : d < 2) :
    s.writePackage (0x40000 + 16 * p + 8 * d) v f = s.setLsl p d (bits v 0 48 &&& slicesOf (s.part p).regions d) := by
  interval_cases p <;> interval_cases d <;> rfl

theorem readPackage_lsl {p d : Nat} (hp : p < 4) (hd : d < 2) : s.readPackage (0x40000 + 16 * p + 8 * d) = s.lsl p d := by
  interval_cases p <;> interval_cases d <;> rfl

theorem writePackage_budget {p k : Nat} (hp : p < 4) (hk : k < 6) :
    s.writePackage (0x50000 + 64 * p + 8 * k) v f = s.setBudget p k { s.budget p k with grant := min 65536 (bits v 0 17) } := by
  interval_cases p <;> interval_cases k <;> rfl

end Registers

theorem bits_lt (w lo n : Nat) : bits w lo n < 2 ^ n := Nat.mod_lt _ (by positivity)

/-- A slice mask keeps its 48 bits. -/
theorem lsl_setLsl (s : State) (p d v m : Nat) : (s.setLsl p d (bits v 0 48 &&& m)).lsl p d = bits v 0 48 &&& m := by
  unfold State.lsl State.setLsl State.setPkg
  rw [zget_zset_self, BitVec.toNat_ofNat]
  exact Nat.mod_eq_of_lt (lt_of_le_of_lt Nat.and_le_left (bits_lt v 0 48))

@[simp] theorem budget_setBudget (s : State) (p a : Nat) (b : Budget) : (s.setBudget p a b).budget p a = b := by simp [State.budget, State.setBudget]

/-- A new grant leaves what has been spent, and USED. -/
theorem used_setGrant (s : State) (p a n : Nat) : (s.setBudget p a { s.budget p a with grant := n }).used p a = s.used p a := by
  have hspent : ∀ u, (s.setBudget p a { s.budget p a with grant := n }).spentBy p a u = s.spentBy p a u := fun u => by
    unfold State.spentBy
    rw [budget_setBudget]
    rfl
  unfold State.used
  simp only [hspent, budget_setBudget]

theorem repairCommand_served {s : State} (hbusy : s.pkg.rcmd.busy = false) (h : s.pkg.serves = true) (op t : Nat) :
    repairCommand op t s = .next (s.repair op t) := by
  unfold repairCommand
  rw [hbusy, h]
  rfl

/-- RCMD with GO and op 2 or 3 is the repair of a row or of a channel at its 40-bit target. -/
theorem writeRcmd_hbm {s : State} (hbusy : s.pkg.rcmd.busy = false) (h : s.pkg.serves = true) {v : Nat} (hgo : bit v 63 = true)
    (h2 : 2 ≤ bits v 0 4) (h3 : bits v 0 4 ≤ 3) :
    .next (s.writeRcmd v) = exec (if bits v 0 4 = 2 then .hbmRow (bits v 8 40) else .hbmChannel (bits v 8 40)) s := by
  have htarget : bits v 8 40 % 2 ^ 40 = bits v 8 40 := Nat.mod_eq_of_lt (bits_lt v 8 40)
  rw [writeRcmd_go v hbusy hgo]
  by_cases hop : bits v 0 4 = 2
  · rw [if_pos hop, hop]
    show _ = repairCommand 2 (bits v 8 40 % 2 ^ 40) s
    rw [htarget, repairCommand_served hbusy h]
  · rw [if_neg hop, show bits v 0 4 = 3 by omega]
    show _ = repairCommand 3 (bits v 8 40 % 2 ^ 40) s
    rw [htarget, repairCommand_served hbusy h]

theorem traceOwner_served {s : State} (h : s.pkg.serves = true) (v : W64) : exec (.traceOwner v) s = .next (s.writeTown v.toNat) := by
  show execTraceOwner v s = _
  unfold execTraceOwner
  rw [if_pos h]

/-! ### Writes of a partition's control space (R431) -/

theorem writeControl_aligned (s : State) (p : Nat) {a : Nat} (ha : a % 8 = 0) (v : W64) : s.writeControl p a v = s.writePartition p a v.toNat := if_pos ha

theorem writePartition_free {s : State} {p : Nat} (h : (s.part p).st = .free) (a v : Nat) : s.writePartition p a v = s := if_pos h

theorem registerWrite_free {s : State} {p : Nat} (h : (s.part p).st = .free) (a f : Nat) (v : W64) :
    exec (.registerWrite { part := some p, addr := a, val := v, first := f }) s = .next s := by
  simp [registerWrite_eq, execRegisterWrite, State.writeControl, writePartition_free h]

theorem registerWrite_partition {s : State} {p a : Nat} (hp : p < 4) (ha : a % 8 = 0) (f : Nat) (v : W64) :
    exec (.registerWrite { part := some p, addr := a, val := v, first := f }) s = .next (s.writePartition p a v.toNat) := by
  simp [registerWrite_eq, execRegisterWrite, hp, writeControl_aligned s p ha]

/-- Addresses in a range of registers, and outside it. -/
theorem inRange_of {lo hi a : Nat} (h : lo ≤ a ∧ a < hi) : (decide (lo ≤ a) && decide (a < hi)) = true := by simpa using h

theorem not_inRange_of {lo hi a : Nat} (h : a < lo ∨ hi ≤ a) : ¬(decide (lo ≤ a) && decide (a < hi)) = true := by
  simp only [Bool.and_eq_true, decide_eq_true_eq]
  omega

section Partition
variable {s : State} {p : Nat} (h : (s.part p).st ≠ .free)
include h

theorem writePartition_decayw (v : W64) : s.writePartition p decaywAddr v.toNat = s.writeDecayw p v := by
  unfold State.writePartition
  rw [if_neg h, if_pos rfl, BitVec.ofNat_toNat, BitVec.setWidth_eq]

/-- The words of an address-space record (R382). -/
theorem writePartition_asid {x k : Nat} (hx : x < 4096) (hk : k < 8) (v : Nat) :
    s.writePartition p (astabBase + 64 * x + 8 * k) v = s.writeAsid p x k v := by
  have hrecord : (astabBase + 64 * x + 8 * k - astabBase) / 64 = x := by omega
  have hword : (astabBase + 64 * x + 8 * k) / 8 % 8 = k := by unfold astabBase; omega
  unfold State.writePartition
  rw [if_neg h, if_neg (by unfold decaywAddr astabBase; omega), if_neg (not_inRange_of (by unfold attestBase astabBase; omega)),
    if_pos (inRange_of (by omega)), hrecord, hword]

/-- The words of a hardware queue's block (R316). -/
theorem writePartition_queue {d q k : Nat} (hon : s.partOnDie p d = true) (hd : d < 2) (hq : q < 64) (hk : k < 2) (v : Nat) :
    s.writePartition p (queueBase d + 16 * q + 8 * k) v = s.setQueue p d q ((s.queue p d q).write k v) := by
  have hdie : (queueBase d + 16 * q + 8 * k - queueBase 0) / 0x400 = d := by unfold queueBase; omega
  have hqueue : (queueBase d + 16 * q + 8 * k) / 16 % 64 = q := by unfold queueBase; omega
  have hword : (queueBase d + 16 * q + 8 * k) / 8 % 2 = k := by unfold queueBase; omega
  unfold State.writePartition
  rw [if_neg h, if_neg (by unfold decaywAddr queueBase; omega), if_neg (not_inRange_of (by unfold attestBase queueBase; omega)),
    if_neg (not_inRange_of (by unfold astabBase queueBase; omega)), hdie,
    if_pos (Bool.and_eq_true_iff.2 ⟨inRange_of (by unfold queueBase; omega), hon⟩), hqueue, hword]

/-- The registers of a die's control page (R441). -/
theorem writePartition_page {d ofs : Nat} (hon : s.partOnDie p d = true) (hd : d < 2) (ho : ofs < 0x1000) (v : Nat) :
    s.writePartition p (pageBase d + ofs) v = s.writePage p d ofs v := by
  have hdie : (pageBase d + ofs - pageBase 0) / 0x1000 = d := by unfold pageBase; omega
  have hofs : (pageBase d + ofs) % 0x1000 = ofs := by unfold pageBase; omega
  unfold State.writePartition
  rw [if_neg h, if_neg (by unfold decaywAddr pageBase; omega), if_neg (not_inRange_of (by unfold attestBase pageBase; omega)),
    if_neg (not_inRange_of (by unfold astabBase pageBase; omega)),
    if_neg (fun hc => not_inRange_of (by unfold queueBase pageBase; omega) (Bool.and_eq_true_iff.1 hc).1), hdie,
    if_pos (Bool.and_eq_true_iff.2 ⟨inRange_of (by unfold pageBase; omega), hon⟩), hofs]

end Partition

/-! ### The registers themselves -/

section Asid
variable (s : State) (p x : Nat)

theorem writeAsid_root (n : Nat) :
    s.writeAsid p x 0 n = if (s.asidRec p x).busy then s else s.setAsidRec p x { s.asidRec p x with root := BitVec.ofNat 64 (alignDown n 11) } := rfl

theorem writeAsid_gen_next (v : W64) (h : v.setWidth 16 = (s.asidRec p x).gen + 1) : s.writeAsid p x 3 v.toNat = s.genRaise p x := by
  show (if BitVec.ofNat 16 v.toNat = _ then _ else _) = _
  rw [BitVec.ofNat_toNat, if_pos h]

theorem writeAsid_gen_other (v : W64) (h : v.setWidth 16 ≠ (s.asidRec p x).gen + 1) : s.writeAsid p x 3 v.toNat = s := by
  show (if BitVec.ofNat 16 v.toNat = _ then _ else _) = _
  rw [BitVec.ofNat_toNat, if_neg h]

/-- GSTEP is read-only while EN = 1. -/
theorem gstep_writeAsid (n : Nat) :
    ((s.writeAsid p x 4 n).asidRec p x).gstep = if (s.asidRec p x).en then (s.asidRec p x).gstep else BitVec.ofNat 24 n := by
  show ((s.setAsidRec p x _).asidRec p x).gstep = _
  rw [asidRec_setAsidRec]
  unfold AsidRec.write
  dsimp only
  split_ifs <;> rfl

end Asid

theorem toNat_ofNat_bits (w lo n : Nat) : (BitVec.ofNat n (bits w lo n)).toNat = bits w lo n := Nat.mod_eq_of_lt (bits_lt w lo n)

theorem bits_zero_eq_mod (w n : Nat) : bits w 0 n = w % 2 ^ n := by unfold bits; rw [pow_zero, Nat.div_one]

/-- The second word of a queue's block: HEAD and BASE are kept, and of a DEV queue TAIL too. -/
theorem write_queue_control (q : HwQueue) (v : W64) :
    (q.write 1 v.toNat).head = q.head ∧ (q.write 1 v.toNat).en = v.getLsbD 36 ∧
      (q.write 1 v.toNat).tail.toNat = (if q.dev then q.tail.toNat else bits v.toNat 16 16) ∧ (q.write 1 v.toNat).base = q.base := by
  refine ⟨rfl, (getLsbD_eq_bit v 36).symm, ?_, rfl⟩
  show (if q.dev then q.tail else BitVec.ofNat 16 (bits v.toNat 16 16)).toNat = _
  rw [apply_ite BitVec.toNat, toNat_ofNat_bits]

theorem writeResolve_none (s : State) (p d : Nat) {v : Nat} (h : bits v 16 2 = 3) : s.writeResolve p d v = s := if_pos h

theorem writeResolve_replay (s : State) (p d : Nat) {v : Nat} (h : bits v 16 2 = 0) : s.writeResolve p d v = s.resolveRecord p d (bits v 0 16) 0 := by
  unfold State.writeResolve
  rw [h, if_neg (by decide)]

/-! ### The list of capabilities (R440, R441) -/

/-- The list begins with the PACKAGE record: ID 1, version 1 and three words, of which the second is CAP. -/
theorem capWords_package (s : State) (p : Nat) : ∃ l, s.capWords p = capHeader 1 3 0 false :: (s.part p).cap :: l := by
  unfold State.capWords
  dsimp only
  rw [List.cons_append, capLayout]
  exact ⟨_, rfl⟩

theorem readPartition_list {s : State} {p : Nat} (h : (s.part p).st ≠ .free) :
    s.readPartition p 0 = capHeader 1 3 0 false ∧ s.readPartition p 8 = (s.part p).cap := by
  obtain ⟨l, hl⟩ := capWords_package s p
  unfold State.readPartition
  have hlong : 8 < 8 * (capHeader 1 3 0 false :: (s.part p).cap :: l).length := by simp only [List.length_cons]; omega
  rw [if_neg h, if_neg h, hl, if_pos (Nat.lt_trans (by decide) hlong), if_pos hlong, Nat.zero_div, Nat.div_self (by decide), listGet, listGet, listGet]
  exact ⟨rfl, rfl⟩

theorem fields_capHeader : bits (capHeader 1 3 0 false) 0 16 = 1 ∧ bits (capHeader 1 3 0 false) 24 8 = 3 := by decide

/-! ### Control cores (R295, R431) -/

section Control
variable {s : State} {c p a : Nat} {x : Ccore} {l : List CcOp}

/-- An access of a control core that is performed in its own die. -/
def InDie (c : Nat) (r : Access) : Prop := r.gk = ccoreKey c ∧ r.crossing = false

theorem controlAfter_eq_nil {w : Bool} (h : ∀ y ∈ s.accesses, InDie c y.2 → w = false ∧ y.2.op.isStore = true) : s.controlAfter c w = [] := by
  unfold State.controlAfter mkeys
  rw [List.map_eq_nil_iff, List.filter_eq_nil_iff]
  intro y hy hc
  simp only [Bool.and_eq_true, beq_iff_eq, Bool.not_eq_true', Bool.or_eq_true] at hc
  obtain ⟨⟨hkey, hcross⟩, hkind⟩ := hc
  obtain ⟨hw, hstore⟩ := h y hy ⟨hkey, hcross⟩
  simp [hw, hstore] at hkind

theorem controlAfter_ne_nil {w : Bool} {y : Nat × Access} (hy : y ∈ s.accesses) (hin : InDie c y.2) (h : w = true ∨ y.2.op.isStore = false) :
    s.controlAfter c w ≠ [] := by
  obtain ⟨hkey, hcross⟩ := hin
  unfold State.controlAfter mkeys
  rw [ne_eq, List.map_eq_nil_iff, List.filter_eq_nil_iff]
  intro hc
  exact hc y hy (by rcases h with h | h <;> simp [hkey, hcross, h])

variable (hx : mget? s.ccores c = some x)
include hx

theorem controlOn_waits {v : Option W64} (hops : x.ops = .control a v :: l) (h : s.controlAfter c v.isSome ≠ []) : s.controlOn c p = s := by
  unfold State.controlOn
  simp [mgetD, hx, hops, h]

theorem controlOn_read (ha : a % 8 = 0) (hops : x.ops = .control a none :: l) (h : s.controlAfter c false = []) :
    s.controlOn c p = { s with ccores := mset s.ccores c { ops := l, vals := x.vals ++ [s.readPartition p a] } } := by
  unfold State.controlOn
  simp [mgetD, hx, hops, h, ha, State.setCcore]

theorem controlOn_write {v : W64} (hops : x.ops = .control a (some v) :: l) (h : s.controlAfter c true = []) :
    s.controlOn c p = ({ s with ccores := mset s.ccores c { x with ops := l } } : State).writeControl p a v := by
  unfold State.controlOn
  simp [mgetD, hx, hops, h, State.setCcore]

end Control

theorem registerWrite_writeControl {p : Nat} (hp : p < 4) (s : State) (a f : Nat) (v : W64) :
    exec (.registerWrite { part := some p, addr := a, val := v, first := f }) s = .next (s.writeControl p a v) := by
  simp [registerWrite_eq, execRegisterWrite, hp]

/-! ### Events and their clauses -/

theorem firmwareUpdate_bad_spec {s : State} {k : Nat} (hk : k < 3) (hp : s.pkg.powered = true) (im : List Byte) :
    ∃ u, exec (.firmwareUpdate k im false) s = .next u ∧ u = { s with pkg := u.pkg } ∧ (u.pkg.fw k).image = (s.pkg.fw k).image ∧ u.pkg.meas = s.pkg.meas ∧
      (if (s.pkg.fw k).active then (u.pkg.fw k).a else (u.pkg.fw k).b) = im := by
  have hfw : (s.setPkg fun x => { x with firmware := mset x.firmware k ((s.pkg.fw k).put im) }).pkg.fw k = (s.pkg.fw k).put im := mgetD_mset_self _ _ _ _
  refine ⟨_, firmwareUpdate_bad hk hp im, rfl, ?_, rfl, ?_⟩ <;> rw [hfw]
  · exact Firmware.image_put _ im
  · exact Firmware.inactive_put _ im

theorem firmwareUpdate_good_spec {s : State} {k : Nat} (hk : k < 3) (hp : s.pkg.powered = true) (im : List Byte) :
    ∃ u, exec (.firmwareUpdate k im true) s = .next u ∧ u = { s with pkg := u.pkg } ∧ (u.pkg.fw k).image = im ∧
      (u.pkg.fw k).active = !(s.pkg.fw k).active ∧ (if (s.pkg.fw k).active then (u.pkg.fw k).b else (u.pkg.fw k).a) = (s.pkg.fw k).image ∧
      (k = 2 → u.pkg.microcode = microUnits) ∧
      (s.pkg.phase = 7 → s.pkg.starting = false → s.pkg.safe = false →
        u.pkg.meas = listSet s.pkg.meas k (sha256 (listGet [] s.pkg.meas k ++ sha256 im))) := by
  have hfw : (s.setPkg fun x => x.taken k im).pkg.fw k = { (s.pkg.fw k).put im with active := !(s.pkg.fw k).active } := Package.fw_taken s.pkg k im
  refine ⟨_, firmwareUpdate_good hk hp im, rfl, ?_, ?_, ?_, fun h2 => ?_, fun h7 hs hsafe => Package.meas_taken k im h7 hs hsafe⟩
  · rw [hfw, Firmware.image_switched]
  · rw [hfw]
  · rw [hfw]; exact Firmware.kept_put _ im
  · rw [h2]; exact Package.microcode_taken s.pkg im

theorem microcodeLoad_spec (s : State) (n : Nat) :
    ∃ u, exec (.microcodeLoad n) s = .next u ∧ u = { s with pkg := u.pkg } ∧ n ∉ u.pkg.microcode ∧
      ∀ k, k ≠ n → (k ∈ u.pkg.microcode ↔ k ∈ s.pkg.microcode) :=
  ⟨_, rfl, rfl, fun h => ((mem_microcodeLoad s n n).1 h).2 rfl, fun k hk => by rw [mem_microcodeLoad]; exact and_iff_left hk⟩

theorem shadowMirrorReceive_spec {s : State} {g p i pa : Nat} {data : List Byte} (hp : p < 4) (hi : i < 4) (hg : g ∉ s.pkg.failed)
    (hpa : pa + data.length ≤ 2 ^ 39) :
    ∃ u, exec (.shadowMirrorReceive g p i pa data) s = .next u ∧ u.outbox = s.outbox ++ [.mirrored g p i] ∧
      (∀ k < data.length, u.byte (s.phys pa + k) = data.getD k 0) ∧
      ∀ x, (x < s.phys pa ∨ s.phys pa + data.length ≤ x) → u.byte x = s.byte x := by
  refine ⟨_, shadowMirrorReceive_performed hp hi hg hpa, ?_, fun k hk => ?_, fun x hx => ?_⟩
  · show (s.write (s.phys pa) data).outbox ++ _ = _
    rw [(WriteKeeps.write s _ _).outbox]
  · rw [byte_send, byte_write, if_pos (by omega), Nat.add_sub_cancel_left]
  · rw [byte_send, byte_write_outside _ _ _ _ hx]

theorem heartbeatMiss_counted {s : State} {g : Nat} (hg : g ∉ s.pkg.failed) (hdue : 10000000 ≤ s.mboelCycle - mgetD s.pkg.heard g 0)
    (hn : mgetD s.pkg.missed g 0 + 1 < 5) :
    exec (.heartbeatMiss g) s =
      .next (s.setPkg fun k => { k with missed := mset k.missed g (mgetD s.pkg.missed g 0 + 1), heard := mset k.heard g s.mboelCycle }) := by
  rw [heartbeatMiss_due hg hdue, if_pos hn]

theorem heartbeatMiss_fifth {s : State} {g : Nat} (hg : g ∉ s.pkg.failed) (hdue : 10000000 ≤ s.mboelCycle - mgetD s.pkg.heard g 0)
    (hfive : 5 ≤ mgetD s.pkg.missed g 0 + 1) :
    ∃ u, exec (.heartbeatMiss g) s = .next u ∧ g ∈ u.pkg.failed ∧ u.groups = s.groups ∧ ∀ x ∈ s.sharedSpaces, (u.asidRec x.1 x.2).fenced = true := by
  rw [heartbeatMiss_due hg hdue, if_neg (by omega)]
  obtain ⟨hgroups, hfailed, hfenced⟩ := fenceAll_spec (s.setPkg fun k => { k with missed := merase k.missed g, failed := g :: k.failed }) g
  exact ⟨_, rfl, by rw [hfailed]; exact List.mem_cons_self, hgroups, hfenced⟩

theorem buddyMap_spec {s : State} {g p i f : Nat} (hg : g ∈ s.pkg.failed) (hi : i < 4) (hf : f < (s.part p).naper)
    (hr : (s.rangeOf p ((s.part p).aper.toNat + 8 * f)).isSome = true) (a v : Nat) :
    ∃ u, exec (.buddyMap g p i f a v) s = .next u ∧
      let w := u.physWord ((u.part p).aper.toNat + 8 * f) 8
      bit w 63 = true ∧ bit w 62 = true ∧ bits w 0 12 = a % 4096 ∧ bits w 16 40 = v % 2 ^ 40 := by
  refine ⟨_, buddyMap_mapped hg hi hf a v, ?_⟩
  rw [(WriteKeeps.physWrite s p _ _).part, physWord_physWrite hr (apertureWord_lt a v)]
  exact fields_apertureWord a v

/-! ### Registers and their clauses -/

section PackageSpace
variable {s : State} (h : s.pkg.serves = true) (f : Nat) (v : W64)
include h

theorem registerWrite_town : exec (.registerWrite { part := none, addr := 0x10, val := v, first := f }) s = exec (.traceOwner v) s := by
  rw [registerWrite_package h (by decide), traceOwner_served h, writePackage_town]

theorem registerWrite_pcmd_busy (hbusy : s.pkg.pcmd.busy = true) :
    exec (.registerWrite { part := none, addr := 0x1000, val := v, first := f }) s = .next s := by
  rw [registerWrite_package h (by decide), writePackage_pcmd, writePcmd_busy _ _ hbusy]

theorem registerWrite_rcmd_busy (hbusy : s.pkg.rcmd.busy = true) :
    exec (.registerWrite { part := none, addr := 0x2000, val := v, first := f }) s = .next s := by
  rw [registerWrite_package h (by decide), writePackage_rcmd, writeRcmd_busy _ hbusy]

theorem registerWrite_qbound :
    exec (.registerWrite { part := none, addr := 0x1008, val := v, first := f }) s = .next (s.setPkg fun k => { k with qbound := v.setWidth 32 }) := by
  rw [registerWrite_package h (by decide), writePackage_qbound, BitVec.ofNat_toNat]

theorem registerWrite_lsl {p d : Nat} (hp : p < 4) (hd : d < 2) :
    ∃ t, exec (.registerWrite { part := none, addr := 0x40000 + 16 * p + 8 * d, val := v, first := f }) s = .next t ∧
      t.lsl p d = bits v.toNat 0 48 &&& slicesOf (s.part p).regions d ∧ t.readPackage (0x40000 + 16 * p + 8 * d) = t.lsl p d := by
  rw [registerWrite_package h (by omega), writePackage_lsl s _ _ hp hd]
  exact ⟨_, rfl, lsl_setLsl s p d _ _, readPackage_lsl _ hp hd⟩

theorem registerWrite_budget {p k : Nat} (hp : p < 4) (hk : k < 6) :
    ∃ t, exec (.registerWrite { part := none, addr := 0x50000 + 64 * p + 8 * k, val := v, first := f }) s = .next t ∧
      (t.budget p k).grant = min 65536 (bits v.toNat 0 17) ∧ t.used p k = s.used p k := by
  rw [registerWrite_package h (by omega), writePackage_budget s _ _ hp hk]
  exact ⟨_, rfl, by rw [budget_setBudget], used_setGrant s p k _⟩

theorem registerWrite_mir {i : Nat} (hi : i < 16) :
    exec (.registerWrite { part := none, addr := 0x30000 + 16 * i, val := v, first := f }) s = .next s := by
  rw [registerWrite_package h (by omega), writePackage_mir s _ _ hi]

theorem registerWrite_rcmd_hbm (hbusy : s.pkg.rcmd.busy = false) (hgo : v.getLsbD 63 = true) (h2 : 2 ≤ bits v.toNat 0 4) (h3 : bits v.toNat 0 4 ≤ 3) :
    exec (.registerWrite { part := none, addr := 0x2000, val := v, first := f }) s =
      exec (if bits v.toNat 0 4 = 2 then .hbmRow (bits v.toNat 8 40) else .hbmChannel (bits v.toNat 8 40)) s := by
  rw [registerWrite_package h (by decide), writePackage_rcmd]
  exact writeRcmd_hbm hbusy h (by rw [← getLsbD_eq_bit]; exact hgo) h2 h3

end PackageSpace

section PartitionSpace
variable {s : State} {p : Nat} (hp : p < 4) (h : (s.part p).st ≠ .free) (f : Nat) (v : W64)
include hp h

theorem registerWrite_decayw : exec (.registerWrite { part := some p, addr := decaywAddr, val := v, first := f }) s = .next (s.writeDecayw p v) := by
  rw [registerWrite_partition hp (by decide), writePartition_decayw h]

theorem registerWrite_asid {x k : Nat} (hx : x < 4096) (hk : k < 8) :
    exec (.registerWrite { part := some p, addr := astabBase + 64 * x + 8 * k, val := v, first := f }) s = .next (s.writeAsid p x k v.toNat) := by
  rw [registerWrite_partition hp (by unfold astabBase; omega), writePartition_asid h hx hk]

theorem registerWrite_queue {d q k : Nat} (hon : s.partOnDie p d = true) (hd : d < 2) (hq : q < 64) (hk : k < 2) :
    exec (.registerWrite { part := some p, addr := queueBase d + 16 * q + 8 * k, val := v, first := f }) s =
      .next (s.setQueue p d q ((s.queue p d q).write k v.toNat)) := by
  rw [registerWrite_partition hp (by unfold queueBase; omega), writePartition_queue h hon hd hq hk]

theorem registerWrite_page {d ofs : Nat} (hon : s.partOnDie p d = true) (hd : d < 2) (hofs : ofs < 0x1000) (h8 : ofs % 8 = 0) :
    exec (.registerWrite { part := some p, addr := pageBase d + ofs, val := v, first := f }) s = .next (s.writePage p d ofs v.toNat) := by
  rw [registerWrite_partition hp (by unfold pageBase; omega), writePartition_page h hon hd hofs]

end PartitionSpace

/-! ### The statement -/

/-- Settles O55: each event by the lemma on it, each register by the address that leads to it (in a partition's space at the bases of log 43), and a control
core by whether an earlier in-die access is under way. -/
theorem availabilityAndRegisters : Obligations.AvailabilityAndRegisters := by
  unfold Obligations.AvailabilityAndRegisters
  refine ⟨fun s => ?_, fun s a f v p d k => ?_, fun s c p a x v l hx hpart hp => ?_⟩
  · exact ⟨fun k im v h => firmwareUpdate_refused h im v,
      fun k im hk hpow => ⟨firmwareUpdate_bad_spec hk hpow im, firmwareUpdate_good_spec hk hpow im⟩,
      microcodeLoad_spec s, fun _ _ _ h => shadowAck_some h, fun _ _ h => shadowAck_none h,
      fun _ _ _ _ _ hp hi hg hpa => shadowMirrorReceive_spec hp hi hg hpa, fun _ p i pa data hg => shadowMirrorReceive_failed hg p i pa data,
      fun hpow hdue => ⟨_, heartbeat_due hpow hdue, rfl, rfl, rfl, rfl⟩, heartbeat_early, fun _ => rfl,
      fun _ => ⟨heartbeatMiss_ignored, heartbeatMiss_counted, heartbeatMiss_fifth⟩,
      fun _ _ _ _ a v h => buddyMap_refused h a v, fun _ _ _ _ a v hg hi hf hr => buddyMap_spec hg hi hf hr a v,
      fun _ f hn h => powerThrottle_on hn h f, fun _ f h => powerThrottle_off h f⟩
  · refine ⟨fun q h => registerWrite_misaligned h q, registerWrite_unpowered, registerWrite_safe, fun h => registerWrite_free h a f v, fun hpow hsafe => ?_, fun hp hst => ?_⟩
    · have hserves : s.pkg.serves = true := by simp [Package.serves, hpow, hsafe]
      exact ⟨registerWrite_town hserves f v, registerWrite_pcmd_busy hserves f v, registerWrite_rcmd_busy hserves f v, registerWrite_qbound hserves f v,
        registerWrite_lsl hserves f v, registerWrite_budget hserves f v, fun _ => registerWrite_mir hserves f v, registerWrite_rcmd_hbm hserves f v⟩
    · refine ⟨registerWrite_decayw hp hst f v, fun x hx => ?_, fun hon hd hk => ?_, fun hon hd => ?_, ?_⟩
      · have hword := fun k hk => registerWrite_asid hp hst f v (k := k) hx hk
        refine ⟨fun hb => (hword 0 (by decide)).trans ?_, fun hb => (hword 0 (by decide)).trans ?_, fun hgen => (hword 3 (by decide)).trans ?_,
          fun hgen => (hword 3 (by decide)).trans ?_, fun hen => ⟨_, hword 4 (by decide), ?_⟩, fun hen => ⟨_, hword 4 (by decide), ?_⟩⟩
        · rw [writeAsid_root, if_neg (by simp [hb])]
        · rw [writeAsid_root, if_pos hb]
        · rw [writeAsid_gen_next s p x v hgen]; rfl
        · rw [writeAsid_gen_other s p x v hgen]
        · rw [gstep_writeAsid, if_pos hen]
        · rw [gstep_writeAsid, hen, bits_zero_eq_mod]; rfl
      · refine ⟨registerWrite_queue hp hst f v (k := 0) hon hd hk (by decide), _, registerWrite_queue hp hst f v (k := 1) hon hd hk (by decide), ?_⟩
        rw [queue_setQueue]
        exact write_queue_control _ v
      · have hpage := fun ofs hofs h8 => registerWrite_page hp hst f v (ofs := ofs) hon hd hofs h8
        exact ⟨hpage 0x28 (by decide) (by decide), hpage 0x30 (by decide) (by decide),
          fun h => (hpage 0x10 (by decide) (by decide)).trans (congrArg _ (writeResolve_replay s p d h)),
          fun h => (hpage 0x10 (by decide) (by decide)).trans (congrArg _ (writeResolve_none s p d h))⟩
      · obtain ⟨hfirst, hsecond⟩ := readPartition_list hst
        obtain ⟨hid, hlen⟩ := fields_capHeader
        exact ⟨by rw [hfirst, hid], by rw [hfirst, hlen], hsecond⟩
  · refine ⟨fun ha hops h => ?_, fun y hy hin => ⟨fun hops => ?_, fun hops hstore => ?_⟩, fun hops h => ?_⟩
    · exact controlOn_read hx ha hops (controlAfter_eq_nil fun y hy hin => ⟨rfl, h y hy hin⟩)
    · exact controlOn_waits hx hops (controlAfter_ne_nil hy hin (.inl rfl))
    · exact controlOn_waits hx hops (controlAfter_ne_nil hy hin (.inr hstore))
    · rw [registerWrite_writeControl hp, controlOn_write hx hops (controlAfter_eq_nil fun y hy hin => absurd hin (h y hy))]

end Sys2Proof.Machine

/-! PROOF. A step runs the instruction at the PC of the path picked (O58). -/

namespace Sys2Proof.Machine

/-! ### What a fetch decodes (R92, R93) -/

theorem len_bytes_ge (n : Len) : 8 ≤ n.bytes := by cases n <;> decide

/-- A word that fits its 32-byte block and decodes is the instruction fetched. -/
theorem decodeAt_instr {s : State} {gk pid pc loc : Nat} {n : Len} {i : Instr} (hlen : Len.ofCode (s.word loc 8 % 4) = some n) (hfit : pc % 32 + n.bytes ≤ 32)
    (hdec : decode (s.word loc 8) (s.word (loc + 8) (n.bytes - 8)) = .ok i) : s.decodeAt gk pid pc loc = .instr i := by
  have hn := len_bytes_ge n
  simp only [State.decodeAt, if_neg (show ¬pc % 32 + 8 > 32 by omega), hlen, if_neg (Nat.not_lt.2 hfit), hdec]

/-- The state in which a fetch reads: a column sector fetched from is first stored by rows (R276). -/
def State.fetchedFrom (s : State) (h : Home) (loc : Nat) : State := if h = .cacheable then s.toRows loc 4 else s

theorem fetch_instr {s s1 : State} {gk pid loc d : Nat} {g : Group} {pc : Pc} {h : Home} {n : Len} {i : Instr}
    (hplace : s.place (quarterOf gk) (s.launch g.launch).part (s.launch g.launch).asid (s.isSys g) .fetch pc.toNat = (.at loc h d, s1))
    (hclean : (s1.fetchedFrom h loc).poisoned loc 1 = none) (hlen : Len.ofCode ((s1.fetchedFrom h loc).word loc 8 % 4) = some n) (hfit : pc.toNat % 32 + n.bytes ≤ 32)
    (hdec : decode ((s1.fetchedFrom h loc).word loc 8) ((s1.fetchedFrom h loc).word (loc + 8) (n.bytes - 8)) = .ok i) :
    s.fetch gk pid g pc = (.instr i, s1.fetchedFrom h loc) := by
  unfold State.fetch
  dsimp only
  rw [hplace]
  show (if ((s1.fetchedFrom h loc).poisoned loc 1).isSome then _ else (s1.fetchedFrom h loc).decodeAt gk pid pc.toNat loc, s1.fetchedFrom h loc) = _
  rw [hclean, decodeAt_instr hlen hfit hdec]
  rfl

/-! ### A quarter's turn (R258, R263) -/

@[simp] theorem launch_loseLatches (s : State) (q gk pid l : Nat) : (s.loseLatches q gk pid).launch l = s.launch l := by
  unfold State.loseLatches
  dsimp only
  split
  · split_ifs <;> rfl
  · rfl

/-- The path picked runs the instruction fetched, where its group has no WATCHDOG to take. -/
theorem turn_run {s t : State} {q : Nat} {k : Cand} {g : Group} {p : Path} {i : Instr} (hpick : ({ s with lastQ := q } : State).pick q = some k)
    (hg : mget? s.groups k.gk = some g) (hp : mget? g.paths k.pid = some p) (hwd : g.wdDue = false ∨ g.handler.isSome = true)
    (hfetch : (({ s with lastQ := q } : State).loseLatches q k.gk k.pid).fetch k.gk k.pid g p.pc = (.instr i, t)) :
    s.turn q = (.run k.gk k.pid i, { t with cur := some ⟨k.gk, k.pid⟩ }) := by
  have hnone : (g.wdDue && g.handler.isNone) = false := by
    rcases hwd with h | h
    · rw [h, Bool.false_and]
    · cases hh : g.handler with
      | none => simp [hh] at h
      | some _ => exact Bool.and_false _
  unfold State.turn
  simp only [hpick, hg, hp, hnone, hfetch, Bool.false_eq_true, if_false]

theorem issueAt_run {s t : State} {q gk pid : Nat} {i : Instr} (h : s.turn q = (.run gk pid i, t)) : issueAt q s = exec i t := by
  unfold issueAt
  rw [h]

/-! ### The step -/

/-- Quarter `q`'s turn comes, by the agenda or because no event has anything to do: the move issues there, in a state with the same groups and launches. -/
theorem move_issue {s s0 : State} {q : Nat}
    (h : (∃ l, s.agenda = .issue q :: l ∧ s0 = { s with agenda := l, lastQ := q }) ∨
      (s.agenda = [] ∧ s.firstEvent = none ∧ s.nextQuarter = some q ∧ s0 = { s with lastQ := q })) :
    ∃ u : State, move s = issueAt q u ∧ s0 = { u with lastQ := q } ∧ u.groups = s.groups ∧ s0.launches = s.launches := by
  rcases h with ⟨l, hagenda, rfl⟩ | ⟨hagenda, hevent, hquarter, rfl⟩
  · exact ⟨{ s with agenda := l }, by unfold move; rw [hagenda], rfl, rfl, rfl⟩
  · exact ⟨s, by unfold move; rw [hagenda]; simp only [hevent, hquarter], rfl, rfl, rfl⟩

/-- A step whose quarter runs an instruction: what `exec` does with it, and then what follows of itself. -/
theorem step_run {s u t : State} {q gk pid : Nat} {i : Instr} (hmove : move s = issueAt q u) (hturn : u.turn q = (.run gk pid i, t)) :
    step s = afterStep (exec i t) := by
  unfold step
  rw [hmove, issueAt_run hturn]

theorem step_event {s : State} {e : Instr} {l : List Move} (h : s.agenda = .event e :: l) : step s = afterStep (exec e { s with agenda := l }) := by
  unfold step move
  rw [h]

theorem step_ccore {s : State} {c : Nat} {x : CcOp} {l : List Move} (h : s.agenda = .ccore c x :: l) :
    step s = .next (({ s with agenda := l } : State).ccoreTake c x).after := by
  unfold step move
  rw [h]
  rfl

/-- Settles O58: a quarter's turn by the path it picks and what its fetch decodes, the other moves by the agenda. -/
theorem stepRunsDecoded : Obligations.StepRunsDecoded := by
  unfold Obligations.StepRunsDecoded
  refine ⟨fun s s0 s1 q loc d h k g p n i hturn hpick hg hp hplace hwd => ?_, fun s e l => step_event, fun s c x l => step_ccore,
    fun t => ⟨rfl, rfl, rfl⟩⟩
  intro s2 hclean hlen hfit hdec
  obtain ⟨u, hmove, hs0, hgroups, hlaunches⟩ := move_issue hturn
  have hlaunch : (s0.loseLatches q k.gk k.pid).launch g.launch = s.launch g.launch := by
    rw [launch_loseLatches, State.launch, State.launch, hlaunches]
  have hfetch := fetch_instr (gk := k.gk) (pid := k.pid) (g := g) (by rw [State.isSys, hlaunch]; exact hplace) hclean hlen hfit hdec
  subst hs0
  rw [← hgroups] at hg
  exact step_run hmove (turn_run hpick hg hp hwd hfetch)

end Sys2Proof.Machine

/-! PROOF. Repairs, errors, spares, patrol and budgets (O54). -/

namespace Sys2Proof

/-! ### Lists and maps -/

theorem listGet_listSet {α : Type} (d : α) (l : List α) {n : Nat} (v : α) (h : n < l.length) : listGet d (listSet l n v) n = v := by
  induction l generalizing n with
  | nil => simp at h
  | cons a l ih =>
    cases n with
    | zero => rfl
    | succ n => exact ih (by simpa using h)

theorem mem_insertLine (n m : Nat) (l : List Nat) : n ∈ Machine.insertLine m l ↔ n ∈ l ∨ n = m := by
  induction l with
  | nil => simp [Machine.insertLine]
  | cons a l ih =>
    unfold Machine.insertLine
    split_ifs with hlt heq
    · rw [List.mem_cons, or_comm]
    · exact (or_iff_left_of_imp fun h => by rw [h, heq]; exact List.mem_cons_self).symm
    · rw [List.mem_cons, ih, List.mem_cons, or_assoc]

theorem mem_of_mget? {α : Type} {m : Map α} {n : Nat} {a : α} (h : mget? m n = some a) : (n, a) ∈ m := by
  induction m with
  | nil => simp at h
  | cons x m ih =>
    obtain ⟨k, b⟩ := x
    rw [mget?_cons] at h
    split_ifs at h with hk
    · cases h; rw [hk]; exact List.mem_cons_self
    · exact List.mem_cons_of_mem _ (ih h)

theorem mem_mkeys {α : Type} {m : Map α} {p : Nat → α → Bool} {n : Nat} {a : α} (h : mget? m n = some a) (hp : p n a = true) : n ∈ mkeys m p :=
  List.mem_map.2 ⟨(n, a), List.mem_filter.2 ⟨mem_of_mget? h, hp⟩, rfl⟩

/-- Values that depend on the key alone. -/
theorem mget?_map_key {α β : Type} (m : Map α) (f : Nat → β) (n : Nat) : mget? (m.map fun x => (x.1, f x.1)) n = (mget? m n).map fun _ => f n := by
  induction m with
  | nil => rfl
  | cons x m ih =>
    obtain ⟨k, a⟩ := x
    rw [List.map_cons, mget?_cons, mget?_cons, ih]
    split_ifs with h
    · rw [h]; rfl
    · rfl

/-- The entries whose key meets a test. -/
theorem mget?_filter_key {α : Type} (m : Map α) (p : Nat → Bool) {n : Nat} (h : p n = true) : mget? (m.filter fun x => p x.1) n = mget? m n := by
  induction m with
  | nil => rfl
  | cons x m ih =>
    obtain ⟨k, a⟩ := x
    rw [List.filter_cons]
    by_cases hk : k = n
    · rw [if_pos (by simpa [hk] using h), mget?_cons, mget?_cons, if_pos hk, if_pos hk]
    · split_ifs <;> simp only [mget?_cons, if_neg hk, ih]

end Sys2Proof

namespace Sys2Proof.Machine

/-! ### Changes of the package's registers alone -/

/-- Of the machine only the package's own registers have changed. -/
def PkgOnly (s u : State) : Prop := u = { s with pkg := u.pkg }

namespace PkgOnly
variable {s t u : State}

theorem trans (h : PkgOnly s t) (k : PkgOnly t u) : PkgOnly s u := by
  unfold PkgOnly at *
  rw [k, h]

theorem mem (h : PkgOnly s u) : u.mem = s.mem := by rw [h]
theorem poison (h : PkgOnly s u) : u.poison = s.poison := by rw [h]
theorem groups (h : PkgOnly s u) : u.groups = s.groups := by rw [h]

end PkgOnly

theorem byte_zeroBytes_outside (s : State) (a n : Nat) {x : Nat} (h : x < a ∨ a + n ≤ x) : (s.zeroBytes a n).byte x = s.byte x := by
  unfold State.byte State.zeroBytes zeroRange zget mgetD
  rw [mget?_filter_key (α := Byte) s.mem (fun k => !(decide (a ≤ k) && decide (k < a + n)))]
  simp only [Bool.not_eq_true', Bool.and_eq_false_iff, decide_eq_false_iff_not]
  omega

/-! ### Budgets (R452, R453) -/

section Budgets
variable (s : State) (p a n : Nat)

theorem roll_of_period {x : Spent} {c : Nat} (h : x.period = c / 65536) : x.roll c = x := if_pos h

theorem roll_period (x : Spent) (c : Nat) : (x.roll c).period = c / 65536 := by
  by_cases h : x.period = c / 65536
  · rw [roll_of_period h, h]
  · unfold Spent.roll
    simp only [if_neg h]

/-- An account is of the period that its unit's counter stands in. -/
theorem period_spentBy : (s.spentBy p a n).period = s.budgetCycle a n / 65536 := by
  unfold State.spentBy
  dsimp only
  split
  · exact roll_period _ _
  · rfl

theorem spentBy_of_some {x : Spent} (h : mget? (s.budget p a).spent n = some x) : s.spentBy p a n = x.roll (s.budgetCycle a n) := by
  unfold State.spentBy
  simp only [h]

theorem roll_after {x : Spent} {c : Nat} (h : x.period + 1 = c / 65536) : x.roll c = { period := c / 65536, n := 0, last := x.n } := by
  unfold Spent.roll
  simp only [if_neg (show ¬x.period = c / 65536 by omega), if_pos h]

theorem roll_long_after {x : Spent} {c : Nat} (h : x.period + 1 < c / 65536) : x.roll c = { period := c / 65536, n := 0, last := 0 } := by
  unfold Spent.roll
  simp only [if_neg (show ¬x.period = c / 65536 by omega), if_neg (show ¬x.period + 1 = c / 65536 by omega)]

/-- The accounts of a budget as the end of its period leaves them. -/
def State.rolled : State := s.setBudget p a { s.budget p a with spent := (s.budget p a).spent.map fun x => (x.1, s.spentBy p a x.1) }

theorem budgetPeriod_eq : exec (.budgetPeriod p a) s = .next (s.rolled p a) := rfl

theorem spent_rolled : mget? ((s.rolled p a).budget p a).spent n = (mget? (s.budget p a).spent n).map fun _ => s.spentBy p a n := by
  rw [State.rolled, budget_setBudget]
  exact mget?_map_key _ _ _

/-- The end of a period changes no account as it is read: what is read is of the current period already. -/
theorem spentBy_rolled : (s.rolled p a).spentBy p a n = s.spentBy p a n := by
  have hspent := spent_rolled s p a n
  cases h : mget? (s.budget p a).spent n with
  | none =>
    rw [h] at hspent
    unfold State.spentBy
    simp only [h, hspent, Option.map_none]
    rfl
  | some x =>
    rw [h] at hspent
    rw [spentBy_of_some _ _ _ _ hspent]
    exact roll_of_period (period_spentBy s p a n)

theorem used_rolled : (s.rolled p a).used p a = s.used p a := by
  unfold State.used
  simp only [spentBy_rolled]
  rw [State.rolled, budget_setBudget, List.map_map]
  rfl

theorem period_rolled {x : Spent} (h : mget? ((s.rolled p a).budget p a).spent n = some x) : x.period = s.budgetCycle a n / 65536 := by
  rw [spent_rolled, Option.map_eq_some_iff] at h
  obtain ⟨_, -, rfl⟩ := h
  exact period_spentBy s p a n

theorem isSome_spend : (s.spend p a n).isSome = true ↔ (s.spentBy p a n).n < s.grant p a := by
  unfold State.spend State.unspent
  split_ifs with h
  · exact iff_of_true rfl (by omega)
  · exact iff_of_false (by simp) (by omega)

variable {s p a n} in
theorem spend_eq {t : State} (h : s.spend p a n = some t) : t = s.pay p a n 1 := by
  unfold State.spend at h
  split_ifs at h
  exact (Option.some.inj h).symm

/-- Spending changes the package's budgets alone. -/
def SpendsOnly (s t : State) : Prop := t = { s with pkg := { s.pkg with budgets := t.pkg.budgets } }

variable {s p a n} in
theorem spendsOnly_of_spend {t : State} (h : s.spend p a n = some t) : SpendsOnly s t := by rw [spend_eq h]; rfl

theorem SpendsOnly.pkgOnly {t : State} (h : SpendsOnly s t) : PkgOnly s t := by
  unfold PkgOnly
  rw [h]

theorem spentBy_pay : (s.pay p a n 1).spentBy p a n = { s.spentBy p a n with n := (s.spentBy p a n).n + 1 } := by
  have hspent : mget? ((s.pay p a n 1).budget p a).spent n = some { s.spentBy p a n with n := (s.spentBy p a n).n + 1 } := by
    unfold State.pay
    dsimp only
    rw [budget_setBudget, mget?_mset_self]
  rw [spentBy_of_some _ _ _ _ hspent]
  exact roll_of_period (period_spentBy s p a n)

/-- What a patrol or a copy goes on with: where a partition owns the bytes, its budget has paid; where none does, nothing is spent. -/
def Pays (s : State) (owner : Option Nat) (a n : Nat) : Prop := ∀ p, owner = some p → (s.spend p a n).isSome = true

end Budgets

/-! ### The error log (R451) -/

theorem logError_record (s : State) (pa kind unit : Nat) :
    ∃ r, mget? (s.logError pa kind unit).pkg.errlog s.pkg.errTail.toNat = some r ∧ r.pa = pa ∧ r.kind = kind ∧ r.unit = unit :=
  ⟨_, mget?_mset_self _ _ _, rfl, rfl, rfl⟩

theorem blockError_seen {s : State} {loc : Nat} (h : loc / 4096 ∈ s.pkg.errBlocks) (kind : Nat) : s.blockError loc kind = s := if_pos (by simpa using h)

theorem blockError_new {s : State} {loc : Nat} (h : loc / 4096 ∉ s.pkg.errBlocks) (kind : Nat) :
    s.blockError loc kind =
      (s.setPkg fun k => { k with errBlocks := loc / 4096 :: k.errBlocks }).logError (loc / 4096 * 4096) kind (unitOfLoc loc) := if_neg (by simpa using h)

/-- An error in a block changes the package's log and list of blocks alone, and the block is listed after it. -/
theorem blockError_frame (s : State) (loc kind : Nat) :
    PkgOnly s (s.blockError loc kind) ∧ (s.blockError loc kind).pkg.errCounts = s.pkg.errCounts ∧
      loc / 4096 ∈ (s.blockError loc kind).pkg.errBlocks := by
  by_cases h : loc / 4096 ∈ s.pkg.errBlocks
  · rw [blockError_seen h]; exact ⟨rfl, rfl, h⟩
  · rw [blockError_new h]; exact ⟨rfl, rfl, List.mem_cons_self⟩

theorem count_countError (s : State) (unit : Nat) :
    mgetD (s.countError unit).pkg.errCounts unit 0 = min (2 ^ 32 - 1) (mgetD s.pkg.errCounts unit 0 + 1) := mgetD_mset_self _ _ _ _

/-! ### Repair commands (R454, R455) -/

/-- What a repair that is refused or goes on leaves as it was: spares, the repair map and memory. -/
def SparesKept (s u : State) : Prop :=
  u.pkg.coreSpares = s.pkg.coreSpares ∧ u.pkg.rowSpares = s.pkg.rowSpares ∧ u.pkg.chanSpares = s.pkg.chanSpares ∧
    u.pkg.sramSpares = s.pkg.sramSpares ∧ u.pkg.laneSpares = s.pkg.laneSpares ∧ u.pkg.repairs = s.pkg.repairs ∧ u.mem = s.mem

/-- The command has ended with a status. -/
def RepairEnded (u : State) (n : Nat) : Prop := u.pkg.rcmd.busy = false ∧ u.pkg.rcmd.status = n

/-- The command register as a repair that is accepted leaves it. -/
def acceptedCommand (op t : Nat) : Rcmd :=
  { busy := true, status := 0, target := t, op := op, left := if 2 ≤ op ∧ op ≤ 4 then Config.repairBlocks op t else 0 }

theorem preemptGo_frame (s : State) (p die : Nat) (all : Bool) :
    (s.preemptGo p die all).pkg = s.pkg ∧ (s.preemptGo p die all).mem = s.mem ∧ (s.preemptGo p die all).groups = s.groups := by
  have hfold : ∀ (f : State → Team → Team) (l : List Nat) (u : State),
      (l.foldl (fun s c => s.modTeam c (f s)) u).pkg = u.pkg ∧ (l.foldl (fun s c => s.modTeam c (f s)) u).mem = u.mem ∧
        (l.foldl (fun s c => s.modTeam c (f s)) u).groups = u.groups := by
    intro f l
    induction l with
    | nil => exact fun u => ⟨rfl, rfl, rfl⟩
    | cons c l ih => exact fun u => ih _
  unfold State.preemptGo
  dsimp only
  split_ifs
  · exact ⟨rfl, rfl, rfl⟩
  · exact hfold (fun s x => { x with preempt := some _, since := s.dieCycle die }) _ _

/-- What a repair asks for does not hang on the command register. -/
@[simp] theorem targetOk_setRcmd (s : State) (x : Rcmd) (op t : Nat) : (s.setPkg fun k => { k with rcmd := x }).targetOk op t = s.targetOk op t := rfl
@[simp] theorem spareLeft_setRcmd (s : State) (x : Rcmd) (op t : Nat) : (s.setPkg fun k => { k with rcmd := x }).spareLeft op t = s.spareLeft op t := rfl

section Command
variable {s : State} {op t : Nat}

theorem repair_badTarget (h1 : 1 ≤ op) (h7 : op ≤ 7) (ht : s.targetOk op t = false) :
    s.repair op t = s.setPkg fun k => { k with rcmd := { busy := false, status := 2, target := t, op := op, left := 0 } } := by
  unfold State.repair
  dsimp only
  rw [if_neg (by simp; omega), if_pos (by simp [ht])]
  rfl

/-- A core without a spare is marked for the next cold start. -/
theorem repair_noSpare (h1 : 1 ≤ op) (h7 : op ≤ 7) (ht : s.targetOk op t = true) (hspare : s.spareLeft op t = false) :
    s.repair op t = s.setPkg fun k => { k with
      retire := if op = 1 then retireCoreOf t :: k.retire else k.retire, rcmd := { busy := false, status := 3, target := t, op := op, left := 0 } } := by
  unfold State.repair
  dsimp only
  rw [if_neg (by simp; omega), if_neg (by simp [ht]), if_pos (by simp [hspare])]
  split_ifs <;> rfl

/-- An accepted repair is BUSY, with its blocks to move; for a core its partition is pre-empted, which changes neither memory nor the groups. -/
theorem repair_accepted (h1 : 1 ≤ op) (h7 : op ≤ 7) (ht : s.targetOk op t = true) (hspare : s.spareLeft op t = true) :
    (s.repair op t).pkg = { s.pkg with rcmd := acceptedCommand op t } ∧ (s.repair op t).mem = s.mem ∧ (s.repair op t).groups = s.groups := by
  have hcommand : ({ busy := true, status := 0, target := t, op := op, left := if (decide (2 ≤ op) && decide (op ≤ 4)) = true then Config.repairBlocks op t else 0 } : Rcmd) =
      acceptedCommand op t := by simp [acceptedCommand]
  unfold State.repair
  dsimp only
  rw [if_neg (by simp; omega), if_neg (by simp [ht]), if_neg (by simp [hspare]), ← hcommand]
  by_cases hcore : op = 1
  · rw [if_pos hcore]
    split
    · exact preemptGo_frame _ _ _ _
    · exact ⟨rfl, rfl, rfl⟩
  · rw [if_neg hcore]
    exact ⟨rfl, rfl, rfl⟩

/-- A repair of anything but a core changes the command register alone, and the cores marked for retirement not at all. -/
theorem repair_frame (h : op ≠ 1) : s.repair op t = { s with pkg := { s.pkg with rcmd := (s.repair op t).pkg.rcmd } } := by
  unfold State.repair
  simp only [if_neg h]
  split_ifs <;> rfl

end Command

/-! ### Blocks moved to the spare (R456) -/

theorem repairBlockMove_idle {s : State} (h : s.pkg.rcmd.busy = false ∨ s.pkg.rcmd.left = 0) : exec .repairBlockMove s = .next s := by
  show execRepairBlockMove s = _
  unfold execRepairBlockMove
  rcases h with h | h <;> simp [h]

section Block
variable {s : State} (hbusy : s.pkg.rcmd.busy = true) (hleft : 0 < s.pkg.rcmd.left)
include hbusy hleft

theorem repairBlockMove_paid (h : Pays s (s.repairUnit s.pkg.rcmd.op s.pkg.rcmd.target).1 5 (s.repairUnit s.pkg.rcmd.op s.pkg.rcmd.target).2) :
    ∃ v, exec .repairBlockMove s = .next (v.setPkg fun k => { k with rcmd := { k.rcmd with left := k.rcmd.left - 1 } }) ∧ SpendsOnly s v := by
  have hexec : exec .repairBlockMove s = execRepairBlockMove s := rfl
  rw [hexec]
  unfold execRepairBlockMove
  dsimp only
  rw [if_neg (by simp [hbusy, hleft.ne'])]
  cases howner : (s.repairUnit s.pkg.rcmd.op s.pkg.rcmd.target).1 with
  | none => exact ⟨s, rfl, rfl⟩
  | some p =>
    obtain ⟨v, hv⟩ := Option.isSome_iff_exists.1 (h p howner)
    exact ⟨v, by simp only [hv], spendsOnly_of_spend hv⟩

theorem repairBlockMove_unpaid {p : Nat} (howner : (s.repairUnit s.pkg.rcmd.op s.pkg.rcmd.target).1 = some p)
    (h : s.spend p 5 (s.repairUnit s.pkg.rcmd.op s.pkg.rcmd.target).2 = none) : exec .repairBlockMove s = .next s := by
  show execRepairBlockMove s = _
  unfold execRepairBlockMove
  dsimp only
  rw [if_neg (by simp [hbusy, hleft.ne']), howner]
  simp only [h]

end Block

/-! ### A repair that is over (R455, R456) -/

theorem repairDone_idle {s : State} (h : s.pkg.rcmd.busy = false) (ok : Bool) : exec (.repairDone ok) s = .next s := by
  show execRepairDone ok s = _
  unfold execRepairDone
  simp [h]

/-- The repair map records what is done, but for a lane group, which has recorded itself; the command ends. -/
def State.repairRecorded (s v : State) : State :=
  (if s.pkg.rcmd.op = 5 then v else v.setPkg fun k => { k with repairs := k.repairs ++ [(s.pkg.rcmd.op, s.pkg.rcmd.target)] }).rcmdEnd 0

theorem repairRecorded_frame (s v : State) : s.repairRecorded v = { v with pkg := { v.pkg with
    rcmd := { v.pkg.rcmd with busy := false, status := 0 }
    repairs := if s.pkg.rcmd.op = 5 then v.pkg.repairs else v.pkg.repairs ++ [(s.pkg.rcmd.op, s.pkg.rcmd.target)] } } := by
  unfold State.repairRecorded
  split_ifs <;> rfl

section Done
variable {s : State} (hbusy : s.pkg.rcmd.busy = true)
include hbusy

theorem repairDone_failed : exec (.repairDone false) s = .next (s.rcmdEnd 4) := by
  show execRepairDone false s = _
  unfold execRepairDone
  simp [hbusy]

theorem repairDone_moving (hleft : 0 < s.pkg.rcmd.left) : exec (.repairDone true) s = .next s := by
  show execRepairDone true s = _
  unfold execRepairDone
  simp [hbusy, hleft]

theorem repairDone_waits (h : s.repaired s.pkg.rcmd.op s.pkg.rcmd.target = none) : exec (.repairDone true) s = .next s := by
  show execRepairDone true s = _
  unfold execRepairDone
  simp [hbusy, h]

theorem repairDone_over {v : State} (hleft : s.pkg.rcmd.left = 0) (h : s.repaired s.pkg.rcmd.op s.pkg.rcmd.target = some v) :
    exec (.repairDone true) s = .next (s.repairRecorded v) := by
  show execRepairDone true s = _
  unfold execRepairDone State.repairRecorded
  simp [hbusy, hleft, h]

end Done

/-! ### Lane groups (R448, R456, R459) -/

/-- A partition stopped by the bridge's loss. -/
def State.stopPart (s : State) (p : Nat) : State := (s.clearPart p).setPart p { s.part p with st := .stopped }

theorem st_stopPart (s : State) (p q : Nat) : ((s.stopPart p).part q).st = if q = p then .stopped else (s.part q).st := by
  unfold State.stopPart
  split_ifs with h
  · rw [h, part_setPart]
  · rw [part_setPart_ne _ _ h]; rfl

theorem foldl_stopPart (l : List Nat) (s : State) :
    (l.foldl State.stopPart s).pkg = s.pkg ∧ ∀ q, ((l.foldl State.stopPart s).part q).st = if q ∈ l then .stopped else (s.part q).st := by
  induction l generalizing s with
  | nil => simp
  | cons p l ih =>
    obtain ⟨hpkg, hst⟩ := ih (s.stopPart p)
    refine ⟨hpkg, fun q => ?_⟩
    rw [List.foldl_cons, hst, st_stopPart]
    by_cases hp : q = p <;> simp [hp]

/-- With the bridge down, every partition of the whole package stops. -/
theorem bridgeFails_spec (s : State) :
    s.bridgeFails.pkg = { s.pkg with bridgeDown := true } ∧
      ∀ p x, mget? s.parts p = some x → x.regions = 15 → x.st ≠ .free → (s.bridgeFails.part p).st = .stopped := by
  obtain ⟨hpkg, hst⟩ := foldl_stopPart (mkeys s.parts fun _ p => p.regions == 15 && p.st != .free) (s.setPkg fun k => { k with bridgeDown := true })
  refine ⟨hpkg, fun p x hx hregions hfree => (hst p).trans (if_pos (mem_mkeys hx ?_))⟩
  simp [hregions, hfree]

/-- A spare takes a lane group's place; where none is left, a live group is lost. -/
def State.laneTaken (s : State) (dir grp : Nat) : State :=
  let n := listGet 0 s.pkg.laneSpares dir
  if n > 0 then s.setPkg (fun k => { k with laneSpares := listSet k.laneSpares dir (n - 1), repairs := k.repairs ++ [(5, dir + grp * 2)] })
  else s.setPkg (fun k => { k with lanes := listSet k.lanes dir (k.live dir - 1) })

/-- A lane group replaced or lost, before the bridge is looked at: its failures are forgotten and the error is logged. -/
def State.laneReplaced (s : State) (dir grp : Nat) : State :=
  ((s.laneTaken dir grp).setPkg (fun k => { k with laneFails := merase k.laneFails (dir + grp * 2) })).logError 0 3 (unitOf dir 4 dir)

section Lane
variable (s : State) (dir grp : Nat)

theorem spareLane_eq : s.spareLane dir grp =
    if (decide ((s.laneReplaced dir grp).pkg.live dir ≤ 48) && !(s.laneReplaced dir grp).pkg.bridgeDown) = true then (s.laneReplaced dir grp).bridgeFails
    else s.laneReplaced dir grp := rfl

theorem laneTaken_frame : (s.laneTaken dir grp).pkg.bridgeDown = s.pkg.bridgeDown ∧ (s.laneTaken dir grp).parts = s.parts := by
  unfold State.laneTaken
  dsimp only
  split_ifs <;> exact ⟨rfl, rfl⟩

theorem laneFails_laneReplaced : mget? (s.laneReplaced dir grp).pkg.laneFails (dir + grp * 2) = none := mget?_merase_self _ _

theorem laneReplaced_frame : (s.laneReplaced dir grp).pkg.bridgeDown = s.pkg.bridgeDown ∧ (s.laneReplaced dir grp).parts = s.parts := by
  unfold State.laneReplaced State.logError State.setPkg
  exact laneTaken_frame s dir grp

/-- The bridge is down where it was, or where 48 live groups or fewer are left. -/
theorem pkg_spareLane : (s.spareLane dir grp).pkg =
    { (s.laneReplaced dir grp).pkg with bridgeDown := s.pkg.bridgeDown || decide ((s.laneReplaced dir grp).pkg.live dir ≤ 48) } := by
  obtain ⟨hdown, -⟩ := laneReplaced_frame s dir grp
  rw [spareLane_eq, ← hdown]
  generalize s.laneReplaced dir grp = u
  split_ifs with h
  · have hdown : (u.pkg.bridgeDown || decide (u.pkg.live dir ≤ 48)) = true := by simp_all
    rw [hdown, (bridgeFails_spec u).1]
  · have hkept : (u.pkg.bridgeDown || decide (u.pkg.live dir ≤ 48)) = u.pkg.bridgeDown := by cases hb : u.pkg.bridgeDown <;> simp_all
    rw [hkept]

theorem laneFails_spareLane : mget? (s.spareLane dir grp).pkg.laneFails (dir + grp * 2) = none := by
  rw [pkg_spareLane]
  exact laneFails_laneReplaced s dir grp

variable {s dir grp}

/-- Where a spare is left it takes the group's place, and the repair map records it. -/
theorem spareLane_spare (hlen : dir < s.pkg.laneSpares.length) (h : 0 < listGet 0 s.pkg.laneSpares dir) :
    listGet 0 (s.spareLane dir grp).pkg.laneSpares dir = listGet 0 s.pkg.laneSpares dir - 1 ∧ (s.spareLane dir grp).pkg.lanes = s.pkg.lanes ∧
      (s.spareLane dir grp).pkg.repairs = s.pkg.repairs ++ [(5, dir + grp * 2)] := by
  rw [pkg_spareLane, State.laneReplaced, State.laneTaken]
  dsimp only
  rw [if_pos h]
  exact ⟨listGet_listSet 0 _ _ hlen, rfl, rfl⟩

/-- Where none is left, a live group is lost. -/
theorem spareLane_lost (hlen : dir < s.pkg.lanes.length) (h : listGet 0 s.pkg.laneSpares dir = 0) :
    listGet 0 (s.spareLane dir grp).pkg.lanes dir = listGet 0 s.pkg.lanes dir - 1 := by
  rw [pkg_spareLane, State.laneReplaced, State.laneTaken]
  dsimp only
  rw [if_neg (by omega)]
  exact listGet_listSet 0 _ _ hlen

theorem spareLane_bridgeDown (h : listGet 0 (s.spareLane dir grp).pkg.lanes dir ≤ 48) : (s.spareLane dir grp).pkg.bridgeDown = true := by
  rw [pkg_spareLane] at h ⊢
  exact Bool.or_eq_true_iff.2 (.inr (decide_eq_true h))

theorem spareLane_stops (h : (s.spareLane dir grp).pkg.bridgeDown = true) (hup : s.pkg.bridgeDown = false) {p : Nat} {x : Part}
    (hx : mget? s.parts p = some x) (hregions : x.regions = 15) (hfree : x.st ≠ .free) : ((s.spareLane dir grp).part p).st = .stopped := by
  obtain ⟨hdown, hparts⟩ := laneReplaced_frame s dir grp
  have hlive : decide ((s.laneReplaced dir grp).pkg.live dir ≤ 48) = true := by simpa [pkg_spareLane, hup] using h
  rw [spareLane_eq, if_pos (by rw [hlive, hdown, hup]; rfl)]
  exact (bridgeFails_spec _).2 p x (by rw [hparts]; exact hx) hregions hfree

end Lane

theorem flitCrcError_counted {s : State} {d g : Nat} (h : mgetD s.pkg.laneFails (d % 2 + g % 64 * 2) 0 + 1 < 8) :
    exec (.flitCrcError d g) s =
      .next (s.setPkg fun x => { x with laneFails := mset x.laneFails (d % 2 + g % 64 * 2) (mgetD s.pkg.laneFails (d % 2 + g % 64 * 2) 0 + 1) }) := by
  show execFlitCrcError d g s = _
  unfold execFlitCrcError
  rw [if_pos h]

theorem flitCrcError_eighth {s : State} {d g : Nat} (h : 8 ≤ mgetD s.pkg.laneFails (d % 2 + g % 64 * 2) 0 + 1) :
    exec (.flitCrcError d g) s = .next (s.spareLane (d % 2) (g % 64)) := by
  show execFlitCrcError d g s = _
  unfold execFlitCrcError
  rw [if_neg (by omega)]

/-! ### A retired core (R19, R26, R457) -/

/-- The vault of a retired core's position holds what a new one does. -/
def State.vaultReplaced (s : State) (t : Nat) : State :=
  (s.zeroBytes (vaultLoc (t / 128) (t % 128) 0) (2 ^ 21)).rewrite (vaultLoc (t / 128) (t % 128) 0) ((Config.newVault s.tick).take (2 ^ 21))

/-- The partition of a core is told of the vault that is lost. -/
def State.tellLost (s : State) (c : Nat) : State :=
  match s.partOfCore c with
  | some p => s.setPart p { s.part p with vaultsLost := (s.part p).vaultsLost ++ [c] }
  | none => s

theorem byte_vaultReplaced_outside (s : State) (t : Nat) {x : Nat}
    (h : x < vaultLoc (t / 128) (t % 128) 0 ∨ vaultLoc (t / 128) (t % 128) 0 + 2 ^ 21 ≤ x) : (s.vaultReplaced t).byte x = s.byte x := by
  have hlen : ((Config.newVault s.tick).take (2 ^ 21)).length ≤ 2 ^ 21 := List.length_take_le _ _
  unfold State.vaultReplaced
  rw [byte_rewrite, if_neg (by omega), byte_zeroBytes_outside _ _ _ h]

theorem tellLost_frame (s : State) (c : Nat) : s.tellLost c = { s with parts := (s.tellLost c).parts } := by
  unfold State.tellLost
  split <;> rfl

theorem tellLost_told {s : State} {c p : Nat} (h : s.partOfCore c = some p) : c ∈ ((s.tellLost c).part p).vaultsLost := by
  unfold State.tellLost
  simp [h]

/-- A core without a team is retired: the spare takes its position. -/
theorem retireDone_eq {s : State} {t : Nat} (h : (s.core (retireCoreOf t)).team = none) :
    s.retireDone t = ((s.vaultReplaced t).tellLost (retireCoreOf t)).setPkg (fun k => { k with
      coreSpares := listSet k.coreSpares (regionOfCore (retireCoreOf t)) (listGet 0 k.coreSpares (regionOfCore (retireCoreOf t)) - 1)
      sites := mset k.sites (retireCoreOf t) (s.nextSpare (retireCoreOf t))
      islands := merase k.islands (retireCoreOf t) }) := by
  have hpkg : ((s.vaultReplaced t).tellLost (retireCoreOf t)).pkg = s.pkg := by rw [tellLost_frame]; rfl
  have hsite : ((s.vaultReplaced t).tellLost (retireCoreOf t)).nextSpare (retireCoreOf t) = s.nextSpare (retireCoreOf t) := by
    unfold State.nextSpare
    rw [hpkg]
  rw [← hsite]
  unfold State.retireDone
  simp only [h]
  rfl

theorem regionOfCore_retire_lt {t : Nat} (h : t < 256) (hpos : t % 128 < 96) : regionOfCore (retireCoreOf t) < 4 := by
  have hdie : dieOfCore (retireCoreOf t) < 2 := by unfold dieOfCore retireCoreOf; omega
  unfold regionOfCore
  split_ifs <;> omega

/-- What a retirement leaves: the spare's site and island, one spare less, the loss told, and memory outside the vault. -/
theorem retireDone_spec {s : State} {t : Nat} (h : (s.core (retireCoreOf t)).team = none) :
    (s.retireDone t).pkg.repairs = s.pkg.repairs ∧ mget? (s.retireDone t).pkg.sites (retireCoreOf t) = some (s.nextSpare (retireCoreOf t)) ∧
      mget? (s.retireDone t).pkg.islands (retireCoreOf t) = none ∧
      (∀ p, s.partOfCore (retireCoreOf t) = some p → retireCoreOf t ∈ ((s.retireDone t).part p).vaultsLost) ∧
      (s.retireDone t).pkg.coreSpares =
        listSet s.pkg.coreSpares (regionOfCore (retireCoreOf t)) (listGet 0 s.pkg.coreSpares (regionOfCore (retireCoreOf t)) - 1) ∧
      ∀ x, (x < vaultLoc (t / 128) (t % 128) 0 ∨ vaultLoc (t / 128) (t % 128) 0 + 2 ^ 21 ≤ x) → (s.retireDone t).byte x = s.byte x := by
  have hframe := tellLost_frame (s.vaultReplaced t) (retireCoreOf t)
  have hpkg : ((s.vaultReplaced t).tellLost (retireCoreOf t)).pkg = s.pkg := by rw [hframe]; rfl
  have hbyte : ∀ x, ((s.vaultReplaced t).tellLost (retireCoreOf t)).byte x = (s.vaultReplaced t).byte x := fun x => by rw [hframe]; rfl
  rw [retireDone_eq h]
  refine ⟨?_, mget?_mset_self _ _ _, mget?_merase_self _ _, fun p hp => tellLost_told (s := s.vaultReplaced t) hp, ?_, fun x hx => ?_⟩
  · rw [← hpkg]; rfl
  · rw [← hpkg]; rfl
  · exact (hbyte x).trans (byte_vaultReplaced_outside s t hx)

theorem repaired_retire {s : State} {t : Nat} (h : s.retireReady t = true) : s.repaired 1 t = some (s.retireDone t) := if_pos h

theorem repaired_retire_waits {s : State} {t : Nat} (h : s.retireReady t = false) : s.repaired 1 t = none := if_neg (by simp [h])

/-- A control core whose region no partition holds goes out of service. -/
theorem repaired_ccore {s : State} {t : Nat} (h : s.partOfRegion (t / 4) = none) :
    s.repaired 7 t = some (s.setPkg fun k => { k with ccoresDown := t :: k.ccoresDown }) := by
  have hpart : (s.setPkg fun k => { k with ccoresDown := t :: k.ccoresDown }).partOfRegion (t / 4) = none := h
  show s.dropCcore t = _
  unfold State.dropCcore
  simp only [hpart]

/-- One more spare used, at a key. -/
def oneMore (m : Map Nat) (k : Nat) : Map Nat := mset m k (mgetD m k 0 + 1)

/-- A row, a channel, an SRAM row, a lane group or a port is repaired at once, with its own count of spares. -/
theorem repaired_spare (s : State) {op t : Nat} (h2 : 2 ≤ op) (h6 : op ≤ 6) : ∃ v, s.repaired op t = some v ∧
    (op ≠ 5 → v.pkg.repairs = s.pkg.repairs ∧ v.mem = s.mem ∧ v.groups = s.groups) ∧
    (op = 2 → v.pkg.rowSpares = oneMore s.pkg.rowSpares (Config.hbmChannel t)) ∧ (op = 3 → v.pkg.chanSpares = oneMore s.pkg.chanSpares (stackOf t)) ∧
    (op = 4 → v.pkg.sramSpares = oneMore s.pkg.sramSpares (t % 512)) ∧ (op = 6 → v.pkg.portsDown = t :: s.pkg.portsDown) ∧
    (op = 5 → v = s.spareLane (t % 2) (t / 2)) := by
  interval_cases op <;> exact ⟨_, rfl, by simp [oneMore, State.setPkg]⟩

/-! ### Errors (R448, R449) -/

/-- Counting an error against an SRAM row, and the repair it may start, leave all but the row's count and the command register. -/
theorem rowError_frame (s : State) (loc : Nat) :
    s.rowError loc = { s with pkg := { s.pkg with rcmd := (s.rowError loc).pkg.rcmd, rowErrs := (s.rowError loc).pkg.rowErrs } } := by
  unfold State.rowError
  dsimp only
  split_ifs
  · rfl
  · rw [repair_frame (show 4 ≠ 1 by decide)]; rfl
  · rfl

theorem eccCorrected_line_spec (s : State) (loc : Nat) :
    ∃ u, exec (.eccCorrected (.line loc)) s = .next u ∧ PkgOnly s u ∧
      mgetD u.pkg.errCounts (unitOfLoc loc) 0 = min (2 ^ 32 - 1) (mgetD s.pkg.errCounts (unitOfLoc loc) 0 + 1) ∧ loc / 4096 ∈ u.pkg.errBlocks := by
  obtain ⟨hblock, hcounts, hlisted⟩ := blockError_frame s loc 0
  have hcount : PkgOnly (s.blockError loc 0) ((s.blockError loc 0).countError (unitOfLoc loc)) := rfl
  have hrow := rowError_frame ((s.blockError loc 0).countError (unitOfLoc loc)) loc
  refine ⟨((s.blockError loc 0).countError (unitOfLoc loc)).rowError loc, rfl, (hblock.trans hcount).trans ?_, ?_, ?_⟩
  · unfold PkgOnly; rw [hrow]
  · rw [hrow, ← hcounts]; exact count_countError _ _
  · rw [hrow]; exact hlisted

theorem eccCorrected_register_spec (s : State) (gk pid : Nat) :
    ∃ u, exec (.eccCorrected (.register gk pid)) s = .next u ∧ PkgOnly s u ∧
      mgetD u.pkg.errCounts (unitOf (dieOf gk) 0 (coreOf gk % 96)) 0 =
        min (2 ^ 32 - 1) (mgetD s.pkg.errCounts (unitOf (dieOf gk) 0 (coreOf gk % 96)) 0 + 1) := by
  refine ⟨_, rfl, ?_, ?_⟩
  · dsimp only
    split_ifs <;> rfl
  · rw [count_countError]
    split_ifs <;> rfl

theorem eccUncorrectable_line_spec (s : State) (loc : Nat) :
    ∃ u, exec (.eccUncorrectable (.line loc)) s = .next u ∧ u.mem = s.mem ∧ u.groups = s.groups ∧ (∀ n, n ∈ u.poison ↔ n ∈ s.poison ∨ n = loc / 32) ∧
      (loc / 4096 ∉ s.pkg.errBlocks → ∃ r, mget? u.pkg.errlog s.pkg.errTail.toNat = some r ∧ r.pa = loc / 4096 * 4096 ∧ r.kind = 1 ∧ r.unit = unitOfLoc loc) := by
  obtain ⟨hpkg, -, -⟩ := blockError_frame (s.poisonLine loc) loc 1
  refine ⟨(s.poisonLine loc).blockError loc 1, rfl, hpkg.mem, hpkg.groups, fun n => ?_, fun hnew => ?_⟩
  · rw [hpkg.poison]; exact mem_insertLine n _ _
  · rw [blockError_new (s := s.poisonLine loc) hnew]; exact logError_record _ _ _ _

/-- A path that reads its registers takes a trap at once, at its own PC. -/
theorem trapWait_of_reads {s : State} {gk pid : Nat} (h : s.reads gk pid = true) (t : Trap) :
    s.trapWait gk pid t = s.trapAt gk pid t (s.pcOf gk pid) (s.pcOf gk pid) := by
  have hfacts : s.trapHeld gk pid = false ∧ s.fpcOf gk pid = s.pcOf gk pid := by
    unfold State.reads at h
    cases hg : mget? s.groups gk with
    | none => simp [hg] at h
    | some g =>
      cases hp : mget? g.paths pid with
      | none => simp [hg, hp] at h
      | some p =>
        simp only [hg, hp, Bool.and_eq_true, Bool.not_eq_true'] at h
        obtain ⟨⟨-, hheld⟩, -, hst⟩ := h
        refine ⟨hheld, ?_⟩
        unfold State.fpcOf State.pcOf
        cases hs : p.st <;> simp_all
  obtain ⟨hheld, hpc⟩ := hfacts
  unfold State.trapWait
  rw [hheld, hpc, if_neg (by decide)]

theorem eccUncorrectable_register_ignored {s : State} {gk pid : Nat} (h : s.reads gk pid = false) :
    exec (.eccUncorrectable (.register gk pid)) s = .next s := by
  show execEccUncorrectable (.register gk pid) s = _
  simp only [execEccUncorrectable, h, Bool.false_eq_true, if_false]

theorem eccUncorrectable_register_traps {s : State} {gk pid : Nat} (h : s.reads gk pid = true) :
    exec (.eccUncorrectable (.register gk pid)) s =
      .next ((s.logError 0 2 (unitOf (dieOf gk) 0 (coreOf gk % 96))).trapAt gk pid ⟨.mchk, 0⟩ (s.pcOf gk pid) (s.pcOf gk pid)) := by
  show execEccUncorrectable (.register gk pid) s = _
  simp only [execEccUncorrectable, h, if_true]
  exact congrArg _ (trapWait_of_reads (s := s.logError 0 2 _) h _)

/-! ### Patrol (R450) -/

section Scrub
variable {s : State} {n : Nat}

theorem scrubBeat_paid (h : Pays s (s.patrolPart (n % 10) (mgetD s.pkg.patrol (n % 10) 0)) 0 (300 + n % 10)) :
    ∃ v, exec (.scrubBeat n) s = .next (v.setPkg fun k => { k with
      patrol := mset k.patrol (n % 10) ((mgetD s.pkg.patrol (n % 10) 0 + 64) % patrolSize (n % 10)) }) ∧ SpendsOnly s v := by
  have hexec : exec (.scrubBeat n) s = execScrubBeat n s := rfl
  rw [hexec]
  unfold execScrubBeat
  dsimp only
  cases howner : s.patrolPart (n % 10) (mgetD s.pkg.patrol (n % 10) 0) with
  | none => exact ⟨s, rfl, rfl⟩
  | some p =>
    obtain ⟨v, hv⟩ := Option.isSome_iff_exists.1 (h p howner)
    exact ⟨v, by simp only [hv], spendsOnly_of_spend hv⟩

theorem scrubBeat_unpaid (h : ¬Pays s (s.patrolPart (n % 10) (mgetD s.pkg.patrol (n % 10) 0)) 0 (300 + n % 10)) : exec (.scrubBeat n) s = .next s := by
  obtain ⟨p, hp⟩ := not_forall.1 h
  obtain ⟨howner, hspend⟩ := Classical.not_imp.1 hp
  have hexec : exec (.scrubBeat n) s = execScrubBeat n s := rfl
  rw [hexec]
  unfold execScrubBeat
  dsimp only
  rw [howner]
  simp only [Option.not_isSome_iff_eq_none.1 hspend]

end Scrub

/-! ### Clauses on commands and their ends -/

section Clauses
variable {s : State}

theorem exec_repairCommand {i : Instr} {op t a b c : Nat}
    (h : (i = .retireCore a b ∧ op = 1 ∧ t = a % 2 * 128 + b % 128) ∨ (i = .hbmRow a ∧ op = 2 ∧ t = a % 2 ^ 40) ∨ (i = .hbmChannel a ∧ op = 3 ∧ t = a % 2 ^ 40) ∨
      (i = .sramRow a b c ∧ op = 4 ∧ t = a % 2 + b % 256 * 2 + c % 65536 * 2 ^ 16) ∨ (i = .lane a b ∧ op = 5 ∧ t = a % 2 + b % 128 * 2) ∨
      (i = .port a ∧ op = 6 ∧ t = a % 2 ^ 40) ∨ (i = .ccore a ∧ op = 7 ∧ t = a % 2 ^ 40)) :
    exec i s = repairCommand op t s ∧ 1 ≤ op ∧ op ≤ 7 := by
  rcases h with ⟨rfl, rfl, rfl⟩ | ⟨rfl, rfl, rfl⟩ | ⟨rfl, rfl, rfl⟩ | ⟨rfl, rfl, rfl⟩ | ⟨rfl, rfl, rfl⟩ | ⟨rfl, rfl, rfl⟩ | ⟨rfl, rfl, rfl⟩ <;>
    exact ⟨rfl, by decide, by decide⟩

theorem repairCommand_discarded (h : s.pkg.rcmd.busy = true ∨ s.pkg.serves = false) (op t : Nat) : repairCommand op t s = .next s := by
  unfold repairCommand
  rcases h with h | h <;> simp [h]

theorem repair_accepted_spec {op t : Nat} (h1 : 1 ≤ op) (h7 : op ≤ 7) (ht : s.targetOk op t = true) (hspare : s.spareLeft op t = true) :
    (s.repair op t).pkg.rcmd = acceptedCommand op t ∧ SparesKept s (s.repair op t) ∧ (s.repair op t).groups = s.groups := by
  obtain ⟨hpkg, hmem, hgroups⟩ := repair_accepted h1 h7 ht hspare
  unfold SparesKept
  rw [hpkg]
  exact ⟨rfl, ⟨rfl, rfl, rfl, rfl, rfl, rfl, hmem⟩, hgroups⟩

theorem repairBlockMove_spec (hbusy : s.pkg.rcmd.busy = true) (hleft : 0 < s.pkg.rcmd.left)
    (h : Pays s (s.repairUnit s.pkg.rcmd.op s.pkg.rcmd.target).1 5 (s.repairUnit s.pkg.rcmd.op s.pkg.rcmd.target).2) :
    ∃ u, exec .repairBlockMove s = .next u ∧ u.pkg.rcmd.left = s.pkg.rcmd.left - 1 ∧ u.pkg.rcmd.busy = true ∧ SparesKept s u := by
  obtain ⟨v, hexec, hv⟩ := repairBlockMove_paid hbusy hleft h
  refine ⟨_, hexec, ?_⟩
  rw [hv]
  exact ⟨rfl, hbusy, rfl, rfl, rfl, rfl, rfl, rfl, rfl⟩

section Over
variable (hbusy : s.pkg.rcmd.busy = true) (hleft : s.pkg.rcmd.left = 0)
include hbusy hleft

theorem repairDone_spare_spec (h2 : 2 ≤ s.pkg.rcmd.op) (h6 : s.pkg.rcmd.op ≤ 6) :
    ∃ u, exec (.repairDone true) s = .next u ∧ RepairEnded u 0 ∧
      (s.pkg.rcmd.op ≠ 5 → u.pkg.repairs = s.pkg.repairs ++ [(s.pkg.rcmd.op, s.pkg.rcmd.target)] ∧ u.mem = s.mem ∧ u.groups = s.groups) ∧
      (s.pkg.rcmd.op = 2 → u.pkg.rowSpares = oneMore s.pkg.rowSpares (Config.hbmChannel s.pkg.rcmd.target)) ∧
      (s.pkg.rcmd.op = 3 → u.pkg.chanSpares = oneMore s.pkg.chanSpares (stackOf s.pkg.rcmd.target)) ∧
      (s.pkg.rcmd.op = 4 → u.pkg.sramSpares = oneMore s.pkg.sramSpares (s.pkg.rcmd.target % 512)) ∧
      (s.pkg.rcmd.op = 6 → u.pkg.portsDown = s.pkg.rcmd.target :: s.pkg.portsDown) ∧
      (s.pkg.rcmd.op = 5 → s.pkg.laneSpares.length = 2 → 0 < listGet 0 s.pkg.laneSpares (s.pkg.rcmd.target % 2) →
        listGet 0 u.pkg.laneSpares (s.pkg.rcmd.target % 2) = listGet 0 s.pkg.laneSpares (s.pkg.rcmd.target % 2) - 1 ∧ u.pkg.lanes = s.pkg.lanes ∧
          u.pkg.repairs = s.pkg.repairs ++ [(5, s.pkg.rcmd.target % 2 + s.pkg.rcmd.target / 2 * 2)]) := by
  obtain ⟨v, hv, hrest, hrow, hchan, hsram, hport, hlane⟩ := repaired_spare s (t := s.pkg.rcmd.target) h2 h6
  refine ⟨_, repairDone_over hbusy hleft hv, ?_⟩
  rw [repairRecorded_frame]
  refine ⟨⟨rfl, rfl⟩, fun h5 => ?_, hrow, hchan, hsram, hport, fun h5 hlen hspare => ?_⟩
  · obtain ⟨hmap, hmem, hgroups⟩ := hrest h5
    exact ⟨(if_neg h5).trans (by rw [hmap]), hmem, hgroups⟩
  · obtain ⟨hspares, hlanes, hmap⟩ := spareLane_spare (grp := s.pkg.rcmd.target / 2) (by rw [hlen]; exact Nat.mod_lt _ (by decide)) hspare
    rw [hlane h5]
    exact ⟨hspares, hlanes, (if_pos h5).trans hmap⟩

theorem repairDone_retire_spec {c : Nat} (hc : c = retireCoreOf s.pkg.rcmd.target) (hop : s.pkg.rcmd.op = 1) (hready : s.retireReady s.pkg.rcmd.target = true)
    (hteam : (s.core c).team = none) (hregion : regionOfCore c < s.pkg.coreSpares.length) :
    ∃ u, exec (.repairDone true) s = .next u ∧ RepairEnded u 0 ∧ u.pkg.repairs = s.pkg.repairs ++ [(1, s.pkg.rcmd.target)] ∧
      mget? u.pkg.sites c = some (s.nextSpare c) ∧ mget? u.pkg.islands c = none ∧ (∀ p, s.partOfCore c = some p → c ∈ (u.part p).vaultsLost) ∧
      listGet 0 u.pkg.coreSpares (regionOfCore c) = listGet 0 s.pkg.coreSpares (regionOfCore c) - 1 ∧
      (∀ x, (x < vaultLoc (s.pkg.rcmd.target / 128) (s.pkg.rcmd.target % 128) 0 ∨ vaultLoc (s.pkg.rcmd.target / 128) (s.pkg.rcmd.target % 128) 0 + 2 ^ 21 ≤ x) →
        u.byte x = s.byte x) := by
  subst hc
  have hv : s.repaired s.pkg.rcmd.op s.pkg.rcmd.target = some (s.retireDone s.pkg.rcmd.target) := by rw [hop]; exact repaired_retire hready
  obtain ⟨hmap, hsite, hisland, htold, hspares, hbyte⟩ := retireDone_spec hteam
  refine ⟨_, repairDone_over hbusy hleft hv, ?_⟩
  rw [repairRecorded_frame]
  refine ⟨⟨rfl, rfl⟩, (if_neg (by rw [hop]; decide)).trans (by rw [hmap, hop]), hsite, hisland, htold, ?_, hbyte⟩
  exact (congrArg (listGet 0 · _) hspares).trans (listGet_listSet 0 _ _ hregion)

theorem repairDone_ccore_spec (hop : s.pkg.rcmd.op = 7) (hpart : s.partOfRegion (s.pkg.rcmd.target / 4) = none) :
    ∃ u, exec (.repairDone true) s = .next u ∧ RepairEnded u 0 ∧ u.pkg.ccoresDown = s.pkg.rcmd.target :: s.pkg.ccoresDown := by
  have hv := repaired_ccore hpart
  rw [← hop] at hv
  refine ⟨_, repairDone_over hbusy hleft hv, ?_⟩
  rw [repairRecorded_frame]
  exact ⟨⟨rfl, rfl⟩, rfl⟩

end Over

theorem scrubBeat_spec {n : Nat} (h : Pays s (s.patrolPart (n % 10) (mgetD s.pkg.patrol (n % 10) 0)) 0 (300 + n % 10)) :
    ∃ u, exec (.scrubBeat n) s = .next u ∧ mgetD u.pkg.patrol (n % 10) 0 = (mgetD s.pkg.patrol (n % 10) 0 + 64) % patrolSize (n % 10) ∧ PkgOnly s u := by
  obtain ⟨v, hexec, hv⟩ := scrubBeat_paid h
  exact ⟨_, hexec, mgetD_mset_self _ _ _ _, hv.pkgOnly.trans rfl⟩

end Clauses

/-! ### The statement -/

/-- Settles O54: each command and event by the lemma on it. -/
theorem repairsAndErrors : Obligations.RepairsAndErrors := by
  unfold Obligations.RepairsAndErrors
  refine ⟨fun s i op t a b c hi => ?_, fun s => ?_⟩
  · obtain ⟨hexec, h1, h7⟩ := exec_repairCommand (s := s) hi
    rw [hexec]
    intro r ended kept plus
    refine ⟨fun h => repairCommand_discarded h op t, fun hfree hserves => ?_, repairBlockMove_idle, fun hbusy hleft => ?_, fun v h => repairDone_idle h v,
      fun hbusy => ⟨_, repairDone_failed hbusy, ⟨rfl, rfl⟩, rfl, rfl, rfl, rfl, rfl, rfl, rfl⟩, repairDone_moving, fun hbusy _ hop hready => ?_, fun hbusy hleft => ?_⟩
    · rw [repairCommand_served hfree hserves]
      refine ⟨fun ht => ⟨_, rfl, ?_⟩, fun ht hspare => ⟨_, rfl, ?_⟩, fun ht hspare => ⟨_, rfl, ?_⟩⟩
      · rw [repair_badTarget h1 h7 ht]
        exact ⟨⟨rfl, rfl⟩, ⟨rfl, rfl, rfl, rfl, rfl, rfl, rfl⟩, rfl⟩
      · rw [repair_noSpare h1 h7 ht hspare]
        exact ⟨⟨rfl, rfl⟩, ⟨rfl, rfl, rfl, rfl, rfl, rfl, rfl⟩, rfl⟩
      · obtain ⟨hcommand, hkept, hgroups⟩ := repair_accepted_spec h1 h7 ht hspare
        rw [hcommand]
        exact ⟨rfl, rfl, rfl, rfl, hkept, hgroups⟩
    · exact ⟨repairBlockMove_spec hbusy hleft, fun _ => repairBlockMove_unpaid hbusy hleft⟩
    · exact repairDone_waits hbusy (by rw [hop]; exact repaired_retire_waits hready)
    · refine ⟨repairDone_spare_spec hbusy hleft, fun hop hready hteam hlen h256 h96 => ?_, repairDone_ccore_spec hbusy hleft⟩
      exact repairDone_retire_spec hbusy hleft rfl hop hready hteam (by rw [hlen]; exact regionOfCore_retire_lt h256 h96)
  · refine ⟨fun loc => ?_, eccCorrected_register_spec s, eccUncorrectable_line_spec s,
      fun gk pid => ⟨eccUncorrectable_register_ignored, fun h => ⟨_, eccUncorrectable_register_traps h, rfl, rfl⟩⟩, fun d g => ⟨flitCrcError_counted, fun h8 hlen hlanes => ?_⟩,
      fun n => ⟨scrubBeat_spec, scrubBeat_unpaid⟩, fun pa kind unit => ⟨rfl, rfl, logError_record s pa kind unit⟩,
      fun p a => ⟨_, budgetPeriod_eq s p a, rfl, ?_, used_rolled s p a, fun n => ⟨spentBy_rolled s p a n, fun x => period_rolled s p a n⟩⟩,
      fun p a n x hx => ?_, fun p a n => ⟨isSome_spend s p a n, fun t ht => ⟨(spendsOnly_of_spend ht).pkgOnly, ?_⟩⟩⟩
    · obtain ⟨u, hexec, hpkg, hcount, hlisted⟩ := eccCorrected_line_spec s loc
      exact ⟨u, hexec, hpkg.mem, hpkg.poison, hpkg.groups, hcount, hlisted⟩
    · have hdir : d % 2 < 2 := Nat.mod_lt _ (by decide)
      refine ⟨_, flitCrcError_eighth h8, laneFails_spareLane s (d % 2) (g % 64), fun hspare => ?_, spareLane_lost (by rw [hlanes]; exact hdir),
        spareLane_bridgeDown, fun hdown hup p x => spareLane_stops hdown hup⟩
      obtain ⟨hspares, hlanes, -⟩ := spareLane_spare (grp := g % 64) (by rw [hlen]; exact hdir) hspare
      exact ⟨hspares, hlanes⟩
    · rw [State.rolled, budget_setBudget]
    · rw [spentBy_of_some s p a n hx]
      exact ⟨roll_of_period, roll_after, roll_long_after⟩
    · rw [spend_eq ht, spentBy_pay]

end Sys2Proof.Machine

/-! PROOF. What the instructions and events of O6, O13, O24 and O38 share: what the word of an instruction that issues shows, what its checks raise,
and what the ends of an instruction write. -/

namespace Sys2Proof

/-! ### The word of a well-formed instruction (R121) -/

section Word
variable {x : Enc}

theorem fieldReject_of_wf {i : Instr} (h : i.WF = true) (hx : i.enc = some x) : fieldReject x = none := by
  simp only [Instr.WF, Instr.check, hx, Option.isNone_iff_eq_none, Option.or_eq_none_iff] at h
  obtain ⟨⟨-, hfield⟩, -⟩ := h
  exact hfield

theorem roleOk_d_of_fieldReject (h : fieldReject x = none) : roleOk x.uni x.shape.d x.o.d = true := by
  unfold fieldReject at h
  dsimp only at h
  split_ifs at h with hsel
  simp only [Bool.or_eq_true, Bool.not_eq_true', not_or, Bool.not_eq_false, Bool.and_eq_true] at hsel
  obtain ⟨-, ⟨⟨⟨⟨⟨hd, -⟩, -⟩, -⟩, -⟩, -⟩⟩ := hsel
  exact hd

theorem uOk_of_fieldReject (h : fieldReject x = none) : x.o.hdr.u = true → x.shape.uOk = true := by
  unfold fieldReject at h
  dsimp only at h
  split_ifs at h with _ _ _ hlatch
  simp only [Bool.or_eq_true, Bool.and_eq_true, Bool.not_eq_true', not_or, not_and, Bool.not_eq_false] at hlatch
  obtain ⟨⟨hu, -⟩, -⟩ := hlatch
  exact hu

theorem ch_of_fieldReject (h : fieldReject x = none) (hchain : x.shape.noChain = true) : x.o.hdr.ch = false := by
  unfold fieldReject at h
  dsimp only at h
  split_ifs at h with _ _ _ _ _ hch
  simpa [hchain] using hch

/-- An immediate that replaces a source leaves the destination's role and the chain rule. -/
theorem replaceLast_d (sh : Shape) : (replaceLast sh).d = sh.d := by
  unfold replaceLast
  split_ifs <;> rfl

theorem replaceLast_noChain (sh : Shape) : (replaceLast sh).noChain = sh.noChain := by
  unfold replaceLast
  split_ifs <;> rfl

theorem shape_d_of_row {r : OpRow} {ro : Role} (hr : opRow x.op = some r) (hd : (r.shape x.m (immLen x.o.imm)).d = ro) : x.shape.d = ro := by
  rw [← hd]
  simp only [Enc.shape, hr, formShape]
  split_ifs <;> simp only [replaceLast_d]

theorem shape_noChain_of_row {r : OpRow} {b : Bool} (hr : opRow x.op = some r) (hb : (r.shape x.m (immLen x.o.imm)).noChain = b) : x.shape.noChain = b := by
  rw [← hb]
  simp only [Enc.shape, hr, formShape]
  split_ifs <;> simp only [replaceLast_noChain]

end Word

end Sys2Proof

namespace Sys2Proof.Machine

/-! ### What an instruction that issues is -/

theorem enter_frame (c : Ctx) : c.enter = { c with s := c.enter.s } := by
  unfold Ctx.enter
  split_ifs
  · rfl
  · split
    · split_ifs <;> rfl
    · rfl
  · rfl

theorem capture_frame (c : Ctx) : c.capture = { c with s := c.capture.s, g := c.capture.g } := by
  unfold Ctx.capture
  split_ifs <;> rfl

section Issued
variable {i : Instr} {s : State} {c e : Ctx}

theorem ops_of_issues {x : Enc} (h : Issues i s c e) (hx : i.enc = some x) : c.o = x.o ∧ e.o = x.o := by
  obtain ⟨-, ⟨c0, h0, rfl⟩, -, -, -, -, -, rfl⟩ := h
  obtain ⟨-, -, -, -, hops, -⟩ := ctx_spec h0
  rw [capture_frame, enter_frame]
  simp_all [opsOf?]

theorem fieldReject_of_issues {x : Enc} (h : Issues i s c e) (hx : i.enc = some x) : fieldReject x = none := fieldReject_of_wf h.1 hx

/-- A vector or uniform destination as U says (R30). -/
theorem dstFits_of_issues {x : Enc} {w : Nat} (h : Issues i s c e) (hx : i.enc = some x) (hd : x.shape.d = .dst w) : e.dstFits := by
  have hfield := fieldReject_of_issues h hx
  have hrole := roleOk_d_of_fieldReject hfield
  have hu := uOk_of_fieldReject hfield
  rw [hd] at hrole
  unfold Ctx.dstFits
  rw [(ops_of_issues h hx).2]
  unfold roleOk dstOk Enc.uni at hrole
  cases hux : x.o.hdr.u <;> cases hsel : x.o.d <;> simp_all

/-- A uniform destination, or the register that discards. -/
theorem uniformDst_of_issues {x : Enc} {w : Nat} (h : Issues i s c e) (hx : i.enc = some x) (hd : x.shape.d = .sdst w) (n : BitVec 8) (hn : e.o.d = .v n) : n = 255 := by
  have hrole := roleOk_d_of_fieldReject (fieldReject_of_issues h hx)
  rw [hd, ← (ops_of_issues h hx).2, hn] at hrole
  simp only [roleOk, sdstOk, Bool.and_eq_true, beq_iff_eq] at hrole
  exact hrole.1

theorem ch_of_issues {x : Enc} (h : Issues i s c e) (hx : i.enc = some x) (hchain : x.shape.noChain = true) : e.o.hdr.ch = false := by
  rw [(ops_of_issues h hx).2]
  exact ch_of_fieldReject (fieldReject_of_issues h hx) hchain

/-! ### What its own checks raise (R51) -/

theorem perform_ill_of_issues {own : Ctx → Option Nat} {d : Nat} (priv : Ctx → Bool) (body : Ctx → State) (h : Issues i s c e) (ho : own c = some d) :
    perform i own priv body s = .next (c.trap ⟨.ill, d⟩) := by
  obtain ⟨-, ⟨c0, h0, rfl⟩, hkeys, hlatch, hchain, hloop, -, -⟩ := h
  simp [perform, h0, hkeys, hlatch, Ctx.detail, hchain, hloop, ho, firstDetail, Ctx.ill]

theorem perform_priv_of_issues {own : Ctx → Option Nat} {priv : Ctx → Bool} (body : Ctx → State) (h : Issues i s c e) (ho : own c = none) (hp : priv c = true) :
    perform i own priv body s = .next (c.trap ⟨.priv, 0⟩) := by
  obtain ⟨-, ⟨c0, h0, rfl⟩, hkeys, hlatch, hchain, hloop, -, -⟩ := h
  simp [perform, h0, hkeys, hlatch, Ctx.detail, hchain, hloop, ho, firstDetail, hp]

theorem exec_of_perform {own : Ctx → Option Nat} {priv : Ctx → Bool} {body : Ctx → State} (hexec : exec i s = perform i own priv body s)
    (h : Issues i s c e) (ho : own c = none) (hp : priv c = false) : exec i s = .next (body e) := hexec.trans (perform_of_issues own priv body h ho hp)

theorem completes_of_perform {own : Ctx → Option Nat} {priv : Ctx → Bool} {body : Ctx → State} {w : Writes} (hexec : exec i s = perform i own priv body s)
    (h : Issues i s c e) (ho : own c = none) (hp : priv c = false) (hdone : DoneNext s e w (body e)) : Completes i s e w :=
  ⟨_, exec_of_perform hexec h ho hp, hdone⟩

theorem jumps_of_perform {own : Ctx → Option Nat} {priv : Ctx → Bool} {body : Ctx → State} {w : Writes} {pc : Pc} (hexec : exec i s = perform i own priv body s)
    (h : Issues i s c e) (ho : own c = none) (hp : priv c = false) (hdone : Done s e w pc e.p.loops (body e)) : Jumps i s e w pc :=
  ⟨_, exec_of_perform hexec h ho hp, hdone⟩

end Issued

/-! ### The ends of an instruction -/

section Ends
variable {s : State} {e : Ctx}

/-- An instruction that acts once per path writes where its guard holds, and else nothing (R125). -/
theorem once_done (he : Entered s e) {w : Writes} {f : Ctx → State} (h : Wrote e w (f e)) : DoneNext s e (if e.actsOnce then w else {}) (e.once f) := by
  unfold Ctx.once
  split_ifs
  · exact h.advance he
  · exact (wrote_nothing he).advance he

/-- A change of the group that touches neither registers nor paths, after other writes. -/
theorem Wrote.changeGroup {w : Writes} {t : State} (h : Wrote e w t) (f : Group → Group)
    (hf : ∀ g r : Group, f { g with v := r.v, s := r.s, a := r.a, p := r.p, paths := r.paths } = { f g with v := r.v, s := r.s, a := r.a, p := r.p, paths := r.paths }) :
    Wrote e { w with group := fun g => f (w.group g) } (t.modGroup e.gk f) := by
  obtain ⟨hrest, ⟨g, hg, hframe, hp, hps, hr⟩, hq⟩ := h
  have hfg : f g = { f (w.group e.g) with v := g.v, s := g.s, a := g.a, p := g.p, paths := g.paths } := by
    conv_lhs => rw [hframe]
    exact hf (w.group e.g) g
  refine ⟨elsewhere_trans hrest (elsewhere_modGroup _ _ _), ⟨f g, ?_, ?_, ?_, ?_, ?_⟩, hq⟩
  · rw [mget_modGroup, if_pos rfl, hg]; rfl
  · rw [hfg]
  · rw [hfg]; exact hp
  · rw [hfg]; exact hps
  · rw [hfg]; exact hr

/-- A change of the quarter that leaves its latches. -/
theorem wrote_quarter (he : Entered s e) (f : Quarter → Quarter) (hf : (f e.quarter).latch = e.quarter.latch) :
    Wrote e { quarter := f } (e.s.setQuarter e.q (f e.quarter)) := by
  refine ⟨elsewhere_setQuarter _ _ _, ⟨e.g, he.group, rfl, he.path, fun _ _ => rfl, fun _ _ _ _ => rfl, fun _ _ => rfl, fun _ _ _ _ => rfl, fun _ _ => rfl, ?_⟩, ?_⟩
  · intro k _ l _
    rw [quarter_setQuarter_self, Quarter.latchAt, hf]
    rfl
  · rw [quarter_setQuarter_self]

/-- A change of the issuing path alone. -/
theorem wrote_path (he : Entered s e) (f : Path → Path) : Wrote e { path := f } (e.s.modPath e.gk e.pid f) := by
  refine ⟨elsewhere_modGroup _ _ _, ⟨e.g.modPath e.pid f, ?_, rfl, ?_, fun k hk => ?_, ?_⟩, rfl⟩
  · rw [State.modPath, mget_modGroup, if_pos rfl, he.group]; rfl
  · rw [mget_modPath, if_pos rfl, he.path]; rfl
  · rw [mget_modPath, if_neg hk]
  · exact ⟨fun _ _ _ _ => rfl, fun _ _ => rfl, fun _ _ _ _ => rfl, fun _ _ => rfl, fun _ _ _ _ => rfl⟩

/-- An issue outside chains leaves no chain of its path (R42). -/
theorem isOf_of_chain_issued {q : Quarter} {gk pid now : Nat} {k : Chain} (h : (q.issued gk pid now false).chain = some k) : k.isOf gk pid = false := by
  simp only [Quarter.issued, Bool.false_eq_true, if_false] at h
  split at h
  · split_ifs at h
    simp_all
  · simp_all

/-- So there is none to interrupt. -/
theorem interrupt_issued (hch : e.o.hdr.ch = false) (t : State) : (e.issued t).interrupt e.gk e.pid = e.issued t := by
  have hquarter := quarter_issued e t
  rw [hch, Bool.false_and] at hquarter
  unfold State.interrupt
  split
  · rename_i k hk
    rw [show (e.issued t).quarter (quarterOf e.gk) = _ from hquarter] at hk
    rw [State.inside, isOf_of_chain_issued hk, Bool.false_and]
    rfl
  · rfl

/-- An instruction outside chains blocks its path (R254): it has issued, and the path waits at it. -/
theorem block_unchained (hch : e.o.hdr.ch = false) (t : State) (b : Block) :
    e.block t b = (e.issued t).modPath e.gk e.pid fun p =>
      { p.leave ((e.issued t).coreCycle e.core) (.blocked b) with back := if endsChain e.i then e.restart t else none } := by
  unfold Ctx.block
  rw [interrupt_issued hch]

theorem growq_block_unchained (hch : e.o.hdr.ch = false) (t : State) (b : Block) : ((e.block t b).quarter e.q).growq = (t.quarter e.q).growq := by
  rw [block_unchained hch, State.modPath, quarter_modGroup, quarter_issued, quarter_issued_frame]

/-- The issuing path waits, and its group holds the blocks it held. -/
theorem group_block_unchained (he : Entered s e) (hch : e.o.hdr.ch = false) (b : Block) :
    ∃ g p, mget? (e.block e.s b).groups e.gk = some g ∧ mget? g.paths e.pid = some p ∧ p.st = .blocked b ∧ g.blocks = e.g.blocks := by
  rw [block_unchained hch, State.modPath, mget_modGroup, if_pos rfl, group_issued e e.s he.group]
  have hpath := (mget_modPath e.g e.pid e.pid fun p => p.issued (e.s.coreCycle e.core) e.len e.p.pc e.o.hdr.ch).trans (if_pos rfl)
  rw [he.path] at hpath
  refine ⟨_, _, rfl, (mget_modPath _ _ _ _).trans ((if_pos rfl).trans (congrArg (Option.map _) hpath)), ?_, rfl⟩
  rfl

end Ends

end Sys2Proof.Machine

/-! PROOF. Special registers and affine registers (O6). -/

namespace Sys2Proof

/-! ### Integers as words -/

theorem wrap_lt (n : Nat) (z : Int) : wrap n z < 2 ^ n := by
  have hpos : (0 : Int) < 2 ^ n := by positivity
  have hlt := Int.emod_lt_of_pos z hpos
  have hnonneg := Int.emod_nonneg z hpos.ne'
  unfold wrap
  zify
  omega

theorem ofNat_wrap (n : Nat) (z : Int) : BitVec.ofNat n (wrap n z) = BitVec.ofInt n z := by
  refine BitVec.eq_of_toNat_eq ?_
  rw [BitVec.toNat_ofNat, Nat.mod_eq_of_lt (wrap_lt n z), BitVec.toNat_ofInt]
  unfold wrap
  norm_cast

theorem wrap_eq_toNat (n : Nat) (z : Int) : wrap n z = (BitVec.ofInt n z).toNat := by
  rw [← ofNat_wrap, BitVec.toNat_ofNat, Nat.mod_eq_of_lt (wrap_lt n z)]

theorem sext_eq_toInt (v : Nat) : sext v 32 = (BitVec.ofNat 32 v).toInt := by
  rw [BitVec.toInt_eq_toNat_cond, BitVec.toNat_ofNat]
  unfold sext bit
  simp only [beq_iff_eq]
  split_ifs <;> push_cast <;> omega

theorem sext_toNat (x : W32) : sext x.toNat 32 = x.toInt := by rw [sext_eq_toInt, BitVec.ofNat_toNat, BitVec.setWidth_eq]

theorem ofInt_toNat (n : Nat) (x : BitVec n) : BitVec.ofInt n (x.toNat : Int) = x := by rw [BitVec.ofInt_natCast, BitVec.ofNat_toNat, BitVec.setWidth_eq]

theorem toNat_extractLsb'_low (x : W64) : (x.extractLsb' 0 32).toNat = x.toNat % 2 ^ 32 := by simp

theorem toNat_extractLsb'_high (x : W64) : (x.extractLsb' 32 32).toNat = x.toNat / 2 ^ 32 := by
  rw [BitVec.extractLsb'_toNat, Nat.shiftRight_eq_div_pow]
  omega

end Sys2Proof

namespace Sys2Proof.Machine

/-! ### Sources of one word -/

theorem wordsOf_one (f : Nat → W32) (n : Nat) : wordsOf f n 1 = (f n).toNat := by simp [wordsOf]

theorem val_one_lt (c : Ctx) (x : Sel) (l : Nat) : c.val x 1 l < 2 ^ 32 := by
  cases x with
  | v n => simpa only [Ctx.val, wordsOf_one] using BitVec.isLt _
  | s n => simpa only [Ctx.val, wordsOf_one] using BitVec.isLt _
  | a n => exact Nat.mod_lt _ (by decide)
  | q n => exact BitVec.isLt _
  | p n => exact lt_of_le_of_lt (Bool.toNat_le _) (by decide)
  | sp r => exact Nat.mod_lt _ (by decide)

/-- An unsigned source of one register fits its word. -/
theorem src_one_lt (c : Ctx) (x : Sel) (last : Bool) (l : Nat) : c.src x last false 1 l < 2 ^ 32 := by
  unfold Ctx.src
  split
  · rename_i v _
    exact lt_trans v.isLt (by decide)
  · exact BitVec.isLt _
  · exact val_one_lt c x l

theorem toNat_opd_one (c : Ctx) (x : Sel) (last : Bool) (l : Nat) : (c.opd x last false 1 l).toNat = c.src x last false 1 l := by
  rw [Ctx.opd, BitVec.toNat_ofNat, Nat.mod_eq_of_lt (src_one_lt c x last l)]

/-! ### Affine registers (R36, R153) -/

/-- A lane's value of an affine register: base + stride × lane, modulo 2^64. -/
theorem affine_at (x : Affine) (l : Nat) : x.at l = (x.base + x.stride.signExtend 64 * BitVec.ofNat 64 l).toNat := by
  unfold Affine.at
  rw [wrap_eq_toNat, BitVec.ofInt_add, BitVec.ofInt_mul, ofInt_toNat, sext_toNat, BitVec.ofInt_natCast]
  rfl

theorem base_added (b : W64) (v : Nat) : BitVec.ofNat 64 (wrap 64 ((b.toNat : Int) + sext v 32)) = b + (BitVec.ofNat 32 v).signExtend 64 := by
  rw [ofNat_wrap, BitVec.ofInt_add, ofInt_toNat, sext_eq_toInt]
  rfl

theorem base_scaled (b : W64) (v : Nat) : BitVec.ofNat 64 (wrap 64 ((b.toNat : Int) * sext v 32)) = b * (BitVec.ofNat 32 v).signExtend 64 := by
  rw [ofNat_wrap, BitVec.ofInt_mul, ofInt_toNat, sext_eq_toInt]
  rfl

theorem stride_scaled (k : W32) (v : Nat) : BitVec.ofNat 32 (wrap 32 ((k.toNat : Int) * sext v 32)) = k * BitVec.ofNat 32 v := by
  rw [ofNat_wrap, BitVec.ofInt_mul, ofInt_toNat, sext_eq_toInt, BitVec.ofInt_toInt]

/-- Reading an affine register after one is written; a zero one is not listed. -/
theorem aff_setAffine (g : Group) (n k : Nat) (x : Affine) :
    ({ g with a := if x.base = 0 ∧ x.stride = 0 then merase g.a n else mset g.a n x } : Group).aff k = if k = n then x else g.aff k := by
  obtain ⟨b, t⟩ := x
  unfold Group.aff mgetD
  dsimp only
  split_ifs with hzero hk hk
  · obtain ⟨rfl, rfl⟩ := hzero
    rw [hk, mget?_merase_self]; rfl
  · rw [mget?_merase_ne _ hk]
  · rw [hk, mget?_mset_self]; rfl
  · rw [mget?_mset_ne _ _ hk]

section Effects
variable {s : State} {e : Ctx}

theorem wrote_affine (he : Entered s e) (x : Affine) : Wrote e (Writes.affine e x) (e.setAffine x) := by
  unfold Ctx.setAffine
  split
  · rename_i n hd
    refine wrote_group he _ _ rfl ⟨fun _ _ _ _ => rfl, fun _ _ => rfl, fun _ _ _ _ => rfl, fun k _ => ?_, fun _ _ _ _ => rfl⟩ rfl rfl
    rw [aff_setAffine]
    simp only [Writes.affine, hd, beq_iff_eq]
    split_ifs <;> rfl
  · rename_i hd
    have hnone : Writes.affine e x = {} := by
      unfold Writes.affine
      congr 1
      funext k
      split
      · rename_i n hn; exact absurd hn (hd n)
      · rfl
    rw [hnone]
    exact wrote_nothing he

end Effects

/-! ### The instructions' own functions -/

section Arms
variable (o : Ops) (s : State)

theorem exec_rdsp : exec (.rdsp o) s = execRdsp o s := rfl
theorem exec_wrsp : exec (.wrsp o) s = execWrsp o s := rfl
theorem exec_aset : exec (.aset o) s = execAset o s := rfl
theorem exec_aadd : exec (.aadd o) s = execAadd o s := rfl
theorem exec_ascl : exec (.ascl o) s = execAscl o s := rfl
theorem exec_amat (h : AHalf) : exec (.amat h o) s = execAmat h o s := rfl
theorem exec_aget (h : APart) : exec (.aget h o) s = execAget h o s := rfl

end Arms

/-! ### RDSP and WRSP (R48, R50, R152) -/

section Special
variable {s : State} {c e : Ctx} {o : Ops}

theorem rdsp_completes {r : SpReg} (hr : o.a = .sp r) (h : Issues (.rdsp o) s c e) :
    Completes (.rdsp o) s e (Writes.result e 1 fun l => e.special l r % 2 ^ 32) := by
  refine completes_of_perform (exec_rdsp o s) h rfl rfl ?_
  rw [hr]
  exact result_done (issues_entered h) (dstFits_of_issues h rfl (shape_d_of_row rfl rfl)) 1 _

theorem wrsp_fmt_completes (hd : o.d = .sp .fmt) (hok : c.actsOnce = true → fmtOk (c.opd o.a true false 1 c.lead) = true) (h : Issues (.wrsp o) s c e) :
    Completes (.wrsp o) s e { path := fun p => if e.actsOnce then { p with fmt := e.opd o.a true false 1 e.lead } else p } := by
  have hwrites : ({ path := fun p => if e.actsOnce then { p with fmt := e.opd o.a true false 1 e.lead } else p } : Writes) =
      if e.actsOnce then { path := fun p => { p with fmt := e.opd o.a true false 1 e.lead } } else {} := by split_ifs <;> rfl
  rw [hwrites]
  refine completes_of_perform (exec_wrsp o s) h ?_ ?_ (once_done (issues_entered h) ?_)
  · rw [hd]
    exact if_neg (by simpa [Ctx.opd] using hok)
  · simp [hd]
  · rw [hd]
    exact wrote_path (issues_entered h) _

theorem wrsp_prio_completes (hd : o.d = .sp .prio) (hok : c.actsOnce = true → (c.opd o.a true false 1 c.lead).toNat ≤ c.launch.prio) (h : Issues (.wrsp o) s c e) :
    Completes (.wrsp o) s e { group := fun g => if e.actsOnce then { g with prio := (e.opd o.a true false 1 e.lead).toNat } else g } := by
  have hwrites : ({ group := fun g => if e.actsOnce then { g with prio := (e.opd o.a true false 1 e.lead).toNat } else g } : Writes) =
      if e.actsOnce then { group := fun g => { g with prio := (e.opd o.a true false 1 e.lead).toNat } } else {} := by split_ifs <;> rfl
  rw [hwrites]
  refine completes_of_perform (exec_wrsp o s) h ?_ ?_ (once_done (issues_entered h) ?_)
  · simp [hd]
  · simpa [hd, toNat_opd_one] using hok
  · rw [hd, toNat_opd_one]
    exact (wrote_nothing (issues_entered h)).changeGroup (fun g => { g with prio := e.src o.a true false 1 e.lead }) fun _ _ => rfl

theorem wrsp_fmt_refused (hd : o.d = .sp .fmt) (hacts : c.actsOnce = true) (hbad : fmtOk (c.opd o.a true false 1 c.lead) = false) (h : Issues (.wrsp o) s c e) :
    exec (.wrsp o) s = .next (c.trap ⟨.ill, 10⟩) := by
  refine (exec_wrsp o s).trans (perform_ill_of_issues _ _ h ?_)
  rw [hd, hacts]
  exact if_pos (by simpa [Ctx.opd] using hbad)

theorem wrsp_prio_refused (hd : o.d = .sp .prio) (hacts : c.actsOnce = true) (hbad : c.launch.prio < (c.opd o.a true false 1 c.lead).toNat)
    (h : Issues (.wrsp o) s c e) : exec (.wrsp o) s = .next (c.trap ⟨.priv, 0⟩) := by
  rw [toNat_opd_one] at hbad
  exact (exec_wrsp o s).trans (perform_priv_of_issues _ h (by simp [hd]) (by simpa [hd, hacts] using hbad))

end Special

/-! ### ASET, AADD, ASCL, AMAT and AGET (R153) -/

section AffineInstructions
variable {s : State} {c e : Ctx} {o : Ops}

theorem affineA_of_ops (h : e.o = o) : e.affineA = affineOf e o := by rw [← h]; rfl

/-- The writes of an instruction that writes an affine register where its guard holds. -/
theorem affine_done (he : Entered s e) (x : Affine) {f : Ctx → State} (hf : f e = e.setAffine x) :
    DoneNext s e (if e.actsOnce then Writes.affine e x else {}) (e.once f) :=
  once_done he (by rw [hf]; exact wrote_affine he x)

theorem aset_imm_completes {v : W64} (hv : o.imm = .i64 v) (h : Issues (.aset o) s c e) :
    Completes (.aset o) s e (if e.actsOnce then Writes.affine e { base := v, stride := e.opd o.b true false 1 e.lead } else {}) :=
  completes_of_perform (exec_aset o s) h rfl rfl (affine_done (issues_entered h) _ (by rw [hv]; rfl))

theorem aset_pair_completes (hv : ∀ v, o.imm ≠ .i64 v) (h : Issues (.aset o) s c e) :
    Completes (.aset o) s e
      (if e.actsOnce then Writes.affine e { base := BitVec.ofNat 64 (e.val o.a 2 e.lead), stride := e.opd o.b true false 1 e.lead } else {}) := by
  refine completes_of_perform (exec_aset o s) h rfl rfl (affine_done (issues_entered h) _ ?_)
  cases himm : o.imm with
  | none => rfl
  | i32 v => rfl
  | i64 v => exact absurd himm (hv v)

theorem aadd_completes (h : Issues (.aadd o) s c e) :
    Completes (.aadd o) s e (if e.actsOnce then
      Writes.affine e { affineOf e o with base := (affineOf e o).base + (e.opd o.b true false 1 e.lead).signExtend 64 } else {}) := by
  refine completes_of_perform (exec_aadd o s) h rfl rfl (affine_done (issues_entered h) _ ?_)
  have hops : e.o = o := (ops_of_issues h rfl).2
  dsimp only
  rw [affineA_of_ops hops, base_added]
  rfl

theorem ascl_completes (h : Issues (.ascl o) s c e) :
    Completes (.ascl o) s e (if e.actsOnce then
      Writes.affine e { base := (affineOf e o).base * (e.opd o.b true false 1 e.lead).signExtend 64, stride := (affineOf e o).stride * e.opd o.b true false 1 e.lead }
      else {}) := by
  refine completes_of_perform (exec_ascl o s) h rfl rfl (affine_done (issues_entered h) _ ?_)
  have hops : e.o = o := (ops_of_issues h rfl).2
  dsimp only
  rw [affineA_of_ops hops, base_scaled, stride_scaled]
  rfl

theorem amat_completes (h : AHalf) (hissues : Issues (.amat h o) s c e) :
    Completes (.amat h o) s e (Writes.result e 1 fun l =>
      let v := (affineOf e o).base + (affineOf e o).stride.signExtend 64 * BitVec.ofNat 64 l
      (match h with | .lo => v.extractLsb' 0 32 | .hi => v.extractLsb' 32 32).toNat) := by
  refine completes_of_perform (exec_amat o s h) hissues rfl rfl ?_
  have hdone := result_done (issues_entered hissues) (dstFits_of_issues (w := 1) hissues rfl (shape_d_of_row rfl rfl)) 1
  have hops : e.o = o := (ops_of_issues hissues rfl).2
  simp only [affineA_of_ops hops, affine_at]
  cases h with
  | lo => simpa only [toNat_extractLsb'_low] using hdone _
  | hi => simpa only [toNat_extractLsb'_high] using hdone _

theorem aget_completes (h : APart) (hissues : Issues (.aget h o) s c e) :
    Completes (.aget h o) s e (if e.actsOnce then
      Writes.uniform e 1 (match h with
        | .lo => (affineOf e o).base.extractLsb' 0 32 | .hi => (affineOf e o).base.extractLsb' 32 32 | .stride => (affineOf e o).stride).toNat else {}) := by
  refine completes_of_perform (exec_aget o s h) hissues rfl rfl (once_done (issues_entered hissues) ?_)
  have hops : e.o = o := (ops_of_issues hissues rfl).2
  have hwrote := fun v => wrote_uniform (issues_entered hissues) 1 v (uniformDst_of_issues (w := 1) hissues rfl (shape_d_of_row rfl rfl))
  dsimp only
  rw [affineA_of_ops hops, ← congrArg Ops.d hops]
  cases h with
  | lo => rw [toNat_extractLsb'_low]; exact hwrote _
  | hi => rw [toNat_extractLsb'_high]; exact hwrote _
  | stride => exact hwrote _

end AffineInstructions

/-- Settles O6: each instruction by the lemma on it; the special registers' values are the model's own. -/
theorem specialAndAffineRegisters : Obligations.SpecialAndAffineRegisters := by
  unfold Obligations.SpecialAndAffineRegisters
  refine ⟨fun s c e o => ⟨fun _ => rdsp_completes, fun l => ⟨rfl, rfl, rfl, rfl, rfl, rfl, rfl, rfl, rfl, rfl⟩, wrsp_fmt_completes, wrsp_prio_completes,
    wrsp_fmt_refused, wrsp_prio_refused⟩, fun s c e o => ?_⟩
  exact ⟨fun _ => aset_imm_completes, aset_pair_completes, aadd_completes, ascl_completes, amat_completes, aget_completes⟩

end Sys2Proof.Machine

/-! PROOF. Register growth and gangs (O13). -/

namespace Sys2Proof

/-- A map of words whose listed keys are cut down to those that meet a test. -/
theorem zget_filter_key {w : Nat} (m : Map (BitVec w)) (p : Nat → Bool) (n : Nat) : zget (m.filter fun x => p x.1) n = if p n then zget m n else 0 := by
  unfold zget mgetD
  cases hp : p n with
  | true => rw [mget?_filter_key m p hp]; rfl
  | false =>
    have hnone : mget? (m.filter fun x => p x.1) n = none := by
      induction m with
      | nil => rfl
      | cons x m ih =>
        rw [List.filter_cons]
        split_ifs with hx
        · rw [mget?_cons, if_neg (by rintro rfl; simp [hp] at hx), ih]
        · exact ih
    rw [hnone]
    rfl

end Sys2Proof

namespace Sys2Proof.Machine

section Arms
variable (n : BitVec 5) (o : Ops) (s : State)

theorem exec_grow : exec (.grow n o) s = execGrow n o s := rfl
theorem exec_growNb : exec (.growNb n o) s = execGrowNb n o s := rfl
theorem exec_shrink : exec (.shrink n o) s = execShrink n o s := rfl
theorem exec_gang : exec (.gang o) s = execGang o s := rfl

end Arms

/-! ### GROW (R144, R145) -/

section Grow
variable {s : State} {c e : Ctx} {n : BitVec 5} {o : Ops}

theorem grow_refused (h : Issues (.grow n o) s c e) (hmax : 32 < e.g.blocks + n.toNat) :
    exec (.grow n o) s = .next (e.trap ⟨.regRange, 8 * (e.g.blocks + n.toNat) - 1⟩) :=
  (exec_of_perform (exec_grow n o s) h rfl rfl).trans (congrArg _ (if_pos hmax))

theorem growNb_refused (h : Issues (.growNb n o) s c e) (hmax : 32 < e.g.blocks + n.toNat) :
    exec (.growNb n o) s = .next (e.trap ⟨.regRange, 8 * (e.g.blocks + n.toNat) - 1⟩) :=
  (exec_of_perform (exec_growNb n o s) h rfl rfl).trans (congrArg _ (if_pos hmax))

/-- A group with `n` more blocks; `w` is what it has written else. -/
theorem Wrote.grow {w : Writes} {t : State} (h : Wrote e w t) (n : Nat) :
    Wrote e { w with group := fun g => (w.group g).grow n } (t.modGroup e.gk fun g => g.grow n) := h.changeGroup (fun g => g.grow n) fun _ _ => rfl

theorem grow_granted (h : Issues (.grow n o) s c e) (hmax : e.g.blocks + n.toNat ≤ 32) (hfits : e.growFits n.toNat = true) :
    Jumps (.grow n o) s e { group := fun g => { g with blocks := g.blocks + n.toNat } } (e.p.pc + 8) := by
  refine jumps_of_perform (exec_grow n o s) h rfl rfl ?_
  dsimp only
  rw [if_neg (Nat.not_lt.2 hmax), if_pos hfits]
  exact ((wrote_nothing (issues_entered h)).grow n.toNat).jump (issues_entered h) _

theorem grow_waits (h : Issues (.grow n o) s c e) (hmax : e.g.blocks + n.toNat ≤ 32) (hfits : e.growFits n.toNat = false) :
    ∃ t g p, exec (.grow n o) s = .next t ∧ mget? t.groups e.gk = some g ∧ mget? g.paths e.pid = some p ∧ p.st = .blocked (.grow n.toNat) ∧
      g.blocks = e.g.blocks ∧ (t.quarter e.q).growq = e.quarter.growq ++ [{ gk := e.gk, pid := e.pid, n := n.toNat }] := by
  have hch : e.o.hdr.ch = false := ch_of_issues h rfl (shape_noChain_of_row rfl rfl)
  obtain ⟨g, p, hg, hp, hst, hblocks⟩ := group_block_unchained (issues_entered h) hch (.grow n.toNat)
  refine ⟨_, g, p, (exec_of_perform (exec_grow n o s) h rfl rfl).trans (congrArg _ ((if_neg (Nat.not_lt.2 hmax)).trans (if_neg (by rw [hfits]; decide)))), hg, hp, hst,
    hblocks, ?_⟩
  rw [quarter_setQuarter_self, growq_block_unchained hch]
  rfl

theorem growNb_completes (h : Issues (.growNb n o) s c e) (hmax : e.g.blocks + n.toNat ≤ 32) :
    Jumps (.growNb n o) s e
      { Writes.predicate e e.p.mask (fun _ => e.growFits n.toNat) with
        group := if e.growFits n.toNat then fun g => { g with blocks := g.blocks + n.toNat } else id } (e.p.pc + 8) := by
  have he := issues_entered h
  have hd : e.o.d = o.d := congrArg Ops.d (ops_of_issues h rfl).2
  have hwrote := wrote_predicate he e.p.mask fun _ => e.growFits n.toNat
  refine jumps_of_perform (exec_growNb n o s) h rfl rfl ?_
  dsimp only
  rw [if_neg (Nat.not_lt.2 hmax), ← hd]
  cases hfits : e.growFits n.toNat with
  | true =>
    rw [hfits] at hwrote
    exact (hwrote.grow n.toNat).jump he _
  | false =>
    rw [hfits] at hwrote
    exact hwrote.jump he _

end Grow

/-! ### SHRINK (R32, R145) -/

section Shrink
variable {s : State} {c e : Ctx} {n : BitVec 5} {o : Ops}

theorem shrink_refused (h : Issues (.shrink n o) s c e) (hmin : e.g.blocks < e.launch.regs + n.toNat) :
    exec (.shrink n o) s = .next (e.trap ⟨.regRange, 8 * e.g.blocks - 1⟩) :=
  (exec_of_perform (exec_shrink n o s) h rfl rfl).trans (congrArg _ (if_pos hmin))

/-- The registers of blocks given up read zero. -/
theorem vec_shrink (g : Group) (n : Nat) {l : Nat} (hl : l < 64) (r : Nat) :
    (g.shrink n).vec l r = (if 8 * (g.blocks - n) ≤ r ∧ r ≠ 255 then some 0 else none : Option W32).getD (g.vec l r) := by
  have hkey : (r * 64 + l) / 64 = r := by omega
  have hread : zget (g.shrink n).v (r * 64 + l) = if r < 8 * (g.blocks - n) then zget g.v (r * 64 + l) else 0 := by
    simp only [Group.shrink, zget_filter_key g.v (fun k => decide (k / 64 < 8 * (g.blocks - n))), hkey, decide_eq_true_eq]
  unfold Group.vec
  rw [hread]
  by_cases h255 : r = 255
  · simp [h255]
  · simp only [beq_iff_eq, h255, if_false, ne_eq, not_false_eq_true, and_true]
    by_cases htop : r < 8 * (g.blocks - n)
    · rw [if_pos htop, if_neg (by omega)]; rfl
    · rw [if_neg htop, if_pos (by omega)]; rfl

/-- The loads in flight are no part of what an issue looks at. -/
theorem entered_loads (he : Entered s e) (f : Map LoadI → Map LoadI) :
    Entered { s with loads := f s.loads } { e with s := { e.s with loads := f e.s.loads } } := by
  obtain ⟨⟨hrest, hbyte, hgroups, hquarters⟩, hg, hp⟩ := he
  refine ⟨⟨?_, hbyte, hgroups, hquarters⟩, hg, hp⟩
  dsimp only
  rw [hrest]

/-- Blocks given up: the group's other registers stand. -/
theorem wrote_shrink (he : Entered s e) (n : Nat) :
    Wrote e { group := fun g => { g with blocks := g.blocks - n }, vec := fun _ r => if 8 * (e.g.blocks - n) ≤ r ∧ r ≠ 255 then some 0 else none }
      (e.s.modGroup e.gk fun g => g.shrink n) :=
  wrote_group he _ _ rfl ⟨fun _ hl r _ => vec_shrink e.g n hl r, fun _ _ => rfl, fun _ _ _ _ => rfl, fun _ _ => rfl, fun _ _ _ _ => rfl⟩ rfl rfl

theorem shrink_completes (h : Issues (.shrink n o) s c e) (hmin : e.launch.regs + n.toNat ≤ e.g.blocks) :
    ∃ t, exec (.shrink n o) s = .next t ∧
      Done { s with loads := s.loads.map fun l => (l.1, if l.2.gk = e.gk then l.2.cut (8 * (e.g.blocks - n.toNat)) else l.2) } e
        { group := fun g => { g with
            blocks := g.blocks - n.toNat
            pending := g.pending.filter fun p => decide (p.reg < 8 * (e.g.blocks - n.toNat)) || decide (256 ≤ p.reg) }
          vec := fun _ r => if 8 * (e.g.blocks - n.toNat) ≤ r ∧ r ≠ 255 then some 0 else none } (e.p.pc + 8) e.p.loops t := by
  have he := issues_entered h
  refine ⟨_, (exec_of_perform (exec_shrink n o s) h rfl rfl).trans (congrArg _ (if_neg (Nat.not_lt.2 hmin))), ?_⟩
  have hloads : (s.loads.map fun l => (l.1, if l.2.gk = e.gk then l.2.cut (8 * (e.g.blocks - n.toNat)) else l.2)) =
      s.loads.map fun l => (l.1, if l.2.gk == e.gk then l.2.cut (8 * (e.g.blocks - n.toNat)) else l.2) := by simp only [beq_iff_eq]
  have hcut := entered_loads he fun m => m.map fun l => (l.1, if l.2.gk == e.gk then l.2.cut (8 * (e.g.blocks - n.toNat)) else l.2)
  have hwrote := (wrote_shrink hcut n.toNat).changeGroup
    (fun g => { g with pending := g.pending.filter fun p => decide (p.reg < 8 * (e.g.blocks - n.toNat)) || decide (256 ≤ p.reg) }) fun _ _ => rfl
  rw [hloads]
  exact hwrote.jump hcut (e.p.pc + 8)

end Shrink

/-! ### GANG (R47, R146) -/

section Gang
variable {s : State} {c e : Ctx} {o : Ops}

theorem gang_bad (h : Issues (.gang o) s c e) (hbad : c.gangBad (BitVec.ofNat 32 (imm32 o.imm)) = true) : exec (.gang o) s = .next (c.trap ⟨.ill, 10⟩) :=
  (exec_gang o s).trans (perform_ill_of_issues _ _ h (if_pos hbad))

theorem gang_completes (h : Issues (.gang o) s c e) (hok : c.gangBad (BitVec.ofNat 32 (imm32 o.imm)) = false)
    (hown : ∀ k ∈ gangSlots c.quarter.gang, ∀ g, mget? c.s.groups (c.q * 16 + k) = some g → g.launch = c.g.launch) :
    Jumps (.gang o) s e { quarter := fun q => { q with gang := BitVec.ofNat 32 (imm32 o.imm) } } (e.p.pc + 12) := by
  refine jumps_of_perform (exec_gang o s) h (if_neg (by rw [hok]; decide)) (List.any_eq_false.2 fun k hk => ?_)
    ((wrote_quarter (issues_entered h) (fun q => { q with gang := BitVec.ofNat 32 (imm32 o.imm) }) rfl).jump (issues_entered h) _)
  split
  · decide
  · rename_i g hg
    simp [hown k hk g hg]

theorem gang_stranger (h : Issues (.gang o) s c e) (hok : c.gangBad (BitVec.ofNat 32 (imm32 o.imm)) = false)
    (hother : ∃ k ∈ gangSlots c.quarter.gang, ∃ g, mget? c.s.groups (c.q * 16 + k) = some g ∧ g.launch ≠ c.g.launch) :
    exec (.gang o) s = .next (c.trap ⟨.priv, 0⟩) := by
  obtain ⟨k, hk, g, hg, hlaunch⟩ := hother
  refine (exec_gang o s).trans (perform_priv_of_issues _ h (if_neg (by rw [hok]; decide)) (List.any_eq_true.2 ⟨k, hk, ?_⟩))
  rw [hg]
  simpa using hlaunch

end Gang

/-- Settles O13: each instruction by the lemma on it. -/
theorem growthAndGangs : Obligations.GrowthAndGangs := by
  unfold Obligations.GrowthAndGangs
  intro s c e o n
  exact ⟨grow_refused, grow_granted, grow_waits, growNb_completes, growNb_refused, shrink_completes, shrink_refused, gang_bad, gang_completes, gang_stranger⟩

end Sys2Proof.Machine

/-! PROOF. Performing accesses and returning results (O24). -/

namespace Sys2Proof.Machine

/-! ### Bytes of an access -/

theorem bytes_eq_of_byte {s : State} {loc : Nat} {bs : List Byte} (h : ∀ i < bs.length, s.byte (loc + i) = bs.getD i 0) : s.bytes loc bs.length = bs := by
  unfold State.bytes
  refine List.ext_getElem (by simp) fun i hi hb => ?_
  rw [List.getElem_map, List.getElem_range, h i hb, List.getD_eq_getElem _ _ hb]

/-- A write through the core's cache changes memory, what a write sets off, and the copies. -/
theorem writeThrough_frame (s : State) (a : Access) (bs : List Byte) : ∃ insts poison images cores pkg dirty,
    s.writeThrough a bs =
      { s with mem := putBytes s.mem a.loc bs, insts := insts, poison := poison, images := images, cores := cores, pkg := pkg, dirty := dirty } := by
  have hwrite : ∃ insts poison images cores pkg,
      s.write a.loc bs = { s with mem := putBytes s.mem a.loc bs, insts := insts, poison := poison, images := images, cores := cores, pkg := pkg } := by
    unfold State.write
    by_cases hnil : bs.isEmpty = true
    · rw [if_pos hnil, List.isEmpty_iff.1 hnil]
      exact ⟨_, _, _, _, _, rfl⟩
    · rw [if_neg hnil]
      exact ⟨_, _, _, _, _, rfl⟩
  obtain ⟨insts, poison, images, cores, pkg, hw⟩ := hwrite
  unfold State.writeThrough
  rw [hw]
  dsimp only
  split_ifs <;> exact ⟨_, _, _, _, _, _, rfl⟩

theorem byte_writeThrough (s : State) (a : Access) (bs : List Byte) (x : Nat) :
    (s.writeThrough a bs).byte x = if a.loc ≤ x ∧ x < a.loc + bs.length then bs.getD (x - a.loc) 0 else s.byte x := by
  obtain ⟨_, _, _, _, _, _, h⟩ := writeThrough_frame s a bs
  rw [h]
  exact zget_putBytes bs s.mem a.loc x

/-- A load is served from memory or a copy; copies are all it leaves behind. -/
theorem serve_frame (s : State) (a : Access) : ∃ cores replicas, (s.serve a).2 = { s with cores := cores, replicas := replicas } := by
  unfold State.serve State.touchLine State.fillLine State.addReplica
  dsimp only
  cases (s.core a.core).copy a.loc <;> dsimp only <;> split_ifs <;> exact ⟨_, _, rfl⟩

/-- The home serves a load of memory that is not cacheable, of a scope beyond the core's, in a core without cache banks, or with no copy there (R188, R269). -/
theorem serve_home {s : State} {a : Access} (h : a.cacheable = false ∨ 2 ≤ a.scope.code ∨ s.ways a.core = 0 ∨ (s.core a.core).copy a.loc = none) :
    (s.serve a).1 = s.bytes a.loc a.len := by
  unfold State.serve
  cases hcopy : (s.core a.core).copy a.loc with
  | none =>
    dsimp only
    split_ifs <;> rfl
  | some l =>
    have hfar : a.cacheable = true → (decide (a.scope.code < 2) && s.ways a.core != 0) = false := by
      rcases h with h | h | h | h
      · simp [h]
      · simp [Nat.not_lt.2 h]
      · simp [h]
      · rw [hcopy] at h; cases h
    cases hcache : a.cacheable with
    | false => rfl
    | true =>
      rw [hfar hcache, if_neg (by decide), if_neg (by decide)]

/-- A copy in the core's cache serves a load of a narrower scope (R188, log 77). -/
theorem serve_copy {s : State} {a : Access} {l : List Byte} (hcache : a.cacheable = true) (hscope : a.scope.code < 2) (hways : s.ways a.core ≠ 0)
    (hcopy : (s.core a.core).copy a.loc = some l) : (s.serve a).1 = (l.drop (a.loc % 128)).take a.len := by
  simp [State.serve, hcache, hscope, hways, hcopy]

/-! ### ACCESS_PERFORM (R181, R185, R197) -/

/-- The machine with an access taken out of flight. -/
def State.dropAccess (s : State) (id : Nat) : State := { s with accesses := merase s.accesses id }

theorem exec_accessPerform (id : Nat) (s : State) : exec (.accessPerform id) s = execAccessPerform id s := rfl

section Perform
variable {s : State} {id : Nat} {a : Access}

theorem accessPerform_eq (ha : mget? s.accesses id = some a) (hcan : s.canPerform id a = true) (hdatom : ∀ k u, a.op ≠ .datom k u)
    (hflush : ∀ l, a.op ≠ .dflush l) : exec (.accessPerform id) s = .next (s.performAccess id a) := by
  rw [exec_accessPerform]
  unfold execAccessPerform
  rw [ha]
  dsimp only
  rw [if_pos hcan]
  split
  · rename_i k u h; exact absurd h (hdatom k u)
  · rename_i l h; exact absurd h (hflush l)
  · rfl

theorem accessPerform_waits (ha : mget? s.accesses id = some a) (hcan : s.canPerform id a = false) : exec (.accessPerform id) s = .next s := by
  rw [exec_accessPerform]
  unfold execAccessPerform
  rw [ha]
  dsimp only
  rw [hcan]
  split <;> rfl

theorem performAccess_clean (h : a.op.reads = true → s.poisoned a.loc a.len = none) :
    s.performAccess id a =
      (((s.dropAccess id).doAccess a).2.gotLane a.iid a.lane a.word ((s.dropAccess id).doAccess a).1 none) := by
  have hclean : (if a.op.reads then (s.dropAccess id).poisoned a.loc a.len else none) = none := by
    split_ifs with hreads
    · exact h hreads
    · rfl
  unfold State.performAccess
  change (match (if a.op.reads then (s.dropAccess id).poisoned a.loc a.len else none) with | some _ => _ | none => _) = _
  rw [hclean]
  rfl

/-- Poison that an access reads changes no memory: its instruction learns of it (R182, R449). -/
theorem performAccess_poisoned {p : Nat} (hreads : a.op.reads = true) (h : s.poisoned a.loc a.len = some p) :
    s.performAccess id a = (s.dropAccess id).gotLane a.iid a.lane a.word 0 (some a.va) := by
  unfold State.performAccess
  change (match (if a.op.reads then s.poisoned a.loc a.len else none) with | some _ => _ | none => _) = _
  rw [if_pos hreads, h]
  rfl

/-- The value joins the instruction's results where nothing has touched them. -/
theorem got_gotLane {t : State} (h : t.loads = s.loads) (v : Nat) : Got s (t.gotLane a.iid a.lane a.word v none) a v := by
  intro l hl
  unfold State.gotLane
  rw [← h] at hl
  rw [mget?_mmodify_self, hl]
  simp [LoadI.take]

theorem poison_gotLane {t : State} (h : t.loads = s.loads) (v va : Nat) {l : LoadI} (hl : mget? s.loads a.iid = some l) :
    ∃ m, mget? (t.gotLane a.iid a.lane a.word v (some va)).loads a.iid = some m ∧ m.poison = l.poison.or (some va) := by
  unfold State.gotLane
  rw [← h] at hl
  rw [mget?_mmodify_self, hl]
  exact ⟨_, rfl, rfl⟩

theorem doAccess_store {bs : List Byte} (hop : a.op = .store bs) (t : State) : t.doAccess a = (0, t.writeThrough a bs) := by
  simp only [State.doAccess, hop]

theorem doAccess_load {sz : Sz} (hop : a.op = .load sz) (t : State) : t.doAccess a = (extend sz (t.serve a).1, (t.serve a).2) := by
  simp only [State.doAccess, hop]

theorem doAccess_atomic {op : Aop} {w64 : Bool} {b c : Nat} (hop : a.op = .atomic op w64 b c) (t : State) :
    t.doAccess a = (t.word a.loc a.len, t.writeThrough a (natLe a.len (atomNew op w64 (t.word a.loc a.len) b c))) := by
  simp only [State.doAccess, hop]

/-- After a write the access is gone, the bytes written stand in memory and all others as they did, and the instruction has its value. -/
theorem written_performs (bs : List Byte) (v : Nat) :
    let t := ((s.dropAccess id).writeThrough a bs).gotLane a.iid a.lane a.word v none
    mget? t.accesses id = none ∧ t.groups = s.groups ∧ (∀ b, (b < a.loc ∨ a.loc + bs.length ≤ b) → t.byte b = s.byte b) ∧
      (∀ i < bs.length, t.byte (a.loc + i) = bs.getD i 0) ∧ Got s t a v := by
  intro t
  have hbyte : ∀ x, t.byte x = if a.loc ≤ x ∧ x < a.loc + bs.length then bs.getD (x - a.loc) 0 else s.byte x := byte_writeThrough (s.dropAccess id) a bs
  obtain ⟨_, _, _, _, _, _, h⟩ := writeThrough_frame (s.dropAccess id) a bs
  have ht : t = ((s.dropAccess id).writeThrough a bs).gotLane a.iid a.lane a.word v none := rfl
  rw [h] at ht
  refine ⟨by rw [ht]; exact mget?_merase_self _ _, by rw [ht]; rfl, fun b hb => ?_, fun i hi => ?_, by rw [ht]; exact got_gotLane rfl _⟩
  · rw [hbyte, if_neg (by omega)]
  · rw [hbyte, if_pos (by omega), Nat.add_sub_cancel_left]

theorem store_performs {bs : List Byte} (ha : mget? s.accesses id = some a) (hcan : s.canPerform id a = true) (hop : a.op = .store bs) :
    ∃ t, exec (.accessPerform id) s = .next t ∧ mget? t.accesses id = none ∧ t.groups = s.groups ∧
      (∀ b, (b < a.loc ∨ a.loc + bs.length ≤ b) → t.byte b = s.byte b) ∧ (∀ i < bs.length, t.byte (a.loc + i) = bs.getD i 0) := by
  refine ⟨_, accessPerform_eq ha hcan (by simp [hop]) (by simp [hop]), ?_⟩
  rw [performAccess_clean (by simp [hop, Op.reads]), doAccess_store hop]
  obtain ⟨hgone, hgroups, hout, hin, -⟩ := written_performs (s := s) (id := id) (a := a) bs 0
  exact ⟨hgone, hgroups, hout, hin⟩

/-- A load's end, whatever serves it. -/
theorem load_performs {sz : Sz} {bs : List Byte} (ha : mget? s.accesses id = some a) (hcan : s.canPerform id a = true) (hop : a.op = .load sz)
    (hclean : s.poisoned a.loc a.len = none) (hbytes : ((s.dropAccess id).serve a).1 = bs) :
    ∃ t, exec (.accessPerform id) s = .next t ∧ mget? t.accesses id = none ∧ t.groups = s.groups ∧ (∀ b, t.byte b = s.byte b) ∧ Got s t a (extend sz bs) := by
  refine ⟨_, accessPerform_eq ha hcan (by simp [hop]) (by simp [hop]), ?_⟩
  obtain ⟨cores, replicas, hserve⟩ := serve_frame (s.dropAccess id) a
  rw [performAccess_clean fun _ => hclean, doAccess_load hop, hbytes, hserve]
  exact ⟨mget?_merase_self _ _, rfl, fun _ => rfl, got_gotLane rfl _⟩

theorem atomic_performs {op : Aop} {w64 : Bool} {b c : Nat} (ha : mget? s.accesses id = some a) (hcan : s.canPerform id a = true)
    (hop : a.op = .atomic op w64 b c) (hclean : s.poisoned a.loc a.len = none) :
    ∃ t, exec (.accessPerform id) s = .next t ∧ mget? t.accesses id = none ∧ t.groups = s.groups ∧
      (∀ k, (k < a.loc ∨ a.loc + a.len ≤ k) → t.byte k = s.byte k) ∧
      t.bytes a.loc a.len = natLe a.len (atomNew op w64 (s.word a.loc a.len) b c) ∧ Got s t a (s.word a.loc a.len) := by
  refine ⟨_, accessPerform_eq ha hcan (by simp [hop]) (by simp [hop]), ?_⟩
  rw [performAccess_clean fun _ => hclean, doAccess_atomic hop]
  obtain ⟨hgone, hgroups, hout, hin, hgot⟩ :=
    written_performs (s := s) (id := id) (a := a) (natLe a.len (atomNew op w64 (s.word a.loc a.len) b c)) (s.word a.loc a.len)
  have hbytes := bytes_eq_of_byte hin
  rw [length_natLe] at hout hbytes
  exact ⟨hgone, hgroups, hout, hbytes, hgot⟩

theorem poison_performs {p : Nat} (ha : mget? s.accesses id = some a) (hcan : s.canPerform id a = true)
    (hop : (∃ sz, a.op = .load sz) ∨ ∃ op w64 b c, a.op = .atomic op w64 b c) (hp : s.poisoned a.loc a.len = some p) :
    ∃ t, exec (.accessPerform id) s = .next t ∧ mget? t.accesses id = none ∧ t.mem = s.mem ∧
      ∀ l, mget? s.loads a.iid = some l → ∃ m, mget? t.loads a.iid = some m ∧ m.poison = l.poison.or (some a.va) := by
  have hkinds : a.op.reads = true ∧ (∀ k u, a.op ≠ .datom k u) ∧ ∀ l, a.op ≠ .dflush l := by
    rcases hop with ⟨sz, hop⟩ | ⟨op, w64, b, c, hop⟩ <;> simp [hop, Op.reads]
  obtain ⟨hreads, hdatom, hflush⟩ := hkinds
  refine ⟨_, accessPerform_eq ha hcan hdatom hflush, ?_⟩
  rw [performAccess_poisoned hreads hp]
  exact ⟨mget?_merase_self _ _, rfl, fun l hl => poison_gotLane rfl 0 a.va hl⟩

end Perform

end Sys2Proof.Machine

namespace Sys2Proof.Machine

/-! ### Results written where the allocation still holds them (R32, R255) -/

theorem lanes_single {i : Nat} (hi : i < 64) : lanes (1#64 <<< i) = [i] := by
  have hbit : ∀ j ∈ List.range 64, (1#64 <<< i).getLsbD j = (j == i) := by
    intro j hj
    rw [List.mem_range] at hj
    rw [BitVec.getLsbD_shiftLeft, BitVec.getLsbD_one]
    by_cases h : j = i
    · simp [h, hi]
    · rcases Nat.lt_or_gt_of_ne h with hlt | hgt
      · simp [h, hlt]
      · simp [h, Nat.sub_ne_zero_of_lt hgt]
  rw [lanes, List.filter_congr hbit, List.filter_beq, List.count_eq_one_of_mem List.nodup_range (List.mem_range.2 hi)]
  rfl

/-- One vector register of a lane written, whatever its number. -/
theorem vec_setVec_one (g : Group) {lane l : Nat} (hlane : lane < 64) (hl : l < 64) (r v x : Nat) :
    (g.setVec lane r v 1).vec l x = if l = lane ∧ x = r ∧ x ≠ 255 then BitVec.ofNat 32 v else g.vec l x := by
  unfold Group.setVec
  by_cases h255 : r = 255
  · rw [if_pos (by simpa using h255), if_neg (by omega)]
  · rw [if_neg (by simpa using h255), Group.setVec, Group.vec, Group.vec, zget_zset]
    by_cases hx : x = 255
    · simp [hx]
    · by_cases hkey : l = lane ∧ x = r
      · rw [if_neg (by simpa using hx), if_pos (by omega), if_pos ⟨hkey.1, hkey.2, hx⟩]
      · rw [if_neg (by simpa using hx), if_neg (by omega), if_neg (by tauto), if_neg (by simpa using hx)]

/-- The next register of a lane's result, where the allocation holds it. -/
theorem setWithin_succ (g : Group) (n : BitVec 8) (lane v w : Nat) :
    g.setWithin (.v n) lane v (w + 1) =
      if n.toNat + w < 8 * (g.setWithin (.v n) lane v w).blocks then (g.setWithin (.v n) lane v w).setVec lane (n.toNat + w) (v / 2 ^ (32 * w)) 1
      else g.setWithin (.v n) lane v w := by
  unfold Group.setWithin
  dsimp only
  rw [List.range_succ, List.foldl_append]
  rfl

/-- A vector result touches no other file. -/
theorem setWithin_vec_frame (g : Group) (n : BitVec 8) (lane v w : Nat) : ∃ y, g.setWithin (.v n) lane v w = { g with v := y } := by
  induction w with
  | zero => exact ⟨g.v, rfl⟩
  | succ w ih =>
    obtain ⟨y, hy⟩ := ih
    rw [setWithin_succ]
    split_ifs
    · obtain ⟨z, hz⟩ := setVec_frame 1 (g.setWithin (.v n) lane v w) lane (n.toNat + w) (v / 2 ^ (32 * w))
      exact ⟨z, by rw [hz, hy]⟩
    · exact ⟨y, hy⟩

/-- The registers of a lane's result that the allocation holds. -/
theorem setWithin_vec (g : Group) (n : BitVec 8) {lane l : Nat} (hlane : lane < 64) (hl : l < 64) (v w x : Nat) (hw : n.toNat + w ≤ 8 * g.blocks) :
    (g.setWithin (.v n) lane v w).vec l x =
      if l = lane ∧ n.toNat ≤ x ∧ x < n.toNat + w ∧ x ≠ 255 then wordAt v (x - n.toNat) else g.vec l x := by
  induction w with
  | zero => rw [if_neg (by omega)]; rfl
  | succ w ih =>
    obtain ⟨y, hy⟩ := setWithin_vec_frame g n lane v w
    have hroom : n.toNat + w < 8 * (g.setWithin (.v n) lane v w).blocks := by rw [hy]; exact hw
    rw [setWithin_succ, if_pos hroom, vec_setVec_one _ hlane hl, ih (by omega)]
    by_cases hlast : l = lane ∧ x = n.toNat + w ∧ x ≠ 255
    · rw [if_pos hlast, if_pos (by omega), hlast.2.1, Nat.add_sub_cancel_left]
      rfl
    · rw [if_neg hlast]
      exact if_congr (by omega) rfl rfl

/-! ### Results of many lanes -/

/-- The results of a load in its group's registers. -/
def LoadI.results (l : LoadI) (g : Group) : Group :=
  if l.nwb then g else (lanes l.mask).foldl (fun g i => g.setWithin l.dst i (mgetD l.got i 0) l.words) g

theorem results_nwb {l : LoadI} (h : l.nwb = true) (g : Group) : l.results g = g := if_pos h

theorem results_writes {l : LoadI} (h : l.nwb = false) (g : Group) :
    l.results g = (lanes l.mask).foldl (fun g i => g.setWithin l.dst i (mgetD l.got i 0) l.words) g := if_neg (by rw [h]; decide)

/-- Results touch vector and uniform registers alone. -/
theorem results_frame (l : LoadI) (g : Group) : ∃ y z, l.results g = { g with v := y, s := z } := by
  have hone : ∀ (g : Group) i, ∃ y z, g.setWithin l.dst i (mgetD l.got i 0) l.words = { g with v := y, s := z } := by
    intro g i
    cases l.dst with
    | v n =>
      obtain ⟨y, hy⟩ := setWithin_vec_frame g n i (mgetD l.got i 0) l.words
      exact ⟨y, g.s, hy⟩
    | s n =>
      obtain ⟨z, hz⟩ := setUni_frame l.words g n.toNat (mgetD l.got i 0)
      exact ⟨g.v, z, hz⟩
    | _ => exact ⟨g.v, g.s, rfl⟩
  unfold LoadI.results
  split_ifs
  · exact ⟨g.v, g.s, rfl⟩
  · induction lanes l.mask generalizing g with
    | nil => exact ⟨g.v, g.s, rfl⟩
    | cons i ls ih =>
      obtain ⟨y, z, h⟩ := hone g i
      obtain ⟨y', z', h'⟩ := ih (g.setWithin l.dst i (mgetD l.got i 0) l.words)
      exact ⟨y', z', by rw [List.foldl_cons, h', h]⟩

/-- A vector result written in the lanes of a list. -/
theorem setWithin_vec_lanes (ls : List Nat) (hls : ∀ i ∈ ls, i < 64) (n : BitVec 8) (f : Nat → Nat) (w : Nat) (g : Group) (hw : n.toNat + w ≤ 8 * g.blocks) :
    (ls.foldl (fun g i => g.setWithin (.v n) i (f i) w) g).s = g.s ∧
      ∀ l < 64, ∀ x, (ls.foldl (fun g i => g.setWithin (.v n) i (f i) w) g).vec l x =
        if l ∈ ls ∧ n.toNat ≤ x ∧ x < n.toNat + w ∧ x ≠ 255 then wordAt (f l) (x - n.toNat) else g.vec l x := by
  induction ls generalizing g with
  | nil => exact ⟨rfl, fun l _ x => by simp⟩
  | cons i ls ih =>
    obtain ⟨y, hy⟩ := setWithin_vec_frame g n i (f i) w
    obtain ⟨hs, hrest⟩ := ih (fun j hj => hls j (List.mem_cons_of_mem i hj)) (g.setWithin (.v n) i (f i) w) (by rw [hy]; exact hw)
    refine ⟨by rw [List.foldl_cons, hs, hy], fun l hl x => ?_⟩
    rw [List.foldl_cons, hrest l hl, setWithin_vec g n (hls i List.mem_cons_self) hl _ _ _ hw]
    by_cases hmem : l ∈ ls ∧ n.toNat ≤ x ∧ x < n.toNat + w ∧ x ≠ 255
    · rw [if_pos hmem, if_pos ⟨List.mem_cons_of_mem i hmem.1, hmem.2⟩]
    · rw [if_neg hmem]
      by_cases hli : l = i
      · rw [hli]
        exact if_congr (by simp) rfl rfl
      · rw [if_neg (by tauto), if_neg (by rw [List.mem_cons]; tauto)]

theorem vecWrites_getD (n : BitVec 8) (on : Nat → Bool) (w : Nat) (f : Nat → Nat) (l r : Nat) (d : W32) :
    (vecWrites (.v n) on w f l r).getD d = if on l = true ∧ n.toNat ≤ r ∧ r < n.toNat + w ∧ r ≠ 255 then wordAt (f l) (r - n.toNat) else d := by
  have hcond : (on l && r != 255 && decide (n.toNat ≤ r) && decide (r < n.toNat + w)) = true ↔ on l = true ∧ n.toNat ≤ r ∧ r < n.toNat + w ∧ r ≠ 255 := by
    simp only [Bool.and_eq_true, bne_iff_ne, decide_eq_true_eq]
    tauto
  simp only [vecWrites, hcond]
  split_ifs <;> rfl

theorem uniWrites_getD (n : BitVec 6) (w v r : Nat) (d : W32) :
    (uniWrites (.s n) true w v r).getD d = if n.toNat ≤ r ∧ r < n.toNat + w then wordAt v (r - n.toNat) else d := by
  simp only [uniWrites, Bool.true_and, Bool.and_eq_true, decide_eq_true_eq]
  split_ifs <;> rfl

theorem results_vec {l : LoadI} {n : BitVec 8} (hnwb : l.nwb = false) (hd : l.dst = .v n) {g : Group} (hw : n.toNat + l.words ≤ 8 * g.blocks) :
    (l.results g).s = g.s ∧ ∀ i < 64, ∀ r,
      (l.results g).vec i r = (vecWrites l.dst (fun i => l.mask.getLsbD i) l.words (fun i => mgetD l.got i 0) i r).getD (g.vec i r) := by
  obtain ⟨hs, hvec⟩ := setWithin_vec_lanes (lanes l.mask) (fun i hi => ((mem_lanes _ i).1 hi).1) n (fun i => mgetD l.got i 0) l.words g hw
  rw [results_writes hnwb, hd]
  refine ⟨hs, fun i hi r => ?_⟩
  rw [hvec i hi, vecWrites_getD]
  simp only [mem_lanes, hi, true_and]

theorem results_uni {l : LoadI} {n : BitVec 6} {i : Nat} (hnwb : l.nwb = false) (hd : l.dst = .s n) (hmask : l.mask = 1#64 <<< i) (hi : i < 64) (g : Group) :
    (l.results g).v = g.v ∧ ∀ r, (l.results g).uni r = (uniWrites l.dst true l.words (mgetD l.got i 0) r).getD (g.uni r) := by
  rw [results_writes hnwb, hd, hmask, lanes_single hi, List.foldl_cons, List.foldl_nil]
  obtain ⟨y, hy⟩ := setUni_frame l.words g n.toNat (mgetD l.got i 0)
  have hv : (g.setUni n.toNat (mgetD l.got i 0) l.words).v = g.v := by rw [hy]
  refine ⟨hv, fun r => ?_⟩
  rw [uniWrites_getD]
  exact uni_setUni l.words g n.toNat _ r

/-! ### LOAD_RETURN (R182, R255) -/

theorem exec_loadReturn (iid : Nat) (s : State) : exec (.loadReturn iid) s = .next (s.loadDone iid) := rfl

/-- A group whose pending registers of an instruction are written. -/
def Group.unpend (g : Group) (iid : Nat) : Group := { g with pending := g.pending.filter fun p => p.iid != iid }

/-- The machine with a load out of flight, its registers pending no more. -/
def State.returned (s : State) (iid : Nat) (l : LoadI) : State := ({ s with loads := merase s.loads iid } : State).modGroup l.gk fun g => g.unpend iid

section Return
variable {s : State} {iid : Nat} {l : LoadI}

theorem loadReturn_waits (hl : mget? s.loads iid = some l) (h : l.left ≠ 0 ∨ l.upper ≠ 0) : exec (.loadReturn iid) s = .next s := by
  have hopen : (l.left != 0 || l.upper != 0 || s.heldBack l) = true := by
    rw [Bool.or_eq_true, Bool.or_eq_true, bne_iff_ne, bne_iff_ne]
    exact .inl h
  rw [exec_loadReturn, State.loadDone, hl]
  dsimp only
  rw [if_pos hopen]

/-- A load is over once no lane is left and nothing holds its poison back. -/
theorem loadDone_clean (hl : mget? s.loads iid = some l) (hleft : l.left = 0) (hupper : l.upper = 0) (hpoison : l.poison = none) :
    s.loadDone iid =
      (if l.nwb then (s.returned iid l).ccoreValue l else ((s.returned iid l).ccoreValue l).modGroup l.gk fun g =>
        (lanes l.mask).foldl (fun g i => g.setWithin l.dst i (mgetD l.got i 0) l.words) g).loadLatch iid l := by
  have hclosed : ¬(l.left != 0 || l.upper != 0 || s.heldBack l) = true := by simp [hleft, hupper, State.heldBack, hpoison]
  unfold State.loadDone
  rw [hl]
  dsimp only
  rw [if_neg hclosed, hpoison]
  rfl

theorem group_returned {g : Group} (hg : mget? s.groups l.gk = some g) : mget? (s.returned iid l).groups l.gk = some (g.unpend iid) := by
  rw [State.returned, mget_modGroup, if_pos rfl]
  exact congrArg _ hg

theorem loadLatch_none (t : State) (iid : Nat) (h : l.latch = none) : t.loadLatch iid l = t := by
  unfold State.loadLatch
  rw [h]

/-- A load without poison writes its results, and its registers are pending no more. -/
theorem loadDone_results (hl : mget? s.loads iid = some l) (hleft : l.left = 0) (hupper : l.upper = 0) (hpoison : l.poison = none) (hlatch : l.latch = none)
    {g : Group} (hg : mget? s.groups l.gk = some g) :
    mget? (s.loadDone iid).loads iid = none ∧ (s.loadDone iid).mem = s.mem ∧ mget? (s.loadDone iid).groups l.gk = some (l.results (g.unpend iid)) := by
  have hvalue : (s.returned iid l).ccoreValue l = s.returned iid l := by
    rw [State.ccoreValue, group_returned hg]
    exact if_pos (by simp)
  rw [loadDone_clean hl hleft hupper hpoison, loadLatch_none _ _ hlatch, hvalue]
  unfold LoadI.results
  split_ifs
  · exact ⟨mget?_merase_self _ _, rfl, group_returned hg⟩
  · refine ⟨mget?_merase_self _ _, rfl, ?_⟩
    rw [mget_modGroup, if_pos rfl, group_returned hg]
    rfl

/-! ### Poison that a load returns (R182, log 90) -/

theorem heir_of_path {g : Group} {p : Path} (hp : mget? g.paths l.pid = some p) : g.heir l = l.pid := if_pos (by rw [hp]; rfl)

theorem heldBack_of_path {g : Group} {p : Path} {a : Nat} (hpoison : l.poison = some a) (hg : mget? s.groups l.gk = some g) (hh : g.handler = none)
    (hp : mget? g.paths l.pid = some p) : s.heldBack l = (g.park.isSome || p.st.busy) := by
  simp [State.heldBack, hpoison, hg, heir_of_path hp, State.trapHeld, hh, hp]

theorem loadReturn_held {g : Group} {p : Path} {a : Nat} (hl : mget? s.loads iid = some l) (hpoison : l.poison = some a) (hg : mget? s.groups l.gk = some g)
    (hh : g.handler = none) (hp : mget? g.paths l.pid = some p) (hpark : g.park.isSome = true) : exec (.loadReturn iid) s = .next s := by
  have hopen : (l.left != 0 || l.upper != 0 || s.heldBack l) = true := by rw [heldBack_of_path hpoison hg hh hp, hpark, Bool.true_or, Bool.or_true]
  rw [exec_loadReturn, State.loadDone, hl]
  dsimp only
  rw [if_pos hopen]

/-- A load with poison interrupts its path's chain and raises MCHK, with the stream counter where the chain began. -/
theorem loadDone_mchk {g : Group} {p : Path} {a : Nat} (hl : mget? s.loads iid = some l) (hleft : l.left = 0) (hupper : l.upper = 0)
    (hpoison : l.poison = some a) (hg : mget? s.groups l.gk = some g) (hh : g.handler = none) (hp : mget? g.paths l.pid = some p) (hpark : g.park = none)
    (hst : p.st = .ready) : s.loadDone iid =
      l.back.elim (((s.returned iid l).cutChain l.gk l.pid).trapAt l.gk l.pid ⟨.mchk, a⟩ l.pc l.pc)
        fun k => (((s.returned iid l).cutChain l.gk l.pid).modGroup l.gk fun g => { g with ctr := k.ctr }).trapAt l.gk l.pid ⟨.mchk, a⟩ l.pc k.head := by
  have hclosed : ¬(l.left != 0 || l.upper != 0 || s.heldBack l) = true := by
    rw [heldBack_of_path hpoison hg hh hp, hleft, hupper, hpark, hst]
    decide
  have hgroup := group_returned (iid := iid) hg
  have hheir : (g.unpend iid).heir l = l.pid := heir_of_path hp
  unfold State.returned Group.unpend at hgroup
  unfold Group.unpend at hheir
  unfold State.loadDone
  rw [hl]
  dsimp only
  rw [if_neg hclosed, hpoison]
  dsimp only
  rw [hgroup]
  dsimp only
  rw [hheir]
  cases l.back <;> rfl

end Return

/-- Settles O24: what an access does by its operation, and what a return does by what the instruction has met. -/
theorem accessesPerform : Obligations.AccessesPerform := by
  unfold Obligations.AccessesPerform
  refine ⟨fun s id a ha => ⟨fun hcan => ⟨fun bs hop => store_performs ha hcan hop, fun sz hop hclean hhome => ?_, fun sz l hop hclean hcache hscope hways hcopy => ?_,
    fun op w64 b c hop hclean => atomic_performs ha hcan hop hclean, fun hop p hp => poison_performs ha hcan hop hp⟩, accessPerform_waits ha⟩,
    fun s iid l hl => ⟨loadReturn_waits hl, fun g hleft hupper hpoison hlatch hg => ?_, fun g p a hleft hupper hpoison hg hh hp => ⟨fun hpark hst => ?_,
      loadReturn_held hl hpoison hg hh hp⟩⟩⟩
  · exact load_performs ha hcan hop hclean (serve_home (s := s.dropAccess id) hhome)
  · obtain ⟨t, hexec, -, -, hbyte, hgot⟩ := load_performs ha hcan hop hclean (serve_copy (s := s.dropAccess id) hcache hscope hways hcopy)
    exact ⟨t, hexec, hbyte, hgot⟩
  · obtain ⟨hloads, hmem, hgroup⟩ := loadDone_results hl hleft hupper hpoison hlatch hg
    obtain ⟨y, z, hframe⟩ := results_frame l (g.unpend iid)
    refine ⟨_, _, rfl, hgroup, hloads, hmem, by rw [hframe]; rfl, by rw [hframe]; rfl, by rw [hframe]; rfl, by rw [hframe]; rfl, fun hnwb => ?_,
      fun n hnwb hd hw => ?_, fun n i hnwb hd hmask hi => ?_⟩
    · rw [results_nwb hnwb]
      exact ⟨rfl, rfl⟩
    · obtain ⟨hs, hvec⟩ := results_vec (g := g.unpend iid) hnwb hd hw
      exact ⟨hs, fun i hi r _ => hvec i hi r⟩
    · obtain ⟨hv, huni⟩ := results_uni hnwb hd hmask hi (g.unpend iid)
      exact ⟨hv, fun r _ => huni r⟩
  · rw [exec_loadReturn, loadDone_mchk hl hleft hupper hpoison hg hh hp hpark hst]
    cases l.back <;> rfl

end Sys2Proof.Machine

/-! PROOF. What a group starts with, and the placing of clusters (O38). -/

namespace Sys2Proof.Machine

/-! ### A group as it starts (R35, R130, R230) -/

section Start
variable (l : Launch) (lid r now : Nat)

theorem vec_start (i k : Nat) : (l.group lid r now).vec i k = 0 := by
  unfold Group.vec
  split_ifs <;> rfl

theorem pred_start {k : Nat} (hk : k < 7) (i : Nat) : (l.group lid r now).pred k i = false := by
  have h7 : (k == 7) = false := by simp [hk.ne]
  rw [Group.pred, h7]
  exact BitVec.getLsbD_zero

/-- The uniform registers hold ARGS in s0 and s1 alone. -/
theorem uni_start (k : Nat) : (l.group lid r now).uni k =
    if k = 1 then BitVec.ofNat 32 (l.args / 2 ^ 32) else if k = 0 then BitVec.ofNat 32 l.args else 0 := by
  unfold Group.uni Launch.group
  dsimp only
  rw [zget_zset, zget_zset]
  rfl

theorem args_start : ((l.group lid r now).uni 0).toNat + 2 ^ 32 * ((l.group lid r now).uni 1).toNat = l.args % 2 ^ 64 := by
  rw [uni_start, uni_start, if_neg (by decide), if_pos rfl, if_pos rfl, BitVec.toNat_ofNat, BitVec.toNat_ofNat]
  omega

end Start

/-! ### A team on its core (R252, R268) -/

/-- A core that holds a new team: an invalid cache and no watch. -/
def Core.holdsNew (x : Core) (t : Team) : Prop := x.team = some t ∧ x.frames = [] ∧ x.watches = []

/-- Team `idx` of a cluster as it is placed. -/
def newTeam (lid clid idx : Nat) : Team := { launch := lid, clid := clid, idx := idx, preempt := none, since := 0 }

theorem zeroBanks_frame (s : State) (c : Nat) (bs : List Nat) : (s.zeroBanks c bs).cores = s.cores ∧ (s.zeroBanks c bs).launches = s.launches := by
  unfold State.zeroBanks
  induction bs generalizing s with
  | nil => exact ⟨rfl, rfl⟩
  | cons b bs ih => exact ih _

theorem setQuarters_frame (ls : List Nat) (key : Nat → Nat) (f : State → Nat → Quarter) (s : State) :
    (ls.foldl (fun s k => s.setQuarter (key k) (f s k)) s).cores = s.cores ∧ (ls.foldl (fun s k => s.setQuarter (key k) (f s k)) s).launches = s.launches := by
  induction ls generalizing s with
  | nil => exact ⟨rfl, rfl⟩
  | cons k ls ih => exact ih _

/-- Cores and launches after a core is cleared for a team. -/
theorem clearCore_frame (s : State) (c : Nat) (banks : W64) :
    (s.clearCore c banks).cores = mset s.cores c { s.core c with frames := [], watches := [] } ∧ (s.clearCore c banks).launches = s.launches := by
  obtain ⟨hcores, hlaunches⟩ := zeroBanks_frame s c (banksOf banks 1 ++ banksOf banks 2)
  have hcore : (s.zeroBanks c (banksOf banks 1 ++ banksOf banks 2)).core c = s.core c := by rw [State.core, hcores]; rfl
  unfold State.clearCore
  dsimp only
  rw [(setQuarters_frame _ _ _ _).1, (setQuarters_frame _ _ _ _).2, hcore]
  refine ⟨?_, hlaunches⟩
  rw [State.setCore, hcores]

theorem setGroups_frame (ls : List Nat) (f : State → Nat → Map Group) (s : State) :
    (ls.foldl (fun s r => { s with groups := f s r }) s).cores = s.cores ∧ (ls.foldl (fun s r => { s with groups := f s r }) s).launches = s.launches := by
  induction ls generalizing s with
  | nil => exact ⟨rfl, rfl⟩
  | cons k ls ih => exact ih _

/-- A team placed: its core is new, the other cores stand, and its launch counts it. -/
theorem placeTeam_spec (s : State) (lid clid idx c : Nat) :
    ((s.placeTeam lid clid idx c).core c).holdsNew (newTeam lid clid idx) ∧ (∀ k, k ≠ c → (s.placeTeam lid clid idx c).core k = s.core k) ∧
      mget? (s.placeTeam lid clid idx c).launches lid = (mget? s.launches lid).map fun l => { l with teams := l.teams + 1 } := by
  obtain ⟨hcores, hlaunches⟩ := clearCore_frame s c (s.launch lid).banks
  have hcore : (s.clearCore c (s.launch lid).banks).core c = { s.core c with frames := [], watches := [] } := by
    rw [State.core, hcores, mgetD_mset_self]
  have hplaced : (s.placeTeam lid clid idx c).cores =
      mset (mset s.cores c { s.core c with frames := [], watches := [] }) c { s.core c with frames := [], watches := [], team := some (newTeam lid clid idx) } ∧
      (s.placeTeam lid clid idx c).launches = mmodify s.launches lid fun l => { l with teams := l.teams + 1 } := by
    unfold State.placeTeam State.modLaunch
    dsimp only
    rw [(setGroups_frame _ _ _).1, (setGroups_frame _ _ _).2, hcore, State.setCore, hcores, hlaunches]
    exact ⟨rfl, rfl⟩
  obtain ⟨hcores', hlaunches'⟩ := hplaced
  refine ⟨?_, fun k hk => ?_, ?_⟩
  · rw [State.core, hcores', mgetD_mset_self]
    exact ⟨rfl, rfl, rfl⟩
  · rw [State.core, hcores', mgetD_mset_ne _ _ _ hk, mgetD_mset_ne _ _ _ hk]
    rfl
  · rw [hlaunches', mget?_mmodify_self]

/-! ### A cluster on its rectangle (R329) -/

theorem length_rect (l : Launch) (d y x : Nat) : (l.rect d y x).length = l.clh * l.clw := by simp [Launch.rect]

/-- The cores of a rectangle by their places in the cluster. -/
theorem getElem?_rect (l : Launch) (d y x : Nat) {i j : Nat} (hi : i < l.clw) (hj : j < l.clh) :
    (l.rect d y x)[j * l.clw + i]? = some (d * 96 + (y + j) * 12 + (x + i)) := by
  have hrows : ∀ n, j < n → ((List.range n).flatMap fun j => (List.range l.clw).map fun i => d * 96 + (y + j) * 12 + (x + i))[j * l.clw + i]? =
      some (d * 96 + (y + j) * 12 + (x + i)) := by
    intro n hn
    induction n with
    | zero => omega
    | succ n ih =>
      have hlen : ((List.range n).flatMap fun j => (List.range l.clw).map fun i => d * 96 + (y + j) * 12 + (x + i)).length = n * l.clw := by simp
      rw [List.range_succ, List.flatMap_append]
      rcases Nat.lt_succ_iff_lt_or_eq.1 hn with hlt | rfl
      · have hroom : j * l.clw + i < n * l.clw := by nlinarith
        rw [List.getElem?_append_left (by omega), ih hlt]
      · rw [List.getElem?_append_right (by omega), hlen, Nat.add_sub_cancel_left]
        simp [hi]
  exact hrows l.clh hj

/-- A rectangle that lies within its die's rows names no core twice. -/
theorem nodup_rect (l : Launch) (d y : Nat) {x : Nat} (hx : x + l.clw ≤ 12) : (l.rect d y x).Nodup := by
  refine List.nodup_flatMap.2 ⟨fun j _ => List.Nodup.map (fun i k h => by simpa using h) List.nodup_range,
    List.nodup_range.pairwise_of_forall_ne fun j _ k _ hjk => ?_⟩
  rw [Function.onFun, List.disjoint_left]
  intro c hj hk
  obtain ⟨i, hi, rfl⟩ := List.mem_map.1 hj
  obtain ⟨i', hi', h⟩ := List.mem_map.1 hk
  rw [List.mem_range] at hi hi'
  omega

/-- The teams of a cluster are placed one after the other: the launch counts them. -/
theorem launches_placeTeams (lid clid : Nat) (xs : List (Nat × Nat)) (s : State) :
    mget? (xs.foldl (fun s x => s.placeTeam lid clid x.1 x.2) s).launches lid =
      (mget? s.launches lid).map fun l => { l with teams := l.teams + xs.length } := by
  induction xs generalizing s with
  | nil => exact (congrFun Option.map_id _).symm
  | cons x xs ih =>
    obtain ⟨-, -, hlaunch⟩ := placeTeam_spec s lid clid x.1 x.2
    rw [List.foldl_cons, ih, hlaunch, Option.map_map]
    refine congrArg (fun f => (mget? s.launches lid).map f) (funext fun l => ?_)
    simp only [Function.comp_apply, List.length_cons, Nat.add_assoc, Nat.add_comm 1]

/-- Each on a core of its own, the other cores being as they were. -/
theorem core_placeTeams (lid clid : Nat) (xs : List (Nat × Nat)) (hxs : (xs.map (·.2)).Nodup) (s : State) :
    (∀ x ∈ xs, ((xs.foldl (fun s x => s.placeTeam lid clid x.1 x.2) s).core x.2).holdsNew (newTeam lid clid x.1)) ∧
      ∀ k, k ∉ xs.map (·.2) → (xs.foldl (fun s x => s.placeTeam lid clid x.1 x.2) s).core k = s.core k := by
  induction xs generalizing s with
  | nil => exact ⟨fun _ h => absurd h List.not_mem_nil, fun _ _ => rfl⟩
  | cons x xs ih =>
    obtain ⟨hx, hnodup⟩ := List.nodup_cons.1 hxs
    obtain ⟨hnew, hother, -⟩ := placeTeam_spec s lid clid x.1 x.2
    obtain ⟨hall, hrest⟩ := ih hnodup (s.placeTeam lid clid x.1 x.2)
    refine ⟨fun z hz => ?_, fun k hk => ?_⟩
    · rcases List.mem_cons.1 hz with rfl | hz
      · rw [List.foldl_cons, hrest _ hx]
        exact hnew
      · exact hall z hz
    · rw [List.map_cons, List.mem_cons, not_or] at hk
      rw [List.foldl_cons, hrest k hk.2, hother k hk.1]

theorem launch_eq {s : State} {lid : Nat} {l : Launch} (h : mget? s.launches lid = some l) : s.launch lid = l := by rw [State.launch, mgetD, h]; rfl

/-- The teams of a cluster, by number and core. -/
theorem map_snd_teams (cores : List Nat) : ((List.range cores.length).zip cores).map (·.2) = cores := List.map_snd_zip (by simp)

section Cluster
variable {s : State} {lid : Nat} {l : Launch}

/-- What the launch is after a cluster of it is placed. -/
theorem launch_placeCluster (hl : mget? s.launches lid = some l) (r : Nat × Nat × Nat) :
    mget? (s.placeCluster lid r).launches lid = some { l with nextCl := l.nextCl + 1, teams := l.teams + l.clw * l.clh } := by
  have hlen : ((List.range (l.rect r.1 r.2.1 r.2.2).length).zip (l.rect r.1 r.2.1 r.2.2)).length = l.clw * l.clh := by simp [length_rect, Nat.mul_comm]
  unfold State.placeCluster State.modLaunch
  rw [launch_eq hl]
  dsimp only
  rw [mget?_mmodify_self, launches_placeTeams, hl, hlen]
  rfl

/-- Every core of the rectangle holds its team. -/
theorem core_placeCluster (hl : mget? s.launches lid = some l) {d y x : Nat} (hx : x + l.clw ≤ 12) {i j : Nat} (hi : i < l.clw) (hj : j < l.clh) :
    ((s.placeCluster lid (d, y, x)).core (d * 96 + (y + j) * 12 + (x + i))).holdsNew (newTeam lid l.nextCl (j * l.clw + i)) := by
  have hcore := getElem?_rect l d y x hi hj
  have hroom : j * l.clw + i < (l.rect d y x).length := (List.getElem?_eq_some_iff.1 hcore).1
  have hmem : (j * l.clw + i, d * 96 + (y + j) * 12 + (x + i)) ∈ (List.range (l.rect d y x).length).zip (l.rect d y x) :=
    List.mem_of_getElem? (List.getElem?_zip_eq_some.2 ⟨List.getElem?_range hroom, hcore⟩)
  have hnodup : (((List.range (l.rect d y x).length).zip (l.rect d y x)).map (·.2)).Nodup := by rw [map_snd_teams]; exact nodup_rect l d y hx
  unfold State.placeCluster
  rw [launch_eq hl]
  exact (core_placeTeams lid l.nextCl _ hnodup s).1 _ hmem

/-- A rectangle that is found lies within its die's rows. -/
theorem findRect_fits {c d y x : Nat} {busy : Nat → Bool} {held : Bool} (h : s.findRect l c busy held = some (d, y, x)) : x + l.clw ≤ 12 := by
  unfold State.findRect at h
  obtain ⟨d', -, h⟩ := List.exists_of_findSome?_eq_some h
  split_ifs at h
  obtain ⟨y', -, h⟩ := List.exists_of_findSome?_eq_some h
  obtain ⟨x', hx', h⟩ := List.exists_of_findSome?_eq_some h
  rw [List.mem_range] at hx'
  split_ifs at h
  cases h
  omega

theorem length_findAll {busy : Nat → Bool} {held : Bool} (n c : Nat) (taken : List Nat) {rs : List (Nat × Nat × Nat)}
    (h : s.findAll l busy held n c taken = some rs) : rs.length = n := by
  induction n generalizing c taken rs with
  | zero => cases h; rfl
  | succ n ih =>
    unfold State.findAll at h
    split at h
    · cases h
    · obtain ⟨rs', hrest, rfl⟩ := Option.map_eq_some_iff.1 h
      rw [List.length_cons, ih _ _ hrest]

theorem nextCl_placeClusters (hl : mget? s.launches lid = some l) (rs : List (Nat × Nat × Nat)) :
    ∃ l', mget? (rs.foldl (fun s r => s.placeCluster lid r) s).launches lid = some l' ∧ l'.nextCl = l.nextCl + rs.length := by
  induction rs generalizing s l with
  | nil => exact ⟨l, hl, rfl⟩
  | cons r rs ih =>
    obtain ⟨l', hl', hnext⟩ := ih (launch_placeCluster hl r)
    exact ⟨l', hl', by rw [hnext, List.length_cons, Nat.add_assoc, Nat.add_comm 1]⟩

/-! ### CLUSTER_PLACE and COSCHED_PLACE (R329, R330) -/

theorem exec_clusterPlace (lid : Nat) (s : State) : exec (.clusterPlace lid) s = execClusterPlace lid s := rfl
theorem exec_coschedPlace (lid : Nat) (s : State) : exec (.coschedPlace lid) s = execCoschedPlace lid s := rfl

theorem clusterPlace_waits (hl : mget? s.launches lid = some l) (h : s.mayPlace lid l = false) : exec (.clusterPlace lid) s = .next s := by
  rw [exec_clusterPlace, execClusterPlace, hl]
  simp [h]

theorem coschedPlace_waits (hl : mget? s.launches lid = some l) (h : s.mayPlace lid l = false) : exec (.coschedPlace lid) s = .next s := by
  rw [exec_coschedPlace, execCoschedPlace, hl]
  simp [h]

theorem clusterPlace_full (hl : mget? s.launches lid = some l) (h : s.findRect l l.nextCl s.hasTeam true = none) : exec (.clusterPlace lid) s = .next s := by
  rw [exec_clusterPlace, execClusterPlace, hl]
  simp [h]

theorem coschedPlace_full (hl : mget? s.launches lid = some l) (h : s.findAll l s.hasTeam true l.grid 0 [] = none) : exec (.coschedPlace lid) s = .next s := by
  rw [exec_coschedPlace, execCoschedPlace, hl]
  simp [h]

theorem clusterPlace_places {r : Nat × Nat × Nat} (hl : mget? s.launches lid = some l) (hco : l.cosched = false) (hmay : s.mayPlace lid l = true)
    (h : s.findRect l l.nextCl s.hasTeam true = some r) : exec (.clusterPlace lid) s = .next (s.placeCluster lid r) := by
  rw [exec_clusterPlace, execClusterPlace, hl]
  simp [hco, hmay, h]

theorem coschedPlace_places {rs : List (Nat × Nat × Nat)} (hl : mget? s.launches lid = some l) (hco : l.cosched = true) (hmay : s.mayPlace lid l = true)
    (h : s.findAll l s.hasTeam true l.grid 0 [] = some rs) : exec (.coschedPlace lid) s = .next (rs.foldl (fun s r => s.placeCluster lid r) s) := by
  rw [exec_coschedPlace, execCoschedPlace, hl]
  simp [hco, hmay, h]

end Cluster

/-- Settles O38: a group's start field by field, and the two events by what the launch may do and what rectangles are free. -/
theorem placingClusters : Obligations.PlacingClusters := by
  unfold Obligations.PlacingClusters
  refine ⟨fun l lid r now => ?_, fun s lid l hl => ⟨fun hmay => ⟨clusterPlace_waits hl hmay, coschedPlace_waits hl hmay⟩, fun d y x hco hmay hrect => ?_,
    fun hrect _ => clusterPlace_full hl hrect, fun _ _ hall => coschedPlace_full hl hall, fun rs hco hmay hall => ?_⟩⟩
  · refine ⟨vec_start l lid r now, fun k hk => ?_, args_start l lid r now, fun k hk i => pred_start l lid r now hk i, fun _ => rfl, fun _ => rfl,
      rfl, rfl, rfl, rfl, rfl, rfl, rfl, rfl, rfl, rfl, rfl, rfl, rfl, rfl, _, rfl, rfl, rfl, rfl, rfl, rfl, rfl⟩
    rw [uni_start, if_neg (by omega), if_neg (by omega)]
  · refine ⟨_, _, clusterPlace_places hl hco hmay hrect, launch_placeCluster hl _, rfl, rfl, fun i j hi hj => ?_⟩
    exact core_placeCluster hl (findRect_fits hrect) hi hj
  · obtain ⟨l', hl', hnext⟩ := nextCl_placeClusters hl rs
    exact ⟨_, l', coschedPlace_places hl hco hmay hall, hl', hnext, length_findAll _ _ _ hall⟩

end Sys2Proof.Machine

/-! PROOF. Exact numbers and rounding into a format (O15). -/

namespace Sys2Proof

/-! ### Exact numbers as rationals (R54) -/

/-- A power of two as the two scalings of a fraction's sides. -/
theorem two_zpow_eq_div (s : ℤ) : (2 : ℚ) ^ s = 2 ^ s.toNat / 2 ^ (-s).toNat := by
  conv_lhs => rw [← Int.toNat_sub_toNat_neg s, zpow_sub₀ two_ne_zero, zpow_natCast, zpow_natCast]

theorem two_zpow_of_nonneg {s : ℤ} (h : 0 ≤ s) : (2 : ℚ) ^ s = 2 ^ s.toNat := by
  conv_lhs => rw [← Int.toNat_of_nonneg h, zpow_natCast]

theorem cast_scale2 (n : ℕ) (s : ℤ) : (scale2 n s : ℚ) = n * 2 ^ s.toNat := by
  unfold scale2
  push_cast
  rfl

/-- The magnitude of an exact number. -/
def Q.mag (q : Q) : ℚ := q.num / q.den * 2 ^ q.e

theorem Q.mag_nonneg (q : Q) : 0 ≤ q.mag := by unfold Q.mag; positivity

theorem Q.mag_pos {q : Q} (hden : q.den ≠ 0) (hnum : q.num ≠ 0) : 0 < q.mag := by
  have hn : (0 : ℚ) < q.num := by exact_mod_cast Nat.pos_of_ne_zero hnum
  have hd : (0 : ℚ) < q.den := by exact_mod_cast Nat.pos_of_ne_zero hden
  unfold Q.mag
  positivity

theorem Q.mag_of_den_one {q : Q} (h : q.den = 1) : q.mag = q.num * 2 ^ q.e := by
  rw [Q.mag, h, Nat.cast_one, div_one]

/-- A sign as a factor. -/
def signOf (neg : Bool) : ℚ := if neg then -1 else 1

theorem Q.rat_eq (q : Q) : q.rat = signOf q.neg * q.mag := mul_assoc _ _ _

theorem Q.rat_of_nonneg {q : Q} (h : q.neg = false) : q.rat = q.mag := by simp [Q.rat_eq, signOf, h]

theorem Q.rat_of_neg {q : Q} (h : q.neg = true) : q.rat = -q.mag := by simp [Q.rat_eq, signOf, h]

theorem Q.abs_rat (q : Q) : |q.rat| = q.mag := by
  cases h : q.neg with
  | false => rw [Q.rat_of_nonneg h, abs_of_nonneg q.mag_nonneg]
  | true => rw [Q.rat_of_neg h, abs_neg, abs_of_nonneg q.mag_nonneg]

/-- The signed numerator at a lower exponent stands for the number. -/
theorem Q.numAt_eq {q : Q} (hden : q.den ≠ 0) {e : ℤ} (he : e ≤ q.e) : (q.numAt e : ℚ) = q.rat * q.den / 2 ^ e := by
  have hd : (q.den : ℚ) ≠ 0 := by exact_mod_cast hden
  have hscale : (scale2 q.num (q.e - e) : ℚ) = q.num * (2 ^ q.e / 2 ^ e) := by
    rw [cast_scale2, ← two_zpow_of_nonneg (sub_nonneg.2 he), zpow_sub₀ two_ne_zero]
  unfold Q.numAt
  rw [Q.rat_eq, Q.mag, signOf]
  split_ifs <;> push_cast <;> rw [hscale] <;> field_simp

theorem Q.lt_iff {a b : Q} (ha : a.den ≠ 0) (hb : b.den ≠ 0) : a.lt b = true ↔ a.rat < b.rat := by
  have hda : (0 : ℚ) < a.den := by exact_mod_cast Nat.pos_of_ne_zero ha
  have hdb : (0 : ℚ) < b.den := by exact_mod_cast Nat.pos_of_ne_zero hb
  have hpow : (0 : ℚ) < 2 ^ min a.e b.e := by positivity
  have hleft : ((a.numAt (min a.e b.e) * b.den : ℤ) : ℚ) = a.rat * (a.den * b.den / 2 ^ min a.e b.e) := by
    push_cast
    rw [Q.numAt_eq ha (min_le_left _ _)]
    ring
  have hright : ((b.numAt (min a.e b.e) * a.den : ℤ) : ℚ) = b.rat * (a.den * b.den / 2 ^ min a.e b.e) := by
    push_cast
    rw [Q.numAt_eq hb (min_le_right _ _)]
    ring
  unfold Q.lt
  rw [decide_eq_true_iff, ← Int.cast_lt (R := ℚ), hleft, hright]
  exact mul_lt_mul_iff_of_pos_right (by positivity)

/-- A number over a power of two, as a fraction of whole numbers. -/
theorem Q.over_eq (q : Q) (g : ℤ) : ((q.over g).1 : ℚ) / (q.over g).2 = q.mag / 2 ^ g := by
  have hzpow := two_zpow_eq_div (q.e - g)
  rw [zpow_sub₀ two_ne_zero, neg_sub] at hzpow
  unfold Q.over
  dsimp only
  rw [cast_scale2, cast_scale2, Q.mag, mul_div_mul_comm, ← hzpow, mul_div_assoc]

theorem Q.over_den_pos {q : Q} (hden : q.den ≠ 0) (g : ℤ) : 0 < (q.over g).2 := Nat.mul_pos (Nat.pos_of_ne_zero hden) (by positivity)

/-- The exponent of the leading bit. -/
theorem Q.log2_spec {q : Q} (hden : q.den ≠ 0) (hnum : q.num ≠ 0) : 2 ^ q.log2 ≤ q.mag ∧ q.mag < 2 ^ (q.log2 + 1) := by
  have hd : (0 : ℚ) < q.den := by exact_mod_cast Nat.pos_of_ne_zero hden
  have hpow : (0 : ℚ) < 2 ^ q.e := by positivity
  have hratio : scale2 q.num (-((Nat.log2 q.num : ℤ) - Nat.log2 q.den)) < scale2 q.den ((Nat.log2 q.num : ℤ) - Nat.log2 q.den) ↔
      (q.num / q.den : ℚ) < 2 ^ ((Nat.log2 q.num : ℤ) - Nat.log2 q.den) := by
    rw [← Nat.cast_lt (α := ℚ), cast_scale2, cast_scale2, two_zpow_eq_div, div_lt_div_iff₀ hd (by positivity), mul_comm ((2 : ℚ) ^ _) (q.den : ℚ)]
  have hnumlo : (2 : ℚ) ^ (Nat.log2 q.num : ℤ) ≤ q.num := by exact_mod_cast Nat.log2_self_le hnum
  have hnumhi : (q.num : ℚ) < 2 ^ ((Nat.log2 q.num : ℤ) + 1) := by exact_mod_cast Nat.lt_log2_self
  have hdenlo : (2 : ℚ) ^ (Nat.log2 q.den : ℤ) ≤ q.den := by exact_mod_cast Nat.log2_self_le hden
  have hdenhi : (q.den : ℚ) < 2 ^ ((Nat.log2 q.den : ℤ) + 1) := by exact_mod_cast Nat.lt_log2_self
  have hlow : (2 : ℚ) ^ ((Nat.log2 q.num : ℤ) - Nat.log2 q.den - 1) ≤ q.num / q.den := by
    rw [sub_sub, zpow_sub₀ two_ne_zero]
    exact div_le_div₀ (by positivity) hnumlo hd hdenhi.le
  have hhigh : (q.num / q.den : ℚ) < 2 ^ ((Nat.log2 q.num : ℤ) - Nat.log2 q.den + 1) := by
    rw [show (Nat.log2 q.num : ℤ) - Nat.log2 q.den + 1 = Nat.log2 q.num + 1 - Nat.log2 q.den by ring, zpow_sub₀ two_ne_zero]
    exact div_lt_div₀ hnumhi hdenlo (by positivity) (by positivity)
  unfold Q.log2 Q.mag
  dsimp only
  rw [add_assoc, zpow_add₀ two_ne_zero, zpow_add₀ two_ne_zero, mul_comm _ ((2 : ℚ) ^ q.e), mul_le_mul_iff_right₀ hpow, mul_lt_mul_iff_right₀ hpow]
  split_ifs with h
  · rw [sub_add_cancel]
    exact ⟨hlow, hratio.1 h⟩
  · exact ⟨not_lt.1 (mt hratio.2 h), hhigh⟩

/-! ### The codes of a format (R52, R53, R57) -/

/-- The value of a code by its fields: sign, biased exponent, mantissa. -/
def FF.decode (f : FF) (neg : Bool) (x m : ℕ) : Num :=
  if x = 2 ^ f.expo - 1 then
    match f with
    | .e4m3 => if m = 7 then .nan else .fin { neg := neg, num := 8 + m, den := 1, e := 5 }
    | _ => if m = 0 then .inf neg else .nan
  else if x = 0 then .fin { neg := neg, num := m, den := 1, e := f.minG }
  else .fin { neg := neg, num := 2 ^ f.mant + m, den := 1, e := f.minG + (x - 1) }

theorem FF.val_eq_decode (f : FF) (w : ℕ) :
    f.val w = f.decode (w / 2 ^ (f.expo + f.mant) % 2 == 1) (w / 2 ^ f.mant % 2 ^ f.expo) (w % 2 ^ f.mant) := by
  cases f <;> rfl

theorem FF.signBit_eq (f : FF) (neg : Bool) : f.signBit neg = neg.toNat * 2 ^ (f.expo + f.mant) := by cases neg <;> simp [FF.signBit]

/-- A code put together from its fields has them. -/
theorem FF.val_fields (f : FF) (neg : Bool) {x m : ℕ} (hx : x < 2 ^ f.expo) (hm : m < 2 ^ f.mant) :
    f.val (f.signBit neg + x * 2 ^ f.mant + m) = f.decode neg x m := by
  have hneg : neg.toNat < 2 := by cases neg <;> decide
  have hfields : (f.signBit neg + x * 2 ^ f.mant + m) % 2 ^ f.mant = m ∧ (f.signBit neg + x * 2 ^ f.mant + m) / 2 ^ f.mant % 2 ^ f.expo = x ∧
      (f.signBit neg + x * 2 ^ f.mant + m) / 2 ^ (f.expo + f.mant) % 2 = neg.toNat := by
    rw [FF.signBit_eq]
    generalize neg.toNat = b at hneg ⊢
    cases f <;> simp only [FF.mant, FF.expo] at * <;> omega
  obtain ⟨hmant, hexpo, hsign⟩ := hfields
  rw [FF.val_eq_decode, hmant, hexpo, hsign]
  cases neg <;> rfl

/-- The number that the fields of a finite code give: below the topmost exponent, which E4M3 alone uses for numbers. -/
theorem FF.decode_fin {f : FF} {neg : Bool} {x m : ℕ} {v : Q} (h : f.decode neg x m = .fin v) :
    v = { neg := neg, num := if x = 0 then m else 2 ^ f.mant + m, den := 1, e := if x = 0 then f.minG else f.minG + (x - 1) } ∧
      (x ≠ 2 ^ f.expo - 1 ∨ f = .e4m3 ∧ m ≠ 7) := by
  unfold FF.decode at h
  by_cases htop : x = 2 ^ f.expo - 1
  · rw [if_pos htop] at h
    cases f with
    | e4m3 =>
      dsimp only at h
      by_cases hnan : m = 7
      · rw [if_pos hnan] at h
        cases h
      · rw [if_neg hnan] at h
        cases h
        rw [htop]
        exact ⟨rfl, .inr ⟨rfl, hnan⟩⟩
    | _ =>
      dsimp only at h
      split_ifs at h
  · rw [if_neg htop] at h
    by_cases hzero : x = 0
    · rw [if_pos hzero] at h
      cases h
      exact ⟨by simp [hzero], .inl htop⟩
    · rw [if_neg hzero] at h
      cases h
      exact ⟨by simp [hzero], .inl htop⟩

theorem FF.mag_maxQ (f : FF) : f.maxQ.mag = f.maxMag.1 * 2 ^ f.maxMag.2 := Q.mag_of_den_one rfl

/-- The mantissa and the exponent that the fields of a number give, beside the largest. -/
theorem FF.fields_bounds {f : FF} {x m n : ℕ} {k : ℤ} (hx : x < 2 ^ f.expo) (hm : m < 2 ^ f.mant) (htop : x ≠ 2 ^ f.expo - 1 ∨ f = .e4m3 ∧ m ≠ 7)
    (hn : n = if x = 0 then m else 2 ^ f.mant + m) (hk : k = if x = 0 then f.minG else f.minG + (x - 1)) :
    n < 2 ^ (f.mant + 1) ∧ f.minG ≤ k ∧ (n ≤ f.maxMag.1 ∧ k ≤ f.maxMag.2 ∨ n ≤ 2 * f.maxMag.1 ∧ k + 1 ≤ f.maxMag.2) := by
  cases f <;> simp only [FF.mant, FF.expo, FF.minG, FF.bias, FF.maxMag, reduceCtorEq, false_and, or_false, true_and] at * <;> split_ifs at hn hk <;> omega

theorem FF.mag_le_maxQ {f : FF} {n : ℕ} {k : ℤ} (h : n ≤ f.maxMag.1 ∧ k ≤ f.maxMag.2 ∨ n ≤ 2 * f.maxMag.1 ∧ k + 1 ≤ f.maxMag.2) :
    (n : ℚ) * 2 ^ k ≤ f.maxQ.mag := by
  rw [FF.mag_maxQ]
  rcases h with ⟨hn, hk⟩ | ⟨hn, hk⟩
  · exact mul_le_mul (by exact_mod_cast hn) (zpow_le_zpow_right₀ one_le_two hk) (by positivity) (by positivity)
  · calc (n : ℚ) * 2 ^ k ≤ (2 * f.maxMag.1 : ℕ) * 2 ^ k := mul_le_mul_of_nonneg_right (by exact_mod_cast hn) (by positivity)
      _ = f.maxMag.1 * 2 ^ (k + 1) := by rw [zpow_add_one₀ two_ne_zero]; push_cast; ring
      _ ≤ f.maxMag.1 * 2 ^ f.maxMag.2 := mul_le_mul_of_nonneg_left (zpow_le_zpow_right₀ one_le_two hk) (by positivity)

/-- A finite number of the format: a mantissa of the format's length, at an exponent not below that of the subnormals, and at most the largest finite number. -/
theorem FF.val_fin {f : FF} {w : ℕ} {v : Q} (h : f.val w = .fin v) :
    v.den = 1 ∧ v.num < 2 ^ (f.mant + 1) ∧ f.minG ≤ v.e ∧ v.mag ≤ f.maxQ.mag := by
  rw [FF.val_eq_decode] at h
  obtain ⟨rfl, htop⟩ := FF.decode_fin h
  obtain ⟨hnum, hexp, hmax⟩ := FF.fields_bounds (Nat.mod_lt _ (by positivity)) (Nat.mod_lt _ (by positivity)) htop rfl rfl
  exact ⟨rfl, hnum, hexp, (Q.mag_of_den_one rfl).trans_le (FF.mag_le_maxQ hmax)⟩

/-- The largest finite exponent field is that of the largest magnitude. -/
theorem FF.maxMag_spec (f : FF) : 2 ^ f.mant ≤ f.maxMag.1 ∧ f.maxMag.1 < 2 ^ (f.mant + 1) ∧ f.minG ≤ f.maxMag.2 ∧ f.maxMag.2 + 2 ≤ f.minG + 2 ^ f.expo := by
  cases f <;> decide

/-- The code of a normal magnitude not above the largest. -/
theorem FF.val_code_normal {f : FF} {neg : Bool} {m : ℕ} {h : ℤ} {y : Q} (hlo : 2 ^ f.mant ≤ m) (hhi : m < 2 ^ (f.mant + 1)) (hmin : f.minG ≤ h)
    (hmax : (m : ℚ) * 2 ^ h ≤ f.maxQ.mag) (hy : f.val (f.signBit neg + ((h - f.minG).toNat + 1) * 2 ^ f.mant + (m - 2 ^ f.mant)) = .fin y) :
    y.neg = neg ∧ y.mag = m * 2 ^ h := by
  obtain ⟨-, htop, -, hexpo⟩ := f.maxMag_spec
  have hle : h ≤ f.maxMag.2 := by
    have hpow : (2 : ℚ) ^ ((f.mant : ℤ) + h) < 2 ^ ((f.mant : ℤ) + 1 + f.maxMag.2) := by
      rw [zpow_add₀ two_ne_zero, zpow_add₀ two_ne_zero]
      calc (2 : ℚ) ^ (f.mant : ℤ) * 2 ^ h ≤ m * 2 ^ h := mul_le_mul_of_nonneg_right (by exact_mod_cast hlo) (by positivity)
        _ ≤ f.maxMag.1 * 2 ^ f.maxMag.2 := by rwa [← FF.mag_maxQ]
        _ < 2 ^ ((f.mant : ℤ) + 1) * 2 ^ f.maxMag.2 := mul_lt_mul_of_pos_right (by exact_mod_cast htop) (by positivity)
    have := (zpow_lt_zpow_iff_right₀ one_lt_two).1 hpow
    omega
  have hx : (h - f.minG).toNat + 1 < 2 ^ f.expo := by zify; omega
  have hm : m - 2 ^ f.mant < 2 ^ f.mant := by rw [pow_succ] at hhi; omega
  rw [FF.val_fields f neg hx hm] at hy
  obtain ⟨rfl, -⟩ := FF.decode_fin hy
  refine ⟨rfl, ?_⟩
  rw [Q.mag_of_den_one rfl]
  dsimp only
  rw [if_neg (Nat.succ_ne_zero _), if_neg (Nat.succ_ne_zero _), Nat.add_sub_cancel' hlo]
  congr 2
  push_cast
  omega

/-- The code of a magnitude on the grid stands for it, with the sign asked for. -/
theorem FF.val_code {f : FF} {neg : Bool} {mag : ℕ} {g : ℤ} {y : Q} (hsub : g = f.minG ∨ 2 ^ f.mant ≤ mag) (hhi : mag ≤ 2 ^ (f.mant + 1)) (hmin : f.minG ≤ g)
    (hmax : (mag : ℚ) * 2 ^ g ≤ f.maxQ.mag) (hy : f.val (f.code neg mag g) = .fin y) : y.neg = neg ∧ y.mag = mag * 2 ^ g := by
  unfold FF.code at hy
  split_ifs at hy with hlt hcarry
  · rw [show f.signBit neg + mag = f.signBit neg + 0 * 2 ^ f.mant + mag by ring, FF.val_fields f neg (by positivity) hlt] at hy
    obtain ⟨rfl, -⟩ := FF.decode_fin hy
    exact ⟨rfl, by rw [Q.mag_of_den_one rfl, hsub.resolve_right (not_le.2 hlt)]; rfl⟩
  · have hvalue : ((2 ^ f.mant : ℕ) : ℚ) * 2 ^ (g + 1) = mag * 2 ^ g := by
      rw [hcarry, zpow_add_one₀ two_ne_zero, pow_succ]
      push_cast
      ring
    rw [← hvalue] at hmax ⊢
    exact FF.val_code_normal le_rfl (Nat.pow_lt_pow_right one_lt_two (Nat.lt_succ_self _)) (by omega) hmax hy
  · exact FF.val_code_normal (not_lt.1 hlt) (lt_of_le_of_ne hhi hcarry) hmin hmax hy

/-! ### Where a number stands on the grid of a rounding (R64) -/

section Grid
variable (f : FF) (c : RCtx) (x : Q)

/-- The exponent of the spacing at which a number is rounded. -/
def FF.spacing : ℤ := max (x.log2 - f.mant) f.minG

/-- The whole units of the spacing in its magnitude; what is left is `rest` of `parts` parts of a unit. -/
def FF.down : ℕ := (x.over (f.spacing x)).1 / (x.over (f.spacing x)).2
def FF.rest : ℕ := (x.over (f.spacing x)).1 % (x.over (f.spacing x)).2
def FF.parts : ℕ := (x.over (f.spacing x)).2

/-- The units it is rounded to. -/
def FF.units : ℕ := if roundsUp c x.neg (f.down x) (f.rest x) (f.parts x) then f.down x + 1 else f.down x

/-- The code of a rounding, where no subnormal is flushed. -/
theorem FF.roundQ_code {c : RCtx} (hftz : c.ftz = false) : (f.roundQ c x).1 =
    if f.maxQ.lt { neg := false, num := f.units c x, den := 1, e := f.spacing x } then (f.overflow c x).1 else f.code x.neg (f.units c x) (f.spacing x) := by
  unfold FF.roundQ
  rw [hftz, Bool.false_and]
  unfold FF.units FF.down FF.rest FF.parts FF.spacing
  dsimp only
  rw [Bool.false_and, if_neg Bool.false_ne_true, apply_ite Prod.fst]

variable {f c x}

theorem FF.rest_lt_parts (hden : x.den ≠ 0) : f.rest x < f.parts x := Nat.mod_lt _ (Q.over_den_pos hden _)

theorem FF.mag_eq (hden : x.den ≠ 0) : x.mag = (f.down x + f.rest x / f.parts x) * 2 ^ f.spacing x := by
  have hparts : (f.parts x : ℚ) ≠ 0 := by exact_mod_cast (Q.over_den_pos hden _).ne'
  rw [← div_eq_iff (by positivity), ← Q.over_eq]
  change _ / (f.parts x : ℚ) = _
  rw [div_eq_iff hparts, add_mul, div_mul_cancel₀ _ hparts]
  exact_mod_cast (Nat.div_add_mod' _ _).symm

/-- The units are a mantissa of the format's length, or a subnormal one at the least exponent. -/
theorem FF.down_spec (hden : x.den ≠ 0) (hnum : x.num ≠ 0) : (f.spacing x = f.minG ∨ 2 ^ f.mant ≤ f.down x) ∧ f.down x < 2 ^ (f.mant + 1) := by
  obtain ⟨hlo, hhi⟩ := Q.log2_spec hden hnum
  have hd := Q.over_den_pos hden (f.spacing x)
  have hdq : (0 : ℚ) < (x.over (f.spacing x)).2 := by exact_mod_cast hd
  have hover := x.over_eq (f.spacing x)
  have hpow : (0 : ℚ) < 2 ^ f.spacing x := by positivity
  unfold FF.down
  refine ⟨or_iff_not_imp_left.2 fun hsub => ?_, ?_⟩
  · have hspacing : f.spacing x = x.log2 - f.mant := (max_choice _ _).resolve_right hsub
    rw [Nat.le_div_iff_mul_le hd, ← Nat.cast_le (α := ℚ), Nat.cast_mul, ← le_div_iff₀ hdq, hover, le_div_iff₀ hpow, hspacing, Nat.cast_pow, Nat.cast_ofNat,
      ← zpow_natCast, ← zpow_add₀ two_ne_zero, add_sub_cancel]
    exact hlo
  · rw [Nat.div_lt_iff_lt_mul hd, ← Nat.cast_lt (α := ℚ), Nat.cast_mul, ← div_lt_iff₀ hdq, hover, div_lt_iff₀ hpow, Nat.cast_pow, Nat.cast_ofNat,
      ← zpow_natCast, ← zpow_add₀ two_ne_zero]
    refine hhi.trans_le (zpow_le_zpow_right₀ one_le_two ?_)
    have := le_max_left (x.log2 - f.mant) f.minG
    unfold FF.spacing
    push_cast
    omega

/-- No number of the format lies strictly between two neighbours of the grid. -/
theorem FF.val_off_grid {w down : ℕ} {v : Q} {g : ℤ} (hv : f.val w = .fin v) (hg : g = f.minG ∨ 2 ^ f.mant ≤ down) :
    v.mag ≤ down * 2 ^ g ∨ (down + 1) * 2 ^ g ≤ v.mag := by
  obtain ⟨hden, hnum, hmin, -⟩ := FF.val_fin hv
  rw [Q.mag_of_den_one hden]
  rcases le_or_gt g v.e with hge | hlt
  · have hwhole : (v.num : ℚ) * 2 ^ v.e = (v.num * 2 ^ (v.e - g).toNat : ℕ) * 2 ^ g := by
      push_cast
      rw [mul_assoc, ← two_zpow_of_nonneg (sub_nonneg.2 hge), ← zpow_add₀ two_ne_zero, sub_add_cancel]
    rw [hwhole]
    rcases le_or_gt (v.num * 2 ^ (v.e - g).toNat) down with hle | hgt
    · exact .inl (mul_le_mul_of_nonneg_right (by exact_mod_cast hle) (by positivity))
    · exact .inr (mul_le_mul_of_nonneg_right (by exact_mod_cast hgt) (by positivity))
  · have hnormal : 2 ^ f.mant ≤ down := hg.resolve_left (by omega)
    left
    calc (v.num : ℚ) * 2 ^ v.e ≤ (2 ^ (f.mant + 1) : ℕ) * 2 ^ v.e := mul_le_mul_of_nonneg_right (by exact_mod_cast hnum.le) (by positivity)
      _ = (2 ^ f.mant : ℕ) * 2 ^ (v.e + 1) := by rw [zpow_add_one₀ two_ne_zero, pow_succ]; push_cast; ring
      _ ≤ down * 2 ^ g := mul_le_mul (by exact_mod_cast hnormal) (zpow_le_zpow_right₀ one_le_two hlt) (by positivity) (by positivity)

/-! ### Where a rounding ends (R64, R65) -/

theorem FF.val_inf (hf : f ≠ .e4m3) (neg : Bool) : f.val (f.inf neg) = .inf neg := by
  have hexpo : 2 ^ f.expo - 1 < 2 ^ f.expo := Nat.sub_lt (by positivity) one_pos
  have hcode := FF.val_fields f neg hexpo (m := 0) (by positivity)
  rw [add_zero] at hcode
  rw [FF.inf, hcode]
  unfold FF.decode
  rw [if_pos rfl]
  cases f with
  | e4m3 => exact absurd rfl hf
  | _ => rfl

theorem FF.overflow_away (hsat : c.sat = false) (h : c.mode.towardZero x.neg = false) :
    (f.overflow c x).1 = if f = .e4m3 then f.nan else f.inf x.neg := by
  unfold FF.overflow
  dsimp only
  rw [h, hsat, if_neg Bool.false_ne_true]
  cases f <;> rfl

/-- An overflow ends at a finite number only toward zero: at the largest. -/
theorem FF.overflow_fin {y : Q} (hsat : c.sat = false) (hy : f.val (f.overflow c x).1 = .fin y) :
    c.mode.towardZero x.neg = true ∧ y.neg = x.neg ∧ y.mag = f.maxQ.mag := by
  cases htoward : c.mode.towardZero x.neg with
  | true =>
    obtain ⟨hlo, hhi, hmin, -⟩ := f.maxMag_spec
    unfold FF.overflow at hy
    dsimp only at hy
    rw [if_pos htoward] at hy
    rw [FF.mag_maxQ]
    exact ⟨rfl, FF.val_code (.inr hlo) hhi.le hmin f.mag_maxQ.ge hy⟩
  | false =>
    rw [FF.overflow_away hsat htoward] at hy
    by_cases hf : f = .e4m3
    · rw [if_pos hf, hf] at hy
      cases (show FF.e4m3.val FF.e4m3.nan = .nan from rfl).symm.trans hy
    · rw [if_neg hf, FF.val_inf hf] at hy
      cases hy

/-- A mode that overflows to a finite number rounds down. -/
theorem roundsUp_of_towardZero {neg : Bool} (h : c.mode.towardZero neg = true) (down n d : ℕ) : roundsUp c neg down n d = false := by
  unfold roundsUp
  split_ifs
  · rfl
  · cases hm : c.mode <;> simp_all [RMode.towardZero]

theorem roundsUp_zero (c : RCtx) (neg : Bool) (down d : ℕ) : roundsUp c neg down 0 d = false := if_pos rfl

/-- A finite result has the number's sign, and stands at the units that it is rounded to, or for an overflow toward zero at the largest number. -/
theorem FF.round_fin {y : Q} (hsat : c.sat = false) (hftz : c.ftz = false) (hden : x.den ≠ 0) (hnum : x.num ≠ 0)
    (hy : f.val (f.round c (.fin x)).1 = .fin y) :
    y.neg = x.neg ∧ (y.mag = f.units c x * 2 ^ f.spacing x ∨
      c.mode.towardZero x.neg = true ∧ y.mag = f.maxQ.mag ∧ f.maxQ.mag < f.down x * 2 ^ f.spacing x) := by
  obtain ⟨hgrid, hdown⟩ := FF.down_spec (f := f) hden hnum
  rw [FF.round, if_neg hnum, FF.roundQ_code f x hftz] at hy
  have hbig := Q.lt_iff (a := f.maxQ) (b := { neg := false, num := f.units c x, den := 1, e := f.spacing x }) one_ne_zero one_ne_zero
  rw [Q.rat_of_nonneg rfl, Q.rat_of_nonneg rfl, Q.mag_of_den_one (q := { neg := false, num := f.units c x, den := 1, e := f.spacing x }) rfl] at hbig
  dsimp only at hbig
  split_ifs at hy with hover
  · obtain ⟨htoward, hneg, hmag⟩ := FF.overflow_fin hsat hy
    have hunits : f.units c x = f.down x := by rw [FF.units, roundsUp_of_towardZero htoward, if_neg Bool.false_ne_true]
    exact ⟨hneg, .inr ⟨htoward, hmag, hunits ▸ hbig.1 hover⟩⟩
  · have hle : f.down x ≤ f.units c x ∧ f.units c x ≤ f.down x + 1 := by unfold FF.units; split_ifs <;> omega
    obtain ⟨hneg, hmag⟩ := FF.val_code (hgrid.imp_right fun h => h.trans hle.1) (hle.2.trans hdown) (le_max_right _ _) (not_lt.1 (mt hbig.2 hover)) hy
    exact ⟨hneg, .inl hmag⟩

end Grid

/-! ### Rounding toward zero and away from it (R63) -/

/-- The magnitude `y` is `x` rounded toward zero: a magnitude `v` is not between them. -/
def Truncates (x y v : ℚ) : Prop := y ≤ x ∧ (v ≤ y ∨ x < v)

/-- The magnitude `y` is `x` rounded away from zero. -/
def Enlarges (x y v : ℚ) : Prop := x ≤ y ∧ (v < x ∨ y ≤ v)

/-- `y` is the greatest not above `x`, as against `v`. -/
def Floors (x y v : ℚ) : Prop := y ≤ x ∧ (v ≤ x → v ≤ y)

/-- `y` is the least not below `x`, as against `v`. -/
def Ceils (x y v : ℚ) : Prop := x ≤ y ∧ (x ≤ v → y ≤ v)

/-- Nothing strictly between. -/
theorem not_between {x y v : ℚ} (h : Floors x y v ∨ Ceils x y v) : ¬(x < v ∧ v < y) ∧ ¬(y < v ∧ v < x) := by
  rcases h with ⟨hle, h⟩ | ⟨hle, h⟩
  · exact ⟨fun hv => absurd (hv.1.trans hv.2) (not_lt.2 hle), fun hv => absurd (h hv.2.le) (not_le.2 hv.1)⟩
  · exact ⟨fun hv => absurd (h hv.1.le) (not_le.2 hv.2), fun hv => absurd (hv.1.trans hv.2) (not_lt.2 hle)⟩

section Signs
variable {x y v : Q}

theorem Q.rat_cases (v : Q) : v.rat = v.mag ∨ v.rat = -v.mag := by
  cases h : v.neg with
  | false => exact .inl (Q.rat_of_nonneg h)
  | true => exact .inr (Q.rat_of_neg h)

theorem floors_of_truncates (hx : x.neg = false) (hy : y.neg = false) (h : Truncates x.mag y.mag v.mag) : Floors x.rat y.rat v.rat := by
  obtain ⟨hle, h⟩ := h
  rw [Floors, Q.rat_of_nonneg hx, Q.rat_of_nonneg hy]
  refine ⟨hle, fun hv => ?_⟩
  have hvpos := v.mag_nonneg
  have hypos := y.mag_nonneg
  rcases v.rat_cases with hr | hr <;> rw [hr] at hv ⊢ <;> rcases h with h | h <;> linarith

theorem ceils_of_enlarges (hpos : 0 < x.mag) (hx : x.neg = false) (hy : y.neg = false) (h : Enlarges x.mag y.mag v.mag) : Ceils x.rat y.rat v.rat := by
  obtain ⟨hle, h⟩ := h
  rw [Ceils, Q.rat_of_nonneg hx, Q.rat_of_nonneg hy]
  refine ⟨hle, fun hv => ?_⟩
  have hvpos := v.mag_nonneg
  rcases v.rat_cases with hr | hr <;> rw [hr] at hv ⊢ <;> rcases h with h | h <;> linarith

theorem ceils_of_truncates (hx : x.neg = true) (hy : y.neg = true) (h : Truncates x.mag y.mag v.mag) : Ceils x.rat y.rat v.rat := by
  obtain ⟨hle, h⟩ := h
  rw [Ceils, Q.rat_of_neg hx, Q.rat_of_neg hy]
  refine ⟨neg_le_neg hle, fun hv => ?_⟩
  have hvpos := v.mag_nonneg
  have hypos := y.mag_nonneg
  rcases v.rat_cases with hr | hr <;> rw [hr] at hv ⊢ <;> rcases h with h | h <;> linarith

theorem floors_of_enlarges (hpos : 0 < x.mag) (hx : x.neg = true) (hy : y.neg = true) (h : Enlarges x.mag y.mag v.mag) : Floors x.rat y.rat v.rat := by
  obtain ⟨hle, h⟩ := h
  rw [Floors, Q.rat_of_neg hx, Q.rat_of_neg hy]
  refine ⟨neg_le_neg hle, fun hv => ?_⟩
  have hvpos := v.mag_nonneg
  rcases v.rat_cases with hr | hr <;> rw [hr] at hv ⊢ <;> rcases h with h | h <;> linarith

/-- Numbers of one sign are as far apart as their magnitudes, numbers of two at least as far as those of one. -/
theorem Q.abs_sub_rat (h : y.neg = x.neg) : |x.rat - y.rat| = |x.mag - y.mag| := by
  rw [x.rat_eq, y.rat_eq, h, ← mul_sub, abs_mul]
  cases x.neg <;> simp [signOf]

theorem Q.abs_sub_mag_le : |x.mag - v.mag| ≤ |x.rat - v.rat| := by
  have := abs_abs_sub_abs_le_abs_sub x.rat v.rat
  rwa [Q.abs_rat, Q.abs_rat] at this

end Signs

/-! ### What each mode makes of a number (R63, R66) -/

section Rounding
variable {f : FF} {c : RCtx} {x y v : Q} {w : ℕ}

/-- The number stands between two neighbours of the grid, at neither side of which a number of the format is nearer. -/
theorem FF.bracket (hden : x.den ≠ 0) (hnum : x.num ≠ 0) (hv : f.val w = .fin v) :
    f.down x * 2 ^ f.spacing x ≤ x.mag ∧ x.mag < (f.down x + 1) * 2 ^ f.spacing x ∧
      (v.mag ≤ f.down x * 2 ^ f.spacing x ∨ (f.down x + 1) * 2 ^ f.spacing x ≤ v.mag) := by
  have hparts : (0 : ℚ) < f.parts x := by exact_mod_cast Q.over_den_pos hden _
  have hrest : (f.rest x : ℚ) / f.parts x < 1 := (div_lt_one hparts).2 (by exact_mod_cast FF.rest_lt_parts hden)
  have hpow : (0 : ℚ) < 2 ^ f.spacing x := by positivity
  refine ⟨?_, ?_, FF.val_off_grid hv (FF.down_spec hden hnum).1⟩
  · rw [FF.mag_eq (f := f) hden]
    exact mul_le_mul_of_nonneg_right (le_add_of_nonneg_right (by positivity)) hpow.le
  · rw [FF.mag_eq (f := f) hden]
    exact mul_lt_mul_of_pos_right (by linarith) hpow

/-- Rounded down, or exact. -/
theorem FF.round_truncates (hsat : c.sat = false) (hftz : c.ftz = false) (hden : x.den ≠ 0) (hnum : x.num ≠ 0)
    (hy : f.val (f.round c (.fin x)).1 = .fin y) (hv : f.val w = .fin v) (hdown : roundsUp c x.neg (f.down x) (f.rest x) (f.parts x) = false) :
    Truncates x.mag y.mag v.mag := by
  obtain ⟨hlo, hhi, hoff⟩ := FF.bracket hden hnum hv
  obtain ⟨-, hmag | ⟨-, hmag, hbig⟩⟩ := FF.round_fin hsat hftz hden hnum hy
  · rw [FF.units, hdown, if_neg Bool.false_ne_true] at hmag
    rw [hmag]
    exact ⟨hlo, hoff.imp_right hhi.trans_le⟩
  · obtain ⟨-, -, -, hmax⟩ := FF.val_fin hv
    rw [hmag]
    exact ⟨hbig.le.trans hlo, .inl hmax⟩

/-- Rounded up. -/
theorem FF.round_enlarges (hsat : c.sat = false) (hftz : c.ftz = false) (hden : x.den ≠ 0) (hnum : x.num ≠ 0)
    (hy : f.val (f.round c (.fin x)).1 = .fin y) (hv : f.val w = .fin v) (hup : roundsUp c x.neg (f.down x) (f.rest x) (f.parts x) = true) :
    Enlarges x.mag y.mag v.mag := by
  obtain ⟨hlo, hhi, hoff⟩ := FF.bracket hden hnum hv
  obtain ⟨-, hmag | ⟨htoward, -⟩⟩ := FF.round_fin hsat hftz hden hnum hy
  · have hrest : f.rest x ≠ 0 := fun h => by rw [h, roundsUp_zero] at hup; cases hup
    have hparts : (0 : ℚ) < f.parts x := by exact_mod_cast Q.over_den_pos hden _
    have hpow : (0 : ℚ) < 2 ^ f.spacing x := by positivity
    have hlt : f.down x * 2 ^ f.spacing x < x.mag := by
      rw [FF.mag_eq (f := f) hden]
      exact mul_lt_mul_of_pos_right (lt_add_of_pos_right _ (div_pos (by exact_mod_cast Nat.pos_of_ne_zero hrest) hparts)) hpow
    rw [FF.units, hup, if_pos rfl] at hmag
    push_cast at hmag
    rw [hmag]
    exact ⟨hhi.le, hoff.imp_left fun h => h.trans_lt hlt⟩
  · rw [roundsUp_of_towardZero htoward] at hup
    cases hup

/-- An exact number stays, where its mode does not round toward zero in an overflow. -/
theorem FF.round_exact (hsat : c.sat = false) (hftz : c.ftz = false) (hden : x.den ≠ 0) (hnum : x.num ≠ 0)
    (hy : f.val (f.round c (.fin x)).1 = .fin y) (htoward : c.mode.towardZero x.neg = false) (hrest : f.rest x = 0) : y.mag = x.mag := by
  obtain ⟨-, hmag | ⟨h, -⟩⟩ := FF.round_fin hsat hftz hden hnum hy
  · rw [hmag, FF.mag_eq (f := f) hden, FF.units, hrest, roundsUp_zero, if_neg Bool.false_ne_true, Nat.cast_zero, zero_div, add_zero]
  · rw [htoward] at h
    cases h

/-- A mode that rounds every inexact magnitude up. -/
theorem FF.round_enlarges_always (hsat : c.sat = false) (hftz : c.ftz = false) (hden : x.den ≠ 0) (hnum : x.num ≠ 0)
    (hy : f.val (f.round c (.fin x)).1 = .fin y) (hv : f.val w = .fin v) (htoward : c.mode.towardZero x.neg = false)
    (hup : f.rest x ≠ 0 → roundsUp c x.neg (f.down x) (f.rest x) (f.parts x) = true) : Enlarges x.mag y.mag v.mag := by
  by_cases hrest : f.rest x = 0
  · rw [FF.round_exact hsat hftz hden hnum hy htoward hrest]
    exact ⟨le_rfl, lt_or_ge _ _⟩
  · exact FF.round_enlarges hsat hftz hden hnum hy hv (hup hrest)

end Rounding

section Nearest
variable {f : FF} {c : RCtx} {x y v : Q} {w : ℕ}

/-- Round to nearest goes to the neighbour that is no farther. -/
theorem roundsUp_rne (hmode : c.mode = .rne) (neg : Bool) (down n d : ℕ) :
    (roundsUp c neg down n d = true → d ≤ 2 * n) ∧ (roundsUp c neg down n d = false → 2 * n ≤ d) := by
  unfold roundsUp
  rw [hmode]
  by_cases hzero : n = 0
  · simp [hzero]
  · simp only [if_neg hzero, Bool.or_eq_true, decide_eq_true_eq, Bool.and_eq_true, beq_iff_eq, Bool.or_eq_false_iff, decide_eq_false_iff_not]
    omega

/-- No number of the format is nearer than the nearest neighbour on the grid. -/
theorem FF.round_nearest (hmode : c.mode = .rne) (hsat : c.sat = false) (hftz : c.ftz = false) (hden : x.den ≠ 0) (hnum : x.num ≠ 0)
    (hy : f.val (f.round c (.fin x)).1 = .fin y) (hv : f.val w = .fin v) : |x.mag - y.mag| ≤ |x.mag - v.mag| := by
  obtain ⟨hlo, hhi, hoff⟩ := FF.bracket hden hnum hv
  have hparts : (0 : ℚ) < f.parts x := by exact_mod_cast Q.over_den_pos hden _
  have hpow : (0 : ℚ) < 2 ^ f.spacing x := by positivity
  have hexact := FF.mag_eq (f := f) hden
  obtain ⟨hup, hdown⟩ := roundsUp_rne hmode x.neg (f.down x) (f.rest x) (f.parts x)
  have hmag := (FF.round_fin hsat hftz hden hnum hy).2.resolve_right fun h => by rw [hmode] at h; exact absurd h.1 (by simp [RMode.towardZero])
  -- the part of a unit above `down`, to be compared with one half
  generalize hpart : (f.rest x : ℚ) / f.parts x = p at hexact
  have hfar : |x.mag - v.mag| ≥ min (x.mag - f.down x * 2 ^ f.spacing x) ((f.down x + 1) * 2 ^ f.spacing x - x.mag) := by
    rcases hoff with hoff | hoff
    · exact (min_le_left _ _).trans ((sub_le_sub_left hoff _).trans (le_abs_self _))
    · exact (min_le_right _ _).trans ((sub_le_sub_right hoff _).trans ((neg_sub _ _).symm.trans_le (neg_le_abs _)))
  refine le_trans ?_ hfar
  rw [hmag, FF.units]
  cases hround : roundsUp c x.neg (f.down x) (f.rest x) (f.parts x) with
  | true =>
    have hhalf : 1 / 2 ≤ p := by
      rw [← hpart, div_le_div_iff₀ two_pos hparts]
      exact_mod_cast (one_mul (f.parts x)).trans_le ((hup hround).trans_eq (mul_comm _ _))
    rw [if_pos rfl, abs_sub_comm]
    push_cast
    rw [abs_of_nonneg (sub_nonneg.2 hhi.le), hexact]
    exact le_min (by nlinarith) le_rfl
  | false =>
    have hhalf : p ≤ 1 / 2 := by
      rw [← hpart, div_le_div_iff₀ hparts two_pos]
      exact_mod_cast (mul_comm _ _).trans_le ((hdown hround).trans_eq (one_mul _).symm)
    rw [if_neg Bool.false_ne_true, abs_of_nonneg (sub_nonneg.2 hlo), hexact]
    exact le_min le_rfl (by nlinarith)

end Nearest

/-- Whatever the mode, a finite number goes to the number of the format next below it or next above. -/
theorem FF.round_neighbour {f : FF} {c : RCtx} {x y v : Q} {w : ℕ} (hsat : c.sat = false) (hftz : c.ftz = false) (hden : x.den ≠ 0) (hnum : x.num ≠ 0)
    (hy : f.val (f.round c (.fin x)).1 = .fin y) (hv : f.val w = .fin v) : Floors x.rat y.rat v.rat ∨ Ceils x.rat y.rat v.rat := by
  have hsign := (FF.round_fin hsat hftz hden hnum hy).1
  have hpos := Q.mag_pos hden hnum
  cases hround : roundsUp c x.neg (f.down x) (f.rest x) (f.parts x) with
  | false =>
    have htruncates := FF.round_truncates hsat hftz hden hnum hy hv hround
    cases hneg : x.neg with
    | false => exact .inl (floors_of_truncates hneg (hsign.trans hneg) htruncates)
    | true => exact .inr (ceils_of_truncates hneg (hsign.trans hneg) htruncates)
  | true =>
    have henlarges := FF.round_enlarges hsat hftz hden hnum hy hv hround
    cases hneg : x.neg with
    | false => exact .inr (ceils_of_enlarges hpos hneg (hsign.trans hneg) henlarges)
    | true => exact .inl (floors_of_enlarges hpos hneg (hsign.trans hneg) henlarges)

/-- Settles O15: where the number stands on the grid of the format, and which neighbour each mode takes. -/
theorem roundingIsCorrect : Obligations.RoundingIsCorrect := by
  unfold Obligations.RoundingIsCorrect
  intro f m d x y hden hnum hy
  have hsign := (FF.round_fin rfl rfl hden hnum hy).1
  have hpos := Q.mag_pos hden hnum
  refine ⟨hsign, fun w v _ hv => ?_⟩
  have htruncates := FF.round_truncates rfl rfl hden hnum hy hv
  have halways := FF.round_enlarges_always rfl rfl hden hnum hy hv
  have heither := FF.round_neighbour rfl rfl hden hnum hy hv
  cases m with
  | rne =>
    dsimp only
    rw [Q.abs_sub_rat hsign]
    exact (FF.round_nearest rfl rfl rfl hden hnum hy hv).trans Q.abs_sub_mag_le
  | rtz =>
    obtain ⟨hle, hor⟩ := htruncates (roundsUp_of_towardZero rfl _ _ _)
    dsimp only
    rw [Q.abs_rat, Q.abs_rat, Q.abs_rat]
    exact ⟨hle, fun h => hor.resolve_right (not_lt.2 h)⟩
  | rdn =>
    change Floors x.rat y.rat v.rat
    cases hneg : x.neg with
    | false => exact floors_of_truncates hneg (hsign.trans hneg) (htruncates (roundsUp_of_towardZero (by rw [hneg]; rfl) _ _ _))
    | true => exact floors_of_enlarges hpos hneg (hsign.trans hneg) (halways (by rw [hneg]; rfl) fun h => by rw [hneg]; exact if_neg h)
  | rup =>
    change Ceils x.rat y.rat v.rat
    cases hneg : x.neg with
    | false => exact ceils_of_enlarges hpos hneg (hsign.trans hneg) (halways (by rw [hneg]; rfl) fun h => by rw [hneg]; exact if_neg h)
    | true => exact ceils_of_truncates hneg (hsign.trans hneg) (htruncates (roundsUp_of_towardZero (by rw [hneg]; rfl) _ _ _))
  | sr => exact not_between heither
  | srd => exact not_between heither

end Sys2Proof

/-! PROOF. Exact sums, products, quotients and comparisons (O14). -/

namespace Sys2Proof

theorem signOf_bne (a b : Bool) : signOf (a != b) = signOf a * signOf b := by cases a <;> cases b <;> norm_num [signOf]

theorem signOf_bne_eq_div (a b : Bool) : signOf (a != b) = signOf a / signOf b := by cases a <;> cases b <;> norm_num [signOf]

theorem signOf_not (a : Bool) : signOf (!a) = -signOf a := by cases a <;> norm_num [signOf]

theorem Q.rat_of_num_zero {q : Q} (h : q.num = 0) : q.rat = 0 := by simp [Q.rat_eq, Q.mag, h]

section Sums
variable {x y : Q}

/-- The sum of numerators at the lower exponent, over both denominators (R54). -/
theorem Q.rat_add (rdn : Bool) (hx : x.den ≠ 0) (hy : y.den ≠ 0) : (Q.add rdn x y).rat = x.rat + y.rat := by
  have hdx : (x.den : ℚ) ≠ 0 := by exact_mod_cast hx
  have hdy : (y.den : ℚ) ≠ 0 := by exact_mod_cast hy
  have hsigned : ∀ (neg : Bool) (z : ℤ), neg = (if z = 0 then rdn else decide (z < 0)) → signOf neg * (z.natAbs : ℚ) = z := by
    intro neg z hneg
    rw [Nat.cast_natAbs, hneg]
    by_cases hz : z = 0
    · simp [hz]
    · rcases lt_or_gt_of_ne hz with hlt | hgt
      · rw [if_neg hz, abs_of_neg hlt]
        simp [signOf, hlt]
      · rw [if_neg hz, abs_of_pos hgt]
        simp [signOf, hgt.le]
  unfold Q.add
  dsimp only
  rw [Q.rat_eq, Q.mag, ← mul_assoc, mul_div_assoc', hsigned _ _ rfl]
  push_cast
  rw [Q.numAt_eq hx (min_le_left _ _), Q.numAt_eq hy (min_le_right _ _)]
  field_simp

/-- A sum of numbers neither of which is zero has the sign of RDN where it is zero. -/
theorem Q.neg_add_of_zero (rdn : Bool) (h : (Q.add rdn x y).num = 0) : (Q.add rdn x y).neg = rdn := if_pos (Int.natAbs_eq_zero.1 h)

theorem Q.rat_negate (y : Q) : ({ y with neg := !y.neg } : Q).rat = -y.rat := by
  rw [Q.rat_eq, signOf_not, neg_mul, y.rat_eq]
  rfl

/-- Sums of finite numbers, and the sign of a zero one (R54). -/
theorem Num.add_fin (rdn : Bool) (hx : x.den ≠ 0) (hy : y.den ≠ 0) :
    ∃ z, Num.add rdn (.fin x) (.fin y) = .fin z ∧ z.den ≠ 0 ∧ z.rat = x.rat + y.rat ∧
      (z.num = 0 → x.num ≠ 0 ∨ y.num ≠ 0 ∨ x.neg ≠ y.neg → z.neg = rdn) ∧ (x.num = 0 → y.num = 0 → x.neg = y.neg → z.neg = x.neg) := by
  unfold Num.add
  dsimp only
  by_cases hxz : x.num = 0
  · by_cases hyz : y.num = 0
    · by_cases hsign : x.neg = y.neg
      · refine ⟨x, by simp [hxz, hyz, hsign], hx, by rw [Q.rat_of_num_zero hyz, add_zero], fun _ h => ?_, fun _ _ _ => rfl⟩
        simp [hxz, hyz, hsign] at h
      · refine ⟨{ neg := rdn, num := 0, den := 1, e := 0 }, by simp [hxz, hyz, hsign, Num.zero], one_ne_zero, ?_, fun _ _ => rfl, fun _ _ h => absurd h hsign⟩
        rw [Q.rat_of_num_zero hxz, Q.rat_of_num_zero hyz, Q.rat_of_num_zero rfl, add_zero]
    · refine ⟨y, by simp [hxz, hyz], hy, by rw [Q.rat_of_num_zero hxz, zero_add], fun h => absurd h hyz, fun _ h => absurd h hyz⟩
  · by_cases hyz : y.num = 0
    · exact ⟨x, by simp [hxz, hyz], hx, by rw [Q.rat_of_num_zero hyz, add_zero], fun h => absurd h hxz, fun h => absurd h hxz⟩
    · exact ⟨Q.add rdn x y, by simp [hxz, hyz], mul_ne_zero hx hy, Q.rat_add rdn hx hy, fun h _ => Q.neg_add_of_zero rdn h, fun h => absurd h hxz⟩

theorem Num.sub_fin (rdn : Bool) (hx : x.den ≠ 0) (hy : y.den ≠ 0) :
    ∃ z, Num.sub rdn (.fin x) (.fin y) = .fin z ∧ z.den ≠ 0 ∧ z.rat = x.rat - y.rat := by
  obtain ⟨z, hz, hden, hrat, -⟩ := Num.add_fin rdn hx (y := { y with neg := !y.neg }) hy
  exact ⟨z, hz, hden, by rw [hrat, Q.rat_negate, sub_eq_add_neg]⟩

end Sums

section Products
variable {x y : Q}

theorem Num.mul_fin (hx : x.den ≠ 0) (hy : y.den ≠ 0) :
    ∃ z, Num.mul (.fin x) (.fin y) = .fin z ∧ z.den ≠ 0 ∧ z.rat = x.rat * y.rat ∧ z.neg = (x.neg != y.neg) := by
  refine ⟨_, rfl, mul_ne_zero hx hy, ?_, rfl⟩
  rw [Q.rat_eq, signOf_bne, Q.mag, x.rat_eq, y.rat_eq, Q.mag, Q.mag]
  push_cast
  rw [zpow_add₀ two_ne_zero, mul_div_mul_comm]
  ring

theorem Num.div_fin (hx : x.den ≠ 0) (hnum : y.num ≠ 0) :
    ∃ z, Num.div (.fin x) (.fin y) = .fin z ∧ z.den ≠ 0 ∧ z.rat = x.rat / y.rat ∧ z.neg = (x.neg != y.neg) := by
  unfold Num.div
  dsimp only
  rw [if_neg hnum]
  by_cases hzero : x.num = 0
  · refine ⟨_, if_pos hzero, one_ne_zero, ?_, rfl⟩
    rw [Q.rat_of_num_zero rfl, Q.rat_of_num_zero hzero, zero_div]
  · refine ⟨_, if_neg hzero, mul_ne_zero hx hnum, ?_, rfl⟩
    rw [Q.rat_eq, signOf_bne_eq_div, Q.mag, x.rat_eq, y.rat_eq, Q.mag, Q.mag]
    push_cast
    rw [zpow_sub₀ two_ne_zero, mul_div_mul_comm, ← inv_div (y.num : ℚ) y.den]
    ring

theorem Num.eq_fin (hx : x.den ≠ 0) (hy : y.den ≠ 0) : Num.eq (.fin x) (.fin y) = true ↔ x.rat = y.rat := by
  unfold Num.eq
  rw [Bool.and_eq_true, Bool.not_eq_true', Bool.not_eq_true', ← Bool.not_eq_true, ← Bool.not_eq_true, Q.lt_iff hx hy, Q.lt_iff hy hx, not_lt, not_lt, and_comm,
    ← le_antisymm_iff]

end Products

/-! ### The special cases (R158) -/

theorem Num.add_inf (rdn p n : Bool) : Num.add rdn (.inf p) (.inf n) = if p = n then .inf p else .nan := by cases p <;> cases n <;> rfl

/-- Reciprocals of zeros and infinities keep their sign. -/
theorem Num.one_div (p : Bool) : Num.div one (.zero p) = .inf p ∧ Num.div one (.inf p) = .zero p := by cases p <;> exact ⟨rfl, rfl⟩

theorem Num.div_zero {x : Q} (h : x.num ≠ 0) (p : Bool) : Num.div (.fin x) (.zero p) = .inf (x.neg != p) := if_neg h

theorem Num.sqrt_of_neg {x : Q} (h : x.num ≠ 0) (hneg : x.neg = true) : (Num.fin x).sqrt = .nan := by simp [Num.sqrt, h, hneg]

/-- Settles O14: the operations on finite numbers as those of the rationals, the special cases by evaluation. -/
theorem exactArithmetic : Obligations.ExactArithmetic := by
  unfold Obligations.ExactArithmetic
  refine ⟨fun x y hx hy => ⟨fun rdn => Num.add_fin rdn hx hy, fun rdn => Num.sub_fin rdn hx hy, Num.mul_fin hx hy, Num.div_fin hx, Q.lt_iff hx hy,
    Num.eq_fin hx hy⟩, Num.add_inf, fun p n => ⟨rfl, rfl, rfl, rfl⟩, fun p n => ⟨(Num.one_div p).1, (Num.one_div n).2⟩, fun x => Num.div_zero,
    fun x p => ⟨rfl, rfl⟩, fun x => Num.sqrt_of_neg, rfl, rfl, fun p => ⟨rfl, (Num.one_div p).1⟩, (Num.one_div false).2⟩

end Sys2Proof

/-! PROOF. Integer, logic and move instructions (O1, O2). -/

namespace Sys2Proof

/-! ### Readings of a word (R61) -/

theorem sext_toNat_of_pos {n : ℕ} (hn : 0 < n) (x : BitVec n) : sext x.toNat n = x.toInt := by
  obtain ⟨k, rfl⟩ : ∃ k, n = k + 1 := ⟨n - 1, by omega⟩
  have hlt : x.toNat < 2 ^ (k + 1) := x.isLt
  have hpow : 2 ^ (k + 1) = 2 * 2 ^ k := Nat.pow_succ'
  have hmod : (x.toNat : ℤ) % 2 ^ (k + 1) = x.toNat := by exact_mod_cast Nat.mod_eq_of_lt hlt
  rw [BitVec.toInt_eq_msb_cond, BitVec.msb_eq_decide]
  unfold sext bit
  rw [Nat.add_sub_cancel, Nat.mod_eq_of_lt hlt, hmod]
  by_cases hbit : 2 ^ k ≤ x.toNat
  · have hone : x.toNat / 2 ^ k = 1 := Nat.div_eq_of_lt_le (by omega) (by omega)
    simp [hbit, hone]
  · simp [hbit, Nat.div_eq_of_lt (not_le.1 hbit)]

theorem readInt_toNat {n : ℕ} (hn : 0 < n) (signed : Bool) (x : BitVec n) : Machine.readInt signed n x.toNat = Machine.asInt signed x := by
  unfold Machine.readInt Machine.asInt
  rw [sext_toNat_of_pos hn]

theorem immWords_lt (n bitsN w : ℕ) (signed : Bool) (h : n < 2 ^ (32 * w)) : Machine.immWords n bitsN w signed < 2 ^ (32 * w) := by
  unfold Machine.immWords
  split_ifs
  · exact wrap_lt _ _
  · exact h

/-! ### The widths of the types (R61) -/

theorem ITy.words_pos (t : ITy) : 0 < t.words := by cases t <;> decide
theorem SITy.words_pos (t : SITy) : 0 < t.words := by cases t <;> decide
theorem BTy.words_pos (t : BTy) : 0 < t.words := by cases t <;> decide
theorem MTy.words_pos (t : MTy) : 0 < t.words := by cases t <;> decide

theorem ITy.width_pos (t : ITy) : 0 < 32 * t.words := Nat.mul_pos (by decide) t.words_pos
theorem SITy.width_pos (t : SITy) : 0 < 32 * t.words := Nat.mul_pos (by decide) t.words_pos

end Sys2Proof

namespace Sys2Proof.Machine

/-! ### Sources as words of their width (R99 to R102) -/

theorem wordsOf_lt (f : ℕ → W32) (n w : ℕ) : wordsOf f n w < 2 ^ (32 * w) := by
  induction w generalizing n with
  | zero => exact Nat.one_pos
  | succ w ih =>
    have hlow := (f n).isLt
    have hhigh := ih (n + 1)
    rw [wordsOf, Nat.mul_succ, Nat.pow_add]
    omega

theorem pow_32_le {w : ℕ} (hw : 0 < w) : 2 ^ 32 ≤ 2 ^ (32 * w) := Nat.pow_le_pow_right two_pos (by omega)

theorem val_lt (c : Ctx) (x : Sel) {w : ℕ} (hw : 0 < w) (l : ℕ) : c.val x w l < 2 ^ (32 * w) := by
  cases x with
  | v n => exact wordsOf_lt _ _ _
  | s n => exact wordsOf_lt _ _ _
  | a n => exact Nat.mod_lt _ (by positivity)
  | q n => exact (BitVec.isLt _).trans_le (pow_32_le hw)
  | p n => exact (lt_of_le_of_lt (Bool.toNat_le _) (by decide)).trans_le (pow_32_le hw)
  | sp r => exact (Nat.mod_lt _ (by decide)).trans_le (pow_32_le hw)

theorem src_lt (c : Ctx) (x : Sel) (last signed : Bool) {w : ℕ} (hw : 0 < w) (l : ℕ) : c.src x last signed w l < 2 ^ (32 * w) := by
  unfold Ctx.src
  split
  · rename_i v _
    exact immWords_lt _ _ _ _ ((v.isLt.trans (by decide)).trans_le (pow_32_le hw))
  · rename_i v _ _
    exact immWords_lt _ _ _ _ (v.isLt.trans_le (pow_32_le hw))
  · exact val_lt c x hw l

/-- A source is the number of its word. -/
theorem toNat_opd (c : Ctx) (x : Sel) (last signed : Bool) {w : ℕ} (hw : 0 < w) (l : ℕ) : (c.opd x last signed w l).toNat = c.src x last signed w l := by
  rw [Ctx.opd, BitVec.toNat_ofNat, Nat.mod_eq_of_lt (src_lt c x last signed hw l)]

/-! ### Instructions of one and two sources -/

section Sources
variable {i : Instr} {s : State} {c e : Ctx} {op m n w wd : ℕ} {o : Ops} {signed : Bool}

/-- An instruction whose effect is a result of `wd` registers completes with it. -/
theorem result_completes {x : Enc} {f : Ctx → ℕ → ℕ} (hexec : exec i s = perform i noDetail noPriv (fun c => c.result wd (f c)) s) (h : Issues i s c e)
    (hx : i.enc = some x) (hd : x.shape.d = .dst n) : Completes i s e (Writes.result e wd (f e)) :=
  completes_of_perform hexec h rfl rfl (result_done (issues_entered h) (dstFits_of_issues h hx hd) wd (f e))

/-- A function of two sources, as `r` gives it on their words. -/
theorem bin_completes {f : ℕ → ℕ → ℕ} (r : BitVec (32 * w) → BitVec (32 * w) → ℕ) (hexec : exec i s = bin i w signed f s) (h : Issues i s c e)
    (hx : i.enc = some ⟨op, m, o⟩) (hd : (Enc.shape ⟨op, m, o⟩).d = .dst n) (hw : 0 < w) (hr : ∀ a b : BitVec (32 * w), f a.toNat b.toNat = r a b) :
    Completes i s e (Writes.result e w fun l => r (e.opd o.a false signed w l) (e.opd o.b true signed w l)) := by
  have hops : e.o = o := (ops_of_issues h hx).2
  have hdone := result_completes (f := fun c l => f (c.src c.o.a false signed w l) (c.src c.o.b true signed w l)) hexec h hx hd
  simpa only [hops, ← toNat_opd e _ _ _ hw, hr] using hdone

/-- A function of one source. -/
theorem una_completes {f : ℕ → ℕ} (r : BitVec (32 * w) → ℕ) (hexec : exec i s = una i w wd signed f s) (h : Issues i s c e)
    (hx : i.enc = some ⟨op, m, o⟩) (hd : (Enc.shape ⟨op, m, o⟩).d = .dst n) (hw : 0 < w) (hr : ∀ a : BitVec (32 * w), f a.toNat = r a) :
    Completes i s e (Writes.result e wd fun l => r (e.opd o.a true signed w l)) := by
  have hops : e.o = o := (ops_of_issues h hx).2
  have hdone := result_completes (f := fun c l => f (c.src c.o.a true signed w l)) hexec h hx hd
  simpa only [hops, ← toNat_opd e _ _ _ hw, hr] using hdone

end Sources

/-! ### Integer arithmetic on words (R62, R147) -/

section Words
variable {n : ℕ}

theorem wrap_sub (a b : BitVec n) : wrap n ((a.toNat : ℤ) - b.toNat) = (a - b).toNat := by
  rw [wrap_eq_toNat, sub_eq_add_neg, BitVec.ofInt_add, BitVec.ofInt_neg, ofInt_toNat, ofInt_toNat, BitVec.sub_eq_add_neg]

theorem wrap_neg (a : BitVec n) : wrap n (-(a.toNat : ℤ)) = (-a).toNat := by rw [wrap_eq_toNat, BitVec.ofInt_neg, ofInt_toNat]

theorem mulHigh_toNat (hn : 0 < n) (signed : Bool) (a b : BitVec n) :
    mulHigh signed n a.toNat b.toNat = (BitVec.ofInt n (asInt signed a * asInt signed b / 2 ^ n)).toNat := by
  rw [mulHigh, wrap_eq_toNat, readInt_toNat hn, readInt_toNat hn]

theorem lesser_toNat (hn : 0 < n) (signed : Bool) (a b : BitVec n) :
    lesser signed n a.toNat b.toNat = (if asInt signed a ≤ asInt signed b then a else b).toNat := by
  rw [lesser, readInt_toNat hn, readInt_toNat hn, apply_ite BitVec.toNat]

theorem greater_toNat (hn : 0 < n) (signed : Bool) (a b : BitVec n) :
    greater signed n a.toNat b.toNat = (if asInt signed a ≤ asInt signed b then b else a).toNat := by
  rw [greater, readInt_toNat hn, readInt_toNat hn, apply_ite BitVec.toNat]

/-- The absolute value, that of the least number being itself. -/
theorem wrap_natAbs (hn : 0 < n) (a : BitVec n) : wrap n (sext a.toNat n).natAbs = (if a.toInt < 0 then -a else a).toNat := by
  rw [sext_toNat_of_pos hn, wrap_eq_toNat, Int.natCast_natAbs]
  split_ifs with hneg
  · rw [abs_of_neg hneg, BitVec.ofInt_neg, BitVec.ofInt_toInt]
  · rw [abs_of_nonneg (not_lt.1 hneg), BitVec.ofInt_toInt]

theorem shadd_toNat (a b : BitVec n) (k : ℕ) : (a.toNat * 2 ^ k + b.toNat) % 2 ^ n = (a <<< k + b).toNat := by
  rw [BitVec.toNat_add, BitVec.toNat_shiftLeft, Nat.shiftLeft_eq, Nat.mod_add_mod]

theorem toNat_eq_zero_iff (b : BitVec n) : b.toNat = 0 ↔ b = 0 := by simp [← BitVec.toNat_inj]

/-- The quotient truncates toward zero; by zero it is all ones (R62). -/
theorem divTrunc_toNat (hn : 0 < n) (signed : Bool) (a b : BitVec n) :
    divTrunc signed n a.toNat b.toNat = (if b = 0 then BitVec.allOnes _ else if signed then a.sdiv b else a / b).toNat := by
  unfold divTrunc
  simp only [toNat_eq_zero_iff, readInt_toNat hn]
  split_ifs with hzero hs
  · rw [BitVec.toNat_allOnes]
  · rw [wrap_eq_toNat, asInt, asInt, if_pos hs, if_pos hs]
    exact congrArg _ (BitVec.eq_of_toInt_eq (by rw [BitVec.toInt_ofInt, BitVec.toInt_sdiv]))
  · rw [wrap_eq_toNat, asInt, asInt, if_neg hs, if_neg hs, ← Int.ofNat_tdiv, ← BitVec.toNat_udiv, ofInt_toNat]

theorem remTrunc_toNat (hn : 0 < n) (signed : Bool) (a b : BitVec n) :
    remTrunc signed n a.toNat b.toNat = (if b = 0 then BitVec.allOnes _ else if signed then a.srem b else a % b).toNat := by
  unfold remTrunc
  simp only [toNat_eq_zero_iff, readInt_toNat hn]
  split_ifs with hzero hs
  · rw [BitVec.toNat_allOnes]
  · rw [wrap_eq_toNat, asInt, asInt, if_pos hs, if_pos hs, ← BitVec.toInt_srem, BitVec.ofInt_toInt]
  · rw [wrap_eq_toNat, asInt, asInt, if_neg hs, if_neg hs, ← Int.ofNat_tmod, ← BitVec.toNat_umod, ofInt_toNat]

/-! ### Logic and bit counts on words (R147) -/

theorem not_toNat (a : BitVec n) : 2 ^ n - 1 - a.toNat = (~~~a).toNat := (BitVec.toNat_not).symm

theorem popCount_toNat (a : BitVec n) : popCount a.toNat n = (List.range n).countP fun i => a.getLsbD i := by
  simp only [popCount, List.countP_eq_length_filter, getLsbD_eq_bit]

theorem leadZeros_toNat (a : BitVec n) : leadZeros a.toNat n = n - a.toNat.size := by
  unfold leadZeros
  split_ifs with hzero
  · rw [hzero, Nat.size_zero, Nat.sub_zero]
  · have hlo : a.toNat.log2 < a.toNat.size := Nat.lt_size.2 (Nat.log2_self_le hzero)
    have hhi : a.toNat.size ≤ a.toNat.log2 + 1 := Nat.size_le.2 Nat.lt_log2_self
    omega

/-- The bits reversed one by one: after `k` of them the high `k` bits of the reversed word. -/
theorem revBits_toNat (a : BitVec n) : revBits a.toNat n = a.reverse.toNat := by
  have hpartial : ∀ k ≤ n, (List.range k).foldl (fun r i => r + if bit a.toNat i then 2 ^ (n - 1 - i) else 0) 0 = a.reverse.toNat / 2 ^ (n - k) * 2 ^ (n - k) := by
    intro k
    induction k with
    | zero => intro _; rw [Nat.sub_zero, Nat.div_eq_of_lt a.reverse.isLt]; exact (Nat.zero_mul _).symm
    | succ k ih =>
      intro hk
      have hbit : a.reverse.toNat / 2 ^ (n - (k + 1)) % 2 = (bit a.toNat k).toNat := by
        have hrev := getLsbD_eq_bit a.reverse (n - (k + 1))
        rw [BitVec.getLsbD_reverse, BitVec.getMsbD_eq_getLsbD, show n - 1 - (n - (k + 1)) = k by omega, getLsbD_eq_bit, decide_eq_true (by omega), Bool.true_and] at hrev
        rw [hrev, bit]
        rcases Nat.mod_two_eq_zero_or_one (a.reverse.toNat / 2 ^ (n - (k + 1))) with h | h <;> rw [h] <;> rfl
      have hhalf : a.reverse.toNat / 2 ^ (n - k) = a.reverse.toNat / 2 ^ (n - (k + 1)) / 2 := by
        rw [Nat.div_div_eq_div_mul, ← Nat.pow_succ, show (n - (k + 1)).succ = n - k by omega]
      have hpow : 2 ^ (n - k) = 2 * 2 ^ (n - (k + 1)) := by rw [← Nat.pow_succ', show (n - (k + 1)).succ = n - k by omega]
      rw [List.range_succ, List.foldl_append, ih (by omega), List.foldl_cons, List.foldl_nil, hhalf, hpow, show n - 1 - k = n - (k + 1) by omega]
      have hsplit := Nat.div_add_mod (a.reverse.toNat / 2 ^ (n - (k + 1))) 2
      rw [hbit] at hsplit
      conv_rhs => rw [← hsplit]
      cases bit a.toNat k <;> simp <;> ring
  rw [revBits, hpartial n le_rfl, Nat.sub_self, Nat.pow_zero, Nat.div_one, Nat.mul_one]

end Words

/-! ### The arms of the instructions -/

section Arms
variable (o : Ops) (s : State)

theorem exec_iadd (t : ITy) : exec (.iadd t o) s = execIadd t o s := rfl
theorem exec_isub (t : ITy) : exec (.isub t o) s = execIsub t o s := rfl
theorem exec_imul (t : ITy) : exec (.imul t o) s = execImul t o s := rfl
theorem exec_imulh (t : ITy) : exec (.imulh t o) s = execImulh t o s := rfl
theorem exec_imad (t : ITy) : exec (.imad t o) s = execImad t o s := rfl
theorem exec_idiv (t : ITy) : exec (.idiv t o) s = execIdiv t o s := rfl
theorem exec_irem (t : ITy) : exec (.irem t o) s = execIrem t o s := rfl
theorem exec_imin (t : ITy) : exec (.imin t o) s = execImin t o s := rfl
theorem exec_imax (t : ITy) : exec (.imax t o) s = execImax t o s := rfl
theorem exec_shadd (t : ITy) (sh : BitVec 3) : exec (.shadd t sh o) s = execShadd t sh o s := rfl
theorem exec_iabs (t : SITy) : exec (.iabs t o) s = execIabs t o s := rfl
theorem exec_ineg (t : SITy) : exec (.ineg t o) s = execIneg t o s := rfl
theorem exec_and (t : BTy) : exec (.and t o) s = execAnd t o s := rfl
theorem exec_or (t : BTy) : exec (.or t o) s = execOr t o s := rfl
theorem exec_xor (t : BTy) : exec (.xor t o) s = execXor t o s := rfl
theorem exec_not (t : BTy) : exec (.not t o) s = execNot t o s := rfl
theorem exec_popc (t : BTy) : exec (.popc t o) s = execPopc t o s := rfl
theorem exec_clz (t : BTy) : exec (.clz t o) s = execClz t o s := rfl
theorem exec_brev (t : BTy) : exec (.brev t o) s = execBrev t o s := rfl
theorem exec_movi (t : BTy) : exec (.movi t o) s = execMovi t o s := rfl
theorem exec_mov (t : MTy) : exec (.mov t o) s = execMov t o s := rfl

end Arms

/-! ### Integer arithmetic (R147) -/

section Integer
variable {s : State} {c e : Ctx} {o : Ops} (t : ITy)

/-- An instruction of two sources of an integer type. -/
theorem ityBin_completes {i : Instr} {op m : ℕ} {f : ℕ → ℕ → ℕ} (r : BitVec (32 * t.words) → BitVec (32 * t.words) → BitVec (32 * t.words)) (h : Issues i s c e)
    (hexec : exec i s = bin i t.words (itySigned t) f s) (hx : i.enc = some ⟨op, m, o⟩) {n : ℕ}
    (hd : (Enc.shape ⟨op, m, o⟩).d = .dst n)
    (hr : ∀ a b : BitVec (32 * t.words), f a.toNat b.toNat = (r a b).toNat) :
    Completes i s e (Writes.result e t.words fun l =>
      (r (e.opd o.a false (itySigned t) t.words l) (e.opd o.b true (itySigned t) t.words l)).toNat) :=
  bin_completes (fun a b => (r a b).toNat) hexec h hx hd t.words_pos hr

theorem imad_completes (h : Issues (.imad t o) s c e) :
    Completes (.imad t o) s e (Writes.result e t.words fun l =>
      (e.opd o.a false (itySigned t) t.words l * e.opd o.b false (itySigned t) t.words l + e.opd o.c.asSel true (itySigned t) t.words l).toNat) := by
  have hops : e.o = o := (ops_of_issues h rfl).2
  have hw := t.words_pos
  have hdone := result_completes (f := fun c l => (c.src o.a false (itySigned t) t.words l * c.src o.b false (itySigned t) t.words l +
    c.src c.cSel true (itySigned t) t.words l) % 2 ^ (32 * t.words)) (exec_imad o s t) h rfl (shape_d_of_row rfl rfl)
  simpa only [Ctx.cSel, hops, BitVec.toNat_add, BitVec.toNat_mul, toNat_opd e _ _ _ hw, Nat.mod_add_mod] using hdone

/-- Results that set the sticky DZ flag where `z` holds (R148). -/
theorem Wrote.setDz {w : Writes} {u : State} (hu : Wrote e w u) (z : Bool) :
    Wrote e { w with group := fun g => { w.group g with dz := (w.group g).dz || z } } (if z then u.setDz e.gk else u) := by
  cases z with
  | true =>
    simp only [Bool.or_true]
    exact hu.changeGroup (fun g => { g with dz := true }) fun _ _ => rfl
  | false =>
    simp only [Bool.or_false]
    exact hu

/-- IDIV and IREM: a division, and DZ where a lane that acts divides by zero. -/
theorem divide_completes {i : Instr} {op m : ℕ} {f : Bool → ℕ → ℕ → ℕ → ℕ} (r : BitVec (32 * t.words) → BitVec (32 * t.words) → BitVec (32 * t.words))
    (h : Issues i s c e) (hexec : exec i s = divide i t f s) (hx : i.enc = some ⟨op, m, o⟩) {n : ℕ}
    (hd : (Enc.shape ⟨op, m, o⟩).d = .dst n)
    (hr : ∀ a b : BitVec (32 * t.words), f (itySigned t) (32 * t.words) a.toNat b.toNat = (r a b).toNat) :
    Completes i s e { Writes.result e t.words fun l =>
        (r (e.opd o.a false (itySigned t) t.words l) (e.opd o.b true (itySigned t) t.words l)).toNat with
      group := fun g => { g with dz := g.dz || decide (∃ l ∈ e.actLanes, e.opd o.b true (itySigned t) t.words l = 0) } } := by
  have he := issues_entered h
  have hops : e.o = o := (ops_of_issues h hx).2
  have hw := t.words_pos
  refine completes_of_perform hexec h rfl rfl (Wrote.advance he ?_)
  have hwrote := (wrote_result he (dstFits_of_issues h hx hd) t.words fun l =>
    (r (e.opd o.a false (itySigned t) t.words l) (e.opd o.b true (itySigned t) t.words l)).toNat).setDz
      (decide (∃ l ∈ e.actLanes, e.opd o.b true (itySigned t) t.words l = 0))
  have hzero : decide (∃ l ∈ e.actLanes, e.opd o.b true (itySigned t) t.words l = 0) =
      e.actLanes.any fun l => e.src o.b true (itySigned t) t.words l == 0 := by
    rw [Bool.eq_iff_iff]
    simp only [decide_eq_true_eq, List.any_eq_true, beq_iff_eq, ← toNat_opd e _ _ _ hw, toNat_eq_zero_iff]
  dsimp only
  rw [hops]
  simp only [← toNat_opd e _ _ _ hw, hr] at hzero ⊢
  rw [← hzero]
  exact hwrote

end Integer

/-- Settles O1: each instruction as its function on words, and the flag of a division. -/
theorem integerArithmetic : Obligations.IntegerArithmetic := by
  unfold Obligations.IntegerArithmetic
  refine ⟨fun s c e o => ⟨fun t h => ?_, fun t h => ?_, fun t h => ?_, fun t h => ?_, fun t h => imad_completes t h, fun t h => ?_, fun t h => ?_, fun t h => ?_,
    fun t h => ?_, fun t sh h => ?_⟩, fun s c e o t => ⟨fun h => ?_, fun h => ?_⟩⟩
  · exact ityBin_completes t (fun a b => a + b) h (exec_iadd o s t) rfl (shape_d_of_row rfl rfl) fun a b => (BitVec.toNat_add a b).symm
  · exact ityBin_completes t (fun a b => a - b) h (exec_isub o s t) rfl (shape_d_of_row rfl rfl) wrap_sub
  · exact ityBin_completes t (fun a b => a * b) h (exec_imul o s t) rfl (shape_d_of_row rfl rfl) fun a b => (BitVec.toNat_mul a b).symm
  · exact ityBin_completes t (fun a b => BitVec.ofInt _ (asInt (itySigned t) a * asInt (itySigned t) b / 2 ^ (32 * t.words))) h (exec_imulh o s t) rfl (shape_d_of_row rfl rfl)
      (mulHigh_toNat t.width_pos (itySigned t))
  · exact ityBin_completes t (fun a b => if asInt (itySigned t) a ≤ asInt (itySigned t) b then a else b) h (exec_imin o s t) rfl (shape_d_of_row rfl rfl)
      (lesser_toNat t.width_pos (itySigned t))
  · exact ityBin_completes t (fun a b => if asInt (itySigned t) a ≤ asInt (itySigned t) b then b else a) h (exec_imax o s t) rfl (shape_d_of_row rfl rfl)
      (greater_toNat t.width_pos (itySigned t))
  · exact una_completes (fun a => (if a.toInt < 0 then -a else a).toNat) (exec_iabs o s t) h rfl (shape_d_of_row rfl rfl) t.words_pos (wrap_natAbs t.width_pos)
  · exact una_completes (fun a => (-a).toNat) (exec_ineg o s t) h rfl (shape_d_of_row rfl rfl) t.words_pos wrap_neg
  · exact ityBin_completes t (fun a b => a <<< sh.toNat + b) h (exec_shadd o s t sh) rfl (shape_d_of_row rfl rfl) fun a b => shadd_toNat a b _
  · exact divide_completes t (fun a b => if b = 0 then BitVec.allOnes _ else if itySigned t then a.sdiv b else a / b) h (exec_idiv o s t) rfl (shape_d_of_row rfl rfl)
      (divTrunc_toNat t.width_pos (itySigned t))
  · exact divide_completes t (fun a b => if b = 0 then BitVec.allOnes _ else if itySigned t then a.srem b else a % b) h (exec_irem o s t) rfl (shape_d_of_row rfl rfl)
      (remTrunc_toNat t.width_pos (itySigned t))

/-! ### Logic and moves (R147) -/

section Logic
variable {s : State} {c e : Ctx} {o : Ops}

theorem moviValue_i32 (w : ℕ) (v : W32) : moviValue w (.i32 v) = (v.signExtend (32 * w)).toNat := by
  rw [moviValue, immWords, if_pos rfl, wrap_eq_toNat, sext_toNat]
  rfl

/-- MOVI of an immediate `m`. -/
theorem movi_completes (t : BTy) {m : Imm} (himm : o.imm = m) (h : Issues (.movi t o) s c e) :
    Completes (.movi t o) s e (Writes.result e t.words fun _ => moviValue t.words m) := by
  subst himm
  exact result_completes (f := fun _ _ => moviValue t.words o.imm) (exec_movi o s t) h rfl (shape_d_of_row rfl rfl)

end Logic

/-- Settles O2: each instruction as its function on words; MOVI by its immediate. -/
theorem logicAndMoves : Obligations.LogicAndMoves := by
  unfold Obligations.LogicAndMoves
  refine ⟨fun s c e o t => ?_, fun s c e o => ⟨fun t h => ?_, fun t v himm h => ?_, fun v himm h => movi_completes .b64 himm h⟩⟩
  · have hw := t.words_pos
    refine ⟨fun h => ?_, fun h => ?_, fun h => ?_, fun h => ?_, fun h => ?_, fun h => ?_, fun h => ?_⟩
    · exact bin_completes (fun a b => (a &&& b).toNat) (exec_and o s t) h rfl (shape_d_of_row rfl rfl) hw fun a b => (BitVec.toNat_and a b).symm
    · exact bin_completes (fun a b => (a ||| b).toNat) (exec_or o s t) h rfl (shape_d_of_row rfl rfl) hw fun a b => (BitVec.toNat_or a b).symm
    · exact bin_completes (fun a b => (a ^^^ b).toNat) (exec_xor o s t) h rfl (shape_d_of_row rfl rfl) hw fun a b => (BitVec.toNat_xor a b).symm
    · exact una_completes (fun a => (~~~a).toNat) (exec_not o s t) h rfl (shape_d_of_row rfl rfl) hw not_toNat
    · exact una_completes (fun a => (List.range (32 * t.words)).countP fun i => a.getLsbD i) (exec_popc o s t) h rfl (shape_d_of_row rfl rfl) hw popCount_toNat
    · exact una_completes (fun a => 32 * t.words - a.toNat.size) (exec_clz o s t) h rfl (shape_d_of_row rfl rfl) hw leadZeros_toNat
    · exact una_completes (fun a => a.reverse.toNat) (exec_brev o s t) h rfl (shape_d_of_row rfl rfl) hw revBits_toNat
  · exact una_completes BitVec.toNat (exec_mov o s t) h rfl (shape_d_of_row rfl rfl) t.words_pos fun _ => rfl
  · rw [← moviValue_i32]
    exact movi_completes t himm h

end Sys2Proof.Machine

/-! PROOF. The matrix product (O35). -/

namespace Sys2Proof.Machine

/-! ### Planes by index (R73) -/

theorem zget_planeMap (f : ℕ → W32) {k : ℕ} (hk : k < 4096) : zget (planeMap f) k = f k := by
  have hlist : ∀ l : List ℕ, zget (l.filterMap fun i => if f i = 0 then none else some (i, f i)) k = if k ∈ l then f k else 0 := by
    intro l
    induction l with
    | nil => rfl
    | cons i l ih =>
      unfold zget mgetD at ih ⊢
      rw [List.filterMap_cons]
      by_cases hzero : f i = 0
      · rw [if_pos hzero, ih]
        by_cases hik : k = i
        · simp [hik, hzero]
        · simp [hik]
      · rw [if_neg hzero]
        dsimp only
        rw [mget?_cons]
        by_cases hik : i = k
        · simp [hik]
        · rw [if_neg hik, ih]
          simp [Ne.symm hik]
  exact (hlist _).trans (if_pos (List.mem_range.2 hk))

/-- Row `i` of an operand in its chunks of 32; a row that is not there has none. -/
theorem getD_chunks (a : List (List MElem)) (i : ℕ) : ((a.map (chunks 16)).toArray[i]?).getD [] = chunks 16 (a.getD i []) := by
  rw [List.getElem?_toArray, List.getElem?_map, List.getD_eq_getElem?_getD]
  cases a[i]? <;> rfl

/-- Chunk sums added in order, each rounded, and each sum rounded. -/
theorem accumulate_map {α : Type} (f : α → Sys2Proof.Num) (ps : List α) (w : W32) :
    accumulate w (ps.map f) = ps.foldl (fun w p => rne32 (Sys2Proof.Num.add false (f32 w) (r32 (f p)))) w := List.foldl_map

section Product
variable (a b : List (List MElem))

/-- An element of a plane after the product: the sums that `f` gives of the chunks that meet in it, added in order. -/
def elementOf (f : List MElem × List MElem → Sys2Proof.Num) (m : Map W32) (k : ℕ) : W32 :=
  ((chunks 16 (a.getD (k / 64) [])).zip (chunks 16 (b.getD (k % 64) []))).foldl (fun w p => rne32 (Sys2Proof.Num.add false (f32 w) (r32 (f p)))) (zget m k)

theorem mean_mmaApply (mom : Bool) (x : Accum) : (mmaApply mom a b x).mean = planeMap (elementOf a b (fun p => chunkMean p.1 p.2) x.mean) := by
  unfold mmaApply
  simp only [getD_chunks, accumulate_map]
  rfl

theorem var_mmaApply (x : Accum) : (mmaApply true a b x).var = planeMap (elementOf a b (fun p => chunkVar p.1 p.2) x.var) := by
  unfold mmaApply
  simp only [getD_chunks, accumulate_map, if_true]
  rfl

theorem var_mmaApply_off (x : Accum) : (mmaApply false a b x).var = x.var := by
  unfold mmaApply
  dsimp only
  rw [if_neg Bool.false_ne_true]

theorem elementOf_at (f : List MElem × List MElem → Sys2Proof.Num) (m : Map W32) (i : ℕ) {j : ℕ} (hj : j < 64) : elementOf a b f m (64 * i + j) =
    ((chunks 16 (a.getD i [])).zip (chunks 16 (b.getD j []))).foldl (fun w p => rne32 (Sys2Proof.Num.add false (f32 w) (r32 (f p)))) (zget m (64 * i + j)) := by
  rw [elementOf, show (64 * i + j) / 64 = i by omega, show (64 * i + j) % 64 = j by omega]

end Product

/-- Settles O35: an element of either plane by its chunks; without moments the variance plane is passed on. -/
theorem matrixProduct : Obligations.MatrixProduct := by
  unfold Obligations.MatrixProduct
  intro mom a b x i j hi hj
  have hlt : 64 * i + j < 4096 := by omega
  refine ⟨?_, fun hmom => ?_, fun hmom => hmom ▸ var_mmaApply_off a b x⟩
  · rw [mean_mmaApply, zget_planeMap _ hlt, elementOf_at _ _ _ _ _ hj]
  · rw [hmom, var_mmaApply, zget_planeMap _ hlt, elementOf_at _ _ _ _ _ hj]

end Sys2Proof.Machine

/-! PROOF. Reductions, scans, samples and the random stream (O20). -/

namespace Sys2Proof

theorem replaceLast_uOk (sh : Shape) : (replaceLast sh).uOk = sh.uOk := by
  unfold replaceLast
  split_ifs <;> rfl

theorem shape_uOk_of_row {x : Enc} {r : OpRow} {b : Bool} (hr : opRow x.op = some r) (hb : (r.shape x.m (immLen x.o.imm)).uOk = b) : x.shape.uOk = b := by
  rw [← hb]
  simp only [Enc.shape, hr, formShape]
  split_ifs <;> simp only [replaceLast_uOk]

end Sys2Proof

namespace Sys2Proof.Machine

/-! ### The arms of the instructions -/

section Arms
variable (o : Ops) (s : State)

theorem exec_redtAdd (t : RTy) : exec (.redtAdd t o) s = execRedtAdd t o s := rfl
theorem exec_redtMax (t : RTy) : exec (.redtMax t o) s = execRedtMax t o s := rfl
theorem exec_redtMin (t : RTy) : exec (.redtMin t o) s = execRedtMin t o s := rfl
theorem exec_scan (t : RTy) : exec (.scan t o) s = execScan t o s := rfl
theorem exec_sample : exec (.sample o) s = execSample o s := rfl
theorem exec_rngk : exec (.rngk o) s = execRngk o s := rfl
theorem exec_rngu (t : UTy) : exec (.rngu t o) s = execRngu t o s := rfl
theorem exec_rngn : exec (.rngn o) s = execRngn o s := rfl
theorem exec_vmask : exec (.vmask o) s = execVmask o s := rfl

end Arms

/-! ### Lanes and the values found for them -/

theorem nodup_lanes (m : Mask) : (lanes m).Nodup := List.nodup_range.filter _

theorem lane_of_bit {m : Mask} {l : ℕ} (h : m.getLsbD l = true) : l ∈ lanes m := (mem_lanes m l).2 ⟨BitVec.lt_of_getLsbD h, h⟩

/-- What a list of keys, none twice, beside their values gives for the `n`-th key. -/
theorem find?_zip {α : Type} {ks : List ℕ} (hks : ks.Nodup) {vs : List α} {n k : ℕ} {v : α} (hk : ks[n]? = some k) (hv : vs[n]? = some v) :
    (ks.zip vs).find? (fun x => x.1 == k) = some (k, v) := by
  induction ks generalizing vs n with
  | nil => cases hk
  | cons a ks ih =>
    obtain ⟨ha, hks⟩ := List.nodup_cons.1 hks
    cases vs with
    | nil => cases hv
    | cons b vs =>
      cases n with
      | zero =>
        cases hk
        cases hv
        exact List.find?_cons_of_pos (by simp)
      | succ n =>
        have hne : a ≠ k := fun h => ha (h ▸ List.mem_of_getElem? hk)
        rw [List.zip_cons_cons, List.find?_cons_of_neg (by simpa using hne)]
        exact ih hks hk hv

/-! ### Scans (R75) -/

theorem length_scanStep (f : ℕ → ℕ → ℕ) (d : ℕ) (l : List ℕ) : (scanStep f d l).length = l.length := by
  simp only [scanStep, List.length_append, List.length_take, List.length_zipWith, List.length_drop]
  omega

theorem length_scanAll (f : ℕ → ℕ → ℕ) (n d : ℕ) (l : List ℕ) : (scanAll f n d l).length = l.length := by
  induction n generalizing d l with
  | zero => rfl
  | succ n ih =>
    unfold scanAll
    split_ifs
    · rw [ih, length_scanStep]
    · rfl

/-- A lane's value among the prefixes. -/
def Ctx.prefixOf (c : Ctx) (f : ℕ → ℕ → ℕ) (l : ℕ) : ℕ := match (c.scanned f).find? (fun x => x.1 == l) with | some x => x.2 | none => 0

theorem prefixOf_lane (c : Ctx) (f : ℕ → ℕ → ℕ) {n l : ℕ} (h : (lanes c.acts)[n]? = some l) :
    (scanAll f 7 1 ((lanes c.acts).map (c.val c.o.a 1)))[n]? = some (c.prefixOf f l) := by
  have hlen : n < (scanAll f 7 1 ((lanes c.acts).map (c.val c.o.a 1))).length := by
    rw [length_scanAll, List.length_map]
    exact (List.getElem?_eq_some_iff.1 h).1
  obtain ⟨v, hv⟩ : ∃ v, (scanAll f 7 1 ((lanes c.acts).map (c.val c.o.a 1)))[n]? = some v := ⟨_, List.getElem?_eq_getElem hlen⟩
  unfold Ctx.prefixOf Ctx.scanned
  rw [hv, find?_zip (nodup_lanes _) h hv]

/-! ### Results and the stream (R230, R231) -/

section Stream
variable {s : State} {e : Ctx}

/-- A stream advanced by `k` where a lane acts. -/
theorem drawing_done (he : Entered s e) (hd : e.dstFits) (k : ℕ) (f : ℕ → ℕ) :
    DoneNext s e { Writes.result e 1 f with group := fun g => if lanes e.acts = [] then g else { g with ctr := g.ctr + BitVec.ofNat 32 k } } (e.drawing k f) := by
  have hwrote := wrote_result he hd 1 f
  unfold Ctx.drawing
  dsimp only
  by_cases hnone : lanes e.acts = []
  · simp only [hnone, List.isEmpty_nil, if_true]
    exact hwrote.advance he
  · simp only [hnone, List.isEmpty_iff, if_false]
    exact (hwrote.changeGroup (fun g => { g with ctr := g.ctr + BitVec.ofNat 32 k }) fun _ _ => rfl).advance he

theorem stream_zero (c : Ctx) (l : ℕ) : c.stream 0 l = streamWord c.g.key c.g.ofs c.g.ctr l := by rw [Ctx.stream, BitVec.add_zero]

/-- Without U a result depends on what the acting lanes are given alone. -/
theorem result_congr (hu : e.o.hdr.u = false) (w : ℕ) {f g : ℕ → ℕ} (h : ∀ l ∈ lanes e.acts, f l = g l) : Writes.result e w f = Writes.result e w g := by
  have hacts : ∀ l, e.acts.getLsbD l = true → f l = g l := fun l hl => h l (lane_of_bit hl)
  have hvec : vecWrites e.o.d (fun l => !false && !e.o.hdr.nwb && e.acts.getLsbD l) w f = vecWrites e.o.d (fun l => !false && !e.o.hdr.nwb && e.acts.getLsbD l) w g := by
    funext l r
    cases hl : e.acts.getLsbD l with
    | false => simp [vecWrites, hl]
    | true => simp only [vecWrites, hacts l hl]
  have hlatch : latchWrites e.o.hdr.lq.toNat (fun l => e.o.hdr.le && e.acts.getLsbD l) f =
      latchWrites e.o.hdr.lq.toNat (fun l => e.o.hdr.le && e.acts.getLsbD l) g := by
    funext k l
    cases hl : e.acts.getLsbD l with
    | false => simp [latchWrites, hl]
    | true => simp only [latchWrites, hacts l hl]
  unfold Writes.result
  simp only [hu, Bool.false_and, Bool.false_eq_true, if_false, uniWrites_off]
  rw [hvec, hlatch]

end Stream

/-! ### REDT, SCAN and SAMPLE (R228, R229) -/

section Reductions
variable {s : State} {c e : Ctx} {o : Ops}

/-- A reduction: the root of the tree in every lane. -/
theorem redt_completes {i : Instr} {op m n : ℕ} (f : ℕ → ℕ → ℕ) (hexec : exec i s = redt i f s) (h : Issues i s c e) (hx : i.enc = some ⟨op, m, o⟩)
    (hd : (Enc.shape ⟨op, m, o⟩).d = .dst n) :
    Completes i s e (Writes.result e 1 fun _ => (tree f 7 ((lanes e.acts).map (e.val o.a 1))).headD 0) := by
  have hops : e.o = o := (ops_of_issues h hx).2
  rw [← hops]
  exact result_completes (f := fun c _ => (tree f 7 ((lanes c.acts).map (c.val c.o.a 1))).headD 0) hexec h hx hd

theorem scan_completes (t : RTy) (h : Issues (.scan t o) s c e) : ∃ f : ℕ → ℕ, Completes (.scan t o) s e (Writes.result e 1 f) ∧
    ∀ n l : ℕ, (lanes e.acts)[n]? = some l → (scanAll (addNode t) 7 1 ((lanes e.acts).map (e.val o.a 1)))[n]? = some (f l) := by
  have hops : e.o = o := (ops_of_issues h rfl).2
  refine ⟨e.prefixOf (addNode t), result_completes (f := fun c => c.prefixOf (addNode t)) (exec_scan o s t) h rfl (shape_d_of_row (ro := .dst 1) rfl rfl),
    fun n l hl => ?_⟩
  rw [← hops]
  exact prefixOf_lane e (addNode t) hl

theorem sample_completes (h : Issues (.sample o) s c e) :
    Completes (.sample o) s e (Writes.result e 1 fun _ => sampleLane (e.scanned (addNode .f32)) (e.src o.b true false 1 e.lead)) :=
  result_completes (f := fun c _ => sampleLane (c.scanned (addNode .f32)) (c.src o.b true false 1 c.lead)) (exec_sample o s) h rfl
    (shape_d_of_row (ro := .dst 1) rfl rfl)

/-! ### The stream (R230, R231) -/

theorem rngk_completes (h : Issues (.rngk o) s c e) :
    Completes (.rngk o) s e { group := fun g =>
      if e.actsOnce then { g with key := BitVec.ofNat 64 (e.val o.a 2 e.lead), ctr := BitVec.ofNat 32 (e.src o.b true false 1 e.lead) } else g } := by
  have he := issues_entered h
  have hdone := once_done he (f := fun c => c.s.modGroup c.gk fun g =>
      { g with key := BitVec.ofNat 64 (c.val o.a 2 c.lead), ctr := BitVec.ofNat 32 (c.src o.b true false 1 c.lead) })
    ((wrote_nothing he).changeGroup _ fun _ _ => rfl)
  refine completes_of_perform (exec_rngk o s) h rfl rfl ?_
  cases honce : e.actsOnce with
  | true =>
    rw [honce, if_pos rfl] at hdone
    simp only [if_true]
    exact hdone
  | false =>
    rw [honce, if_neg Bool.false_ne_true] at hdone
    simp only [Bool.false_eq_true, if_false]
    exact hdone

/-- A word of the stream as RNGU gives it. -/
def uniformOf (t : UTy) (w : ℕ) : ℕ := match t with | .n32 => w | .f32 => (rne32 (.ofInt (w / 256) (-24))).toNat

theorem rngu_completes (t : UTy) (h : Issues (.rngu t o) s c e) :
    Completes (.rngu t o) s e { Writes.result e 1 (fun l => uniformOf t (streamWord e.g.key e.g.ofs e.g.ctr l)) with
      group := fun g => if lanes e.acts = [] then g else { g with ctr := g.ctr + 1 } } := by
  simp only [← stream_zero]
  have hdone := drawing_done (issues_entered h) (dstFits_of_issues (w := 1) h rfl (shape_d_of_row rfl rfl)) 1 fun l => uniformOf t (e.stream 0 l)
  cases t with
  | n32 => exact completes_of_perform (exec_rngu o s .n32) h rfl rfl hdone
  | f32 => exact completes_of_perform (exec_rngu o s .f32) h rfl rfl hdone

theorem rngn_completes (h : Issues (.rngn o) s c e) :
    Completes (.rngn o) s e { Writes.result e 1 (fun l =>
        normal (streamWord e.g.key e.g.ofs e.g.ctr l) (streamWord e.g.key e.g.ofs (e.g.ctr + 1) l)) with
      group := fun g => if lanes e.acts = [] then g else { g with ctr := g.ctr + 2 } } := by
  simp only [← stream_zero]
  exact completes_of_perform (exec_rngn o s) h rfl rfl
    (drawing_done (issues_entered h) (dstFits_of_issues (w := 1) h rfl (shape_d_of_row rfl rfl)) 2 fun l => normal (e.stream 0 l) (e.stream 1 l))

/-! ### VMASK (R232) -/

/-- Where every acting lane's mask byte is at hand: in scratch at `f`, not poisoned, with no access of the group on its way to it. -/
def Ctx.maskHeld (e : Ctx) (f : ℕ → ℕ) : Prop := ∀ l ∈ lanes e.acts, ∃ x y, e.scratchPlace (e.maskByte l).1 1 = .at (f l) x y ∧
  e.s.poisoned (f l) 1 = none ∧ ∀ a ∈ e.s.accesses, a.2.gk = e.gk → rangesMeet a.2.loc a.2.len (f l) 1 = false

/-- The place of a lane's mask byte, where it is in scratch. -/
def Ctx.maskAt (c : Ctx) (l : ℕ) : Option ℕ := match c.scratchPlace (c.maskByte l).1 1 with | .at a _ _ => some a | _ => none

theorem maskAt_of_held {f : ℕ → ℕ} (h : e.maskHeld f) {l : ℕ} (hl : l ∈ lanes e.acts) : e.maskAt l = some (f l) := by
  obtain ⟨x, y, hplace, -⟩ := h l hl
  rw [Ctx.maskAt, hplace]

/-- Where the mask is at hand no lane stops VMASK, and none waits. -/
theorem mask_clear {f : ℕ → ℕ} (h : e.maskHeld f) :
    (lanes e.acts).find? (fun l => (e.maskAt l).isNone) = none ∧
    (lanes e.acts).find? (fun l => match e.maskAt l with | some a => (e.s.poisoned a 1).isSome | none => false) = none ∧
    e.s.accesses.filter (fun x => x.2.gk == e.gk &&
      (lanes e.acts).any fun l => match e.maskAt l with | some a => rangesMeet x.2.loc x.2.len a 1 | none => false) = [] := by
  refine ⟨List.find?_eq_none.2 fun l hl => ?_, List.find?_eq_none.2 fun l hl => ?_, List.filter_eq_nil_iff.2 fun a ha => ?_⟩
  · simp [maskAt_of_held h hl]
  · obtain ⟨x, y, -, hpoison, -⟩ := h l hl
    simp [maskAt_of_held h hl, hpoison]
  · simp only [Bool.and_eq_true, beq_iff_eq, List.any_eq_true, not_and, not_exists]
    intro hgk l hl
    obtain ⟨x, y, -, -, hmeet⟩ := h l hl
    simp [maskAt_of_held h hl, hmeet a ha hgk]

theorem vmask_completes (h : Issues (.vmask o) s c e) {f : ℕ → ℕ} (hheld : e.maskHeld f) :
    Completes (.vmask o) s e (Writes.result e 1 fun l => if (e.s.byte (f l)).getLsbD (e.maskByte l).2 then e.val o.a 1 l else 0xFF800000) := by
  have he := issues_entered h
  have hops : e.o = o := (ops_of_issues h rfl).2
  have hu : e.o.hdr.u = false := by
    rw [hops, ← Bool.not_eq_true]
    intro hu
    exact absurd (uOk_of_fieldReject (fieldReject_of_issues h rfl) hu) (by rw [shape_uOk_of_row (b := false) rfl rfl]; decide)
  have hvalue : ∀ l ∈ lanes e.acts, (if (e.s.byte (f l)).getLsbD (e.maskByte l).2 then e.val o.a 1 l else 0xFF800000) =
      match e.maskAt l with
      | some a => if bit (e.s.byte a).toNat (e.maskByte l).2 then e.val o.a 1 l else 0xFF800000
      | none => 0xFF800000 := by
    intro l hl
    simp only [maskAt_of_held hheld hl, getLsbD_eq_bit]
  obtain ⟨hplace, hpoison, hwait⟩ := mask_clear hheld
  rw [result_congr hu 1 hvalue]
  refine completes_of_perform (exec_vmask o s) h rfl rfl ?_
  have hdone := result_done he (dstFits_of_issues (w := 1) h rfl (shape_d_of_row rfl rfl)) 1 fun l =>
    match e.maskAt l with
    | some a => if bit (e.s.byte a).toNat (e.maskByte l).2 then e.val o.a 1 l else 0xFF800000
    | none => 0xFF800000
  dsimp only
  split
  · next l hl => exact nomatch hl.symm.trans hplace
  · split
    · next l hl => exact nomatch hl.symm.trans hpoison
    · split
      · next hw =>
        simp only [Bool.not_eq_true', List.isEmpty_eq_false_iff, ne_eq, List.map_eq_nil_iff] at hw
        exact absurd hwait hw
      · exact hdone

end Reductions

/-- Settles O20: each instruction writes a result, or advances the stream, as its own lemma says. -/
theorem reductionsAndStream : Obligations.ReductionsAndStream := by
  intro s c e o
  exact ⟨fun t h => redt_completes (addNode t) (exec_redtAdd o s t) h rfl (shape_d_of_row (ro := .dst 1) rfl rfl),
    fun t h => redt_completes (pickNode true t) (exec_redtMax o s t) h rfl (shape_d_of_row (ro := .dst 1) rfl rfl),
    fun t h => redt_completes (pickNode false t) (exec_redtMin o s t) h rfl (shape_d_of_row (ro := .dst 1) rfl rfl),
    fun t h => scan_completes t h, sample_completes, rngk_completes, fun t h => rngu_completes t h, rngn_completes,
    fun h f hheld => vmask_completes h hheld⟩

end Sys2Proof.Machine

/-! PROOF. Tracked words and ring words at the saggar unit (O28). -/

namespace Sys2Proof.Machine

/-! ### Writing one word -/

section Write
variable (s : State) (loc : ℕ) (bs : List Byte)

@[simp] theorem saggars_write_frame : (s.write loc bs).saggars = s.saggars := by unfold State.write; split_ifs <;> rfl
@[simp] theorem accesses_write_frame : (s.write loc bs).accesses = s.accesses := by unfold State.write; split_ifs <;> rfl
@[simp] theorem loads_write_frame : (s.write loc bs).loads = s.loads := by unfold State.write; split_ifs <;> rfl
@[simp] theorem groups_write_frame : (s.write loc bs).groups = s.groups := (WriteKeeps.write s loc bs).groups

end Write

theorem word_write (s : State) (loc k : ℕ) {n : ℕ} (h : n < 256 ^ k) : (s.write loc (natLe k n)).word loc k = n := by
  have hword := word_eq_leNat (s := s.write loc (natLe k n)) (loc := loc) (bs := natLe k n) fun i hi => by
    rw [byte_write, if_pos (by omega), Nat.add_sub_cancel_left]
  rwa [length_natLe, leNat_natLe, Nat.mod_eq_of_lt h] at hword

theorem byte_write_word (s : State) (loc k n : ℕ) {b : ℕ} (h : b < loc ∨ loc + k ≤ b) : (s.write loc (natLe k n)).byte b = s.byte b :=
  byte_write_outside s loc _ b (by rwa [length_natLe])

theorem word_eq_of_mem {s t : State} (h : t.mem = s.mem) (loc k : ℕ) : t.word loc k = s.word loc k := by
  unfold State.word State.bytes State.byte
  rw [h]

theorem byte_eq_of_mem {s t : State} (h : t.mem = s.mem) (b : ℕ) : t.byte b = s.byte b := by
  unfold State.byte
  rw [h]

theorem saggar_eq_of_saggars {s t : State} (h : t.saggars = s.saggars) (st : ℕ) : t.saggar st = s.saggar st := by
  unfold State.saggar
  rw [h]

/-! ### DATOM_ARRIVAL (R199) -/

theorem exec_datomArrival (id : ℕ) (s : State) : exec (.datomArrival id) s = execDatomArrival id s := rfl
theorem exec_dflushPerform (id : ℕ) (s : State) : exec (.dflushPerform id) s = execDflushPerform id s := rfl

theorem fadd_lt (m : ℕ) (u : W32) : fadd m u < 256 ^ 4 := (rne32 _).isLt

/-- An addend added to the word at once. -/
def State.addAt (s : State) (loc : ℕ) (u : W32) : State := s.write loc (natLe 4 (fadd (s.word loc 4) u))

section Take
variable {s : State} {loc epoch key : ℕ} {u : W32} {d : DWord} {ws : Map DWord}

theorem datomTake_untracked (h : (s.saggar (stackOf loc)).track (dkey epoch loc) epoch s.tick = none) :
    s.datomTake loc epoch key u = (s.setSaggar (stackOf loc)
      { s.saggar (stackOf loc) with fell := insertLine epoch (s.saggar (stackOf loc)).fell }).addAt loc u := by
  unfold State.datomTake
  dsimp only
  rw [h]
  rfl

theorem datomTake_held (h : (s.saggar (stackOf loc)).track (dkey epoch loc) epoch s.tick = some (d, ws)) (hroom : d.held.length < 16) :
    s.datomTake loc epoch key u = s.setSaggar (stackOf loc) { s.saggar (stackOf loc) with
      words := mset ws (dkey epoch loc) { d with tie := d.tie || d.held.any (fun h => h.1 == key), held := d.held ++ [(key, u)] } } := by
  unfold State.datomTake
  dsimp only
  rw [h]
  exact if_pos hroom

theorem datomTake_spilt (h : (s.saggar (stackOf loc)).track (dkey epoch loc) epoch s.tick = some (d, ws)) (hfull : 16 ≤ d.held.length) :
    s.datomTake loc epoch key u = (s.setSaggar (stackOf loc) { s.saggar (stackOf loc) with
      words := mset ws (dkey epoch loc)
        { d with tie := d.tie || d.held.any (fun h => h.1 == key), spill := min (d.spill + 1) 255, ovf := true } }).addAt loc u := by
  unfold State.datomTake
  dsimp only
  rw [h]
  exact if_neg (Nat.not_lt.2 hfull)

end Take

section Arrival
variable {s : State} {id : ℕ} {a : Access} {key : ℕ} {u : W32}

/-- The state after a DATOM has arrived. -/
def State.arrive (s : State) (id : ℕ) (a : Access) (key : ℕ) (u : W32) : State :=
  ((s.dropAccess id).datomTake a.loc (s.launch a.launch).epoch key u).gotLane a.iid a.lane a.word 0 none

theorem datomArrival_eq (ha : mget? s.accesses id = some a) (hop : a.op = .datom key u) (hcan : s.canPerform id a = true)
    (hclean : s.poisoned a.loc a.len = none) : exec (.datomArrival id) s = .next (s.arrive id a key u) := by
  rw [exec_datomArrival]
  unfold execDatomArrival
  rw [ha]
  dsimp only
  rw [hop]
  dsimp only
  rw [if_pos hcan, performAccess_clean fun _ => hclean, State.doAccess, hop]
  rfl


/-- An arrival that changes its unit and is added at once. -/
theorem arrive_added {g : Saggar} (h : (s.dropAccess id).datomTake a.loc (s.launch a.launch).epoch key u =
    ((s.dropAccess id).setSaggar (stackOf a.loc) g).addAt a.loc u) :
    mget? (s.arrive id a key u).accesses id = none ∧
    ((s.arrive id a key u).word a.loc 4 = fadd (s.word a.loc 4) u ∧
      ∀ b, (b < a.loc ∨ a.loc + 4 ≤ b) → (s.arrive id a key u).byte b = s.byte b) ∧
    (s.arrive id a key u).saggar (stackOf a.loc) = g := by
  unfold State.arrive
  rw [h]
  refine ⟨(congrArg (mget? · id) (accesses_write_frame _ _ _)).trans (mget?_merase_self _ _),
    ⟨word_write _ a.loc 4 (fadd_lt _ _), fun b hb => byte_write_word _ a.loc 4 _ hb⟩, ?_⟩
  exact (saggar_eq_of_saggars (saggars_write_frame _ _ _) _).trans (saggar_setSaggar _ _ _)

/-- An arrival that changes its unit alone. -/
theorem arrive_kept {g : Saggar} (h : (s.dropAccess id).datomTake a.loc (s.launch a.launch).epoch key u =
    (s.dropAccess id).setSaggar (stackOf a.loc) g) :
    mget? (s.arrive id a key u).accesses id = none ∧ (∀ b, (s.arrive id a key u).byte b = s.byte b) ∧
    (s.arrive id a key u).saggar (stackOf a.loc) = g := by
  unfold State.arrive
  rw [h]
  exact ⟨mget?_merase_self _ _, fun _ => rfl, saggar_setSaggar _ _ _⟩

section Outcomes
variable (ha : mget? s.accesses id = some a) (hop : a.op = .datom key u) (hcan : s.canPerform id a = true) (hclean : s.poisoned a.loc a.len = none)
include ha hop hcan hclean

theorem datomArrival_untracked (h : (s.saggar (stackOf a.loc)).track (dkey (s.launch a.launch).epoch a.loc) (s.launch a.launch).epoch s.tick = none) :
    ∃ t, exec (.datomArrival id) s = .next t ∧ mget? t.accesses id = none ∧
      (t.word a.loc 4 = fadd (s.word a.loc 4) u ∧ ∀ b, (b < a.loc ∨ a.loc + 4 ≤ b) → t.byte b = s.byte b) ∧
      (s.launch a.launch).epoch ∈ (t.saggar (stackOf a.loc)).fell := by
  obtain ⟨haccs, hadded, hunit⟩ := arrive_added (datomTake_untracked (s := s.dropAccess id) h)
  exact ⟨_, datomArrival_eq ha hop hcan hclean, haccs, hadded, hunit ▸ (mem_insertLine _ _ _).2 (.inr rfl)⟩

variable {d : DWord} {ws : Map DWord}
  (htrack : (s.saggar (stackOf a.loc)).track (dkey (s.launch a.launch).epoch a.loc) (s.launch a.launch).epoch s.tick = some (d, ws))
include htrack

theorem datomArrival_held (hroom : d.held.length < 16) :
    ∃ t, exec (.datomArrival id) s = .next t ∧ mget? t.accesses id = none ∧ (∀ b, t.byte b = s.byte b) ∧
      mget? (t.saggar (stackOf a.loc)).words (dkey (s.launch a.launch).epoch a.loc) =
        some { d with tie := d.tie || d.held.any (fun h => h.1 == key), held := d.held ++ [(key, u)] } := by
  obtain ⟨haccs, hbyte, hunit⟩ := arrive_kept (datomTake_held (s := s.dropAccess id) htrack hroom)
  exact ⟨_, datomArrival_eq ha hop hcan hclean, haccs, hbyte, hunit ▸ mget?_mset_self _ _ _⟩

theorem datomArrival_spilt (hfull : 16 ≤ d.held.length) :
    ∃ t x, exec (.datomArrival id) s = .next t ∧ mget? t.accesses id = none ∧
      (t.word a.loc 4 = fadd (s.word a.loc 4) u ∧ ∀ b, (b < a.loc ∨ a.loc + 4 ≤ b) → t.byte b = s.byte b) ∧
      mget? (t.saggar (stackOf a.loc)).words (dkey (s.launch a.launch).epoch a.loc) = some x ∧
      x.held = d.held ∧ x.ovf = true ∧ x.spill = min (d.spill + 1) 255 := by
  obtain ⟨haccs, hadded, hunit⟩ := arrive_added (datomTake_spilt (s := s.dropAccess id) htrack hfull)
  refine ⟨_, { d with tie := d.tie || d.held.any (fun h => h.1 == key), spill := min (d.spill + 1) 255, ovf := true },
    datomArrival_eq ha hop hcan hclean, haccs, hadded, ?_, rfl, rfl, rfl⟩
  exact hunit ▸ mget?_mset_self _ _ _

end Outcomes

end Arrival

/-! ### DSTAT (R201) -/

theorem dstat_performs {s : State} {id : ℕ} {a : Access} (ha : mget? s.accesses id = some a) (hop : a.op = .dstat) (hcan : s.canPerform id a = true) :
    ∃ t, exec (.accessPerform id) s = .next t ∧ (∀ b, t.byte b = s.byte b) ∧ Got s t a (s.dstat a.loc (s.launch a.launch).epoch) := by
  refine ⟨_, accessPerform_eq ha hcan (by simp [hop]) (by simp [hop]), ?_⟩
  rw [performAccess_clean (by simp [hop, Op.reads])]
  have hdo : (s.dropAccess id).doAccess a = (s.dstat a.loc (s.launch a.launch).epoch, s.dropAccess id) := by
    rw [State.doAccess, hop]
    rfl
  rw [hdo]
  exact ⟨fun _ => rfl, got_gotLane rfl _⟩

/-! ### The flush of a tracked word (R200) -/

theorem insertKey_perm (x : ℕ × W32) (l : List (ℕ × W32)) : (insertKey x l).Perm (x :: l) := by
  induction l with
  | nil => exact .refl _
  | cons y l ih =>
    unfold insertKey
    split_ifs
    · exact .refl _
    · exact (ih.cons y).trans (.swap x y l)

theorem insertKey_sorted (x : ℕ × W32) {l : List (ℕ × W32)} (h : l.Pairwise fun x y => x.1 ≤ y.1) : (insertKey x l).Pairwise fun x y => x.1 ≤ y.1 := by
  induction l with
  | nil => exact List.pairwise_singleton _ _
  | cons y l ih =>
    obtain ⟨hy, hl⟩ := List.pairwise_cons.1 h
    unfold insertKey
    split_ifs with hlt
    · refine List.pairwise_cons.2 ⟨fun z hz => ?_, h⟩
      rcases List.mem_cons.1 hz with rfl | hz
      · exact hlt.le
      · exact hlt.le.trans (hy z hz)
    · refine List.pairwise_cons.2 ⟨fun z hz => ?_, ih hl⟩
      rcases List.mem_cons.1 ((insertKey_perm x l).mem_iff.1 hz) with rfl | hz
      · exact Nat.not_lt.1 hlt
      · exact hy z hz

/-- Held addends in ascending key order, those of one key in the order of their arrival. -/
def inKeyOrder (l : List (ℕ × W32)) : List (ℕ × W32) := l.foldl (fun l x => insertKey x l) []

theorem foldl_insertKey_perm (l m : List (ℕ × W32)) : (l.foldl (fun l x => insertKey x l) m).Perm (l ++ m) := by
  induction l generalizing m with
  | nil => exact .refl _
  | cons x l ih => exact (ih _).trans (((insertKey_perm x m).append_left l).trans List.perm_middle)

theorem foldl_insertKey_sorted (l : List (ℕ × W32)) {m : List (ℕ × W32)} (h : m.Pairwise fun x y => x.1 ≤ y.1) :
    (l.foldl (fun l x => insertKey x l) m).Pairwise fun x y => x.1 ≤ y.1 := by
  induction l generalizing m with
  | nil => exact h
  | cons x l ih => exact ih (insertKey_sorted x h)

theorem inKeyOrder_perm (l : List (ℕ × W32)) : (inKeyOrder l).Perm l := (foldl_insertKey_perm l []).trans (.of_eq (List.append_nil l))
theorem inKeyOrder_sorted (l : List (ℕ × W32)) : (inKeyOrder l).Pairwise fun x y => x.1 ≤ y.1 := foldl_insertKey_sorted l .nil

theorem foldl_fadd_lt {l : List W32} (h : l ≠ []) (m : ℕ) : l.foldl fadd m < 256 ^ 4 := by
  rw [← List.dropLast_append_getLast h, List.foldl_append]
  exact fadd_lt _ _

theorem dkey_mod (epoch : ℕ) {loc : ℕ} (h : loc < 2 ^ 40) : dkey epoch loc % 2 ^ 40 = loc := by
  rw [dkey, Nat.mul_add_mod_self_right, Nat.mod_eq_of_lt h]

section Flush
variable {s : State} {st k : ℕ} {d : DWord}

theorem flushWord_eq (h : mget? (s.saggar st).words k = some d) (hheld : d.held ≠ []) :
    s.flushWord st k = (s.write (k % 2 ^ 40) (natLe 4 (((inKeyOrder d.held).map (·.2)).foldl fadd (s.word (k % 2 ^ 40) 4)))).setSaggar st
      { s.saggar st with words := mset (s.saggar st).words k { d with held := [], fl := true, used := s.tick } } := by
  unfold State.flushWord
  dsimp only
  rw [h]
  exact if_neg (by simpa using hheld)

theorem flushWord_spec {epoch loc : ℕ} (h : mget? (s.saggar st).words (dkey epoch loc) = some d) (hheld : d.held ≠ []) (hloc : loc < 2 ^ 40) :
    (∃ l : List (ℕ × W32), l.Perm d.held ∧ l.Pairwise (fun x y => x.1 ≤ y.1) ∧
      (s.flushWord st (dkey epoch loc)).word loc 4 = (l.map (fun h => h.2)).foldl fadd (s.word loc 4)) ∧
    (∀ b, (b < loc ∨ loc + 4 ≤ b) → (s.flushWord st (dkey epoch loc)).byte b = s.byte b) ∧
    mget? ((s.flushWord st (dkey epoch loc)).saggar st).words (dkey epoch loc) = some { d with held := [], fl := true, used := s.tick } := by
  have hsome : (inKeyOrder d.held).map (·.2) ≠ [] := fun hnil =>
    hheld (List.length_eq_zero_iff.1 ((inKeyOrder_perm d.held).length_eq ▸ by simpa using congrArg List.length hnil))
  rw [flushWord_eq h hheld, dkey_mod epoch hloc]
  refine ⟨⟨_, inKeyOrder_perm _, inKeyOrder_sorted _, word_write s loc 4 (foldl_fadd_lt hsome _)⟩, fun b hb => byte_write_word s loc 4 _ hb, ?_⟩
  rw [saggar_setSaggar]
  exact mget?_mset_self _ _ _

end Flush

/-! ### DFLUSH_PERFORM (R200) -/

/-- What no step of a fold changes the fold does not change. -/
theorem foldl_keeps {α β σ : Type} (get : σ → β) {f : σ → α → σ} (h : ∀ s x, get (f s x) = get s) (l : List α) (s : σ) : get (l.foldl f s) = get s := by
  induction l generalizing s with
  | nil => rfl
  | cons x l ih => exact (ih _).trans (h s x)

theorem flushWord_keeps (s : State) (st k : ℕ) : ((s.flushWord st k).groups, (s.flushWord st k).accesses) = (s.groups, s.accesses) := by
  unfold State.flushWord
  dsimp only
  cases mget? (s.saggar st).words k with
  | none => rfl
  | some d =>
    dsimp only
    split_ifs
    · rfl
    · exact congrArg₂ Prod.mk (groups_write_frame _ _ _) (accesses_write_frame _ _ _)

theorem flushRange_keeps (s : State) (epoch : ℕ) (r : ℕ × ℕ) : ((s.flushRange epoch r).groups, (s.flushRange epoch r).accesses) = (s.groups, s.accesses) :=
  foldl_keeps (fun t : State => (t.groups, t.accesses)) (fun s k => flushWord_keeps s _ k) _ s

theorem exists_mget?_of_mem {α : Type} {m : Map α} {k : ℕ} {v : α} (h : (k, v) ∈ m) : ∃ w, mget? m k = some w := by
  induction m with
  | nil => cases h
  | cons x m ih =>
    obtain ⟨j, b⟩ := x
    rw [mget?_cons]
    split_ifs with hj
    · exact ⟨b, rfl⟩
    · exact ih ((List.mem_cons.1 h).resolve_left fun heq => hj (Prod.mk.inj heq).1.symm)

/-- The path that a DFLUSH blocks is one of the group's. -/
theorem path_of_flushing {g : Group} {id pid : ℕ} (h : g.flushing id = some pid) : ∃ p, mget? g.paths pid = some p := by
  obtain ⟨⟨k, p⟩, hfind, rfl⟩ := Option.map_eq_some_iff.1 h
  exact exists_mget?_of_mem (List.mem_of_find?_eq_some hfind)

theorem wake_not_blocked (p : Path) (now : ℕ) (fresh : Bool) (b : Block) : (p.wake now fresh).st ≠ .blocked b := by
  unfold Path.wake
  cases p.hold <;> exact PState.noConfusion

theorem released_path {s : State} {gk pid : ℕ} {g : Group} {p : Path} (hg : mget? s.groups gk = some g) (hp : mget? g.paths pid = some p) :
    ∃ g' p', mget? (s.release gk pid).groups gk = some g' ∧ mget? g'.paths pid = some p' ∧ ∀ b, p'.st ≠ .blocked b := by
  have hpath := mget_modPath g pid pid fun p => p.pass.wake (s.coreCycle (coreOf gk)) true
  have hgroup := mget_modGroup s gk gk fun g => g.modPath pid fun p => p.pass.wake (s.coreCycle (coreOf gk)) true
  rw [if_pos rfl, hp] at hpath
  rw [if_pos rfl, hg] at hgroup
  exact ⟨_, _, hgroup, hpath, wake_not_blocked _ _ _⟩

section Dflush
variable {s : State} {id : ℕ} {a : Access} {rs : List (ℕ × ℕ)}

theorem doAccess_dflush_keeps (hop : a.op = .dflush rs) : (s.doAccess a).2.groups = s.groups ∧ (s.doAccess a).2.accesses = s.accesses := by
  rw [State.doAccess, hop]
  exact Prod.mk.inj (foldl_keeps (fun t : State => (t.groups, t.accesses)) (fun s r => flushRange_keeps s _ r) rs s)

/-- The earlier DATOMs of the group on their way. -/
def State.owesDatom (s : State) (id gk : ℕ) : Bool :=
  s.accesses.any (fun x => decide (x.1 < id) && x.2.gk == gk && (match x.2.op with | .datom _ _ => true | _ => false))

theorem owesDatom_of_mem {j : ℕ} {b : Access} {key : ℕ} {u : W32} (hb : mget? s.accesses j = some b) (hj : j < id) (hgk : b.gk = a.gk)
    (hop : b.op = .datom key u) : s.owesDatom id a.gk = true :=
  List.any_eq_true.2 ⟨(j, b), mem_of_mget? hb, by simp [hj, hgk, hop]⟩

theorem owesDatom_none (h : ∀ b ∈ s.accesses, b.1 < id → b.2.gk = a.gk → ∀ key u, b.2.op ≠ .datom key u) : s.owesDatom id a.gk = false := by
  rw [State.owesDatom, List.any_eq_false]
  intro b hb
  simp only [Bool.and_eq_true, decide_eq_true_eq, beq_iff_eq, not_and]
  rintro ⟨hlt, hgk⟩
  split
  · next key u hop => exact absurd hop (h b hb hlt hgk key u)
  · exact Bool.false_ne_true

variable (ha : mget? s.accesses id = some a) (hop : a.op = .dflush rs)
include ha hop

theorem dflushPerform_waits (h : s.owesDatom id a.gk = true) : exec (.dflushPerform id) s = .next s := by
  rw [exec_dflushPerform]
  unfold execDflushPerform
  rw [ha]
  dsimp only
  rw [hop]
  exact congrArg Host.Outcome.next (if_pos h)

theorem dflushPerform_eq (h : s.owesDatom id a.gk = false) : exec (.dflushPerform id) s =
    .next (match (mget? s.groups a.gk).bind (fun g => g.flushing id) with
      | some pid => ((s.doAccess a).2.dropAccess id).release a.gk pid
      | none => (s.doAccess a).2.dropAccess id) := by
  rw [exec_dflushPerform, ← (doAccess_dflush_keeps (s := s) hop).1]
  unfold execDflushPerform
  rw [ha]
  dsimp only
  rw [hop]
  refine congrArg Host.Outcome.next ((if_neg ?_).trans rfl)
  exact ne_of_eq_of_ne h Bool.false_ne_true

theorem dflushPerform_performs (h : s.owesDatom id a.gk = false) :
    ∃ t, exec (.dflushPerform id) s = .next t ∧ mget? t.accesses id = none ∧ t.mem = (s.doAccess a).2.mem ∧
      ∀ g pid, mget? s.groups a.gk = some g → g.flushing id = some pid →
        ∃ g' p, mget? t.groups a.gk = some g' ∧ mget? g'.paths pid = some p ∧ (∀ b, p.st ≠ .blocked b) := by
  obtain ⟨hgroups, -⟩ := doAccess_dflush_keeps (s := s) hop
  refine ⟨_, dflushPerform_eq ha hop h, ?_⟩
  cases hwho : (mget? s.groups a.gk).bind (fun g => g.flushing id) with
  | none =>
    refine ⟨mget?_merase_self _ _, rfl, fun g pid hg hpid => ?_⟩
    rw [hg, Option.bind_some, hpid] at hwho
    cases hwho
  | some who =>
    refine ⟨mget?_merase_self _ _, rfl, fun g pid hg hpid => ?_⟩
    rw [hg, Option.bind_some, hpid] at hwho
    cases hwho
    obtain ⟨p, hp⟩ := path_of_flushing hpid
    exact released_path (hgroups ▸ hg) hp

end Dflush

/-! ### Ring words (R72) -/

section Put
variable (w stamp : ℕ) (v : W32)

theorem ringPut_lt : ringPut w stamp v < 256 ^ 8 := by
  have hclass : ringClass w < 2 ^ 8 := bits_lt w 56 8
  have hval := v.isLt
  unfold ringPut
  omega

theorem ringClass_ringPut : ringClass (ringPut w stamp v) = ringClass w := by
  have hclass : ringClass w < 2 ^ 8 := bits_lt w 56 8
  have hval := v.isLt
  conv_lhs => unfold ringClass bits
  unfold ringPut
  omega

theorem ringStamp_ringPut (h : stamp < 2 ^ 24) : ringStamp (ringPut w stamp v) = stamp := by
  have hval := v.isLt
  unfold ringStamp bits ringPut
  omega

theorem ringVal_ringPut : ringVal (ringPut w stamp v) = v := by
  have hval := v.isLt
  refine BitVec.eq_of_toNat_eq ?_
  rw [ringVal, BitVec.toNat_ofNat, ringPut]
  omega

end Put

/-! ### The staleness of a ring word (R390) -/

theorem unitEvent_frame (s : State) (die src part asid code payload addr cycle : ℕ) :
    ∃ traces, s.unitEvent die src part asid code payload addr cycle = { s with traces := traces } := by
  unfold State.unitEvent State.postTrace
  dsimp only
  split_ifs <;> exact ⟨_, rfl⟩

/-- A stale word counts at its unit. -/
def State.noteStale (s : State) (a : Access) (stale : Bool) : State := if stale then s.ringStale a.part a.asid (stackOf a.loc) a.va else s

theorem noteStale_spec (s : State) (a : Access) (stale : Bool) : (s.noteStale a stale).mem = s.mem ∧ (s.noteStale a stale).loads = s.loads ∧
    ((s.noteStale a stale).saggar (stackOf a.loc)).rstale = (s.saggar (stackOf a.loc)).rstale + if stale then 1 else 0 := by
  cases stale with
  | false => exact ⟨rfl, rfl, (BitVec.add_zero (s.saggar (stackOf a.loc)).rstale).symm⟩
  | true =>
    unfold State.noteStale State.ringStale
    obtain ⟨traces, htraces⟩ := unitEvent_frame (s.setSaggar (stackOf a.loc)
      { s.saggar (stackOf a.loc) with rstale := (s.saggar (stackOf a.loc)).rstale + 1 }) (stackOf a.loc / 4) (10000 + stackOf a.loc) a.part a.asid 0x8200
      (a.va % 2 ^ 32) a.va (s.stackCycle (stackOf a.loc))
    rw [if_pos rfl]
    dsimp only
    rw [htraces]
    exact ⟨rfl, rfl, congrArg Saggar.rstale (saggar_setSaggar s _ _)⟩

/-! ### LDRG, RADD and RMERGE at their performing point (R192, R203) -/

section Ring
variable {s : State} {id : ℕ} {a : Access}

theorem doAccess_ldrg (hop : a.op = .ldrg) : s.doAccess a =
    ((s.ringRead (stackOf a.loc) a.part a.asid (s.word a.loc 8)).1.toNat,
      s.noteStale a (s.ringRead (stackOf a.loc) a.part a.asid (s.word a.loc 8)).2) := by
  rw [State.doAccess, hop]
  rfl

theorem doAccess_radd {u : W32} (hop : a.op = .radd u) : s.doAccess a =
    (0, (s.write a.loc (natLe 8 (s.ringAdd (stackOf a.loc) a.part a.asid (s.word a.loc 8) u).1)).noteStale a
      (s.ringAdd (stackOf a.loc) a.part a.asid (s.word a.loc 8) u).2) := by
  rw [State.doAccess, hop]
  rfl

theorem doAccess_rmerge {x : W64} (hop : a.op = .rmerge x) : s.doAccess a =
    (0, (s.write a.loc (natLe 8 (s.ringMerge a.part a.asid (s.word a.loc 8) x.toNat).1)).noteStale a
      (s.ringMerge a.part a.asid (s.word a.loc 8) x.toNat).2) := by
  rw [State.doAccess, hop]
  rfl

variable (ha : mget? s.accesses id = some a) (hcan : s.canPerform id a = true) (hclean : s.poisoned a.loc a.len = none)
include ha hcan hclean

/-- A ring operation that writes: its word alone changes. -/
theorem ring_writes {w : ℕ} {stale : Bool} (hdatom : ∀ k u, a.op ≠ .datom k u) (hflush : ∀ l, a.op ≠ .dflush l)
    (hdo : (s.dropAccess id).doAccess a = (0, ((s.dropAccess id).write a.loc (natLe 8 w)).noteStale a stale)) (hw : w < 256 ^ 8) :
    ∃ t, exec (.accessPerform id) s = .next t ∧ (∀ b, (b < a.loc ∨ a.loc + 8 ≤ b) → t.byte b = s.byte b) ∧
      (t.saggar (stackOf a.loc)).rstale = (s.saggar (stackOf a.loc)).rstale + (if stale then 1 else 0) ∧ t.word a.loc 8 = w := by
  obtain ⟨hmem, -, hcount⟩ := noteStale_spec ((s.dropAccess id).write a.loc (natLe 8 w)) a stale
  rw [saggar_eq_of_saggars (saggars_write_frame _ _ _)] at hcount
  refine ⟨_, accessPerform_eq ha hcan hdatom hflush, ?_⟩
  rw [performAccess_clean fun _ => hclean, hdo]
  exact ⟨fun b hb => (byte_eq_of_mem hmem b).trans (byte_write_word (s.dropAccess id) a.loc 8 w hb), hcount,
    (word_eq_of_mem hmem a.loc 8).trans (word_write (s.dropAccess id) a.loc 8 hw)⟩

/-- A ring operation that reads: memory stays. -/
theorem ring_reads {v : ℕ} {stale : Bool} (hdatom : ∀ k u, a.op ≠ .datom k u) (hflush : ∀ l, a.op ≠ .dflush l)
    (hdo : (s.dropAccess id).doAccess a = (v, (s.dropAccess id).noteStale a stale)) :
    ∃ t, exec (.accessPerform id) s = .next t ∧ (∀ b, t.byte b = s.byte b) ∧ Got s t a v ∧
      (t.saggar (stackOf a.loc)).rstale = (s.saggar (stackOf a.loc)).rstale + (if stale then 1 else 0) := by
  obtain ⟨hmem, hloads, hcount⟩ := noteStale_spec (s.dropAccess id) a stale
  refine ⟨_, accessPerform_eq ha hcan hdatom hflush, ?_⟩
  rw [performAccess_clean fun _ => hclean, hdo]
  exact ⟨fun b => byte_eq_of_mem hmem b, got_gotLane hloads v, hcount⟩

theorem ldrg_performs (hop : a.op = .ldrg) :
    ∃ t, exec (.accessPerform id) s = .next t ∧ (∀ b, t.byte b = s.byte b) ∧
      Got s t a (s.ringRead (stackOf a.loc) a.part a.asid (s.word a.loc 8)).1.toNat ∧
      (t.saggar (stackOf a.loc)).rstale = (s.saggar (stackOf a.loc)).rstale +
        (if (s.ringRead (stackOf a.loc) a.part a.asid (s.word a.loc 8)).2 then 1 else 0) :=
  ring_reads ha hcan hclean (by simp [hop]) (by simp [hop]) (doAccess_ldrg hop)

theorem radd_performs {u : W32} (hop : a.op = .radd u) :
    ∃ t, exec (.accessPerform id) s = .next t ∧ (∀ b, (b < a.loc ∨ a.loc + 8 ≤ b) → t.byte b = s.byte b) ∧
      (t.saggar (stackOf a.loc)).rstale = (s.saggar (stackOf a.loc)).rstale +
        (if (s.ringAdd (stackOf a.loc) a.part a.asid (s.word a.loc 8) u).2 then 1 else 0) ∧
      t.word a.loc 8 = (s.ringAdd (stackOf a.loc) a.part a.asid (s.word a.loc 8) u).1 :=
  ring_writes ha hcan hclean (by simp [hop]) (by simp [hop]) (doAccess_radd hop) (ringPut_lt _ _ _)

theorem rmerge_performs {x : W64} (hop : a.op = .rmerge x) :
    ∃ t, exec (.accessPerform id) s = .next t ∧ (∀ b, (b < a.loc ∨ a.loc + 8 ≤ b) → t.byte b = s.byte b) ∧
      (t.saggar (stackOf a.loc)).rstale = (s.saggar (stackOf a.loc)).rstale +
        (if (s.ringMerge a.part a.asid (s.word a.loc 8) x.toNat).2 then 1 else 0) ∧
      t.word a.loc 8 = (s.ringMerge a.part a.asid (s.word a.loc 8) x.toNat).1 :=
  ring_writes ha hcan hclean (by simp [hop]) (by simp [hop]) (doAccess_rmerge hop) (ringPut_lt _ _ _)

end Ring

theorem unitStep_lt (s : State) (stack p asid : ℕ) : s.unitStep stack p asid < 2 ^ 24 := BitVec.isLt _

theorem later_lt (x w : ℕ) : (if stepDiff (ringStamp x) (ringStamp w) < 2 ^ 23 then ringStamp x else ringStamp w) < 2 ^ 24 := by
  split_ifs <;> exact bits_lt _ 32 24


/-- Settles O28: the tracked words of a saggar unit, then its ring words, event by event. -/
theorem trackedAndRingWords : Obligations.TrackedAndRingWords := by
  refine ⟨fun s id a ha => ⟨fun key u hop hcan hclean => ⟨?_, fun d ws => ?_, fun d ws => ?_⟩, fun hop hcan => dstat_performs ha hop hcan,
    fun n hop => ⟨?_, fun h => dflushPerform_performs ha hop (owesDatom_none h)⟩, fun d hd hheld hloc => flushWord_spec hd hheld hloc⟩,
    fun s id a ha hcan hclean => ⟨fun hop => ?_, fun u hop => ?_, fun x hop => ?_⟩⟩
  · exact datomArrival_untracked ha hop hcan hclean
  · exact datomArrival_held ha hop hcan hclean
  · exact datomArrival_spilt ha hop hcan hclean
  · exact fun j b key u hb hj hgk hb' => dflushPerform_waits ha hop (owesDatom_of_mem hb hj hgk hb')
  · have h := ldrg_performs ha hcan hclean hop
    simp only [State.ringRead, decide_eq_true_eq] at h
    exact h
  · obtain ⟨t, ht, honly, hcount, hword⟩ := radd_performs ha hcan hclean hop
    simp only [State.ringAdd, State.ringRead, decide_eq_true_eq] at hcount hword
    refine ⟨t, ht, honly, hcount, ?_⟩
    rw [hword]
    exact ⟨ringClass_ringPut _ _ _, ringStamp_ringPut _ _ _ (unitStep_lt _ _ _ _), ringVal_ringPut _ _ _⟩
  · obtain ⟨t, ht, honly, hcount, hword⟩ := rmerge_performs ha hcan hclean hop
    simp only [State.ringMerge, decide_eq_true_eq] at hcount hword
    refine ⟨t, ht, honly, hcount, ?_⟩
    rw [hword]
    exact ⟨ringClass_ringPut _ _ _, ringStamp_ringPut _ _ _ (later_lt _ _), ringVal_ringPut _ _ _⟩

end Sys2Proof.Machine

/-! PROOF. Distribution instructions and the propagation of uncertainty (O18, O19). -/

namespace Sys2Proof

/-! ### Words that write a distribution (R41, R172) -/

/-- A word whose destination is the vector registers of a distribution form, and which no form lets be uniform. -/
def Enc.writesForm (x : Enc) : Prop := (∃ w, x.shape.d = .formD w) ∧ x.shape.uOk = false

theorem Enc.writesForm_of_row {x : Enc} {r : OpRow} {w : ℕ} (hr : opRow x.op = some r) (hd : (r.shape x.m (immLen x.o.imm)).d = .formD w)
    (hu : (r.shape x.m (immLen x.o.imm)).uOk = false) : x.writesForm :=
  ⟨⟨w, shape_d_of_row hr hd⟩, shape_uOk_of_row hr hu⟩

end Sys2Proof

namespace Sys2Proof.Machine

section Destination
variable {i : Instr} {s : State} {c e : Ctx} {x : Enc}

theorem u_of_issues (h : Issues i s c e) (hx : i.enc = some x) (hu : x.shape.uOk = false) : e.o.hdr.u = false := by
  rw [(ops_of_issues h hx).2, ← Bool.not_eq_true]
  intro hset
  exact absurd (uOk_of_fieldReject (fieldReject_of_issues h hx) hset) (by rw [hu]; decide)

theorem vectorDst_of_issues (h : Issues i s c e) (hx : i.enc = some x) (hform : x.writesForm) : ∃ n, e.o.d = .v n := by
  obtain ⟨⟨w, hd⟩, -⟩ := hform
  have hrole := roleOk_d_of_fieldReject (fieldReject_of_issues h hx)
  rw [hd, ← (ops_of_issues h hx).2] at hrole
  cases hsel : e.o.d with
  | v n => exact ⟨n, rfl⟩
  | _ => rw [hsel] at hrole; cases hrole

theorem dstFits_of_form (h : Issues i s c e) (hx : i.enc = some x) (hform : x.writesForm) : e.dstFits := by
  obtain ⟨n, hd⟩ := vectorDst_of_issues h hx hform
  simp [Ctx.dstFits, u_of_issues h hx hform.2, hd]

end Destination

/-! ### Results that round (R67, R155) -/

section Rounded
variable {s : State} {e : Ctx}

/-- The draw of a rounding instruction, after its other writes. -/
theorem Wrote.draw {w : Writes} {t : State} (h : Wrote e w t) : Wrote e { w with group := fun g => e.drew (w.group g) } (e.draw t) := by
  unfold Ctx.draw
  by_cases hdraw : e.rnd = .sr ∧ e.actLanes ≠ []
  · simp only [Ctx.drew, if_pos hdraw]
    rw [if_pos (by simpa using hdraw)]
    exact h.changeGroup (fun g => { g with ctr := g.ctr + 1 }) fun _ _ => rfl
  · simp only [Ctx.drew, if_neg hdraw]
    rw [if_neg (by simpa using hdraw)]
    exact h

theorem rounded_done (he : Entered s e) (hd : e.dstFits) (w : ℕ) (f : ℕ → ℕ) : DoneNext s e (Writes.rounded e w f) (e.rounded w f) :=
  (wrote_result he hd w f).draw.advance he

end Rounded

section Forms
variable {i : Instr} {s : State} {c e : Ctx} {x : Enc} {wd : ℕ} {f : Ctx → ℕ → ℕ}

/-- An instruction that rounds into a distribution of `wd` registers completes with it. -/
theorem roundedForm_completes (hexec : exec i s = perform i noDetail noPriv (fun c => c.rounded wd (f c)) s) (h : Issues i s c e) (hx : i.enc = some x)
    (hform : x.writesForm) : Completes i s e (Writes.rounded e wd (f e)) :=
  completes_of_perform hexec h rfl rfl (rounded_done (issues_entered h) (dstFits_of_form h hx hform) wd (f e))

/-- As `roundedForm_completes`, of one that does not round. -/
theorem resultForm_completes (hexec : exec i s = perform i noDetail noPriv (fun c => c.result wd (f c)) s) (h : Issues i s c e) (hx : i.enc = some x)
    (hform : x.writesForm) : Completes i s e (Writes.result e wd (f e)) :=
  completes_of_perform hexec h rfl rfl (result_done (issues_entered h) (dstFits_of_form h hx hform) wd (f e))

end Forms

/-! ### The arms of the instructions -/

section Arms
variable (f : Form) (o : Ops) (s : State)

theorem exec_dadd : exec (.dadd f o) s = execDadd f o s := rfl
theorem exec_dsub : exec (.dsub f o) s = execDsub f o s := rfl
theorem exec_dmul : exec (.dmul f o) s = execDmul f o s := rfl
theorem exec_ddiv : exec (.ddiv f o) s = execDdiv f o s := rfl
theorem exec_dfma : exec (.dfma f o) s = execDfma f o s := rfl
theorem exec_drcp : exec (.drcp f o) s = execDrcp f o s := rfl
theorem exec_dsqrt : exec (.dsqrt f o) s = execDsqrt f o s := rfl
theorem exec_dexp : exec (.dexp f o) s = execDexp f o s := rfl
theorem exec_dlog : exec (.dlog f o) s = execDlog f o s := rfl
theorem exec_dtanh : exec (.dtanh f o) s = execDtanh f o s := rfl
theorem exec_dsigm : exec (.dsigm f o) s = execDsigm f o s := rfl
theorem exec_dscl : exec (.dscl f o) s = execDscl f o s := rfl
theorem exec_dmax : exec (.dmax f o) s = execDmax f o s := rfl
theorem exec_dmin : exec (.dmin f o) s = execDmin f o s := rfl
theorem exec_dset : exec (.dset f o) s = execDset f o s := rfl
theorem exec_dvar : exec (.dvar f o) s = execDvar f o s := rfl
theorem exec_dstd : exec (.dstd f o) s = execDstd f o s := rfl
theorem exec_dred : exec (.dred f o) s = execDred f o s := rfl
theorem exec_dcvt (n : NFmt) : exec (.dcvt n f o) s = execDcvt n f o s := rfl
theorem exec_dorg (k : BitVec 2) : exec (.dorg k o) s = execDorg k o s := rfl
theorem exec_dsens (k : BitVec 2) : exec (.dsens k o) s = execDsens k o s := rfl
theorem exec_dindep : exec (.dindep o) s = execDindep o s := rfl
theorem exec_dtrk : exec (.dtrk o) s = execDtrk o s := rfl

end Arms

/-! ### The rounding instructions (R173) -/

section Arithmetic
variable {s : State} {c e : Ctx} {o : Ops} {f : Form} {i : Instr} {op m : ℕ}

/-- A rounding instruction of two distributions. -/
theorem dist2_completes (r : Rule) (z : Bool → Sys2Proof.Num → Sys2Proof.Num → Sys2Proof.Num) (hexec : exec i s = dist2 i f r z s) (h : Issues i s c e)
    (hx : i.enc = some ⟨op, m, o⟩) (hform : Enc.writesForm ⟨op, m, o⟩) :
    Completes i s e (Writes.rounded e f.words fun l => e.propagate l false [e.mu (e.dist f o.a l), e.mu (e.dist f o.b l)] [e.dist f o.a l, e.dist f o.b l]
      (z (e.rnd == .rdn) (e.mu (e.dist f o.a l)) (e.mu (e.dist f o.b l))) r) := by
  have hops : e.o = o := (ops_of_issues h hx).2
  rw [← hops]
  exact roundedForm_completes (f := fun c l => c.propagate l false [c.mu (c.dist f c.o.a l), c.mu (c.dist f c.o.b l)] [c.dist f c.o.a l, c.dist f c.o.b l]
    (z (c.rnd == .rdn) (c.mu (c.dist f c.o.a l)) (c.mu (c.dist f c.o.b l))) r) hexec h hx hform

/-- A rounding instruction of one distribution. -/
theorem dist1_completes (fixed : Bool) (g : Sys2Proof.Num → Sys2Proof.Num → Sys2Proof.Num) (z : Sys2Proof.Num → Sys2Proof.Num)
    (hexec : exec i s = dist1 i f fixed g z s) (h : Issues i s c e) (hx : i.enc = some ⟨op, m, o⟩) (hform : Enc.writesForm ⟨op, m, o⟩) :
    Completes i s e (Writes.rounded e f.words fun l =>
      e.propagate l fixed [e.mu (e.dist f o.a l)] [e.dist f o.a l] (z (e.mu (e.dist f o.a l))) (ruleUnary g)) := by
  have hops : e.o = o := (ops_of_issues h hx).2
  rw [← hops]
  exact roundedForm_completes (f := fun c l => c.propagate l fixed [c.mu (c.dist f c.o.a l)] [c.dist f c.o.a l] (z (c.mu (c.dist f c.o.a l))) (ruleUnary g))
    hexec h hx hform

theorem dfma_completes (h : Issues (.dfma f o) s c e) :
    Completes (.dfma f o) s e (Writes.rounded e f.words fun l =>
      e.propagate l false [e.mu (e.dist f o.a l), e.mu (e.dist f o.b l), e.mu (e.dist f o.c.asSel l)] [e.dist f o.a l, e.dist f o.b l, e.dist f o.c.asSel l]
        (Num.add (e.rnd == .rdn) ((e.mu (e.dist f o.a l)).mul (e.mu (e.dist f o.b l))) (e.mu (e.dist f o.c.asSel l))) ruleFma) := by
  have hops : e.o = o := (ops_of_issues h rfl).2
  have hsel : e.cSel = o.c.asSel := by rw [Ctx.cSel, hops]
  rw [← hsel]
  exact roundedForm_completes (f := fun c l => c.propagate l false [c.mu (c.dist f o.a l), c.mu (c.dist f o.b l), c.mu (c.dist f c.cSel l)]
      [c.dist f o.a l, c.dist f o.b l, c.dist f c.cSel l]
      (Num.add (c.rnd == .rdn) ((c.mu (c.dist f o.a l)).mul (c.mu (c.dist f o.b l))) (c.mu (c.dist f c.cSel l))) ruleFma)
    (exec_dfma f o s) h rfl (Enc.writesForm_of_row rfl rfl rfl)

theorem dscl_completes (h : Issues (.dscl f o) s c e) :
    Completes (.dscl f o) s e (Writes.rounded e f.words fun l =>
      e.propagate l false [e.mu (e.dist f o.a l), e.fop o.b true l] [e.dist f o.a l] ((e.mu (e.dist f o.a l)).mul (e.fop o.b true l)) ruleScl) :=
  roundedForm_completes (f := fun c l =>
      c.propagate l false [c.mu (c.dist f o.a l), c.fop o.b true l] [c.dist f o.a l] ((c.mu (c.dist f o.a l)).mul (c.fop o.b true l)) ruleScl)
    (exec_dscl f o s) h rfl (Enc.writesForm_of_row rfl rfl rfl)

end Arithmetic

/-- Settles O18: each rounding instruction as one of two distributions or of one, DFMA and DSCL by themselves. -/
theorem distributionArithmetic : Obligations.DistributionArithmetic := by
  intro s c e o f
  exact ⟨fun h => dist2_completes ruleAdd Num.add (exec_dadd f o s) h rfl (Enc.writesForm_of_row rfl rfl rfl),
    fun h => dist2_completes ruleSub Num.sub (exec_dsub f o s) h rfl (Enc.writesForm_of_row rfl rfl rfl),
    fun h => dist2_completes ruleMul (fun _ => Num.mul) (exec_dmul f o s) h rfl (Enc.writesForm_of_row rfl rfl rfl),
    fun h => dist2_completes ruleDiv (fun _ => Num.div) (exec_ddiv f o s) h rfl (Enc.writesForm_of_row rfl rfl rfl),
    dfma_completes,
    fun h => dist1_completes false gRcp (fun x => one.div x) (exec_drcp f o s) h rfl (Enc.writesForm_of_row rfl rfl rfl),
    fun h => dist1_completes false gSqrt Num.sqrt (exec_dsqrt f o s) h rfl (Enc.writesForm_of_row rfl rfl rfl),
    fun h => dist1_completes true gExp exp2Exact (exec_dexp f o s) h rfl (Enc.writesForm_of_row rfl rfl rfl),
    fun h => dist1_completes true gLog log2Exact (exec_dlog f o s) h rfl (Enc.writesForm_of_row rfl rfl rfl),
    fun h => dist1_completes true gTanh tanhExact (exec_dtanh f o s) h rfl (Enc.writesForm_of_row rfl rfl rfl),
    fun h => dist1_completes true gSigm sigmExact (exec_dsigm f o s) h rfl (Enc.writesForm_of_row rfl rfl rfl),
    dscl_completes⟩

/-! ### The registers' value of a distribution (R41, R71) -/

section Words
variable (x : Dst)

theorem sensWord_field {l : List W16} {i : ℕ} {v : W16} (h : l[i]? = some v) : sensWord l / 2 ^ (16 * i) % 2 ^ 16 = v.toNat := by
  induction l generalizing i with
  | nil => cases h
  | cons a l ih =>
    have ha : a.toNat < 65536 := a.isLt
    cases i with
    | zero =>
      cases h
      rw [sensWord, Nat.mul_zero, Nat.pow_zero, Nat.div_one]
      omega
    | succ i =>
      have hrest : sensWord (a :: l) / 2 ^ 16 = sensWord l := by
        rw [sensWord]
        omega
      rw [show 16 * (i + 1) = 16 + 16 * i by ring, Nat.pow_add, ← Nat.div_div_eq_div_mul, hrest]
      exact ih h

theorem word_mean : x.word % 2 ^ 32 = x.mean.toNat := by
  have hmean := x.mean.isLt
  rw [Dst.word]
  omega

theorem word_spread : x.word / 2 ^ 32 % 2 ^ 32 = x.spread.toNat := by
  have hmean := x.mean.isLt
  have hspread := x.spread.isLt
  rw [Dst.word]
  omega

theorem word_sens {i : ℕ} {v : W16} (h : x.sens[i]? = some v) : x.word / 2 ^ (64 + 16 * i) % 2 ^ 16 = v.toNat := by
  have hhigh : x.word / 2 ^ 64 = sensWord x.sens := by
    have hmean := x.mean.isLt
    have hspread := x.spread.isLt
    rw [Dst.word]
    omega
  rw [Nat.pow_add, ← Nat.div_div_eq_div_mul, hhigh, sensWord_field h]

theorem word_moment (mean spread : W32) : (Dst.mk mean spread []).word = mean.toNat + 2 ^ 32 * spread.toNat := by
  simp only [Dst.word, sensWord]
  ring

/-- A moment form read and written in tracked form, without sensitivities, keeps its value (R86). -/
theorem word_tracked {w : ℕ} (h : w < 2 ^ 64) : (Dst.mk (dstOf .m w).mean (dstOf .m w).spread [0, 0, 0, 0]).word = w := by
  have hsens : sensWord [0, 0, 0, 0] = 0 := rfl
  simp only [Dst.word, dstOf, hsens, BitVec.toNat_ofNat]
  omega

end Words

/-! ### Propagation without the R69 terms (R76, R78, R82) -/

section Propagation
variable (e : Ctx) (l : ℕ) (fixed : Bool) (mus : List Sys2Proof.Num) (xs : List Dst) (z : Sys2Proof.Num) (r : Rule)

/-- The distribution a rounding instruction writes with RV = 0. -/
def Ctx.propagated : Dst where
  mean := BitVec.ofNat 32 (e.rnd32 l z)
  spread := rne32 (r.spread mus (FF.f32.val (e.rnd32 l z)) (xs.map Dst.sp))
  sens := (List.range (xs.headD ⟨0, 0, []⟩).sens.length).map fun i => bf16 (r.sens mus (FF.f32.val (e.rnd32 l z)) (xs.map fun x => x.si i))

theorem propagate_of_rv_false (hrv : e.rv = false) : e.propagate l fixed mus xs z r = (e.propagated l mus xs z r).word := by
  cases xs <;> simp [Ctx.propagate, Ctx.propagated, Ctx.rnd32, hrv]

theorem propagate_words (hrv : e.rv = false) :
    e.propagate l fixed mus xs z r % 2 ^ 32 = e.rnd32 l z % 2 ^ 32 ∧
    e.propagate l fixed mus xs z r / 2 ^ 32 % 2 ^ 32 = (rne32 (r.spread mus (FF.f32.val (e.rnd32 l z)) (xs.map Dst.sp))).toNat ∧
    ∀ i < (xs.headD ⟨0, 0, []⟩).sens.length,
      e.propagate l fixed mus xs z r / 2 ^ (64 + 16 * i) % 2 ^ 16 = (bf16 (r.sens mus (FF.f32.val (e.rnd32 l z)) (xs.map fun x => x.si i))).toNat := by
  rw [propagate_of_rv_false e l fixed mus xs z r hrv]
  refine ⟨?_, word_spread _, fun i hi => word_sens _ ?_⟩
  · rw [word_mean, Ctx.propagated, BitVec.toNat_ofNat]
  · rw [Ctx.propagated, List.getElem?_map, List.getElem?_range hi, Option.map_some]

end Propagation

/-! ### DCVT (R84, R176; log 35) -/

/-- The rounding of a mean adds no term to its spread: there is nothing to round. -/
def keepsSpread (z t : Sys2Proof.Num) : Bool :=
  match z with
  | .nan => true
  | .inf _ => !t.isInf
  | .fin q => decide (q.num = 0)

theorem cvtSpread_eq (f : FF) (m : RMode) (z : Sys2Proof.Num) (info : RInfo) (v : W32) :
    cvtSpread f m z info v = if keepsSpread z (rvTerm f m info) then v else rne32 (Num.add false (f32 v) (rvTerm f m info)) := by
  cases z with
  | nan => rfl
  | inf neg => cases ht : (rvTerm f m info).isInf <;> simp [cvtSpread, keepsSpread, ht]
  | fin q => by_cases hq : q.num = 0 <;> simp [cvtSpread, keepsSpread, hq]

/-! ### DRED (R74, R87, R177) -/

theorem treeLevel_ne_nil {α : Type} (f : α → α → α) {l : List α} (h : l ≠ []) : treeLevel f l ≠ [] := by
  match l with
  | [] => exact absurd rfl h
  | [_] => exact h
  | _ :: _ :: _ => exact List.cons_ne_nil _ _

/-- A tree over some elements has a root. -/
theorem tree_ne_nil {α : Type} (f : α → α → α) (n : ℕ) {l : List α} (h : l ≠ []) : tree f n l ≠ [] := by
  induction n generalizing l with
  | zero => exact h
  | succ n ih =>
    unfold tree
    split_ifs
    · exact h
    · exact ih (treeLevel_ne_nil f h)

section Forms
variable {s : State} {c e : Ctx} {o : Ops} {f : Form}

/-- A vector destination written in one lane. -/
theorem wrote_lane (he : Entered s e) {n : BitVec 8} (hd : e.o.d = .v n) {k : ℕ} (hk : k < 64) (w v : ℕ) :
    Wrote e { vec := vecWrites e.o.d (fun l => l == k) w fun _ => v } (e.s.modGroup e.gk fun g => g.setSel e.o.d k v w) := by
  rw [hd]
  obtain ⟨x, hx⟩ := vec_fold_frame [k] n (fun _ => v) w e.g
  rw [List.foldl_cons, List.foldl_nil] at hx
  refine wrote_group he _ _ (by rw [hx]) ⟨fun l hl r hr => ?_, fun _ _ => by rw [hx]; rfl, fun _ _ _ _ => by rw [hx]; rfl, fun _ _ => by rw [hx]; rfl,
    fun _ _ _ _ => rfl⟩ rfl rfl
  have hread := vec_fold [k] n (fun _ => v) w e.g l r (by simpa using hk) hl hr
  rw [List.foldl_cons, List.foldl_nil] at hread
  rw [hread]
  by_cases hon : l = k ∧ n.toNat ≤ r ∧ r < n.toNat + w ∧ r ≠ 255
  · rw [if_pos (by simpa using hon)]
    simp [vecWrites, hon]
  · have hoff : ¬(l == k && r != 255 && decide (n.toNat ≤ r) && decide (r < n.toNat + w)) = true := by
      simp only [Bool.and_eq_true, beq_iff_eq, bne_iff_ne, decide_eq_true_eq]
      tauto
    rw [if_neg (by simpa using hon)]
    simp only [vecWrites, if_neg hoff, Option.getD_none]

theorem dred_completes (h : Issues (.dred f o) s c e) {k : ℕ} {ls : List ℕ} (hls : lanes e.acts = k :: ls) (hmore : ls ≠ []) :
    Completes (.dred f o) s e { vec := vecWrites o.d (fun l => l == k) f.words fun _ =>
      ((tree (dredNode e.rv) 7 ((lanes e.acts).map (e.dist f o.a))).headD ⟨0, 0, []⟩).word } := by
  have he := issues_entered h
  have hops : e.o = o := (ops_of_issues h rfl).2
  obtain ⟨n, hd⟩ := vectorDst_of_issues h rfl (Enc.writesForm_of_row (w := fw f.code) rfl rfl rfl)
  have hk : k < 64 := ((mem_lanes e.acts k).1 (hls ▸ List.mem_cons_self)).1
  have hlen : (lanes e.acts).length ≠ 1 := by simpa [hls] using hmore
  obtain ⟨root, rest, htree⟩ := List.exists_cons_of_ne_nil
    (tree_ne_nil (dredNode e.rv) 7 (l := (lanes e.acts).map (e.dist f o.a)) (by simp [hls]))
  refine completes_of_perform (exec_dred f o s) h rfl rfl ?_
  have hdone := (wrote_lane he hd hk f.words root.word).advance he
  rw [hops] at hdone
  rw [hls] at htree hlen
  simp only [hls, htree, if_neg hlen]
  exact hdone

/-! ### Selection, conversion and statistics (R80, R84 to R86, R174 to R178) -/

/-- DMAX and DMIN: the words of the operand picked, or of a NaN. -/
theorem distPick_completes {i : Instr} {op m : ℕ} (wantMax : Bool) (hexec : exec i s = distPick i f wantMax s) (h : Issues i s c e)
    (hx : i.enc = some ⟨op, m, o⟩) (hform : Enc.writesForm ⟨op, m, o⟩) :
    Completes i s e (Writes.result e f.words fun l =>
      match fPickB e.ftz wantMax (e.dist f o.a l).mean (e.dist f o.b l).mean with
      | none => (dstNaN (e.dist f o.a l).sens.length).word
      | some t => if t then (e.dist f o.b l).word else (e.dist f o.a l).word) := by
  have hops : e.o = o := (ops_of_issues h hx).2
  rw [← hops]
  exact resultForm_completes (f := fun c l =>
      match fPickB c.ftz wantMax (c.dist f c.o.a l).mean (c.dist f c.o.b l).mean with
      | none => (dstNaN (c.dist f c.o.a l).sens.length).word
      | some t => if t then (c.dist f c.o.b l).word else (c.dist f c.o.a l).word) hexec h hx hform

theorem dset_completes (h : Issues (.dset f o) s c e) :
    Completes (.dset f o) s e (Writes.result e f.words fun l => e.val o.a 1 l + 2 ^ 32 * e.val o.b 1 l) := by
  simp only [Nat.mul_comm (2 ^ 32)]
  exact resultForm_completes (f := fun c l => c.val o.a 1 l + c.val o.b 1 l * 2 ^ 32) (exec_dset f o s) h rfl (Enc.writesForm_of_row rfl rfl rfl)

theorem dcvt_completes (n : NFmt) (h : Issues (.dcvt n f o) s c e) :
    Completes (.dcvt n f o) s e (Writes.rounded e f.words fun l =>
      let r := (nfmtFF n).round (e.rctx l) (e.mu (e.dist f o.a l))
      let t := rvTerm (nfmtFF n) e.rnd r.2
      ({ e.dist f o.a l with
         mean := BitVec.ofNat 32 r.1
         spread := if keepsSpread (e.mu (e.dist f o.a l)) t then (e.dist f o.a l).spread else rne32 (Num.add false (e.dist f o.a l).sp t) } : Dst).word) := by
  have hdone := roundedForm_completes (f := fun c l =>
      let r := (nfmtFF n).round (c.rctx l) (c.mu (c.dist f o.a l))
      ({ c.dist f o.a l with
         mean := BitVec.ofNat 32 r.1
         spread := cvtSpread (nfmtFF n) c.rnd (c.mu (c.dist f o.a l)) r.2 (c.dist f o.a l).spread } : Dst).word)
    (exec_dcvt f o s n) h rfl (Enc.writesForm_of_row (w := fw (8 * n.code + f.code)) rfl rfl rfl)
  simp only [cvtSpread_eq] at hdone
  exact hdone

theorem dindep_completes (h : Issues (.dindep o) s c e) :
    Completes (.dindep o) s e (Writes.result e 2 fun l => (e.dist .t o.a l).mean.toNat + 2 ^ 32 * (e.dist .t o.a l).var.toNat) := by
  simp only [← word_moment]
  exact resultForm_completes (f := fun c l => (Dst.mk (c.dist .t o.a l).mean (c.dist .t o.a l).var []).word) (exec_dindep o s) h rfl
    (Enc.writesForm_of_row (w := 2) rfl rfl rfl)

theorem dtrk_completes (h : Issues (.dtrk o) s c e) : Completes (.dtrk o) s e (Writes.result e 4 fun l => e.val o.a 2 l) := by
  have hdone := resultForm_completes (f := fun c l => (Dst.mk (c.dist .m o.a l).mean (c.dist .m o.a l).spread [0, 0, 0, 0]).word) (exec_dtrk o s) h rfl
    (Enc.writesForm_of_row (w := 4) rfl rfl rfl)
  have hval : ∀ l, (Dst.mk (e.dist .m o.a l).mean (e.dist .m o.a l).spread [0, 0, 0, 0]).word = e.val o.a 2 l :=
    fun l => word_tracked (val_lt e o.a (w := 2) two_pos l)
  simpa only [hval] using hdone

end Forms

/-- Settles O19: what propagation writes word by word, and each of the other instructions by the lemma on it. What DCVT keeps of a spread is the model's own
choice (log 35). -/
theorem distributionForms : Obligations.DistributionForms := by
  refine ⟨fun e l fixed mus xs z r hrv _ => ⟨propagate_words e l fixed mus xs z r hrv, fun m y v w p q => ⟨rfl, rfl, rfl, rfl⟩,
    fun a b y v w p q => ⟨rfl, rfl⟩⟩, fun s c e o => ⟨fun f => ⟨fun h => ?_, fun h => ?_, dset_completes, fun h => ?_, fun h => ?_, fun n h => ?_,
    fun h k ls hls hmore => dred_completes h hls hmore⟩, fun k h => ?_, fun k h => ?_, dindep_completes, dtrk_completes⟩⟩
  · exact distPick_completes true (exec_dmax f o s) h rfl (Enc.writesForm_of_row rfl rfl rfl)
  · exact distPick_completes false (exec_dmin f o s) h rfl (Enc.writesForm_of_row rfl rfl rfl)
  · exact result_completes (f := fun c l => (c.dist f o.a l).var.toNat) (exec_dvar f o s) h rfl (shape_d_of_row (ro := .dst 1) rfl rfl)
  · exact result_completes (f := fun c l => (rne32 (c.dist f o.a l).total.sqrt).toNat) (exec_dstd f o s) h rfl (shape_d_of_row (ro := .dst 1) rfl rfl)
  · exact dcvt_completes n h
  · exact resultForm_completes (f := fun c l =>
        (Dst.mk (c.dist .m o.a l).mean 0 (listSet [0, 0, 0, 0] k.toNat (bf16 (c.dist .m o.a l).sp.sqrt))).word)
      (exec_dorg o s k) h rfl (Enc.writesForm_of_row (w := 4) rfl rfl rfl)
  · exact result_completes (f := fun c l => (rne32 ((c.dist .t o.a l).si k.toNat)).toNat) (exec_dsens o s k) h rfl (shape_d_of_row (ro := .dst 1) rfl rfl)

end Sys2Proof.Machine

/-! PROOF. Encoding and decoding (O56, O57). -/

namespace Sys2Proof

/-! ### Codes of the fields (R30, R48) -/

theorem spRegOfCode_code (r : SpReg) : SpReg.ofCode r.code = some r := by cases r <;> rfl
theorem spRegCode_lt (r : SpReg) : r.code < 18 := by cases r <;> decide

/-- Each kind of selector has codes of its own, above those of the kinds before it. -/
theorem selOfCode_selCode (x : Sel) : selOfCode (selCode x) = some x := by
  unfold selOfCode
  cases x with
  | sp r => simp (disch := omega) only [selCode, if_neg, Nat.add_sub_cancel_left, spRegOfCode_code, Option.map_some]
  | _ n =>
    have hn := n.isLt
    simp (disch := omega) only [selCode, if_pos, if_neg, Nat.add_sub_cancel_left, BitVec.ofNat_toNat, BitVec.setWidth_eq]

theorem selCode_lt (x : Sel) : selCode x < 512 := by
  cases x with
  | sp r => have := spRegCode_lt r; simp only [selCode]; omega
  | _ n => have := n.isLt; simp only [selCode]; omega

theorem cCode_lt (c : CField) : cCode c < 512 := by
  cases c with
  | sel x => exact selCode_lt x
  | raw v => exact v.isLt

theorem cOf_cCode (c : CField) : cOf c.isRaw (cCode c) = some c := by
  cases c with
  | sel x => simp [cOf, cCode, CField.isRaw, selOfCode_selCode]
  | raw v => simp [cOf, cCode, CField.isRaw]

theorem lenOfCode_code (l : Len) : Len.ofCode l.code = some l := by cases l <;> rfl
theorem lenCode_lt (l : Len) : l.code < 4 := by cases l <;> decide
theorem immOf_immNat (i : Imm) : immOf (immLen i) (immNat i) = i := by cases i <;> simp [immOf, immLen, immNat]
theorem immNat_lt (i : Imm) : immNat i < 2 ^ ((immLen i).bytes * 8 - 64) := by
  cases i with
  | none => decide
  | i32 v => exact v.isLt
  | i64 v => exact v.isLt

/-! ### Fields of a base word (R95) -/

/-- Every field fits its bits. -/
structure Fields.Fits (f : Fields) : Prop where
  op : f.op < 256
  pg : f.pg < 8
  pn : f.pn < 2
  u : f.u < 2
  ch : f.ch < 2
  d : f.d < 512
  a : f.a < 512
  b : f.b < 512
  c : f.c < 512
  lq : f.lq < 4
  le : f.le < 2
  nwb : f.nwb < 2
  m : f.m < 256

theorem pack_eq (len : Nat) (f : Fields) : f.pack len =
    len + 4 * (f.op + 256 * (f.pg + 8 * (f.pn + 2 * (f.u + 2 * (f.ch + 2 * (f.d + 512 * (f.a + 512 * (f.b + 512 * (f.c + 512 * (f.lq + 4 *
      (f.le + 2 * (f.nwb + 2 * f.m)))))))))))) := rfl

theorem pack_mod_four {f : Fields} {len : Nat} (hl : len < 4) : f.pack len % 4 = len := by
  rw [pack_eq, Nat.add_mul_mod_self_left, Nat.mod_eq_of_lt hl]

theorem add_mul_div_of_lt {n x : Nat} (h : x < n) (y : Nat) : (x + n * y) / n = y := by
  rw [Nat.add_mul_div_left _ _ (by omega), Nat.div_eq_of_lt h, Nat.zero_add]

theorem add_mul_lt_of_lt {n k x y : Nat} (hx : x < n) (hy : y < k) : x + n * y < n * k := by
  calc x + n * y < n + n * y := by omega
    _ = n * (y + 1) := by ring
    _ ≤ n * k := Nat.mul_le_mul_left n hy

theorem unpack_pack {f : Fields} {len : Nat} (hl : len < 4) (hf : f.Fits) : Fields.unpack (f.pack len) = f := by
  obtain ⟨hop, hpg, hpn, hu, hch, hd, ha, hb, hc, hlq, hle, hnwb, hm⟩ := hf
  rw [pack_eq]
  simp only [Fields.unpack, add_mul_div_of_lt, Nat.add_mul_mod_self_left, Nat.mod_eq_of_lt, hl, hop, hpg, hpn, hu, hch, hd, ha, hb, hc, hlq, hle, hnwb, hm]

theorem pack_lt {f : Fields} {len : Nat} (hl : len < 4) (hf : f.Fits) : f.pack len < 2 ^ 64 := by
  obtain ⟨hop, hpg, hpn, hu, hch, hd, ha, hb, hc, hlq, hle, hnwb, hm⟩ := hf
  have h := add_mul_lt_of_lt hl <| add_mul_lt_of_lt hop <| add_mul_lt_of_lt hpg <| add_mul_lt_of_lt hpn <| add_mul_lt_of_lt hu <| add_mul_lt_of_lt hch <|
    add_mul_lt_of_lt hd <| add_mul_lt_of_lt ha <| add_mul_lt_of_lt hb <| add_mul_lt_of_lt hc <| add_mul_lt_of_lt hlq <| add_mul_lt_of_lt hle <|
    add_mul_lt_of_lt hnwb hm
  exact h

/-! ### Rows of the opcode map (R119, R120) -/

theorem opRow_mem {op : Nat} {r : OpRow} (h : opRow op = some r) : r ∈ opRows := List.mem_of_find?_eq_some h
theorem opRow_op {op : Nat} {r : OpRow} (h : opRow op = some r) : r.op = op := by simpa using List.find?_some h

theorem op_lt_of_mem_opRows {r : OpRow} (h : r ∈ opRows) : r.op < 256 := by
  have hall : opRows.all (fun r => r.op < 256) = true := by decide +kernel
  simpa using List.all_eq_true.1 hall r h

/-- A table of type codes that takes four bits. -/
def FourBits {T : Type} (dec : Nat → Option T) : Prop := ∀ n, (dec n).isSome → n < 16

theorem fourBits_ity : FourBits ITy.ofCode := by
  intro n h
  unfold ITy.ofCode at h
  split at h <;> simp_all

theorem fourBits_bty : FourBits BTy.ofCode := by
  intro n h
  unfold BTy.ofCode at h
  split at h <;> simp_all

theorem fourBits_mty : FourBits MTy.ofCode := by
  intro n h
  unfold MTy.ofCode at h
  split at h <;> simp_all


/-- A row whose class I forms take an immediate in C (R101): it has the lengths 64 and 96, its C is no raw field by itself, and its modifiers leave bit 4 of
MOD, IMC's own, clear. -/
structure OpRow.ImmediateC (r : OpRow) : Prop where
  lens : r.lens = ls6496
  rawC : r.rawC = false
  free (m : Nat) : (r.build m).isSome → m / 16 % 2 = 0
  notMovi : r.op ≠ 0x3B

theorem immediateC_rowI {T : Type} {op : Nat} {dec : Nat → Option T} {c : T → Ops → Instr} {shape : Nat → Shape} (hop : op ≠ 0x3B)
    (hdec : FourBits dec) : (rowI op dec c true shape).ImmediateC where
  lens := rfl
  rawC := rfl
  free m h := by
    have := hdec m (by simpa [rowI] using h)
    omega
  notMovi := hop

@[simp] theorem imc_rowI {T : Type} (op : Nat) (dec : Nat → Option T) (c : T → Ops → Instr) (imc : Bool) (shape : Nat → Shape) :
    (rowI op dec c imc shape).imc = imc := rfl

section Typed
variable {T : Type} {op : Nat} {dec : Nat → Option T} {shape : Nat → Len → Shape}

/-- A row whose type code is MOD[4:0], which leaves MOD[7:5] for another modifier. -/
theorem immediateC_bind {c : Nat → T → Option (Ops → Instr)} (hop : op ≠ 0x3B) (hdec : FourBits dec) :
    OpRow.ImmediateC { op := op, lens := ls6496, imc := true, build := fun m => (dec (m % 16 + m / 16 % 2 * 16)).bind (c m), shape := shape } where
  lens := rfl
  rawC := rfl
  free m h := by
    have := hdec _ (Option.isSome_of_isSome_bind h)
    omega
  notMovi := hop

theorem immediateC_map {c : Nat → T → Ops → Instr} (hop : op ≠ 0x3B) (hdec : FourBits dec) :
    OpRow.ImmediateC { op := op, lens := ls6496, imc := true, build := fun m => (dec (m % 16 + m / 16 % 2 * 16)).map (c m), shape := shape } := by
  simp only [Option.map_eq_bind]
  exact immediateC_bind hop hdec

end Typed

theorem immediateC_rowsInt1 : ∀ r ∈ rowsInt1, r.imc = true → r.ImmediateC := by
  simp [rowsInt1, immediateC_rowI, immediateC_map, fourBits_ity, fourBits_bty]

theorem immediateC_rowsInt2 : ∀ r ∈ rowsInt2, r.imc = true → r.ImmediateC := by
  simp [rowsInt2, immediateC_rowI, immediateC_bind, fourBits_ity, fourBits_bty, fourBits_mty]

/-- The rows other than those of class I. -/
def rowsNoImmediate : List OpRow :=
  rowsControl ++ rowsSpecial ++ rowsFloat ++ rowsConv ++ rowsReduce ++ rowsDist1 ++ rowsDist2 ++ rowsMem ++ rowsAtom ++ rowsBar ++ rowsChan ++ rowsMatrix ++
    rowsJob ++ rowsCoil ++ rowsSys

theorem mem_opRows {r : OpRow} (h : r ∈ opRows) : r ∈ rowsInt1 ∨ r ∈ rowsInt2 ∨ r ∈ rowsNoImmediate := by
  simp only [opRows, rowsNoImmediate, List.mem_append] at h ⊢
  tauto

theorem imc_of_mem_rowsNoImmediate {r : OpRow} (h : r ∈ rowsNoImmediate) : r.imc = false := by
  have hall : rowsNoImmediate.all (fun r => !r.imc) = true := by decide +kernel
  simpa using List.all_eq_true.1 hall r h

theorem immediateC_of_imc {r : OpRow} (h : r ∈ opRows) (himc : r.imc = true) : r.ImmediateC := by
  rcases mem_opRows h with h1 | h2 | hother
  · exact immediateC_rowsInt1 r h1 himc
  · exact immediateC_rowsInt2 r h2 himc
  · rw [imc_of_mem_rowsNoImmediate hother] at himc
    cases himc

/-! ### Modifiers (R94, R105 to R118) -/

theorem ITy.code_lt (x : ITy) : x.code < 16 := by cases x <;> decide
theorem SITy.code_lt (x : SITy) : x.code < 16 := by cases x <;> decide
theorem BTy.code_lt (x : BTy) : x.code < 16 := by cases x <;> decide
theorem MTy.code_lt (x : MTy) : x.code < 16 := by cases x <;> decide
theorem Cmp.code_lt (x : Cmp) : x.code < 8 := by cases x <;> decide
theorem FCmp.code_lt (x : FCmp) : x.code < 8 := by cases x <;> decide
theorem FRMode.code_lt (x : FRMode) : x.code < 8 := by cases x <;> decide
theorem VFmt.code_lt (x : VFmt) : x.code < 15 := by cases x <;> decide
theorem RTy.code_lt (x : RTy) : x.code < 16 := by cases x <;> decide
theorem UTy.code_lt (x : UTy) : x.code < 16 := by cases x <;> decide
theorem Form.code_lt (x : Form) : x.code < 2 := by cases x <;> decide
theorem NFmt.code_lt (x : NFmt) : x.code < 4 := by cases x <;> decide
theorem Scope.code_lt (x : Scope) : x.code < 6 := by cases x <;> decide
theorem Retain.code_lt (x : Retain) : x.code < 4 := by cases x <;> decide
theorem Sz.code_lt (x : Sz) : x.code < 7 := by cases x <;> decide
theorem Aop.code_lt (x : Aop) : x.code < 13 := by cases x <;> decide
theorem AHalf.code_lt (x : AHalf) : x.code < 2 := by cases x <;> decide
theorem APart.code_lt (x : APart) : x.code < 3 := by cases x <;> decide

theorem memMod_lt (sc : Scope) (rh : Retain) (sz : Sz) : memMod sc rh sz < 256 := by
  have hsc := sc.code_lt
  have hrh := rh.code_lt
  have hsz := sz.code_lt
  unfold memMod
  omega

theorem atomMod_lt (sc : Scope) (w64 : Bool) (op : Aop) : atomMod sc w64 op < 256 := by
  have hsc := sc.code_lt
  have hw := w64.toNat_lt
  have hop := op.code_lt
  unfold atomMod
  omega

/-- MOD fits its byte: where it is no number of its own, it is put together from codes that fit their bits. -/
theorem mod_lt_of_enc {i : Instr} {e : Enc} (h : i.enc = some e) : e.m < 256 := by
  cases i <;> cases h <;> dsimp only
  case iadd x _ | isub x _ | imul x _ | imulh x _ | imad x _ | idiv x _ | irem x _ | imin x _ | imax x _ | shadd x _ _ | shl x _ | shr x _ |
      sar x _ =>
    have hx := ITy.code_lt x
    omega
  case iabs x _ | ineg x _ =>
    have hx := SITy.code_lt x
    omega
  case and x _ | or x _ | xor x _ | not x _ | popc x _ | clz x _ | brev x _ | bfx x _ | bfi x _ | sel x _ | movi x _ | shflIdx x _ | shflUp x _ |
      shflDown x _ | shflXor x _ | bcst x _ | rdln x _ =>
    have hx := BTy.code_lt x
    omega
  case icmp x y _ =>
    have hx := ITy.code_lt x
    have hy := Cmp.code_lt y
    omega
  case mov x _ =>
    have hx := MTy.code_lt x
    omega
  case amat x _ =>
    have hx := AHalf.code_lt x
    omega
  case aget x _ =>
    have hx := APart.code_lt x
    omega
  case fcmp x _ =>
    have hx := FCmp.code_lt x
    omega
  case frnd x _ =>
    have hx := FRMode.code_lt x
    omega
  case cvt x y _ =>
    have hx := VFmt.code_lt x
    have hy := VFmt.code_lt y
    omega
  case cvtb x _ | cvtx x _ =>
    cases x <;> decide
  case redtAdd x _ | redtMax x _ | redtMin x _ | scan x _ =>
    have hx := RTy.code_lt x
    omega
  case rngu x _ =>
    have hx := UTy.code_lt x
    omega
  case dset x _ | dadd x _ | dsub x _ | dmul x _ | dfma x _ | ddiv x _ | drcp x _ | dsqrt x _ | dexp x _ | dlog x _ | dtanh x _ | dsigm x _ |
      dmax x _ | dmin x _ | dscl x _ | dvar x _ | dstd x _ | dred x _ =>
    have hx := Form.code_lt x
    omega
  case dcvt x y _ =>
    have hx := NFmt.code_lt x
    have hy := Form.code_lt y
    omega
  case ld | st | pref | ldrg => exact memMod_lt ..
  case lds x _ | sts x _ | ldv x _ | stv x _ =>
    have hx := Sz.code_lt x
    omega
  case cctlWb x _ | cctlInv x _ | cctlWbinv x _ | fence x _ | fenceSc x _ | datom x _ | dflush x _ | dstat x _ | radd x _ | rmerge x _ | binit x _ =>
    have hx := Scope.code_lt x
    omega
  case atom | atoms => exact atomMod_lt ..
  case mma x _ _ _ | mzero x _ | mrd x _ | mwr x _ =>
    have hx := Bool.toNat_lt x
    omega
  all_goals omega

/-- Every instruction word is spelled as the row of its opcode says. -/
theorem spelled_of_enc {i : Instr} {e : Enc} (h : i.enc = some e) : Laws.Spelling.Statement i := by
  open Laws.Spelling in
  cases i <;> cases h
  exacts [nop _, bra _, brp _, brx _, call _, ret _, jarm _ _, join _ _, jdrop _ _, loop _, loopx _, yield _, exit _, tileb _, trap _ _, eret _, bkpt _ _,
    voteAll _, voteAny _, voteBallot _, fuse _, split _, grow _ _, growNb _ _, shrink _ _, gang _, pathqLive _, pathqMlo _, pathqMhi _, iadd _ _, isub _ _,
    imul _ _, imulh _ _, imad _ _, idiv _ _, irem _ _, imin _ _, imax _ _, iabs _ _, ineg _ _, shadd _ _ _, and _ _, or _ _, xor _ _, not _ _, shl _ _,
    shr _ _, sar _ _, popc _ _, clz _ _, brev _ _, bfx _ _, bfi _ _, icmp _ _ _, sel _ _, mov _ _, movi _ _, plop _ _, shflIdx _ _, shflUp _ _, shflDown _ _,
    shflXor _ _, bcst _ _, rdln _ _, rdsp _, wrsp _, aset _, aadd _, ascl _, amat _ _, aget _ _, fadd _, fsub _, fmul _, ffma _, fmin _, fmax _, fabs _,
    fneg _, fcmp _ _, frcp _, frsq _, fsqrt _, fdiv _, fexp2 _, flog2 _, fsin _, fcos _, ftanh _, fsigm _, frnd _ _, fclass _, fscl _, cvt _ _ _, cvtb _ _,
    cvtn _, cvtx _ _, redtAdd _ _, redtMax _ _, redtMin _ _, scan _ _, sample _, rngk _, rngu _ _, rngn _, vmask _, dorg _ _, dset _ _, dadd _ _, dsub _ _,
    dmul _ _, dfma _ _, ddiv _ _, drcp _ _, dsqrt _ _, dexp _ _, dlog _ _, dtanh _ _, dsigm _ _, dmax _ _, dmin _ _, dscl _ _, dvar _ _, dstd _ _, dsens _ _,
    dindep _, dtrk _, dcvt _ _ _, dred _ _, ld _ _ _ _, st _ _ _ _, lds _ _, sts _ _, ldv _ _, stv _ _, pref _ _ _, cctlWb _ _, cctlInv _ _, cctlWbinv _ _,
    ldrg _ _ _, fence _ _, fenceSc _ _, atom _ _ _ _, atoms _ _ _ _, datom _ _, dflush _ _, dstat _ _, radd _ _, rmerge _ _, binit _ _, barr _, barrBytes _,
    bexp _, bwait _, btry _, watch _ _, send _ _, recv _ _, recvTry _ _, sendr _ _, mcst _ _, chqFree _ _, chqFilled _ _, mld _ _, tld _ _, tldTrn _ _,
    tst _ _, mma _ _ _ _, mzero _ _, mrd _ _, mwr _ _, mperm _ _, mqry _, job _, jqry _, launch _, gsig _, taskget _, taskgetNb _, taskdone _, taskadd _,
    cbind _, cmaskS _, cmaskV _, cmaskM _, cfeed _, cfork _, croll _, cdrop _, csave _, cload _, cstat _, sysr _, sysw _, step _, evt _, clock _]

/-! ### The row that takes an encoding -/

/-- Row `r` takes the encoding `e`: its length, its modifier, and raw bits in C where the row asks for them or its IMC allows them. -/
structure Enc.TakenBy (e : Enc) (r : OpRow) : Prop where
  row : opRow e.op = some r
  length : (r.lens e.m).contains (immLen e.o.imm) = true
  built : (r.build e.m).isSome = true
  rawAllowed : e.o.c.isRaw = true → r.rawC = true ∨ (r.imc = true ∧ immLen e.o.imm = .l64)
  rawAsked : r.rawC = true → e.o.c.isRaw = true
  notMovi64 : (e.op == 0x3B && e.m == 0x0A && immLen e.o.imm == .l128) = false

theorem takenBy_of_formReject {e : Enc} (h : formReject e = none) : ∃ r, e.TakenBy r := by
  unfold formReject at h
  cases hrow : opRow e.op with
  | none => simp [hrow] at h
  | some r =>
    simp only [hrow] at h
    split_ifs at h with hlen hmod
    simp only [Bool.or_eq_true, not_or, Bool.not_eq_true] at hmod
    obtain ⟨⟨⟨hbuild, hraw⟩, hasked⟩, hmovi⟩ := hmod
    refine ⟨r, hrow, by simpa using hlen, by simpa [Option.isSome_iff_ne_none] using hbuild, fun hc => ?_, fun hr => by simpa [hr] using hasked, hmovi⟩
    simpa [hc, ← Bool.not_eq_true, ← or_iff_not_imp_left] using hraw

section Taken
variable {e : Enc} {r : OpRow} (h : e.TakenBy r)
include h

/-- MOD as the word holds it: with IMC where C is an immediate of class I. -/
theorem mod_fieldsOf : (fieldsOf e).m = if e.o.c.isRaw && r.imc then e.m + 16 else e.m := by simp only [fieldsOf, h.row]

theorem mod_free (himc : r.imc = true) : e.m / 16 % 2 = 0 := (immediateC_of_imc (opRow_mem h.row) himc).free e.m h.built

/-- The lengths of the row are those of the encoding, IMC or not. -/
theorem lens_fieldsOf : (r.lens (fieldsOf e).m).contains (immLen e.o.imm) = true := by
  have hlen := h.length
  rw [mod_fieldsOf h]
  split_ifs with hm
  · rw [Bool.and_eq_true] at hm
    rw [(immediateC_of_imc (opRow_mem h.row) hm.2).lens] at hlen ⊢
    exact hlen
  · exact hlen

/-- Bit 4 of MOD is IMC, in a row that has it, exactly where C holds an immediate. -/
theorem imcBit_fieldsOf : (r.imc && (fieldsOf e).m / 16 % 2 == 1 && immLen e.o.imm == .l64) = (e.o.c.isRaw && r.imc) := by
  rw [mod_fieldsOf h]
  cases himc : r.imc
  · simp
  · have hfree := mod_free h himc
    cases hraw : e.o.c.isRaw
    · simp [hfree]
    · have hlen : immLen e.o.imm = .l64 := by
        rcases h.rawAllowed hraw with hrow | ⟨-, hlen⟩
        · rw [(immediateC_of_imc (opRow_mem h.row) himc).rawC] at hrow
          cases hrow
        · exact hlen
      have hbit : (e.m / 16 + 1) % 2 = 1 := by omega
      simp [hlen, hbit]

theorem rawBits_fieldsOf : rawBits r (fieldsOf e).m (immLen e.o.imm) = e.o.c.isRaw := by
  unfold rawBits
  rw [imcBit_fieldsOf h, Bool.eq_iff_iff, Bool.or_eq_true, Bool.and_eq_true]
  constructor
  · rintro (hrow | ⟨hraw, -⟩)
    · exact h.rawAsked hrow
    · exact hraw
  · intro hraw
    exact (h.rawAllowed hraw).imp_right fun himc => ⟨hraw, himc.1⟩

/-- The decoder takes IMC out again. -/
theorem modOf_fieldsOf : modOf r (fieldsOf e).m (immLen e.o.imm) = e.m := by
  unfold modOf
  rw [imcBit_fieldsOf h, mod_fieldsOf h]
  split_ifs <;> omega

theorem notMovi64_fieldsOf : (r.op == 0x3B && (fieldsOf e).m == 0x0A && immLen e.o.imm == .l128) = false := by
  cases himc : r.imc
  · simpa [mod_fieldsOf h, himc, opRow_op h.row] using h.notMovi64
  · simp [(immediateC_of_imc (opRow_mem h.row) himc).notMovi]

/-- Every field of the word fits its bits; with IMC, MOD does because its bit 4 was clear. -/
theorem fits_fieldsOf {i : Instr} (hi : i.enc = some e) : (fieldsOf e).Fits where
  op := by
    show e.op < 256
    rw [← opRow_op h.row]
    exact op_lt_of_mem_opRows (opRow_mem h.row)
  pg := e.o.hdr.pg.isLt
  pn := Bool.toNat_lt _
  u := Bool.toNat_lt _
  ch := Bool.toNat_lt _
  d := selCode_lt _
  a := selCode_lt _
  b := selCode_lt _
  c := cCode_lt _
  lq := e.o.hdr.lq.isLt
  le := Bool.toNat_lt _
  nwb := Bool.toNat_lt _
  m := by
    have hm := mod_lt_of_enc hi
    rw [mod_fieldsOf h]
    split_ifs with himc
    · rw [Bool.and_eq_true] at himc
      have hfree := mod_free h himc.2
      omega
    · exact hm

end Taken

theorem beq_one_toNat (b : Bool) : (b.toNat == 1) = b := by cases b <;> rfl

theorem hdr_fieldsOf (e : Enc) : (fieldsOf e).hdr = e.o.hdr := by
  simp only [Fields.hdr, fieldsOf, beq_one_toNat, BitVec.ofNat_toNat, BitVec.setWidth_eq]

theorem opsOf_fieldsOf (e : Enc) : opsOf (fieldsOf e) e.o.c.isRaw e.o.imm = some e.o := by
  unfold opsOf
  rw [hdr_fieldsOf]
  simp only [fieldsOf, selOfCode_selCode, cOf_cCode]

/-! ### The round trip -/

/-- The row of a well-formed instruction builds it. -/
theorem build_of_takenBy {i : Instr} {e : Enc} {r : OpRow} (hi : i.enc = some e) (h : e.TakenBy r) : ∃ k, r.build e.m = some k ∧ k e.o = i := by
  obtain ⟨k, hk⟩ := Option.isSome_iff_exists.1 h.built
  have hspelled := spelled_of_enc hi
  simp only [Laws.Spelling.Statement, hi, h.row, hk] at hspelled
  exact ⟨k, hk, hspelled⟩

theorem decodeForm_pack {i : Instr} {e : Enc} {r : OpRow} (hi : i.enc = some e) (h : e.TakenBy r) :
    decodeForm ((fieldsOf e).pack (immLen e.o.imm).code) (immNat e.o.imm) = .ok i := by
  obtain ⟨k, hk, rfl⟩ := build_of_takenBy hi h
  have hrow : opRow (fieldsOf e).op = some r := h.row
  have hlen := lenCode_lt (immLen e.o.imm)
  unfold decodeForm
  simp only [pack_mod_four hlen, lenOfCode_code, unpack_pack hlen (fits_fieldsOf h hi), hrow, lens_fieldsOf h, notMovi64_fieldsOf h, modOf_fieldsOf h, hk,
    rawBits_fieldsOf h, immOf_immNat, opsOf_fieldsOf, Bool.not_true, Bool.false_eq_true, if_false]

theorem formReject_of_wf {i : Instr} {e : Enc} (h : i.WF = true) (hi : i.enc = some e) : formReject e = none := by
  simp only [Instr.WF, Instr.check, hi, Option.isNone_iff_eq_none, Option.or_eq_none_iff] at h
  obtain ⟨⟨hform, -⟩, -⟩ := h
  exact hform

theorem decode_of_decodeForm {i : Instr} {w ext : Nat} (hw : i.WF = true) (h : decodeForm w ext = .ok i) : decode w ext = .ok i := by
  rw [Instr.WF, Option.isNone_iff_eq_none] at hw
  simp only [decode, h, hw]

/-- Settles O57: the row of its opcode takes a well-formed instruction's encoding, so that the decoder finds in the word the row, the modifier and the
operand fields the instruction was spelled with. -/
theorem roundTrip : Obligations.RoundTrip := by
  intro i bits w ext hwf henc
  obtain ⟨e, hi, hwords⟩ := Option.map_eq_some_iff.1 henc
  simp only [Prod.mk.injEq] at hwords
  obtain ⟨rfl, rfl, rfl⟩ := hwords
  obtain ⟨r, h⟩ := takenBy_of_formReject (formReject_of_wf hwf hi)
  exact ⟨decode_of_decodeForm hwf (decodeForm_pack hi h), pack_lt (lenCode_lt _) (fits_fieldsOf h hi), immNat_lt _⟩

/-! ### Words of the spec (R121) -/

theorem decode_len11 {w ext : Nat} (h : w % 4 = 3) : decode w ext = .error .len11 := by
  simp only [decode, decodeForm, h, Len.ofCode]

/-- Settles O56: the decoder runs on each word of the spec, and asks for the length before anything else. -/
theorem decodeWords : Obligations.DecodeWords :=
  ⟨rfl, rfl, rfl, rfl, rfl, rfl, rfl, rfl, rfl, rfl, rfl, rfl, rfl, rfl, rfl, rfl, rfl, rfl, rfl, rfl, rfl, rfl, rfl, rfl, rfl, fun _ _ => decode_len11, rfl⟩

end Sys2Proof

/-! PROOF. What an instruction leaves in flight, a path that blocks, and a team that retires (O34). -/

namespace Sys2Proof.Machine

/-! ### Instructions that act once, and instructions that leave something in flight -/

section Ends
variable {i : Instr} {s : State} {c e : Ctx}

theorem once'_of_acts {f : Ctx → State} (h : e.actsOnce = true) : e.once' f = f e := if_pos h

theorem idle_of_once' {own : Ctx → Option Nat} {body : Ctx → State} (hexec : exec i s = perform i own noPriv (fun c => c.once' body) s) (h : Issues i s c e)
    (ho : own c = none) : Idle i s e := by
  intro hoff
  refine completes_of_perform hexec h ho rfl ?_
  rw [Ctx.once', hoff, if_neg Bool.false_ne_true]
  exact (wrote_nothing (issues_entered h)).advance (issues_entered h)

theorem completesIn_of_perform {s1 : State} {own : Ctx → Option Nat} {priv : Ctx → Bool} {body : Ctx → State} {w : Writes}
    (hexec : exec i s = perform i own priv body s) (h : Issues i s c e) (ho : own c = none) (hp : priv c = false) (hdone : DoneNext s1 e w (body e)) :
    CompletesIn i s s1 e w := ⟨_, exec_of_perform hexec h ho hp, hdone⟩

/-- The instruction of `e` after loads and numbers have been taken for it. -/
def Ctx.numbered (e : Ctx) (loads : Map LoadI) (n : Nat) : Ctx := { e with s := { e.s with loads := loads, nextId := n } }

theorem entered_numbered (he : Entered s e) (loads : Map LoadI) (n : Nat) :
    Entered { s with loads := loads, nextId := n } (e.numbered loads n) := by
  obtain ⟨⟨hstate, hbyte, hgroups, hquarters⟩, hgroup, hpath⟩ := he
  exact ⟨⟨by rw [Ctx.numbered, hstate], hbyte, hgroups, hquarters⟩, hgroup, hpath⟩

/-- What is written after loads and numbers have been taken, done where those are taken. -/
theorem doneNext_numbered (he : Entered s e) {loads : Map LoadI} {n : Nat} {w : Writes} {t : State} (h : Wrote (e.numbered loads n) w t) :
    DoneNext { s with loads := loads, nextId := n } e w (e.advance t) := by
  have hdone := h.advance (entered_numbered he loads n)
  exact hdone

end Ends

/-! ### A path that blocks (R254, R261) -/

theorem pathEvent_frame (s : State) (gk pid code payload addr : Nat) : ∃ traces, s.pathEvent gk pid code payload addr = { s with traces := traces } := by
  unfold State.pathEvent State.pathEventAt State.postTrace
  split
  · exact ⟨_, rfl⟩
  · dsimp only
    split_ifs <;> exact ⟨_, rfl⟩

/-- From `s` to `t` the chain of a path may have been cut (R44, R68): its latches are lost, its PC is back at the head, and the stream counter with it. -/
structure MayCut (gk pid : Nat) (s t : State) : Prop where
  rest : Elsewhere { s with traces := t.traces } gk t
  quarter : t.quarter (quarterOf gk) =
    { s.quarter (quarterOf gk) with chain := (t.quarter (quarterOf gk)).chain, latch := (t.quarter (quarterOf gk)).latch }
  group : ∀ g p, mget? s.groups gk = some g → mget? g.paths pid = some p → ∃ g' p', mget? t.groups gk = some g' ∧ mget? g'.paths pid = some p' ∧
    (g'.v = g.v ∧ g'.s = g.s ∧ g'.a = g.a ∧ g'.p = g.p ∧ g'.live = g.live) ∧ (p'.mask = p.mask ∧ p'.fmt = p.fmt ∧ p'.loops = p.loops) ∧
    ∀ k, k ≠ pid → mget? g'.paths k = mget? g.paths k

theorem mayCut_refl (gk pid : Nat) (s : State) : MayCut gk pid s s :=
  ⟨elsewhere_refl s gk, rfl, fun g p hg hp => ⟨g, p, hg, hp, ⟨rfl, rfl, rfl, rfl, rfl⟩, ⟨rfl, rfl, rfl⟩, fun _ _ => rfl⟩⟩

theorem mayCut_endChain (gk pid : Nat) (s : State) : MayCut gk pid s (s.endChain gk pid) ∧ (s.endChain gk pid).groups = s.groups := by
  unfold State.endChain
  dsimp only
  split
  · exact ⟨mayCut_refl gk pid s, rfl⟩
  · split_ifs
    · refine ⟨⟨elsewhere_setQuarter s gk _, ?_,
        fun g p hg hp => ⟨g, p, hg, hp, ⟨rfl, rfl, rfl, rfl, rfl⟩, ⟨rfl, rfl, rfl⟩, fun _ _ => rfl⟩⟩, rfl⟩
      rw [quarter_setQuarter_self]
    · exact ⟨mayCut_refl gk pid s, rfl⟩

theorem mayCut_cutChain (gk pid : Nat) (s : State) : MayCut gk pid s (s.cutChain gk pid) := by
  obtain ⟨hend, hgroups⟩ := mayCut_endChain gk pid s
  unfold State.cutChain
  dsimp only
  split
  · exact hend
  · next k _ =>
    refine ⟨elsewhere_trans hend.rest (elsewhere_trans (elsewhere_modGroup _ _ _) (elsewhere_modGroup _ _ _)), hend.quarter, fun g p hg hp => ?_⟩
    rw [State.modPath, mget_modGroup, if_pos rfl, mget_modGroup, if_pos rfl, hgroups, hg]
    refine ⟨_, { p with pc := k.head, lastCh := false, ilen := 0, back := none }, rfl, ?_, ⟨rfl, rfl, rfl, rfl, rfl⟩, ⟨rfl, rfl, rfl⟩,
      fun j hj => ?_⟩
    · rw [mget_modPath, if_pos rfl, hp]
      rfl
    · rw [mget_modPath, if_neg hj]

theorem mayCut_interrupt (gk pid : Nat) (s : State) : MayCut gk pid s (s.interrupt gk pid) := by
  unfold State.interrupt
  split
  · split_ifs
    · obtain ⟨traces, htraces⟩ := pathEvent_frame s gk pid 0x8002 0 0
      rw [htraces]
      obtain ⟨hrest, hquarter, hgroup⟩ := mayCut_cutChain gk pid { s with traces := traces }
      exact ⟨hrest, hquarter, hgroup⟩
    · exact mayCut_refl gk pid s
  · exact mayCut_refl gk pid s

theorem Elsewhere.withTraces {s t : State} {gk : Nat} (h : Elsewhere s gk t) (traces : Map TraceCore) :
    Elsewhere { s with traces := traces } gk { t with traces := traces } := by
  obtain ⟨hstate, hbyte, hgroups, hquarters⟩ := h
  exact ⟨by rw [hstate], hbyte, hgroups, hquarters⟩

section Block
variable {s t : State} {e : Ctx}

theorem blocked_of_block (hrest : Elsewhere s e.gk t) (hgroup : mget? t.groups e.gk = some e.g) (hpath : mget? e.g.paths e.pid = some e.p) (b : Block) :
    Blocked s e b (e.block t b) := by
  have hissued := group_issued e t hgroup
  have hpissued : mget? (e.g.modPath e.pid fun p => p.issued (t.coreCycle e.core) e.len e.p.pc e.o.hdr.ch).paths e.pid =
      some (e.p.issued (t.coreCycle e.core) e.len e.p.pc e.o.hdr.ch) := by rw [mget_modPath, if_pos rfl, hpath]; rfl
  have hall : Elsewhere s e.gk (e.issued t) := elsewhere_trans hrest (elsewhere_issued e t)
  have hsame : e.o.hdr.ch = false → (e.issued t).interrupt e.gk e.pid = e.issued t := fun hch => interrupt_issued hch t
  obtain ⟨hcut, -, hparts⟩ := mayCut_interrupt e.gk e.pid (e.issued t)
  obtain ⟨g, p, hg, hp, ⟨hv, hs, ha, hpred, hlive⟩, ⟨hmask, hfmt, hloops⟩, hothers⟩ := hparts _ _ hissued hpissued
  unfold Ctx.block
  dsimp only
  generalize (e.issued t).interrupt e.gk e.pid = u at *
  refine ⟨elsewhere_trans (hall.withTraces u.traces) (elsewhere_trans hcut (elsewhere_modGroup _ _ _)), fun hch => ?_, ?_⟩
  · show u.traces = s.traces
    rw [hsame hch, hall.1]
  · refine ⟨_, _, (mget_modGroup _ _ _ _).trans ((if_pos rfl).trans (congrArg _ hg)), (mget_modPath _ _ _ _).trans ((if_pos rfl).trans (congrArg _ hp)), rfl,
      hmask, hfmt, hloops, fun hch => ?_, fun k hk => ?_, hv, hs, ha, hpred, hlive⟩
    · have hsome : some g = some _ := hg.symm.trans ((congrArg (fun x : State => mget? x.groups e.gk) (hsame hch)).trans hissued)
      cases hsome
      cases hp.symm.trans hpissued
      rfl
    · rw [mget_modPath, if_neg hk, hothers k hk]
      exact (mget_modPath _ _ _ _).trans (if_neg hk)

/-- Blocking leaves the quarter but for its chain and latches. -/
theorem quarter_block (t : State) (b : Block) : ∃ chain latch, (e.block t b).quarter e.q = { t.quarter e.q with chain := chain, latch := latch } := by
  have hcut := (mayCut_interrupt e.gk e.pid (e.issued t)).quarter
  have hissued := (quarter_issued e t).trans (quarter_issued_frame _ _ _ _ _)
  rw [show (e.issued t).quarter (quarterOf e.gk) = _ from hissued] at hcut
  exact ⟨_, _, hcut⟩

end Block

/-! ### Retirement leaves the units and memory (R252) -/

/-- Memory and the quarters are the same in both states. -/
def SameUnits (s t : State) : Prop := t.mem = s.mem ∧ t.quarters = s.quarters

theorem SameUnits.trans {s t u : State} (h : SameUnits s t) (k : SameUnits t u) : SameUnits s u := ⟨k.1.trans h.1, k.2.trans h.2⟩

theorem sameUnits_foldl {α : Type} {f : State → α → State} (hf : ∀ s x, SameUnits s (f s x)) (l : List α) (s : State) : SameUnits s (l.foldl f s) := by
  induction l generalizing s with
  | nil => exact ⟨rfl, rfl⟩
  | cons x l ih => exact (hf s x).trans (ih (f s x))

theorem sameUnits_returnTask (s : State) (k : Nat) : SameUnits s (s.returnTask k) := by
  unfold State.returnTask
  split
  · exact ⟨rfl, rfl⟩
  · next t _ =>
    obtain ⟨traces, htraces⟩ := unitEvent_frame
      ({ s with grove := mset s.grove k { t with st := .ready, stamp := s.dieCycle (k / 8192) } } : State) (k / 8192)
      (10200 + k / 8192) t.part t.asid 0x8301 (k % 8192) 0 (s.dieCycle (k / 8192))
    rw [htraces]
    exact ⟨rfl, rfl⟩

theorem sameUnits_returnTasks (s : State) (gk : Nat) : SameUnits s (s.returnTasks gk) := by
  unfold State.returnTasks
  split
  · exact ⟨rfl, rfl⟩
  · exact sameUnits_foldl sameUnits_returnTask _ _

/-- A group of a team that retires: its tasks go back and what it has in flight is left behind. -/
theorem sameUnits_retire (s : State) (x : Nat × Group) : SameUnits s ((s.returnTasks x.1).orphan x.1) :=
  (sameUnits_returnTasks s x.1).trans ⟨rfl, rfl⟩

theorem sameUnits_teamCheck (s : State) (core : Nat) : SameUnits s (s.teamCheck core) := by
  unfold State.teamCheck
  split
  · exact ⟨rfl, rfl⟩
  · split_ifs
    · exact (sameUnits_foldl sameUnits_retire (s.teamGroups core) s).trans ⟨rfl, rfl⟩
    · exact ⟨rfl, rfl⟩

end Sys2Proof.Machine

/-! PROOF. The matrix unit (O34). -/

namespace Sys2Proof.Machine

/-! ### The arms of the instructions and events -/

section Arms
variable (o : Ops) (acc : Bool) (s : State)

theorem exec_mma (mb ma : BitVec 3) : exec (.mma acc mb ma o) s = execMma acc mb ma o s := rfl
theorem exec_mzero : exec (.mzero acc o) s = execMzero acc o s := rfl
theorem exec_mrd : exec (.mrd acc o) s = execMrd acc o s := rfl
theorem exec_mwr : exec (.mwr acc o) s = execMwr acc o s := rfl
theorem exec_mqry : exec (.mqry o) s = execMqry o s := rfl
theorem exec_mmaStart (q : Nat) : exec (.mmaStart q) s = execMmaStart q s := rfl
theorem exec_mmaComplete (q : Nat) : exec (.mmaComplete q) s = execMmaComplete q s := rfl

end Arms

/-! ### What an issue leaves of the package -/

theorem nextId_of_entered {s : State} {e : Ctx} (he : Entered s e) : e.s.nextId = s.nextId := by rw [he.rest.1]
theorem loads_of_entered {s : State} {e : Ctx} (he : Entered s e) : e.s.loads = s.loads := by rw [he.rest.1]

theorem tldsOn_of_entered {s : State} {e : Ctx} (he : Entered s e) (q : Nat) (rs : List (Nat × Nat)) : e.s.tldsOn q rs = s.tldsOn q rs := by
  rw [he.rest.1]; rfl
theorem mmaPoison_of_entered {s : State} {e : Ctx} (he : Entered s e) (core : Nat) (m : MmaOp) : e.s.mmaPoison core m = s.mmaPoison core m := by
  rw [he.rest.1]; rfl

/-! ### The unit's queue (R225) -/

section Queue
variable {s : State} {e : Ctx}

/-- An operation that has something to wait for joins the queue. -/
theorem mmaQueue_joins (s : State) (q : Nat) (m : MmaOp) (h : m.isMma = true ∨ ∃ y ∈ (s.quarter q).mmaq, y.acc = m.acc) :
    s.mmaQueue q m = ({ s with nextId := s.nextId + 1 } : State).setQuarter q
      { s.quarter q with mmaq := (s.quarter q).mmaq ++ [{ m with id := s.nextId, running := !m.isMma }] } := by
  unfold State.mmaQueue
  refine if_neg ?_
  rcases h with h | ⟨y, hy, hacc⟩
  · simp [h]
  · simp only [Bool.and_eq_true, Bool.not_eq_true', List.any_eq_false, not_and, not_forall, beq_iff_eq]
    exact fun _ => ⟨y, hy, by simpa using hacc⟩

theorem mmaQueue_atOnce (s : State) (q : Nat) (m : MmaOp) (hm : m.isMma = false) (h : ∀ y ∈ (s.quarter q).mmaq, y.acc ≠ m.acc) :
    s.mmaQueue q m = s.mmaDo q m := by
  unfold State.mmaQueue
  refine if_pos ?_
  simpa [hm] using h

/-- Joining the queue is all that the instruction does. -/
theorem joins_done (he : Entered s e) (m : MmaOp) (h : m.isMma = true ∨ ∃ y ∈ e.quarter.mmaq, y.acc = m.acc) :
    DoneNext { s with nextId := s.nextId + 1 } e
      { quarter := fun q => { q with mmaq := q.mmaq ++ [{ m with id := s.nextId, running := !m.isMma }] } } (e.advance (e.s.mmaQueue e.q m)) := by
  have hs : ({ s with nextId := s.nextId + 1 } : State) = { s with loads := e.s.loads, nextId := s.nextId + 1 } := by rw [loads_of_entered he]
  rw [hs, mmaQueue_joins _ _ _ h, nextId_of_entered he]
  exact doneNext_numbered he (wrote_quarter (entered_numbered he e.s.loads (s.nextId + 1))
    (fun q => { q with mmaq := q.mmaq ++ [{ m with id := s.nextId, running := !m.isMma }] }) rfl)

theorem matrixOp_alone {key : RoundKey} {m : MmaOp} (halone : (gangSlots e.quarter.gang).length < 2) (htlds : e.s.tldsOn e.q m.images = [])
    (hroom : m.zero = true ∨ e.quarter.mmaFull = false) (hpoison : e.s.mmaPoison e.core m = none) :
    e.matrixOp key m = e.advance (e.s.mmaQueue e.q m) := by
  have hfull : ¬ (!m.zero && e.quarter.mmaFull) = true := by rcases hroom with h | h <;> simp [h]
  unfold Ctx.matrixOp
  dsimp only
  rw [if_pos halone, htlds, if_neg (by simp), if_neg hfull, hpoison]

/-- The first of a gang opens the round and waits at the latch (R265). -/
theorem matrixOp_first {key : RoundKey} {m : MmaOp} (hgang : ¬ (gangSlots e.quarter.gang).length < 2) (hround : e.quarter.round = none) :
    e.matrixOp key m = e.block (e.s.setQuarter e.q { e.quarter with round := some { key := key, members := [(e.gk, e.pid)] } }) .rendezvous := by
  unfold Ctx.matrixOp
  dsimp only
  rw [if_neg hgang, hround]

end Queue

/-! ### MMA_START and MMA_COMPLETE (R225) -/

section Events
variable {s : State} {q : Nat} {m : MmaOp} {l r : List MmaOp}

theorem mmaStart_starts (hqueue : (s.quarter q).mmaq = l ++ m :: r) (hbefore : ∀ y ∈ l, y.running = true) (hm : m.running = false)
    (hids : ∀ y ∈ l ++ r, y.id ≠ m.id) :
    exec (.mmaStart q) s = .next (s.setQuarter q { s.quarter q with mmaq := l ++ { m with running := true } :: r }) := by
  have hfind : (l ++ m :: r).find? (fun m => !m.running) = some m := by
    rw [List.find?_append, List.find?_eq_none.2 fun y hy => by simp [hbefore y hy]]
    simp [hm]
  have hkeep : ∀ k : List MmaOp, (∀ y ∈ k, y.id ≠ m.id) → k.map (fun y => if y.id = m.id then { y with running := true } else y) = k :=
    fun k hk => (List.map_congr_left fun y hy => if_neg (hk y hy)).trans (List.map_id' k)
  rw [exec_mmaStart, execMmaStart]
  simp only [hqueue, hfind]
  rw [List.map_append, List.map_cons, if_pos rfl, hkeep l fun y hy => hids y (List.mem_append_left _ hy),
    hkeep r fun y hy => hids y (List.mem_append_right _ hy)]

/-- Where MMAs alone are queued, none is carried out before its turn. -/
theorem zerosDone_of_mmas {s : State} (h : ∀ y ∈ (s.quarter q).mmaq, y.isMma = true) (n : Nat) : State.zerosDone q n s = s := by
  cases n with
  | zero => rfl
  | succ n =>
    have hnone : (s.quarter q).mmaq.find? (fun m => !m.isMma && ((s.quarter q).mmaq.find? (fun y => y.acc == m.acc)).map (·.id) == some m.id) = none :=
      List.find?_eq_none.2 fun y hy => by simp [h y hy]
    rw [State.zerosDone, hnone]

/-- What a queued MMA gives its accumulator. -/
def State.mmaResult (s : State) (q : Nat) (m : MmaOp) : Accum :=
  mmaApply (bit m.fmt.toNat 21)
    ((List.range 64).map ((mread m.fmt 6 14 m.a).row (s.tobRead (q / 4) m.aOfs (operandSize m.fmt 6 (Mould.ofNat m.a.mould.toNat))).toArray))
    ((List.range 64).map ((mread m.fmt 10 17 m.b).row (s.tobRead (q / 4) m.bOfs (operandSize m.fmt 10 (Mould.ofNat m.b.mould.toNat))).toArray))
    ((s.quarter q).accum m.acc)

theorem mmaDo_mma (s : State) (hm : m.isMma = true) : s.mmaDo q m = s.setQuarter q ((s.quarter q).setAccum m.acc (s.mmaResult q m)) := by
  simp only [MmaOp.isMma, Bool.and_eq_true, Bool.not_eq_true', Option.isNone_iff_eq_none] at hm
  obtain ⟨hzero, hmove⟩ := hm
  unfold State.mmaDo
  simp only [hzero, hmove, Bool.false_eq_true, if_false]
  rfl

theorem accum_setAccum_self (x : Quarter) (a : Bool) (y : Accum) : (x.setAccum a y).accum a = y := by simp [Quarter.accum, Quarter.setAccum]
theorem accum_setAccum_not (x : Quarter) (a : Bool) (y : Accum) : (x.setAccum a y).accum (!a) = x.accum (!a) := by
  refine mgetD_mset_ne _ _ _ ?_
  cases a <;> decide

/-- Its result does not depend on what else is queued. -/
theorem mmaResult_setQueue (s : State) (q : Nat) (m : MmaOp) (r : List MmaOp) :
    (s.setQuarter q { s.quarter q with mmaq := r }).mmaResult q m = s.mmaResult q m := by
  unfold State.mmaResult
  rw [quarter_setQuarter_self]
  rfl

theorem mmaComplete_completes (hqueue : (s.quarter q).mmaq = m :: r) (hrunning : m.running = true) (hm : m.isMma = true)
    (hrest : ∀ y ∈ r, y.isMma = true ∧ y.id ≠ m.id) :
    ∃ t, exec (.mmaComplete q) s = .next t ∧ t.mem = s.mem ∧
      t.quarter q = ({ s.quarter q with mmaq := r } : Quarter).setAccum m.acc (s.mmaResult q m) := by
  have hfirst : (m :: r).find? (fun k => k.running && k.isMma && ((m :: r).find? (fun y => y.acc == k.acc)).map (·.id) == some k.id) = some m :=
    List.find?_cons_of_pos (by simp [hrunning, hm])
  have hothers : (m :: r).filter (fun y => y.id != m.id) = r := by
    rw [List.filter_cons_of_neg (by simp), List.filter_eq_self.2 fun y hy => by simpa using (hrest y hy).2]
  rw [exec_mmaComplete, execMmaComplete]
  simp only [hqueue, hfirst, hothers]
  rw [mmaDo_mma _ hm, quarter_setQuarter_self, mmaResult_setQueue, zerosDone_of_mmas]
  · obtain ⟨hmem, hquarters⟩ := sameUnits_teamCheck ((s.setQuarter q { s.quarter q with mmaq := r }).setQuarter q
      (({ s.quarter q with mmaq := r } : Quarter).setAccum m.acc (s.mmaResult q m))) (q / 4)
    exact ⟨_, rfl, hmem, (congrArg (fun x => mgetD x q Quarter.idle) hquarters).trans (quarter_setQuarter_self _ _ _)⟩
  · rw [quarter_setQuarter_self]
    exact fun y hy => (hrest y hy).1

end Events

/-! ### Reading and writing an accumulator (R226) -/

theorem zget_foldl_zset (ls : List Nat) (n : Nat) (f : Nat → W32) (m : Map W32) (k : Nat) :
    zget (ls.foldl (fun m l => zset m (n + l) (f l)) m) k = if n ≤ k ∧ k - n ∈ ls then f (k - n) else zget m k := by
  induction ls generalizing m with
  | nil => simp
  | cons l ls ih =>
    rw [List.foldl_cons, ih, zget_zset]
    by_cases hlater : n ≤ k ∧ k - n ∈ ls
    · rw [if_pos hlater, if_pos ⟨hlater.1, List.mem_cons_of_mem _ hlater.2⟩]
    · rw [if_neg hlater]
      by_cases hk : k = n + l
      · subst hk
        simp
      · rw [if_neg hk, if_neg]
        rintro ⟨hle, hmem⟩
        rcases List.mem_cons.1 hmem with h | h
        · omega
        · exact hlater ⟨hle, h⟩

/-- A plane with the elements of some lanes written. -/
def putLanes (m : Map W32) (w : Nat) (ls : List Nat) (f : Nat → W32) : Map W32 := ls.foldl (fun m l => zset m (accElem w l) (f l)) m

theorem zget_putLanes (m : Map W32) (w : Nat) (acts : Mask) (f : Nat → W32) (k : Nat) :
    zget (putLanes m w (lanes acts) f) k = if accElem w 0 ≤ k ∧ k - accElem w 0 ∈ lanes acts then f (k - accElem w 0) else zget m k :=
  zget_foldl_zset (lanes acts) (accElem w 0) f m k

theorem zget_putLanes_lane (m : Map W32) (w : Nat) (acts : Mask) (f : Nat → W32) {l : Nat} (hl : l < 64) :
    zget (putLanes m w (lanes acts) f) (accElem w l) = if acts.getLsbD l = true then f l else zget m (accElem w l) := by
  have hsub : accElem w l - accElem w 0 = l := Nat.add_sub_cancel_left ..
  have hle : accElem w 0 ≤ accElem w l := Nat.le_add_right ..
  rw [zget_putLanes, hsub]
  simp only [hle, mem_lanes, hl, true_and]

theorem zget_putLanes_other (m : Map W32) (w : Nat) (acts : Mask) (f : Nat → W32) {k : Nat} (hk : ∀ l < 64, k ≠ accElem w l) :
    zget (putLanes m w (lanes acts) f) k = zget m k := by
  rw [zget_putLanes]
  refine if_neg ?_
  rintro ⟨hle, hmem⟩
  exact hk (k - accElem w 0) ((mem_lanes _ _).1 hmem).1 (Nat.add_sub_cancel' hle).symm

/-- An accumulator with the values `v` of some lanes written as the access word asks. -/
def Accum.writeLanes (x : Accum) (w : Nat) (ls : List Nat) (v : Nat → Nat) : Accum := ls.foldl (fun x l => accWrite x w (accElem w l) (v l)) x

section WriteLanes
variable (x : Accum) {w : Nat} (ls : List Nat) (v : Nat → Nat)

theorem writeLanes_pair (hpair : bit w 13 = true) : x.writeLanes w ls v =
    { mean := putLanes x.mean w ls fun l => BitVec.ofNat 32 (v l), var := putLanes x.var w ls fun l => BitVec.ofNat 32 (v l / 2 ^ 32) } := by
  unfold Accum.writeLanes
  induction ls generalizing x with
  | nil => rfl
  | cons l ls ih => rw [List.foldl_cons, ih, accWrite, if_pos hpair]; rfl

theorem writeLanes_var (hpair : bit w 13 = false) (hvar : bit w 12 = true) : x.writeLanes w ls v =
    { x with var := putLanes x.var w ls fun l => BitVec.ofNat 32 (v l) } := by
  unfold Accum.writeLanes
  induction ls generalizing x with
  | nil => rfl
  | cons l ls ih => rw [List.foldl_cons, ih, accWrite, if_neg (by simp [hpair]), if_pos hvar]; rfl

theorem writeLanes_mean (hpair : bit w 13 = false) (hvar : bit w 12 = false) : x.writeLanes w ls v =
    { x with mean := putLanes x.mean w ls fun l => BitVec.ofNat 32 (v l) } := by
  unfold Accum.writeLanes
  induction ls generalizing x with
  | nil => rfl
  | cons l ls ih => rw [List.foldl_cons, ih, accWrite, if_neg (by simp [hpair]), if_neg (by simp [hvar])]; rfl

end WriteLanes

/-- What an MWR leaves in the accumulator `y` that held `x` (R226): `v` in the elements of its lanes, in the plane or planes of the access word. -/
def Written (acts : Mask) (w : Nat) (v : Nat → Nat) (x y : Accum) (l : Nat) : Prop :=
  (acts.getLsbD l = true → bit w 13 = true →
    zget y.mean (accElem w l) = BitVec.ofNat 32 (v l) ∧ zget y.var (accElem w l) = BitVec.ofNat 32 (v l / 2 ^ 32)) ∧
  (acts.getLsbD l = true → ¬ bit w 13 = true → bit w 12 = true → zget y.var (accElem w l) = BitVec.ofNat 32 (v l)) ∧
  (acts.getLsbD l = true → ¬ bit w 13 = true → bit w 12 = false → zget y.mean (accElem w l) = BitVec.ofNat 32 (v l)) ∧
  (acts.getLsbD l = false → zget y.mean (accElem w l) = zget x.mean (accElem w l) ∧ zget y.var (accElem w l) = zget x.var (accElem w l)) ∧
  (¬ bit w 13 = true → bit w 12 = true → y.mean = x.mean) ∧ (¬ bit w 13 = true → bit w 12 = false → y.var = x.var) ∧
  (∀ k, (∀ l < 64, k ≠ accElem w l) → zget y.mean k = zget x.mean k ∧ zget y.var k = zget x.var k)

theorem written_writeLanes (acts : Mask) (w : Nat) (v : Nat → Nat) (x : Accum) {l : Nat} (hl : l < 64) :
    Written acts w v x (x.writeLanes w (lanes acts) v) l := by
  unfold Written
  cases hpair : bit w 13 with
  | true =>
    rw [writeLanes_pair x _ v hpair]
    refine ⟨fun hon _ => ?_, nofun, nofun, fun hoff => ?_, nofun, nofun, fun k hk => ⟨zget_putLanes_other _ _ _ _ hk, zget_putLanes_other _ _ _ _ hk⟩⟩
    · simp only [zget_putLanes_lane _ _ _ _ hl, hon, if_true, and_self]
    · simp only [zget_putLanes_lane _ _ _ _ hl, hoff, Bool.false_eq_true, if_false, and_self]
  | false =>
    cases hvar : bit w 12 with
    | true =>
      rw [writeLanes_var x _ v hpair hvar]
      refine ⟨nofun, fun hon _ _ => ?_, nofun, fun hoff => ⟨rfl, ?_⟩, fun _ _ => rfl, nofun, fun k hk => ⟨rfl, zget_putLanes_other _ _ _ _ hk⟩⟩
      · simp only [zget_putLanes_lane _ _ _ _ hl, hon, if_true]
      · simp only [zget_putLanes_lane _ _ _ _ hl, hoff, Bool.false_eq_true, if_false]
    | false =>
      rw [writeLanes_mean x _ v hpair hvar]
      refine ⟨nofun, nofun, fun hon _ _ => ?_, fun hoff => ⟨?_, rfl⟩, nofun, fun _ _ => rfl, fun k hk => ⟨zget_putLanes_other _ _ _ _ hk, rfl⟩⟩
      · simp only [zget_putLanes_lane _ _ _ _ hl, hon, if_true]
      · simp only [zget_putLanes_lane _ _ _ _ hl, hoff, Bool.false_eq_true, if_false]

/-! ### MMA and MZERO (R223, R225, R265) -/

section Operations
variable {s : State} {c e : Ctx} {o : Ops} {acc : Bool} {mb ma : BitVec 3}

/-- The operation an MMA asks for, with copies of its moulds and %fmt. -/
def Ctx.mmaAsked (e : Ctx) (o : Ops) (acc : Bool) (mb ma : BitVec 3) : MmaOp :=
  { id := 0, acc := acc, zero := false, gk := e.gk, a := e.quarter.slot ma.toNat, b := e.quarter.slot mb.toNat, aOfs := e.val o.a 1 e.lead,
    bOfs := e.val o.b 1 e.lead, fmt := e.p.fmt, running := false }

/-- Its images lie in the TOB, at multiples of 1,024. -/
def Ctx.imagesFit (e : Ctx) (x : MmaOp) : Prop := ∀ r ∈ x.images, r.1 % 1024 = 0 ∧ r.1 + r.2 ≤ tobBytes e.launch.banks

theorem no_image_misfits {x : MmaOp} (h : e.imagesFit x) :
    x.images.find? (fun r => r.1 % 1024 != 0 || decide (r.1 + r.2 > tobBytes e.launch.banks)) = none :=
  List.find?_eq_none.2 fun r hr => by simpa using h r hr

/-- What an MMA is to agree in with the others of its gang. -/
def Ctx.mmaKey (e : Ctx) (o : Ops) (acc : Bool) (mb ma : BitVec 3) : RoundKey :=
  { zero := false, acc := acc, ma := ma.toNat, mb := mb.toNat, aOfs := e.val o.a 1 e.lead, bOfs := e.val o.b 1 e.lead,
    fmt := fmtRead e.p.fmt (e.quarter.slot ma.toNat) (e.quarter.slot mb.toNat) }

theorem exec_mma_acting (h : Issues (.mma acc mb ma o) s c e) (hown : c.mmaDetail ma.toNat mb.toNat = none) (hacts : e.actsOnce = true)
    (hfits : e.imagesFit (e.mmaAsked o acc mb ma)) :
    exec (.mma acc mb ma o) s = .next (e.matrixOp (e.mmaKey o acc mb ma) (e.mmaAsked o acc mb ma)) := by
  refine (exec_of_perform (exec_mma o acc s mb ma) h hown rfl).trans ?_
  rw [once'_of_acts hacts]
  have hnone := no_image_misfits hfits
  unfold Ctx.mmaAsked at hnone
  dsimp only at hnone ⊢
  rw [hnone]
  rfl

theorem mma_queued (h : Issues (.mma acc mb ma o) s c e) (hown : c.mmaDetail ma.toNat mb.toNat = none) (hacts : e.actsOnce = true)
    (hfits : e.imagesFit (e.mmaAsked o acc mb ma)) (halone : (gangSlots e.quarter.gang).length < 2)
    (htlds : s.tldsOn e.q (e.mmaAsked o acc mb ma).images = []) (hroom : e.quarter.mmaFull = false)
    (hpoison : s.mmaPoison e.core (e.mmaAsked o acc mb ma) = none) :
    CompletesIn (.mma acc mb ma o) s { s with nextId := s.nextId + 1 } e
      { quarter := fun q => { q with mmaq := q.mmaq ++ [{ e.mmaAsked o acc mb ma with id := s.nextId }] } } := by
  have he := issues_entered h
  rw [← tldsOn_of_entered he] at htlds
  rw [← mmaPoison_of_entered he] at hpoison
  refine ⟨_, exec_mma_acting h hown hacts hfits, ?_⟩
  rw [matrixOp_alone halone htlds (.inr hroom) hpoison]
  exact joins_done he (e.mmaAsked o acc mb ma) (.inl rfl)

theorem mma_held (h : Issues (.mma acc mb ma o) s c e) (hown : c.mmaDetail ma.toNat mb.toNat = none) (hacts : e.actsOnce = true)
    (hfits : e.imagesFit (e.mmaAsked o acc mb ma)) (hgang : ¬ (gangSlots e.quarter.gang).length < 2) (hround : e.quarter.round = none) :
    ∃ t r, exec (.mma acc mb ma o) s = .next t ∧ Blocked s e .rendezvous t ∧ (t.quarter e.q).round = some r ∧ r.members = [(e.gk, e.pid)] ∧
      (t.quarter e.q).mmaq = e.quarter.mmaq ∧ (t.quarter e.q).acc = e.quarter.acc := by
  have he := issues_entered h
  let r : Round := { key := e.mmaKey o acc mb ma, members := [(e.gk, e.pid)] }
  let t := e.s.setQuarter e.q { e.quarter with round := some r }
  obtain ⟨chain, latch, hquarter⟩ := quarter_block (e := e) t .rendezvous
  rw [quarter_setQuarter_self] at hquarter
  refine ⟨e.block t .rendezvous, r, ?_, blocked_of_block (elsewhere_trans he.rest (elsewhere_setQuarter _ _ _)) he.group he.path _, ?_, rfl, ?_, ?_⟩
  · rw [exec_mma_acting h hown hacts hfits, matrixOp_first hgang hround]
  all_goals rw [hquarter]

/-- The operation an MZERO asks for. -/
def Ctx.mzeroAsked (e : Ctx) (acc : Bool) : MmaOp :=
  { id := 0, acc := acc, zero := true, gk := e.gk, a := MouldSlot.empty, b := MouldSlot.empty, aOfs := 0, bOfs := 0, fmt := 0, running := false }

/-- MZERO has no image and reads no operand: outside a gang nothing keeps it from the unit. -/
theorem exec_mzero_alone (h : Issues (.mzero acc o) s c e) (hown : c.gangDetail = none) (hacts : e.actsOnce = true)
    (halone : (gangSlots e.quarter.gang).length < 2) : exec (.mzero acc o) s = .next (e.advance (e.s.mmaQueue e.q (e.mzeroAsked acc))) := by
  refine (exec_of_perform (exec_mzero o acc s) h hown rfl).trans ?_
  have htlds : e.s.tldsOn e.q (e.mzeroAsked acc).images = [] :=
    List.map_eq_nil_iff.2 (List.filter_eq_nil_iff.2 fun x _ => by simp [Ctx.mzeroAsked, MmaOp.images, MmaOp.isMma])
  rw [once'_of_acts hacts, ← matrixOp_alone halone htlds (.inl rfl) rfl]
  rfl

theorem mzero_clears (h : Issues (.mzero acc o) s c e) (hown : c.gangDetail = none) (hacts : e.actsOnce = true)
    (halone : (gangSlots e.quarter.gang).length < 2) (hfree : ∀ y ∈ e.quarter.mmaq, y.acc ≠ acc) :
    Completes (.mzero acc o) s e { quarter := fun q => q.setAccum acc { mean := [], var := [] } } := by
  have he := issues_entered h
  refine ⟨_, exec_mzero_alone h hown hacts halone, ?_⟩
  rw [mmaQueue_atOnce e.s e.q (e.mzeroAsked acc) rfl hfree]
  exact (wrote_quarter he (fun q => q.setAccum acc { mean := [], var := [] }) rfl).advance he

theorem mzero_queued (h : Issues (.mzero acc o) s c e) (hown : c.gangDetail = none) (hacts : e.actsOnce = true)
    (halone : (gangSlots e.quarter.gang).length < 2) (hbusy : ∃ y ∈ e.quarter.mmaq, y.acc = acc) :
    CompletesIn (.mzero acc o) s { s with nextId := s.nextId + 1 } e
      { quarter := fun q => { q with mmaq := q.mmaq ++ [{ e.mzeroAsked acc with id := s.nextId, running := true }] } } :=
  ⟨_, exec_mzero_alone h hown hacts halone, joins_done (issues_entered h) (e.mzeroAsked acc) (.inr hbusy)⟩

end Operations

/-! ### MRD and MWR (R226, R255) -/

section Access
variable {s : State} {c e : Ctx} {o : Ops} {acc : Bool}

/-- Nothing queued on the accumulator is in the way of the lanes that act. -/
def Ctx.accFree (e : Ctx) (acc : Bool) : Prop := e.acts = 0 ∨ ∀ m ∈ e.quarter.mmaq, m.acc ≠ acc

theorem accOp_now {x : Sel} {now : State} {later : Ctx → State} (hpair : e.pairPending x = []) (hfree : e.accFree acc) :
    e.accOp acc x now later = e.advance now := by
  unfold Ctx.accOp
  rw [hpair, if_neg (by simp), if_neg]
  rcases hfree with h | h
  · simp [h]
  · simpa using fun _ => h

theorem busy_of_not_free (h : ¬ e.accFree acc) : e.acts ≠ 0 ∧ ∃ m ∈ e.quarter.mmaq, m.acc = acc := by
  simpa [Ctx.accFree] using h

theorem accOp_later {x : Sel} {now : State} {later : Ctx → State} (hpair : e.pairPending x = []) (hbusy : ¬ e.accFree acc) :
    e.accOp acc x now later = e.advance (later e) := by
  obtain ⟨hacts, hqueue⟩ := busy_of_not_free hbusy
  unfold Ctx.accOp
  rw [hpair, if_neg (by simp), if_pos]
  simp only [bne_iff_ne, Bool.and_eq_true, List.any_eq_true, beq_iff_eq]
  exact ⟨hacts, hqueue⟩

/-- An access that waits in the queue for the operations before it. -/
def Ctx.accQueued (e : Ctx) (acc : Bool) (id : Nat) (m : AccMove) : MmaOp := { e.accMove acc m with id := id, running := true }

theorem mwr_queued (h : Issues (.mwr acc o) s c e) (hown : c.accDetail o.b = none) (hpair : e.pairPending o.b = []) (hbusy : ¬ e.accFree acc) :
    CompletesIn (.mwr acc o) s { s with nextId := s.nextId + 1 } e
      { quarter := fun q => { q with mmaq := q.mmaq ++
          [e.accQueued acc s.nextId (.write e.accWord ((lanes e.acts).map fun l => (l, e.val o.b (accWords e.accWord) l)))] } } := by
  refine completesIn_of_perform (exec_mwr o acc s) h hown rfl ?_
  dsimp only
  rw [accOp_later hpair hbusy]
  exact joins_done (issues_entered h) (e.accMove acc _) (.inr (busy_of_not_free hbusy).2)

theorem mwr_writes (h : Issues (.mwr acc o) s c e) (hown : c.accDetail o.b = none) (hpair : e.pairPending o.b = []) (hfree : e.accFree acc) :
    Completes (.mwr acc o) s e
      { quarter := fun q => if e.acts = 0 then q else
          q.setAccum acc ((e.quarter.accum acc).writeLanes e.accWord (lanes e.acts) (e.val o.b (accWords e.accWord))) } := by
  have he := issues_entered h
  refine completes_of_perform (exec_mwr o acc s) h hown rfl ?_
  dsimp only
  rw [accOp_now hpair hfree, List.foldl_map]
  by_cases hacts : e.acts = 0
  · simp only [hacts, if_true]
    exact (wrote_nothing he).advance he
  · simp only [hacts, if_false]
    exact (wrote_quarter he
      (fun q => q.setAccum acc ((e.quarter.accum acc).writeLanes e.accWord (lanes e.acts) (e.val o.b (accWords e.accWord)))) rfl).advance he

/-- The destination of MRD is a vector register. -/
theorem vecOut_of_issues {i : Instr} {x : Enc} (h : Issues i s c e) (hx : i.enc = some x) (hd : x.shape.d = .vecOut) (n : BitVec 6) : e.o.d ≠ .s n := by
  intro hn
  have hrole := roleOk_d_of_fieldReject (fieldReject_of_issues h hx)
  rw [hd, ← (ops_of_issues h hx).2, hn] at hrole
  cases hrole

theorem mrd_reads (h : Issues (.mrd acc o) s c e) (hown : c.accDetail o.d = none) (hpair : e.pairPending o.d = []) (hfree : e.accFree acc) :
    Completes (.mrd acc o) s e
      { vec := vecWrites o.d (fun l => e.acts.getLsbD l) (accWords e.accWord) fun l => accRead (e.quarter.accum acc) e.accWord (accElem e.accWord l) } := by
  have he := issues_entered h
  have hops : e.o = o := (ops_of_issues h rfl).2
  refine completes_of_perform (exec_mrd o acc s) h hown rfl ?_
  dsimp only
  rw [accOp_now hpair hfree, ← hops]
  exact (wrote_vec he (accWords e.accWord) (fun l => accRead (e.quarter.accum acc) e.accWord (accElem e.accWord l))
    (vecOut_of_issues h rfl (shape_d_of_row rfl rfl))).advance he

/-- The load whose registers a queued MRD is to write. -/
def Ctx.accLoad (e : Ctx) : LoadI :=
  { gk := e.gk, pid := e.pid, pc := e.p.pc, mask := e.acts, dst := e.o.d, words := accWords e.accWord, uni := false, nwb := false, latch := none,
    back := e.restart e.s, left := e.acts, upper := 0, got := [], poison := none }

theorem mrd_queued (h : Issues (.mrd acc o) s c e) (hown : c.accDetail o.d = none) (hpair : e.pairPending o.d = []) (hbusy : ¬ e.accFree acc) :
    CompletesIn (.mrd acc o) s { s with loads := mset s.loads s.nextId e.accLoad, nextId := s.nextId + 2 } e
      { group := fun g => { g with
          pending := g.pending ++ (selKeys o.d (accWords e.accWord)).map (fun k => { reg := k, pc := e.p.pc, iid := s.nextId }) }
        quarter := fun q => { q with mmaq := q.mmaq ++ [e.accQueued acc (s.nextId + 1) (.read s.nextId e.accWord e.acts)] } } := by
  have he := issues_entered h
  have hops : e.o = o := (ops_of_issues h rfl).2
  refine completesIn_of_perform (exec_mrd o acc s) h hown rfl ?_
  dsimp only
  rw [accOp_later hpair hbusy, Ctx.readLater]
  dsimp only [State.fresh]
  rw [mmaQueue_joins _ _ _ (by exact .inr (busy_of_not_free hbusy).2), nextId_of_entered he, loads_of_entered he, ← hops]
  have he' := entered_numbered he (mset s.loads s.nextId e.accLoad) (s.nextId + 2)
  exact doneNext_numbered he ((wrote_quarter he' (fun q => { q with mmaq := q.mmaq ++
      [e.accQueued acc (s.nextId + 1) (.read s.nextId e.accWord e.acts)] }) rfl).changeGroup (fun g => { g with
          pending := g.pending ++ (selKeys e.o.d (accWords e.accWord)).map (fun k => { reg := k, pc := e.p.pc, iid := s.nextId }) }) fun _ _ => rfl)

/-- What MRD reads, plane by plane (R226). -/
theorem accRead_eq (x : Accum) (w k : Nat) : accRead x w k =
    if bit w 13 = true then (zget x.mean k).toNat + 2 ^ 32 * (zget x.var k).toNat
    else if bit w 12 = true then (zget x.var k).toNat else (zget x.mean k).toNat := by
  unfold accRead
  split_ifs <;> rfl

theorem accLoad_below (s : State) (l : LoadI) : mget? (mset s.loads s.nextId l) s.nextId = some l ∧ Below s.nextId s.loads (mset s.loads s.nextId l) :=
  ⟨mget?_mset_self _ _ _, fun _ hk => mget?_mset_ne _ _ hk.ne⟩

end Access

/-! ### MQRY (R227) -/

section Query
variable {s : State} {c e : Ctx} {o : Ops}

/-- The detail MQRY raises by itself: a code that names no question. -/
theorem mqry_refused (h : Issues (.mqry o) s c e) (hacts : c.actsOnce = true) (hcode : 2 < c.val o.a 1 c.lead) :
    exec (.mqry o) s = .next (c.trap ⟨.ill, 10⟩) := by
  refine (exec_mqry o s).trans (perform_ill_of_issues _ _ h ?_)
  rw [hacts]
  exact if_pos (by simpa using hcode)

theorem actsOnce_of_issues {i : Instr} (h : Issues i s c e) : e.actsOnce = c.actsOnce := by
  obtain ⟨-, -, -, -, -, -, -, rfl⟩ := h
  unfold Ctx.capture
  split_ifs <;> rfl

theorem mqry_done (h : Issues (.mqry o) s c e) (hcode : c.actsOnce = true → c.val o.a 1 c.lead ≤ 2) :
    Completes (.mqry o) s e (if e.actsOnce then Writes.uniform e 1 (e.mqryWord (e.val o.a 1 e.lead)) else {}) := by
  have he := issues_entered h
  have hops : e.o = o := (ops_of_issues h rfl).2
  refine completes_of_perform (exec_mqry o s) h ?_ rfl ?_
  · exact if_neg (by simpa using hcode)
  · rw [← hops]
    exact once_done he (wrote_uniform he 1 _ (uniformDst_of_issues h rfl (shape_d_of_row (ro := .sdst 1) rfl rfl)))

theorem mqry_idle (h : Issues (.mqry o) s c e) : Idle (.mqry o) s e := by
  intro hoff
  have hdone := mqry_done h fun hacts => by rw [← actsOnce_of_issues h, hoff] at hacts; cases hacts
  rwa [hoff] at hdone

theorem mqry_answers (h : Issues (.mqry o) s c e) (hcode : c.val o.a 1 c.lead ≤ 2) (hacts : e.actsOnce = true) :
    Completes (.mqry o) s e (Writes.uniform e 1 (e.mqryWord (e.val o.a 1 e.lead))) := by
  have hdone := mqry_done h fun _ => hcode
  rwa [hacts] at hdone

end Query

/-- Settles O34: each instruction and event of the matrix unit by the lemma on it; what waits at the unit takes the next numbers, and MRD a load. -/
theorem matrixOperations : Obligations.MatrixOperations := by
  refine ⟨fun s c e o acc mb ma => ⟨fun h => ⟨fun d hd => ?_, fun hown => ?_, mma_queued h, mma_held h⟩, fun h hown => ⟨?_, ?_, ?_⟩, ?_, ?_⟩,
    fun s c e o acc => ⟨fun h hown hpair hbusy => ?_, fun h hown hpair hbusy => ?_, fun h hown hpair hfree => ?_, fun h hown hpair hfree => ?_,
      fun h => ⟨mqry_refused h, mqry_idle h, mqry_answers h⟩⟩⟩
  · exact (exec_mma o acc s mb ma).trans (perform_ill_of_issues _ _ h hd)
  · exact idle_of_once' (exec_mma o acc s mb ma) h hown
  · exact idle_of_once' (exec_mzero o acc s) h hown
  · exact mzero_clears h hown
  · exact fun hacts halone hbusy => ⟨_, rfl, rfl, rfl, mzero_queued h hown hacts halone hbusy⟩
  · exact fun q l m r hqueue hbefore hm hids =>
      ⟨_, mmaStart_starts hqueue hbefore hm hids, rfl, fun k hk => mget?_mset_ne _ _ hk, quarter_setQuarter_self _ _ _⟩
  · intro q m r hqueue hrunning hm hrest
    obtain ⟨t, ht, hmem, hquarter⟩ := mmaComplete_completes hqueue hrunning hm hrest
    refine ⟨t, ht, hmem, ?_, ?_, ?_⟩
    · rw [hquarter]; rfl
    · rw [hquarter]; exact accum_setAccum_self _ _ _
    · rw [hquarter]; exact accum_setAccum_not _ _ _
  · obtain ⟨hload, hbelow⟩ := accLoad_below s e.accLoad
    have hops : e.o = o := (ops_of_issues h rfl).2
    exact ⟨_, e.accLoad, hload, hbelow, rfl, rfl, rfl, rfl, rfl, congrArg Ops.d hops, rfl, rfl, rfl, mrd_queued h hown hpair hbusy⟩
  · exact mwr_queued h hown hpair hbusy
  · have hreads := mrd_reads h hown hpair hfree
    simp only [accRead_eq] at hreads
    exact hreads
  · exact ⟨_, mwr_writes h hown hpair hfree, fun l hl => written_writeLanes e.acts e.accWord (e.val o.b (accWords e.accWord)) (e.quarter.accum acc) hl⟩

end Sys2Proof.Machine

/-! PROOF. Shifts and bit fields, comparison and selection, moves between lanes and votes (O3, O4, O5). -/

namespace Sys2Proof.Machine

/-! ### Shifts on words (R149) -/

section Words
variable {n : ℕ}

theorem shiftLeft_toNat (a : BitVec n) (k : ℕ) : shiftLeft n a.toNat k = (a <<< k).toNat := by
  rw [BitVec.toNat_shiftLeft, Nat.shiftLeft_eq]
  unfold shiftLeft
  split_ifs with hk
  · exact (Nat.mod_eq_zero_of_dvd ((pow_dvd_pow 2 hk).mul_left _)).symm
  · rfl

theorem shiftRight_toNat (a : BitVec n) (k : ℕ) : shiftRight n a.toNat k = (a >>> k).toNat := by
  rw [BitVec.toNat_ushiftRight, Nat.shiftRight_eq_div_pow]
  unfold shiftRight
  split_ifs with hk
  · exact (Nat.div_eq_of_lt (a.isLt.trans_le (Nat.pow_le_pow_right two_pos hk))).symm
  · rfl

/-- Beyond the width an arithmetic shift gives the sign, as it does at the width. -/
theorem toInt_div_pow_min (a : BitVec n) (k : ℕ) : a.toInt / 2 ^ min k n = a.toInt / 2 ^ k := by
  rcases le_total k n with hk | hk
  · rw [min_eq_left hk]
  · have hpow : (2 : ℤ) ^ n ≤ 2 ^ k := pow_le_pow_right₀ one_le_two hk
    have hlow := BitVec.le_two_mul_toInt (x := a)
    have hhigh := BitVec.two_mul_toInt_lt (x := a)
    rw [min_eq_right hk]
    rcases le_or_gt 0 a.toInt with hpos | hneg
    · rw [Int.ediv_eq_zero_of_lt hpos (by linarith), Int.ediv_eq_zero_of_lt hpos (by linarith)]
    · rw [Int.ediv_eq_neg_one_of_neg_of_le hneg (by linarith), Int.ediv_eq_neg_one_of_neg_of_le hneg (by linarith)]

theorem shiftArith_toNat (hn : 0 < n) (a : BitVec n) (k : ℕ) : shiftArith n a.toNat k = (a.sshiftRight k).toNat := by
  rw [shiftArith, sext_toNat_of_pos hn, toInt_div_pow_min, wrap_eq_toNat, BitVec.sshiftRight, Int.shiftRight_eq_div_pow]
  norm_cast

/-! ### Bit fields on words (R149) -/

/-- The position and the length that a control word names. -/
theorem fieldPos_toNat (k : W32) : fieldPos k.toNat = (k.extractLsb' 0 8).toNat := by simp [fieldPos]

theorem fieldLen_toNat (k : W32) : fieldLen k.toNat = (k.extractLsb' 8 8).toNat := by simp [fieldLen, Nat.shiftRight_eq_div_pow]

theorem getLsbD_ones (len i : ℕ) : (BitVec.ofNat n (2 ^ len - 1)).getLsbD i = (decide (i < n) && decide (i < len)) := by
  rw [BitVec.getLsbD_ofNat, Nat.testBit_two_pow_sub_one]

/-- A field at or beyond the width, or without a length, is no exception. -/
theorem extractField_eq (a : BitVec n) (b : ℕ) : extractField n a.toNat b = a.toNat / 2 ^ fieldPos b % 2 ^ fieldLen b := by
  unfold extractField
  split_ifs with hnone
  · rcases hnone with hlen | hpos
    · rw [hlen, pow_zero, Nat.mod_one]
    · rw [Nat.div_eq_of_lt (a.isLt.trans_le (Nat.pow_le_pow_right two_pos hpos)), Nat.zero_mod]
  · rfl

theorem extractField_toNat (a : BitVec n) (k : W32) : extractField n a.toNat k.toNat =
    ((a >>> (k.extractLsb' 0 8).toNat) &&& BitVec.ofNat n (2 ^ (k.extractLsb' 8 8).toNat - 1)).toNat := by
  rw [extractField_eq, fieldPos_toNat, fieldLen_toNat]
  refine Nat.eq_of_testBit_eq fun i => ?_
  rw [Nat.testBit_mod_two_pow, Nat.testBit_div_two_pow, BitVec.testBit_toNat, BitVec.testBit_toNat, BitVec.getLsbD_and, BitVec.getLsbD_ushiftRight,
    getLsbD_ones, add_comm]
  by_cases hi : i < n
  · simp [hi, Bool.and_comm]
  · rw [BitVec.getLsbD_of_ge a _ (show n ≤ (k.extractLsb' 0 8).toNat + i by omega), Bool.and_false, Bool.false_and]

/-- The bits of a word whose field has been replaced. -/
theorem testBit_insertField (a old : BitVec n) (b i : ℕ) : (insertField n a.toNat b old.toNat).testBit i =
    if fieldPos b ≤ i ∧ i < fieldPos b + fieldLen b ∧ i < n then a.getLsbD (i - fieldPos b) else old.getLsbD i := by
  unfold insertField
  by_cases hnone : fieldLen b = 0 ∨ fieldPos b ≥ n
  · rw [if_pos hnone, if_neg (by omega), BitVec.testBit_toNat]
  · have hlow : old.toNat % 2 ^ fieldPos b < 2 ^ fieldPos b := Nat.mod_lt _ (by positivity)
    rw [if_neg hnone]
    dsimp only
    set len := min (fieldLen b) (n - fieldPos b) with hlen
    have hmid : 2 ^ fieldPos b * (a.toNat % 2 ^ len) + old.toNat % 2 ^ fieldPos b < 2 ^ (fieldPos b + len) := by
      have hfield : a.toNat % 2 ^ len + 1 ≤ 2 ^ len := Nat.mod_lt _ (by positivity)
      calc _ < 2 ^ fieldPos b * (a.toNat % 2 ^ len + 1) := by rw [Nat.mul_succ]; omega
        _ ≤ _ := by rw [pow_add]; exact Nat.mul_le_mul_left _ hfield
    rw [add_assoc, mul_comm (old.toNat / _), mul_comm (a.toNat % _), Nat.testBit_two_pow_mul_add _ hmid, Nat.testBit_two_pow_mul_add _ hlow,
      Nat.testBit_mod_two_pow, Nat.testBit_mod_two_pow, Nat.testBit_div_two_pow, BitVec.testBit_toNat, BitVec.testBit_toNat, BitVec.testBit_toNat]
    by_cases hfield : fieldPos b ≤ i ∧ i < fieldPos b + fieldLen b ∧ i < n
    · rw [if_pos hfield, if_pos (by omega), if_neg (by omega), decide_eq_true (by omega), Bool.true_and]
    · rw [if_neg hfield]
      by_cases hbelow : i < fieldPos b
      · rw [if_pos (by omega), if_pos hbelow, decide_eq_true hbelow, Bool.true_and]
      · rw [if_neg (by omega), Nat.sub_add_cancel (by omega)]

theorem insertField_toNat (a old : BitVec n) (k : W32) : insertField n a.toNat k.toNat old.toNat =
    ((old &&& ~~~(BitVec.ofNat n (2 ^ (k.extractLsb' 8 8).toNat - 1) <<< (k.extractLsb' 0 8).toNat)) |||
      ((a <<< (k.extractLsb' 0 8).toNat) &&& (BitVec.ofNat n (2 ^ (k.extractLsb' 8 8).toNat - 1) <<< (k.extractLsb' 0 8).toNat))).toNat := by
  refine Nat.eq_of_testBit_eq fun i => ?_
  rw [testBit_insertField, BitVec.testBit_toNat, fieldPos_toNat, fieldLen_toNat]
  generalize (k.extractLsb' 0 8).toNat = pos
  generalize (k.extractLsb' 8 8).toNat = len
  simp only [BitVec.getLsbD_or, BitVec.getLsbD_and, BitVec.getLsbD_not, BitVec.getLsbD_shiftLeft, getLsbD_ones]
  by_cases hi : i < n
  · by_cases hpos : i < pos
    · simp [hi, hpos, show ¬pos ≤ i by omega]
    · by_cases hlen : i < pos + len
      · simp [hi, hpos, hlen, show pos ≤ i by omega, show i - pos < n by omega, show i - pos < len by omega]
      · simp [hi, hpos, hlen, show ¬i - pos < len by omega]
  · simp [hi, BitVec.getLsbD_of_ge old i (by omega)]

end Words

/-! ### The arms of the instructions -/

section Arms
variable (o : Ops) (s : State)

theorem exec_shl (t : ITy) : exec (.shl t o) s = execShl t o s := rfl
theorem exec_shr (t : ITy) : exec (.shr t o) s = execShr t o s := rfl
theorem exec_sar (t : ITy) : exec (.sar t o) s = execSar t o s := rfl
theorem exec_bfx (t : BTy) : exec (.bfx t o) s = execBfx t o s := rfl
theorem exec_bfi (t : BTy) : exec (.bfi t o) s = execBfi t o s := rfl
theorem exec_icmp (t : ITy) (r : Cmp) : exec (.icmp t r o) s = execIcmp t r o s := rfl
theorem exec_sel (t : BTy) : exec (.sel t o) s = execSel t o s := rfl
theorem exec_plop (tt : BitVec 4) : exec (.plop tt o) s = execPlop tt o s := rfl
theorem exec_shflIdx (t : BTy) : exec (.shflIdx t o) s = execShflIdx t o s := rfl
theorem exec_shflUp (t : BTy) : exec (.shflUp t o) s = execShflUp t o s := rfl
theorem exec_shflDown (t : BTy) : exec (.shflDown t o) s = execShflDown t o s := rfl
theorem exec_shflXor (t : BTy) : exec (.shflXor t o) s = execShflXor t o s := rfl
theorem exec_bcst (t : BTy) : exec (.bcst t o) s = execBcst t o s := rfl
theorem exec_rdln (t : BTy) : exec (.rdln t o) s = execRdln t o s := rfl
theorem exec_voteAll : exec (.voteAll o) s = execVoteAll o s := rfl
theorem exec_voteAny : exec (.voteAny o) s = execVoteAny o s := rfl
theorem exec_voteBallot : exec (.voteBallot o) s = execVoteBallot o s := rfl
theorem exec_pathqLive : exec (.pathqLive o) s = execPathqLive o s := rfl
theorem exec_pathqMlo : exec (.pathqMlo o) s = execPathqMlo o s := rfl
theorem exec_pathqMhi : exec (.pathqMhi o) s = execPathqMhi o s := rfl

end Arms

/-! ### SHL, SHR, SAR, BFX and BFI (R149) -/

section Fields
variable {s : State} {c e : Ctx} {o : Ops}

/-- A shift, as `r` gives it on words. -/
theorem shift_completes (t : ITy) {i : Instr} {op m k : ℕ} {f : ℕ → ℕ → ℕ} (r : BitVec (32 * t.words) → ℕ → BitVec (32 * t.words))
    (hexec : exec i s = shift i t f s) (h : Issues i s c e) (hx : i.enc = some ⟨op, m, o⟩) (hd : (Enc.shape ⟨op, m, o⟩).d = .dst k)
    (hr : ∀ (a : BitVec (32 * t.words)) (x : ℕ), f a.toNat x = (r a x).toNat) :
    Completes i s e (Writes.result e t.words fun l =>
      (r (e.opd o.a false (itySigned t) t.words l) (e.opd o.b true (itySigned t) 1 l).toNat).toNat) := by
  have hops : e.o = o := (ops_of_issues h hx).2
  have hdone := result_completes
    (f := fun c l => f (c.src c.o.a false (itySigned t) t.words l) (c.src c.o.b true (itySigned t) 1 l)) hexec h hx hd
  simpa only [hops, ← toNat_opd e _ _ _ t.words_pos, ← toNat_opd e _ _ _ Nat.one_pos, hr] using hdone

theorem bfx_completes (t : BTy) (h : Issues (.bfx t o) s c e) :
    Completes (.bfx t o) s e (Writes.result e t.words fun l =>
      ((e.opd o.a false false t.words l >>> ((e.opd o.b true false 1 l).extractLsb' 0 8).toNat) &&&
        BitVec.ofNat (32 * t.words) (2 ^ ((e.opd o.b true false 1 l).extractLsb' 8 8).toNat - 1)).toNat) := by
  have hdone := result_completes
    (f := fun c l => extractField (32 * t.words) (c.src o.a false false t.words l) (c.src o.b true false 1 l)) (exec_bfx o s t) h rfl (shape_d_of_row rfl rfl)
  simpa only [← toNat_opd e _ _ _ t.words_pos, ← toNat_opd e _ _ _ Nat.one_pos, extractField_toNat] using hdone

theorem bfi_completes (t : BTy) (h : Issues (.bfi t o) s c e) :
    Completes (.bfi t o) s e (Writes.result e t.words fun l =>
      let k := e.opd o.b false false 1 l
      let m := BitVec.ofNat (32 * t.words) (2 ^ (k.extractLsb' 8 8).toNat - 1) <<< (k.extractLsb' 0 8).toNat
      ((e.opd o.c.asSel true false t.words l &&& ~~~m) ||| ((e.opd o.a false false t.words l <<< (k.extractLsb' 0 8).toNat) &&& m)).toNat) := by
  have hops : e.o = o := (ops_of_issues h rfl).2
  have hdone := result_completes
    (f := fun c l => insertField (32 * t.words) (c.src o.a false false t.words l) (c.src o.b false false 1 l) (c.src c.cSel true false t.words l))
    (exec_bfi o s t) h rfl (shape_d_of_row rfl rfl)
  simpa only [Ctx.cSel, hops, ← toNat_opd e _ _ _ t.words_pos, ← toNat_opd e _ _ _ Nat.one_pos, insertField_toNat] using hdone

end Fields

/-- Settles O3: each shift as the one on words, each field by its bits. -/
theorem shiftsAndFields : Obligations.ShiftsAndFields := by
  unfold Obligations.ShiftsAndFields
  refine fun s c e o => ⟨fun t h => ?_, fun t h => ?_, fun t h => ?_, fun t h => bfx_completes t h, fun t h => bfi_completes t h⟩
  · exact shift_completes t (fun a x => a <<< x) (exec_shl o s t) h rfl (shape_d_of_row rfl rfl) shiftLeft_toNat
  · exact shift_completes t (fun a x => a >>> x) (exec_shr o s t) h rfl (shape_d_of_row rfl rfl) shiftRight_toNat
  · exact shift_completes t BitVec.sshiftRight (exec_sar o s t) h rfl (shape_d_of_row rfl rfl) (shiftArith_toNat t.width_pos)

end Sys2Proof.Machine

/-! PROOF. Comparison and selection, and the words of theirs that are no instructions (O4). -/

namespace Sys2Proof

/-! ### Words of a bad modifier (R94, R150) -/

theorem bTy_ofCode_of_ge {m : ℕ} (h : 16 ≤ m) : BTy.ofCode m = none := by
  unfold BTy.ofCode
  split
  · omega
  · omega
  · rfl

theorem cmp_ofCode_of_ge {m : ℕ} (h : 6 ≤ m) : Cmp.ofCode m = none := by
  unfold Cmp.ofCode
  split
  iterate 6 omega
  rfl

/-- A word of a length its row allows whose MOD the row builds nothing from. -/
theorem decode_modifier {w ext : ℕ} {l : Len} {r : OpRow} (hlen : Len.ofCode (w % 4) = some l) (hrow : opRow (Fields.unpack w).op = some r)
    (hl : (r.lens (Fields.unpack w).m).contains l = true) (hbuild : r.build (modOf r (Fields.unpack w).m l) = none) :
    decode w ext = .error .modifier := by
  have hform : decodeForm w ext = .error .modifier := by
    unfold decodeForm
    rw [hlen]
    dsimp only
    rw [hrow]
    dsimp only
    rw [hl, hbuild, Bool.not_true, if_neg Bool.false_ne_true]
    split_ifs <;> rfl
  unfold decode
  rw [hform]

/-- Words of 64 and 96 bits. -/
theorem len_of_lt_two {n : ℕ} (h : n < 2) : ∃ l, Len.ofCode n = some l ∧ (ls6496 0).contains l = true := by
  interval_cases n
  · exact ⟨.l64, rfl, rfl⟩
  · exact ⟨.l96, rfl, rfl⟩

theorem decode_icmp_reserved {w ext : ℕ} (hlen : w % 4 < 2) (hop : (Fields.unpack w).op = 0x38) (hsub : 6 ≤ (Fields.unpack w).m / 32) :
    decode w ext = .error .modifier := by
  obtain ⟨l, hl, hallowed⟩ := len_of_lt_two hlen
  have hrow : opRow (Fields.unpack w).op = opRow 0x38 := by rw [hop]
  refine decode_modifier hl (hrow.trans rfl) hallowed ?_
  have hcmp : ∀ m : ℕ, 6 ≤ m / 32 → (ITy.ofCode (m % 16 + m / 16 % 2 * 16)).bind (fun t => (Cmp.ofCode (m / 32)).map fun r => Instr.icmp t r) = none := by
    intro m hm
    rw [cmp_ofCode_of_ge hm]
    cases ITy.ofCode (m % 16 + m / 16 % 2 * 16) <;> rfl
  refine hcmp _ ?_
  unfold modOf
  split_ifs with himc
  · simp only [Bool.and_eq_true, beq_iff_eq] at himc
    omega
  · exact hsub

theorem decode_sel_immediate {w ext : ℕ} (hlen : w % 4 < 2) (hop : (Fields.unpack w).op = 0x39) (himc : (Fields.unpack w).m / 16 % 2 = 1) :
    decode w ext = .error .modifier := by
  obtain ⟨l, hl, hallowed⟩ := len_of_lt_two hlen
  have hrow : opRow (Fields.unpack w).op = opRow 0x39 := by rw [hop]
  refine decode_modifier hl (hrow.trans rfl) hallowed ?_
  have hty : BTy.ofCode (Fields.unpack w).m = none := bTy_ofCode_of_ge (by omega)
  show (BTy.ofCode (Fields.unpack w).m).map Instr.sel = none
  rw [hty]
  rfl

end Sys2Proof

namespace Sys2Proof.Machine

/-- A fetch of a word with a bad modifier raises ILL with detail 3 (R121). -/
theorem decodeAt_modifier (m : State) (gk pid pc loc : ℕ) {n : Len} (hlen : Len.ofCode (m.word loc 8 % 4) = some n) (hfits : pc % 32 + n.bytes ≤ 32)
    (hbad : decode (m.word loc 8) (m.word (loc + 8) (n.bytes - 8)) = .error .modifier) : m.decodeAt gk pid pc loc = .trap ⟨.ill, 3⟩ := by
  have hbase : 8 ≤ n.bytes := by cases n <;> decide
  unfold State.decodeAt
  dsimp only
  rw [if_neg (by omega), hlen]
  dsimp only
  rw [if_neg (by omega), hbad]
  rfl

/-! ### ICMP, SEL and PLOP (R150) -/

theorem cmpHolds_ne (a b : ℤ) : cmpHolds .ne a b = decide (a ≠ b) := by
  rw [decide_not]
  rfl

section Selection
variable {s : State} {c e : Ctx} {o : Ops}

/-- An instruction that writes a predicate in the lanes of a mask. -/
theorem predicate_completes {i : Instr} {op n : ℕ} (m : Ctx → Mask) (f : Ctx → ℕ → Bool)
    (hexec : exec i s = perform i noDetail noPriv (fun c => c.advance (c.writePred o.d (lanes (m c)) (f c))) s) (h : Issues i s c e)
    (hx : i.enc = some ⟨op, n, o⟩) : Completes i s e (Writes.predicate e (m e) (f e)) := by
  refine completes_of_perform hexec h rfl rfl ?_
  have hops : e.o = o := (ops_of_issues h hx).2
  rw [← hops]
  exact (wrote_predicate (issues_entered h) (m e) (f e)).advance (issues_entered h)

theorem icmp_completes (t : ITy) (r : Cmp) (h : Issues (.icmp t r o) s c e) :
    Completes (.icmp t r o) s e (Writes.predicate e e.acts fun l =>
      cmpHolds r (asInt (itySigned t) (e.opd o.a false (itySigned t) t.words l)) (asInt (itySigned t) (e.opd o.b true (itySigned t) t.words l))) := by
  have hdone := predicate_completes Ctx.acts (fun c l => cmpHolds r (readInt (itySigned t) (32 * t.words) (c.src o.a false (itySigned t) t.words l))
    (readInt (itySigned t) (32 * t.words) (c.src o.b true (itySigned t) t.words l))) (exec_icmp o s t r) h rfl
  simpa only [← toNat_opd e _ _ _ t.words_pos, readInt_toNat t.width_pos] using hdone

theorem sel_completes (t : BTy) {n : BitVec 3} (hc : o.c = .sel (.p n)) (h : Issues (.sel t o) s c e) :
    Completes (.sel t o) s e (Writes.result e t.words fun l =>
      if e.g.pred n.toNat l then (e.opd o.a false false t.words l).toNat else (e.opd o.b true false t.words l).toNat) := by
  have hops : e.o = o := (ops_of_issues h rfl).2
  have hdone := result_completes
    (f := fun c l => if c.val c.cSel 1 l == 1 then c.src o.a false false t.words l else c.src o.b true false t.words l) (exec_sel o s t) h rfl (shape_d_of_row rfl rfl)
  have hpred : ∀ l, (e.val e.cSel 1 l == 1) = e.g.pred n.toNat l := by
    intro l
    rw [Ctx.cSel, hops, hc]
    show ((e.g.pred n.toNat l).toNat == 1) = _
    cases e.g.pred n.toNat l <;> rfl
  simpa only [hpred, ← toNat_opd e _ _ _ t.words_pos] using hdone

theorem plop_completes (tt : BitVec 4) {m n : BitVec 3} (ha : o.a = .p m) (hb : o.b = .p n) (h : Issues (.plop tt o) s c e) :
    Completes (.plop tt o) s e (Writes.predicate e e.acts fun l => tt.getLsbD (2 * (e.g.pred m.toNat l).toNat + (e.g.pred n.toNat l).toNat)) := by
  have hdone := predicate_completes Ctx.acts (fun c l => bit tt.toNat (2 * c.val o.a 1 l + c.val o.b 1 l)) (exec_plop o s tt) h rfl
  simp only [ha, hb, ← getLsbD_eq_bit] at hdone
  exact hdone

end Selection

/-- Settles O4: each instruction by the lemma on it; the words of a bad modifier by their row. -/
theorem predicatesAndSelection : Obligations.PredicatesAndSelection := by
  unfold Obligations.PredicatesAndSelection
  refine fun s c e o => ⟨fun t r h => ?_, fun t n hc h => sel_completes t hc h, fun tt m n ha hb h => plop_completes tt ha hb h,
    fun w ext => decode_icmp_reserved, fun w ext => decode_sel_immediate, fun m gk pid pc loc n => decodeAt_modifier m gk pid pc loc⟩
  have hdone := icmp_completes t r h
  cases r with
  | ne => simpa only [cmpHolds_ne] using hdone
  | eq => exact hdone
  | lt => exact hdone
  | le => exact hdone
  | gt => exact hdone
  | ge => exact hdone

end Sys2Proof.Machine

/-! PROOF. Moves between lanes, votes and path queries (O5). -/

namespace Sys2Proof.Machine

section Lanes
variable {s : State} {c e : Ctx} {o : Ops}

/-! ### SHFL, BCST and RDLN (R151) -/

/-- A shuffle whose lane `l` names the lane `f l` of its word of B. -/
theorem shuffle_completes (t : BTy) {i : Instr} {op m k : ℕ} {f : ℤ → ℤ → ℤ} (hexec : exec i s = shuffle i t f s) (h : Issues i s c e)
    (hx : i.enc = some ⟨op, m, o⟩) (hd : (Enc.shape ⟨op, m, o⟩).d = .dst k) :
    Completes i s e (Writes.result e t.words fun l => e.val o.a t.words (shuffleLane e l (f l (e.opd o.b true false 1 l).toNat))) := by
  have hops : e.o = o := (ops_of_issues h hx).2
  have hdone := result_completes (f := fun c l =>
    let s := f l (c.src c.o.b true false 1 l)
    let src := if decide (0 ≤ s) && decide (s < c.g.width) && c.acts.getLsbD s.toNat then s.toNat else l
    c.val c.o.a t.words src) hexec h hx hd
  simpa only [shuffleLane, hops, ← toNat_opd_one, Bool.and_eq_true, decide_eq_true_eq, and_assoc] using hdone

theorem bcst_completes (t : BTy) (h : Issues (.bcst t o) s c e) :
    Completes (.bcst t o) s e (Writes.result e t.words fun _ =>
      e.val o.a t.words (if (e.opd o.b true false 1 e.lead).toNat < e.g.width ∧ e.acts.getLsbD (e.opd o.b true false 1 e.lead).toNat then
        (e.opd o.b true false 1 e.lead).toNat else (lanes e.acts).headD 0)) := by
  have hdone := result_completes (f := fun c _ =>
    c.val o.a t.words (if c.src o.b true false 1 c.lead < c.g.width && c.acts.getLsbD (c.src o.b true false 1 c.lead) then c.src o.b true false 1 c.lead
      else (lanes c.acts).headD 0)) (exec_bcst o s t) h rfl (shape_d_of_row rfl rfl)
  simpa only [← toNat_opd_one, Bool.and_eq_true, decide_eq_true_eq] using hdone

/-- A uniform result beside a latch in every active lane (R98). -/
theorem wrote_once (he : Entered s e) (w v : ℕ) (hd : ∀ n, e.o.d = .v n → n = 255) :
    Wrote e { uni := uniWrites e.o.d (!e.o.hdr.nwb) w v, latch := latchWrites e.o.hdr.lq.toNat (fun l => e.o.hdr.le && e.p.mask.getLsbD l) fun _ => v }
      (e.writeOnce w v) := by
  have hregister : Wrote e { uni := uniWrites e.o.d (!e.o.hdr.nwb) w v } (if e.o.hdr.nwb then e.s else e.s.setUniform e.gk e.o.d w v) := by
    cases hnwb : e.o.hdr.nwb with
    | false => exact wrote_uniform he w v hd
    | true =>
      rw [Bool.not_true, uniWrites_off]
      exact wrote_nothing he
  unfold Ctx.writeOnce
  dsimp only
  cases hle : e.o.hdr.le with
  | false =>
    simp only [Bool.false_and, latchWrites_off _ _ _ fun _ => rfl]
    exact hregister
  | true => exact hregister.latch _ _ _ rfl

theorem rdln_completes (t : BTy) (h : Issues (.rdln t o) s c e) {v : ℕ}
    (hv : v = e.val o.a t.words (if (e.opd o.b true false 1 e.lead).toNat < e.g.width ∧ e.acts.getLsbD (e.opd o.b true false 1 e.lead).toNat then
      (e.opd o.b true false 1 e.lead).toNat else e.lead)) :
    Completes (.rdln t o) s e
      { uni := uniWrites o.d (e.actsOnce && !o.hdr.nwb) t.words v
        latch := latchWrites o.hdr.lq.toNat (fun l => e.actsOnce && o.hdr.le && e.p.mask.getLsbD l) fun _ => v } := by
  have hops : e.o = o := (ops_of_issues h rfl).2
  have hwrote := wrote_once (issues_entered h) t.words v (uniformDst_of_issues h rfl (shape_d_of_row (ro := .sdst t.words) rfl (by cases t <;> rfl)))
  refine completes_of_perform (exec_rdln o s t) h rfl rfl ?_
  simp only [toNat_opd_one] at hv
  simp only [hops] at hwrote
  have hdone := once_done (f := fun c => c.writeOnce t.words (c.val o.a t.words
    (if c.src o.b true false 1 c.lead < c.g.width && c.acts.getLsbD (c.src o.b true false 1 c.lead) then c.src o.b true false 1 c.lead else c.lead)))
    (issues_entered h) (by simpa only [Bool.and_eq_true, decide_eq_true_eq, ← hv] using hwrote)
  cases hacts : e.actsOnce with
  | true =>
    rw [hacts] at hdone
    exact hdone
  | false =>
    simp only [Bool.false_and, uniWrites_off, latchWrites_off _ _ _ fun _ => rfl]
    rw [hacts] at hdone
    exact hdone

/-! ### VOTE (R141) -/

/-- The votes of the predicate that A names. -/
theorem voters_eq {n : BitVec 3} (ha : e.o.a = .p n) : e.voters = maskFilter e.p.mask (e.g.pred n.toNat) := by
  unfold Ctx.voters
  congr 1
  funext l
  rw [ha]
  show ((e.g.pred n.toNat l).toNat == 1) = _
  cases e.g.pred n.toNat l <;> rfl

theorem maskFilter_eq_self (m : Mask) (p : ℕ → Bool) : decide (maskFilter m p = m) = (List.range 64).all fun l => !m.getLsbD l || p l := by
  rw [Bool.eq_iff_iff, decide_eq_true_iff, List.all_eq_true]
  constructor
  · intro h l _
    have hl := maskFilter_getLsbD m p l
    rw [h] at hl
    cases hm : m.getLsbD l with
    | false => rfl
    | true => rw [hm, Bool.true_and] at hl; exact hl.symm
  · intro h
    refine BitVec.eq_of_getLsbD_eq fun l hl => ?_
    have hp := h l (List.mem_range.2 hl)
    rw [maskFilter_getLsbD]
    cases hm : m.getLsbD l with
    | false => rfl
    | true => rw [hm, Bool.not_true, Bool.false_or] at hp; rw [hp]; rfl

theorem maskFilter_ne_zero (m : Mask) (p : ℕ → Bool) : decide (maskFilter m p ≠ 0) = (List.range 64).any fun l => m.getLsbD l && p l := by
  rw [Bool.eq_iff_iff, decide_eq_true_iff, List.any_eq_true]
  constructor
  · intro h
    by_contra hnone
    push Not at hnone
    refine h (BitVec.eq_of_getLsbD_eq fun l hl => ?_)
    rw [maskFilter_getLsbD, Bool.eq_false_iff.2 (hnone l (List.mem_range.2 hl))]
    exact (BitVec.getLsbD_zero).symm
  · rintro ⟨l, -, hl⟩ h
    rw [← maskFilter_getLsbD, h] at hl
    exact Bool.false_ne_true (BitVec.getLsbD_zero.symm.trans hl)

theorem voteAll_completes {n : BitVec 3} (ha : o.a = .p n) (h : Issues (.voteAll o) s c e) :
    Completes (.voteAll o) s e (Writes.predicate e e.p.mask fun _ => (List.range 64).all fun l => !e.p.mask.getLsbD l || e.g.pred n.toNat l) := by
  have hops : e.o = o := (ops_of_issues h rfl).2
  have hdone := predicate_completes (fun c => c.p.mask) (fun c _ => c.voters = c.p.mask) (exec_voteAll o s) h rfl
  simpa only [voters_eq (hops ▸ ha), maskFilter_eq_self] using hdone

theorem voteAny_completes {n : BitVec 3} (ha : o.a = .p n) (h : Issues (.voteAny o) s c e) :
    Completes (.voteAny o) s e (Writes.predicate e e.p.mask fun _ => (List.range 64).any fun l => e.p.mask.getLsbD l && e.g.pred n.toNat l) := by
  have hops : e.o = o := (ops_of_issues h rfl).2
  have hdone := predicate_completes (fun c => c.p.mask) (fun c _ => c.voters ≠ 0) (exec_voteAny o s) h rfl
  simpa only [voters_eq (hops ▸ ha), maskFilter_ne_zero] using hdone

/-- An instruction that writes `w` uniform registers once. -/
theorem uniform_completes {i : Instr} {op m k w : ℕ} {own : Ctx → Option ℕ} (v : Ctx → ℕ)
    (hexec : exec i s = perform i own noPriv (fun c => c.advance (c.s.setUniform c.gk o.d w (v c))) s) (h : Issues i s c e) (hx : i.enc = some ⟨op, m, o⟩)
    (hd : (Enc.shape ⟨op, m, o⟩).d = .sdst k) (ho : own c = none) : Completes i s e (Writes.uniform e w (v e)) := by
  refine completes_of_perform hexec h ho rfl ?_
  have hops : e.o = o := (ops_of_issues h hx).2
  rw [← hops]
  exact (wrote_uniform (issues_entered h) w (v e) (uniformDst_of_issues h hx hd)).advance (issues_entered h)

theorem voteBallot_completes {n : BitVec 3} (ha : o.a = .p n) (h : Issues (.voteBallot o) s c e) (hpair : ¬(c.g.width = 64 ∧ Sel.oddUni o.d = true)) :
    Completes (.voteBallot o) s e (Writes.uniform e (if e.g.width = 64 then 2 else 1) (maskFilter e.p.mask (e.g.pred n.toNat)).toNat) := by
  have hops := ops_of_issues h rfl
  have hmask := voters_eq (e := e) (n := n) (by rw [hops.2, ha])
  have hwrote := wrote_uniform (issues_entered h) (if e.g.width = 64 then 2 else 1) e.voters.toNat
    (uniformDst_of_issues h rfl (shape_d_of_row (ro := .sdst 1) rfl rfl))
  rw [hmask, hops.2] at hwrote
  refine completes_of_perform (exec_voteBallot o s) h (if_neg (by simpa using hpair)) rfl ?_
  rw [hmask]
  exact hwrote.advance (issues_entered h)

/-! ### PATHQ (R141) -/

theorem pathqLive_completes (h : Issues (.pathqLive o) s c e) : Completes (.pathqLive o) s e (Writes.uniform e 1 e.g.paths.length) :=
  uniform_completes (fun c => c.g.paths.length) (exec_pathqLive o s) h rfl (shape_d_of_row (ro := .sdst 1) rfl rfl) rfl

theorem pathqMlo_completes (h : Issues (.pathqMlo o) s c e) : Completes (.pathqMlo o) s e (Writes.uniform e 1 (e.p.mask.extractLsb' 0 32).toNat) := by
  rw [toNat_extractLsb'_low]
  exact uniform_completes (fun c => c.p.mask.toNat % 2 ^ 32) (exec_pathqMlo o s) h rfl (shape_d_of_row (ro := .sdst 1) rfl rfl) rfl

theorem pathqMhi_completes (h : Issues (.pathqMhi o) s c e) : Completes (.pathqMhi o) s e (Writes.uniform e 1 (e.p.mask.extractLsb' 32 32).toNat) := by
  rw [toNat_extractLsb'_high]
  exact uniform_completes (fun c => c.p.mask.toNat / 2 ^ 32) (exec_pathqMhi o s) h rfl (shape_d_of_row (ro := .sdst 1) rfl rfl) rfl

end Lanes

/-- Settles O5: each shuffle by the lane it names, each other instruction by the lemma on it. -/
theorem laneMovesAndVotes : Obligations.LaneMovesAndVotes := by
  unfold Obligations.LaneMovesAndVotes
  refine ⟨fun s c e o t => ⟨fun h => ?_, fun h => ?_, fun h => ?_, fun h => ?_, bcst_completes t, fun h => rdln_completes t h rfl⟩,
    fun s c e o => ⟨fun n ha => ⟨voteAll_completes ha, voteAny_completes ha, voteBallot_completes ha⟩, pathqLive_completes, pathqMlo_completes, pathqMhi_completes⟩⟩
  · exact shuffle_completes t (f := fun _ b => b) (exec_shflIdx o s t) h rfl (shape_d_of_row rfl rfl)
  · exact shuffle_completes t (f := fun l b => l - b) (exec_shflUp o s t) h rfl (shape_d_of_row rfl rfl)
  · exact shuffle_completes t (f := fun l b => l + b) (exec_shflDown o s t) h rfl (shape_d_of_row rfl rfl)
  · exact shuffle_completes t (f := fun l b => ((l.toNat ^^^ b.toNat : ℕ) : ℤ)) (exec_shflXor o s t) h rfl (shape_d_of_row rfl rfl)

end Sys2Proof.Machine

/-! PROOF. What the control instructions share: keys set twice, operands that a capture leaves alone, and the group and path after an issue (O7 to O12). -/

namespace Sys2Proof

/-! ### Maps changed more than once -/

section Maps
variable {α : Type} {m : Map α} {n k : ℕ} {a b : α}

theorem mset_cons (k : ℕ) (c : α) (m : Map α) (n : ℕ) (v : α) :
    mset ((k, c) :: m) n v = if n < k then (n, v) :: (k, c) :: m else if n = k then (n, v) :: m else (k, c) :: mset m n v := rfl

theorem mset_mset (m : Map α) (n : ℕ) (a b : α) : mset (mset m n a) n b = mset m n b := by
  induction m with
  | nil => rw [mset, mset_cons, if_neg (lt_irrefl n), if_pos rfl, mset]
  | cons x m ih =>
    obtain ⟨k, c⟩ := x
    rw [mset_cons k c m n a, mset_cons k c m n b]
    split_ifs with hlt heq
    · rw [mset_cons, if_neg (lt_irrefl n), if_pos rfl]
    · rw [mset_cons, if_neg (lt_irrefl n), if_pos rfl]
    · rw [mset_cons, if_neg hlt, if_neg heq, ih]

theorem mmodify_of_mget? (h : mget? m n = some a) (f : α → α) : mmodify m n f = mset m n (f a) := by rw [mmodify, h]

theorem mmodify_mmodify (m : Map α) (n : ℕ) (f g : α → α) : mmodify (mmodify m n f) n g = mmodify m n fun a => g (f a) := by
  cases h : mget? m n with
  | none => simp [mmodify, h]
  | some a => rw [mmodify_of_mget? h, mmodify_of_mget? h, mmodify_of_mget? (mget?_mset_self m n _), mset_mset]

/-- What is listed after a key is set was listed before, or is what is set. -/
theorem mem_of_mem_mset {x : ℕ × α} (h : x ∈ mset m n a) : x = (n, a) ∨ x ∈ m := by
  induction m with
  | nil => exact Or.inl (List.mem_singleton.1 h)
  | cons y m ih =>
    obtain ⟨k, c⟩ := y
    unfold mset at h
    split_ifs at h with hlt heq
    · exact List.mem_cons.1 h
    · exact (List.mem_cons.1 h).imp_right (List.mem_cons_of_mem _)
    · rcases List.mem_cons.1 h with rfl | h
      · exact Or.inr List.mem_cons_self
      · exact (ih h).imp_right (List.mem_cons_of_mem _)

/-- What was listed before a key is set is listed after, unless it is the key's old value. -/
theorem mem_mset_of_mem {x : ℕ × α} (hn : mget? m n = some b) (h : x ∈ m) : x = (n, b) ∨ x ∈ mset m n a := by
  induction m with
  | nil => cases h
  | cons y m ih =>
    obtain ⟨k, c⟩ := y
    rw [mget?_cons] at hn
    unfold mset
    split_ifs with hlt heq
    · exact Or.inr (List.mem_cons_of_mem _ h)
    · rw [if_pos heq.symm] at hn
      cases hn
      rw [heq]
      exact (List.mem_cons.1 h).imp_right (List.mem_cons_of_mem _)
    · rw [if_neg (Ne.symm heq)] at hn
      rcases List.mem_cons.1 h with rfl | h
      · exact Or.inr List.mem_cons_self
      · exact (ih hn h).imp_right (List.mem_cons_of_mem _)

/-- A test that the new value meets as the old one did finds the same in the map. -/
theorem any_mset (hn : mget? m n = some b) (p : ℕ × α → Bool) (hp : p (n, a) = p (n, b)) : (mset m n a).any p = m.any p := by
  rw [Bool.eq_iff_iff, List.any_eq_true, List.any_eq_true]
  constructor
  · rintro ⟨x, hx, hpx⟩
    rcases mem_of_mem_mset hx with rfl | hx
    · exact ⟨_, mem_of_mget? hn, hp ▸ hpx⟩
    · exact ⟨x, hx, hpx⟩
  · rintro ⟨x, hx, hpx⟩
    rcases mem_mset_of_mem (a := a) hn hx with rfl | hx
    · exact ⟨_, mem_of_mget? (mget?_mset_self m n a), hp.trans hpx⟩
    · exact ⟨x, hx, hpx⟩

/-- Values changed, each by its key. -/
theorem mget?_map_val {β : Type} (m : Map α) (f : ℕ → α → β) (n : ℕ) : mget? (m.map fun x => (x.1, f x.1 x.2)) n = (mget? m n).map (f n) := by
  induction m with
  | nil => rfl
  | cons x m ih =>
    obtain ⟨k, c⟩ := x
    rw [List.map_cons, mget?_cons, mget?_cons, ih]
    split_ifs with h
    · rw [h]; rfl
    · rfl

end Maps

/-! ### Roles of field A (R118) -/

theorem roleOk_a_of_fieldReject {x : Enc} (h : fieldReject x = none) : roleOk x.uni x.shape.a x.o.a = true := by
  unfold fieldReject at h
  dsimp only at h
  split_ifs at h with hsel
  simp only [Bool.or_eq_true, Bool.not_eq_true', not_or, Bool.not_eq_false, Bool.and_eq_true] at hsel
  obtain ⟨-, ⟨⟨⟨⟨⟨-, ha⟩, -⟩, -⟩, -⟩, -⟩⟩ := hsel
  exact ha

theorem shape_a_of_row {x : Enc} {r : OpRow} {ro : Role} (hr : opRow x.op = some r) (himc : r.imc = false)
    (hlast : (r.shape x.m (immLen x.o.imm)).lastImm = false) (ha : (r.shape x.m (immLen x.o.imm)).a = ro) : x.shape.a = ro := by
  rw [← ha]
  simp only [Enc.shape, hr, formShape, himc, hlast, Bool.and_false, Bool.false_eq_true, if_false]

/-- Roles of the operand A of control instructions: uniform registers, or the neutral value. -/
def Role.isUniform : Role → Bool
  | .usrc => true
  | .upair => true
  | .upairOpt => true
  | _ => false

theorem not_special_of_roleOk {ro : Role} {y : Sel} {uni : Bool} (hro : ro.isUniform = true) (h : roleOk uni ro y = true) (r : SpReg) : y ≠ .sp r := by
  rintro rfl
  cases ro <;> cases hro <;> cases h

end Sys2Proof

namespace Sys2Proof.Machine

/-! ### Groups and paths changed more than once -/

theorem modGroup_modGroup (s : State) (gk : ℕ) (f g : Group → Group) : (s.modGroup gk f).modGroup gk g = s.modGroup gk fun x => g (f x) :=
  congrArg (fun m => { s with groups := m }) (mmodify_mmodify s.groups gk f g)

theorem modPath_modPath (s : State) (gk pid : ℕ) (f g : Path → Path) : (s.modPath gk pid f).modPath gk pid g = s.modPath gk pid fun p => g (f p) := by
  unfold State.modPath
  rw [modGroup_modGroup]
  congr 1
  funext x
  exact congrArg (fun m => { x with paths := m }) (mmodify_mmodify x.paths pid f g)

/-! ### What a capture of %cycle leaves alone (R49) -/

section Captured
variable {i : Instr} {s : State} {c e : Ctx}

/-- Before and after the capture an instruction is the same but for its state and the group's capture. -/
structure Captured (c e : Ctx) : Prop where
  gk : e.gk = c.gk
  pid : e.pid = c.pid
  p : e.p = c.p
  o : e.o = c.o
  i : e.i = c.i
  g : e.g = { c.g with cycap := e.g.cycap }
  s : e.s = { c.s with groups := e.s.groups }

theorem captured_of_issues (h : Issues i s c e) : Captured c e := by
  obtain ⟨-, -, -, -, -, -, -, rfl⟩ := h
  unfold Ctx.capture
  split_ifs <;> exact ⟨rfl, rfl, rfl, rfl, rfl, rfl, rfl⟩

theorem acts_of_issues (h : Issues i s c e) : e.acts = c.acts := by
  obtain ⟨-, -, hp, ho, -, hg, -⟩ := captured_of_issues h
  unfold Ctx.acts Ctx.guard Group.pred
  rw [hp, ho, hg]

/-- A source that is no special register reads the same before and after the capture. -/
theorem val_of_issues (h : Issues i s c e) {y : Sel} (hy : ∀ r, y ≠ .sp r) (w l : ℕ) : e.val y w l = c.val y w l := by
  obtain ⟨hgk, -, -, -, -, hg, hs⟩ := captured_of_issues h
  have hquarter : e.quarter = c.quarter := by
    unfold Ctx.quarter Ctx.q State.quarter
    rw [hgk, hs]
  cases y with
  | v n => simp only [Ctx.val]; rw [hg]; rfl
  | s n => simp only [Ctx.val]; rw [hg]; rfl
  | a n => simp only [Ctx.val]; rw [hg]; rfl
  | q n => simp only [Ctx.val, hquarter]
  | p n => simp only [Ctx.val]; rw [hg]; rfl
  | sp r => exact absurd rfl (hy r)

/-- The uniform operand A of a control instruction. -/
theorem val_a_of_issues {x : Enc} (h : Issues i s c e) (hx : i.enc = some x) (ha : x.shape.a.isUniform = true) (w l : ℕ) :
    e.val x.o.a w l = c.val x.o.a w l :=
  val_of_issues h (not_special_of_roleOk ha (roleOk_a_of_fieldReject (fieldReject_of_issues h hx))) w l

end Captured

/-! ### The group after an issue -/

section Issued
variable {s t : State} {e : Ctx}

/-- The path after an issue, before its PC moves. -/
def Ctx.issuedPath (e : Ctx) : Path := e.p.issued e.now e.len e.p.pc e.o.hdr.ch

/-- The group after an issue whose path is then `p`. -/
def Ctx.issuedGroup (e : Ctx) (p : Path) : Group := ({ e.g with paths := mset e.g.paths e.pid p } : Group).issued e.now e.pid e.p.pc e.g.handler.isSome

theorem group_issued_entered (he : Entered s e) : mget? (e.issued e.s).groups e.gk = some (e.issuedGroup e.issuedPath) := by
  rw [group_issued e e.s he.group, Group.modPath, mmodify_of_mget? he.path]
  rfl

theorem mget_issuedGroup_self (e : Ctx) (p : Path) : mget? (e.issuedGroup p).paths e.pid = some p := mget?_mset_self _ _ _
theorem mget_issuedGroup_ne (e : Ctx) (p : Path) {k : ℕ} (hk : k ≠ e.pid) : mget? (e.issuedGroup p).paths k = mget? e.g.paths k := mget?_mset_ne _ _ hk

theorem modPath_issuedGroup (e : Ctx) (p : Path) (f : Path → Path) : (e.issuedGroup p).modPath e.pid f = e.issuedGroup (f p) := by
  have hpaths : mmodify (mset e.g.paths e.pid p) e.pid f = mset e.g.paths e.pid (f p) := by
    rw [mmodify_of_mget? (mget?_mset_self _ _ _), mset_mset]
  exact congrArg (fun m => { e.issuedGroup p with paths := m }) hpaths

/-- The issuing path changed after the issue. -/
theorem group_issued_modPath (he : Entered s e) (f : Path → Path) :
    mget? ((e.issued e.s).modPath e.gk e.pid f).groups e.gk = some (e.issuedGroup (f e.issuedPath)) := by
  rw [State.modPath, mget_modGroup, if_pos rfl, group_issued_entered he, Option.map_some, modPath_issuedGroup]

/-- An issue and what follows it in its group leave the rest of the machine. -/
theorem elsewhere_issued_modGroup (he : Entered s e) (f : Group → Group) : Elsewhere s e.gk ((e.issued e.s).modGroup e.gk f) :=
  elsewhere_trans he.rest (elsewhere_trans (elsewhere_issued e e.s) (elsewhere_modGroup _ _ _))

/-- A transfer to `pc` whose loop stack becomes `f` of what it was. -/
theorem Wrote.jumpLoops {w : Writes} (he : Entered s e) (h : Wrote e w t) (pc : Pc) (f : List Loop → List Loop) :
    Done s e w pc (f (w.path e.p).loops) ((e.jump t pc).modPath e.gk e.pid fun p => { p with loops := f p.loops }) := by
  unfold Ctx.jump
  rw [modPath_modPath]
  exact h.finish he (fun p => { p with pc := pc, loops := f p.loops }) fun _ => rfl

end Issued

end Sys2Proof.Machine

/-! PROOF. Branches, calls, returns and loops (O7, O8). -/

namespace Sys2Proof.Machine

/-! ### The arms of the instructions -/

section Arms
variable (o : Ops) (s : State)

theorem exec_nop : exec (.nop o) s = execNop o s := rfl
theorem exec_bra : exec (.bra o) s = execBra o s := rfl
theorem exec_brp : exec (.brp o) s = execBrp o s := rfl
theorem exec_brx : exec (.brx o) s = execBrx o s := rfl
theorem exec_call : exec (.call o) s = execCall o s := rfl
theorem exec_ret : exec (.ret o) s = execRet o s := rfl
theorem exec_loop : exec (.loop o) s = execLoop o s := rfl
theorem exec_loopx : exec (.loopx o) s = execLoopx o s := rfl

end Arms

section Transfer
variable {i : Instr} {s : State} {c e : Ctx} {o : Ops} {l : List Loop} {t : Pc}

/-! ### Transfers that unwind the loop stack (R127, R128) -/

theorem target_of_ops (h : e.o = o) : e.target = e.p.pc + (BitVec.ofNat 32 (imm32 o.imm)).signExtend 56 := by rw [← h]; rfl

theorem branch_done (he : Entered s e) (hl : unwind e.p.loops e.p.pc t = some l) : Done s e {} t l (e.branch t) := by
  unfold Ctx.branch
  rw [hl]
  exact (wrote_nothing he).jumpLoops he t fun _ => l

theorem unwindBad_of_issues (h : Issues i s c e) (t : Pc) : unwindBad c t = if unwind e.p.loops e.p.pc t = none then some 10 else none := by
  unfold unwindBad
  rw [(captured_of_issues h).p]
  simp only [Option.isNone_iff_eq_none]

/-- A transfer that has nothing to do but to branch. -/
theorem branch_goes {own : Ctx → Option ℕ} {body : Ctx → State} (hexec : exec i s = perform i own noPriv body s) (h : Issues i s c e) (ho : own c = none)
    (hbody : body e = e.branch t) (hl : unwind e.p.loops e.p.pc t = some l) : ∃ u, exec i s = .next u ∧ Done s e {} t l u :=
  ⟨_, exec_of_perform hexec h ho rfl, hbody ▸ branch_done (issues_entered h) hl⟩

/-! ### BRA and BRX (R127, R129) -/

theorem target_of_issues {x : Enc} (h : Issues i s c e) (hx : i.enc = some x) : c.target = e.p.pc + (BitVec.ofNat 32 (imm32 x.o.imm)).signExtend 56 := by
  rw [target_of_ops (ops_of_issues h hx).1, (captured_of_issues h).p]

theorem bra_goes (h : Issues (.bra o) s c e) (hl : unwind e.p.loops e.p.pc (e.p.pc + (BitVec.ofNat 32 (imm32 o.imm)).signExtend 56) = some l) :
    ∃ u, exec (.bra o) s = .next u ∧ Done s e {} (e.p.pc + (BitVec.ofNat 32 (imm32 o.imm)).signExtend 56) l u := by
  refine branch_goes (exec_bra o s) h ?_ (congrArg _ (target_of_ops (ops_of_issues h rfl).2)) hl
  rw [unwindBad_of_issues h, target_of_issues h rfl, if_neg (by rw [hl]; exact Option.some_ne_none l)]

theorem bra_refused (h : Issues (.bra o) s c e) (hl : unwind e.p.loops e.p.pc (e.p.pc + (BitVec.ofNat 32 (imm32 o.imm)).signExtend 56) = none) :
    exec (.bra o) s = .next (c.trap ⟨.ill, 10⟩) := by
  refine (exec_bra o s).trans (perform_ill_of_issues _ _ h ?_)
  rw [unwindBad_of_issues h, target_of_issues h rfl, if_pos hl]

theorem badTarget_eq_false {n : ℕ} (halign : n % 4 = 0) (hwide : n < 2 ^ 56) : badTarget n = false := by
  simpa [badTarget, halign] using hwide

theorem badTarget_eq_true {n : ℕ} (h : n % 4 ≠ 0 ∨ 2 ^ 56 ≤ n) : badTarget n = true := by
  unfold badTarget
  simpa using h

theorem brx_goes (h : Issues (.brx o) s c e) (halign : c.val o.a 2 0 % 4 = 0) (hwide : c.val o.a 2 0 < 2 ^ 56)
    (hl : unwind e.p.loops e.p.pc (BitVec.ofNat 56 (c.val o.a 2 0)) = some l) :
    ∃ u, exec (.brx o) s = .next u ∧ Done s e {} (BitVec.ofNat 56 (c.val o.a 2 0)) l u := by
  have hval := val_a_of_issues h rfl (by rw [shape_a_of_row rfl rfl rfl rfl]; rfl) 2 0
  refine branch_goes (exec_brx o s) h ?_ (by rw [hval]) hl
  rw [badTarget_eq_false halign hwide, if_neg Bool.false_ne_true, unwindBad_of_issues h, if_neg (by rw [hl]; exact Option.some_ne_none l)]

theorem brx_refused (h : Issues (.brx o) s c e)
    (hbad : c.val o.a 2 0 % 4 ≠ 0 ∨ 2 ^ 56 ≤ c.val o.a 2 0 ∨ unwind e.p.loops e.p.pc (BitVec.ofNat 56 (c.val o.a 2 0)) = none) :
    exec (.brx o) s = .next (c.trap ⟨.ill, 10⟩) := by
  refine (exec_brx o s).trans (perform_ill_of_issues _ _ h ?_)
  by_cases htarget : c.val o.a 2 0 % 4 ≠ 0 ∨ 2 ^ 56 ≤ c.val o.a 2 0
  · exact if_pos (badTarget_eq_true htarget)
  · push Not at htarget
    obtain ⟨halign, hwide⟩ := htarget
    rw [badTarget_eq_false halign hwide, if_neg Bool.false_ne_true, unwindBad_of_issues h, if_pos ((hbad.resolve_left (not_not.2 halign)).resolve_left (not_le.2 hwide))]

/-! ### NOP, CALL and RET (R129) -/

theorem nop_completes (h : Issues (.nop o) s c e) : Completes (.nop o) s e {} :=
  completes_of_perform (exec_nop o s) h rfl rfl ((wrote_nothing (issues_entered h)).advance (issues_entered h))

theorem call_jumps (h : Issues (.call o) s c e) :
    Jumps (.call o) s e (Writes.uniform e 2 (e.p.pc + 12).toNat) (e.p.pc + (BitVec.ofNat 32 (imm32 o.imm)).signExtend 56) := by
  have hops : e.o = o := (ops_of_issues h rfl).2
  have hwrote := wrote_uniform (issues_entered h) 2 (e.p.pc + 12).toNat (uniformDst_of_issues h rfl (shape_d_of_row (ro := .sdst 2) rfl rfl))
  refine jumps_of_perform (exec_call o s) h rfl rfl ?_
  rw [target_of_ops hops, ← congrArg Ops.d hops]
  exact hwrote.jump (issues_entered h) _

theorem ret_jumps (h : Issues (.ret o) s c e) (halign : c.val o.a 2 0 % 4 = 0) (hwide : c.val o.a 2 0 < 2 ^ 56) :
    Jumps (.ret o) s e {} (BitVec.ofNat 56 (c.val o.a 2 0)) := by
  have hval := val_a_of_issues h rfl (by rw [shape_a_of_row rfl rfl rfl rfl]; rfl) 2 0
  refine jumps_of_perform (exec_ret o s) h (by rw [badTarget_eq_false halign hwide, if_neg Bool.false_ne_true]) rfl ?_
  rw [hval]
  exact (wrote_nothing (issues_entered h)).jump (issues_entered h) _

theorem ret_refused (h : Issues (.ret o) s c e) (hbad : c.val o.a 2 0 % 4 ≠ 0 ∨ 2 ^ 56 ≤ c.val o.a 2 0) :
    exec (.ret o) s = .next (c.trap ⟨.ill, 10⟩) :=
  (exec_ret o s).trans (perform_ill_of_issues _ _ h (if_pos (badTarget_eq_true hbad)))

/-! ### BRP (R129, R130) -/

theorem brp_passes (h : Issues (.brp o) s c e) (hacts : e.acts = 0) : Completes (.brp o) s e {} := by
  refine completes_of_perform (exec_brp o s) h (if_pos ((acts_of_issues h).symm.trans hacts)) rfl ?_
  rw [if_pos hacts]
  exact (wrote_nothing (issues_entered h)).advance (issues_entered h)

theorem brp_refused (h : Issues (.brp o) s c e) (hacts : e.acts ≠ 0)
    (hl : unwind e.p.loops e.p.pc (e.p.pc + (BitVec.ofNat 32 (imm32 o.imm)).signExtend 56) = none) : exec (.brp o) s = .next (c.trap ⟨.ill, 10⟩) := by
  refine (exec_brp o s).trans (perform_ill_of_issues _ _ h ?_)
  rw [← acts_of_issues h, if_neg hacts, unwindBad_of_issues h, target_of_issues h rfl, if_pos hl]

/-- A BRP whose target can be taken passes its own checks. -/
theorem brp_checked (h : Issues (.brp o) s c e) (hl : unwind e.p.loops e.p.pc (e.p.pc + (BitVec.ofNat 32 (imm32 o.imm)).signExtend 56) = some l) :
    (if c.acts = 0 then none else unwindBad c c.target) = none := by
  rw [unwindBad_of_issues h, target_of_issues h rfl, hl, if_neg (Option.some_ne_none l), ite_self]

theorem brp_branches (h : Issues (.brp o) s c e) (hl : unwind e.p.loops e.p.pc (e.p.pc + (BitVec.ofNat 32 (imm32 o.imm)).signExtend 56) = some l)
    (hacts : e.acts ≠ 0) (hall : e.acts = e.p.mask) :
    ∃ u, exec (.brp o) s = .next u ∧ Done s e {} (e.p.pc + (BitVec.ofNat 32 (imm32 o.imm)).signExtend 56) l u := by
  refine branch_goes (exec_brp o s) h (brp_checked h hl) ?_ hl
  rw [if_neg hacts, if_pos hall, target_of_ops (ops_of_issues h rfl).2]

theorem brp_splits (h : Issues (.brp o) s c e) (hl : unwind e.p.loops e.p.pc (e.p.pc + (BitVec.ofNat 32 (imm32 o.imm)).signExtend 56) = some l)
    (hacts : e.acts ≠ 0) (hsome : e.acts ≠ e.p.mask) : exec (.brp o) s = .next (e.splitPath e.acts) := by
  refine (exec_of_perform (exec_brp o s) h (brp_checked h hl) rfl).trans (congrArg _ ?_)
  rw [if_neg hacts, if_neg hsome]

theorem brp_overflows (h : Issues (.brp o) s c e) (hl : unwind e.p.loops e.p.pc (e.p.pc + (BitVec.ofNat 32 (imm32 o.imm)).signExtend 56) = some l)
    (hacts : e.acts ≠ 0) (hsome : e.acts ≠ e.p.mask) (hfull : 8 + e.g.spill ≤ e.g.paths.length) :
    exec (.brp o) s = .next (e.trap ⟨.pathOverflow, e.g.paths.length⟩) := by
  rw [brp_splits h hl hacts hsome, Ctx.splitPath, target_of_ops (ops_of_issues h rfl).2, hl]
  exact congrArg _ (if_pos hfull)

theorem freeEntry_issuedGroup (he : Entered s e) {p : Path} (hp : p.entry = e.p.entry) : (e.issuedGroup p).freeEntry = e.g.freeEntry := by
  unfold Group.freeEntry
  congr 1
  funext k
  exact congrArg Bool.not (any_mset he.path (fun x => x.2.entry == some k) (by rw [hp]))

/-- A new path where a table entry is free: it takes the next number and that entry. -/
theorem addPath_free {s : State} {gk k : ℕ} {g : Group} (hg : mget? s.groups gk = some g) (hk : g.freeEntry = some k) (p : Path) :
    s.addPath gk p = s.modGroup gk fun g' => { g' with paths := mset g'.paths g.nextPid { p with entry := some k }, nextPid := g.nextPid + 1 } := by
  unfold State.addPath
  rw [hg]
  dsimp only
  rw [hk]

/-- The path that issued after a split: it keeps the lanes that do not branch. -/
def Ctx.keptPath (e : Ctx) (taken : Mask) : Path := { loopStep e.issuedPath e.p.pc e.seqPc with mask := e.p.mask &&& ~~~taken }

/-- The path that a split makes. -/
def Ctx.newPath (e : Ctx) (taken : Mask) (pc : Pc) (l : List Loop) (k : ℕ) : Path :=
  { entry := some k, mask := taken, pc := pc, fmt := e.p.fmt, loops := l, st := .ready, stamp := e.now, since := e.now, idle := 0, boosted := false, ilen := 0,
    ipc := 0, back := none, lastCh := false, noCut := none, hold := false }

theorem keptPath_next (e : Ctx) (taken : Mask) :
    (e.keptPath taken).pc = (loopStep e.p e.p.pc e.seqPc).pc ∧ (e.keptPath taken).loops = (loopStep e.p e.p.pc e.seqPc).loops :=
  loopStep_issued e.p e.now e.len e.p.pc e.o.hdr.ch e.p.pc e.seqPc

theorem keptPath_frame (e : Ctx) (taken : Mask) : (e.keptPath taken).fmt = e.p.fmt ∧ (e.keptPath taken).entry = e.p.entry := by
  unfold Ctx.keptPath
  rw [loopStep_frame]
  exact ⟨rfl, rfl⟩

theorem splitPath_splits (he : Entered s e) {taken : Mask} {k : ℕ} (hl : unwind e.p.loops e.p.pc e.target = some l) (hroom : e.g.paths.length < 8 + e.g.spill)
    (hk : e.g.freeEntry = some k) :
    Elsewhere s e.gk (e.splitPath taken) ∧ mget? (e.splitPath taken).groups e.gk =
      some { e.issuedGroup (e.keptPath taken) with
        paths := mset (e.issuedGroup (e.keptPath taken)).paths e.g.nextPid (e.newPath taken e.target l k), nextPid := e.g.nextPid + 1 } := by
  have hgroup := group_issued_modPath he fun p => { loopStep p e.p.pc e.seqPc with mask := e.p.mask &&& ~~~taken }
  have hfree := (freeEntry_issuedGroup he (keptPath_frame e taken).2).trans hk
  unfold Ctx.splitPath Ctx.advance
  rw [hl]
  dsimp only
  rw [if_neg (Nat.not_le.2 hroom), modPath_modPath, addPath_free hgroup hfree]
  refine ⟨elsewhere_trans (elsewhere_issued_modGroup he _) (elsewhere_modGroup _ _ _), ?_⟩
  rw [mget_modGroup, if_pos rfl, hgroup]
  rfl

theorem brp_adds_path (h : Issues (.brp o) s c e) (hl : unwind e.p.loops e.p.pc (e.p.pc + (BitVec.ofNat 32 (imm32 o.imm)).signExtend 56) = some l)
    (hacts : e.acts ≠ 0) (hsome : e.acts ≠ e.p.mask) (hroom : e.g.paths.length < 8 + e.g.spill) (hnew : mget? e.g.paths e.g.nextPid = none) {k : ℕ}
    (hk : e.g.freeEntry = some k) :
    ∃ t g p q, exec (.brp o) s = .next t ∧ Elsewhere s e.gk t ∧ mget? t.groups e.gk = some g ∧
      mget? g.paths e.pid = some p ∧ p.mask = e.p.mask &&& ~~~e.acts ∧ p.pc = (loopStep e.p e.p.pc e.seqPc).pc ∧
      p.loops = (loopStep e.p e.p.pc e.seqPc).loops ∧ p.fmt = e.p.fmt ∧ mget? g.paths e.g.nextPid = some q ∧ q.mask = e.acts ∧
      q.pc = e.p.pc + (BitVec.ofNat 32 (imm32 o.imm)).signExtend 56 ∧ q.loops = l ∧ q.fmt = e.p.fmt ∧ q.st = .ready ∧ q.entry = some k ∧
      (∀ j, j ≠ e.pid → j ≠ e.g.nextPid → mget? g.paths j = mget? e.g.paths j) ∧ g.v = e.g.v ∧ g.s = e.g.s ∧ g.a = e.g.a ∧ g.p = e.g.p ∧ g.live = e.g.live := by
  have he := issues_entered h
  have htarget := target_of_ops (ops_of_issues h rfl).2
  have hne : e.pid ≠ e.g.nextPid := by
    intro heq
    rw [← heq, he.path] at hnew
    cases hnew
  obtain ⟨helse, hgroup⟩ := splitPath_splits he (taken := e.acts) (htarget ▸ hl) hroom hk
  obtain ⟨hpc, hloops⟩ := keptPath_next e e.acts
  refine ⟨_, _, e.keptPath e.acts, e.newPath e.acts e.target l k, brp_splits h hl hacts hsome, helse, hgroup, ?_, rfl, hpc, hloops, (keptPath_frame e e.acts).1,
    mget?_mset_self _ _ _, rfl, htarget, rfl, rfl, rfl, rfl, fun j hj hj' => ?_, rfl, rfl, rfl, rfl, rfl⟩
  · exact (mget?_mset_ne _ _ hne).trans (mget_issuedGroup_self _ _)
  · exact (mget?_mset_ne _ _ hj').trans (mget_issuedGroup_ne _ _ hj)

end Transfer

/-- Settles O7: each instruction by the lemma on it. -/
theorem branches : Obligations.Branches := by
  unfold Obligations.Branches
  refine ⟨fun s c e o => ⟨nop_completes, fun h _ => bra_goes h, bra_refused, fun h halign hwide _ => brx_goes h halign hwide, brx_refused, call_jumps, ret_jumps,
    ret_refused⟩, fun s c e o h => ⟨brp_passes h, brp_refused h, fun l hl => ⟨brp_branches h hl, brp_overflows h hl, ?_⟩⟩⟩
  exact fun hacts hsome hroom hnew k => brp_adds_path h hl hacts hsome hroom hnew

section Loop
variable {s : State} {c e : Ctx} {o : Ops}

/-! ### LOOP and LOOPX (R131) -/

/-- What LOOP asks of its distance and of the loop stack. -/
theorem loopBad_iff (k : ℕ) : loopBad k = true ↔ ¬(12 ≤ (BitVec.ofNat 32 k).toInt ∧ k % 4 = 0) := by
  unfold loopBad
  rw [sext_eq_toInt, Bool.or_eq_true, decide_eq_true_iff, bne_iff_ne]
  omega

/-- LOOP's distance and the loop stack are as R131 asks (log 88). -/
def Ctx.loopOk (e : Ctx) (k : ℕ) : Prop := 12 ≤ (BitVec.ofNat 32 k).toInt ∧ k % 4 = 0 ∧ e.p.loops.length < 4

theorem loop_refuses_iff (h : Issues (.loop o) s c e) : (loopBad (imm32 o.imm) || decide (c.p.loops.length ≥ 4)) = true ↔ ¬e.loopOk (imm32 o.imm) := by
  unfold Ctx.loopOk
  rw [(captured_of_issues h).p, Bool.or_eq_true, loopBad_iff, decide_eq_true_iff]
  omega

theorem loop_refused (h : Issues (.loop o) s c e) (hok : ¬e.loopOk (imm32 o.imm)) : exec (.loop o) s = .next (c.trap ⟨.ill, 10⟩) :=
  (exec_loop o s).trans (perform_ill_of_issues _ _ h (if_pos ((loop_refuses_iff h).2 hok)))

theorem loop_pushes (h : Issues (.loop o) s c e) (hok : e.loopOk (imm32 o.imm)) (hn : e.val o.a 1 0 % 2 ^ 24 ≠ 0) :
    ∃ t, exec (.loop o) s = .next t ∧ Done s e {} (e.p.pc + 12) (e.p.loops ++
      [{ start := e.p.pc + 12, endofs := BitVec.ofNat 32 (imm32 o.imm - 12), count := BitVec.ofNat 24 (e.val o.a 1 0 % 2 ^ 24) }]) t := by
  refine ⟨_, exec_of_perform (exec_loop o s) h (if_neg fun hbad => (loop_refuses_iff h).1 hbad hok) rfl, ?_⟩
  dsimp only
  rw [if_neg hn]
  exact (wrote_nothing (issues_entered h)).jumpLoops (issues_entered h) (e.p.pc + 12) fun ls => ls ++
    [{ start := e.p.pc + 12, endofs := BitVec.ofNat 32 (imm32 o.imm - 12), count := BitVec.ofNat 24 (e.val o.a 1 0 % 2 ^ 24) }]

/-- A count of zero skips the body. -/
theorem loop_skips (h : Issues (.loop o) s c e) (hok : e.loopOk (imm32 o.imm)) (hn : e.val o.a 1 0 % 2 ^ 24 = 0) :
    exec (.loop o) s = .next e.skipLoop :=
  (exec_of_perform (exec_loop o s) h (if_neg fun hbad => (loop_refuses_iff h).1 hbad hok) rfl).trans (congrArg _ (if_pos hn))

/-- The address whose 8 bytes a skipped LOOP reads. -/
def Ctx.loopEnd (e : Ctx) : Pc := e.p.pc + BitVec.ofNat 56 (imm32 e.o.imm)

/-- What a skipped LOOP finds at the end of its body. -/
abbrev Ctx.loopRange (e : Ctx) (z : Pc) : Except (List (ℕ × Place)) (List Spot) × State := e.s.rangeAll e.q e.part e.asid e.sys .fetch z.toNat 8

theorem skipLoop_goesOn {ls : List Spot} {s' : State} {len : Len} (hr : e.loopRange e.loopEnd = (.ok ls, s')) (hclean : s'.poisonedLocs ls = false)
    (hlen : Len.ofCode (leNat (s'.readLocs ls) % 4) = some len) : e.skipLoop = e.jump s' (e.loopEnd + BitVec.ofNat 56 len.bytes) := by
  unfold Ctx.skipLoop
  dsimp only
  rw [show e.s.rangeAll e.q e.part e.asid e.sys .fetch (e.p.pc + BitVec.ofNat 56 (imm32 e.o.imm)).toNat 8 = _ from hr]
  dsimp only
  rw [hclean, if_neg Bool.false_ne_true, hlen]
  rfl

theorem skipLoop_len11 {ls : List Spot} {s' : State} (hr : e.loopRange e.loopEnd = (.ok ls, s')) (hclean : s'.poisonedLocs ls = false)
    (hlen : Len.ofCode (leNat (s'.readLocs ls) % 4) = none) : e.skipLoop = ({ e with s := s' } : Ctx).trap ⟨.ill, 10⟩ := by
  unfold Ctx.skipLoop
  dsimp only
  rw [show e.s.rangeAll e.q e.part e.asid e.sys .fetch (e.p.pc + BitVec.ofNat 56 (imm32 e.o.imm)).toNat 8 = _ from hr]
  dsimp only
  rw [hclean, if_neg Bool.false_ne_true, hlen]
  rfl

theorem skipLoop_poisoned {ls : List Spot} {s' : State} (hr : e.loopRange e.loopEnd = (.ok ls, s')) (hpoison : s'.poisonedLocs ls = true) :
    e.skipLoop = ({ e with s := s' } : Ctx).trap ⟨.mchk, e.loopEnd.toNat⟩ := by
  unfold Ctx.skipLoop
  dsimp only
  rw [show e.s.rangeAll e.q e.part e.asid e.sys .fetch (e.p.pc + BitVec.ofNat 56 (imm32 e.o.imm)).toNat 8 = _ from hr]
  exact if_pos hpoison

theorem skipLoop_bad {l : List (ℕ × Place)} {s' : State} (hr : e.loopRange e.loopEnd = (.error l, s')) :
    e.skipLoop = e.rangeBad s' 3 e.loopEnd.toNat l := by
  unfold Ctx.skipLoop
  dsimp only
  rw [show e.s.rangeAll e.q e.part e.asid e.sys .fetch (e.p.pc + BitVec.ofNat 56 (imm32 e.o.imm)).toNat 8 = _ from hr]
  rfl

theorem loopx_drops (h : Issues (.loopx o) s c e) (hne : e.p.loops ≠ []) :
    ∃ t, exec (.loopx o) s = .next t ∧ Done s e {} (e.p.pc + 8) e.p.loops.dropLast t := by
  rw [(captured_of_issues h).p] at hne
  refine ⟨_, exec_of_perform (exec_loopx o s) h (if_neg (by simpa using hne)) rfl, ?_⟩
  exact (wrote_nothing (issues_entered h)).jumpLoops (issues_entered h) (e.p.pc + 8) List.dropLast

theorem loopx_refused (h : Issues (.loopx o) s c e) (hnil : e.p.loops = []) : exec (.loopx o) s = .next (c.trap ⟨.ill, 10⟩) := by
  rw [(captured_of_issues h).p] at hnil
  exact (exec_loopx o s).trans (perform_ill_of_issues _ _ h (if_pos (by rw [hnil]; rfl)))

end Loop

/-- Settles O8: LOOP by its count and by what it finds at the end of a skipped body, LOOPX by the stack it meets. -/
theorem loops : Obligations.Loops := by
  unfold Obligations.Loops
  intro s c e o
  refine ⟨loop_pushes, fun h hok hn ls s' hr hclean => ?_, fun h hok hn s' => ⟨fun a f l hr => ?_, fun a r l hr hplace => ?_, fun ls hr hpoison => ?_⟩,
    loop_refused, loopx_drops, loopx_refused⟩ <;>
  rw [loop_skips h hok hn] <;>
  obtain rfl : e.o = o := (ops_of_issues h rfl).2
  · exact ⟨fun len hlen => congrArg _ (skipLoop_goesOn hr hclean hlen), fun hlen => congrArg _ (skipLoop_len11 hr hclean hlen)⟩
  · rw [skipLoop_bad hr]
    rfl
  · rw [skipLoop_bad hr]
    rcases hplace with rfl | ⟨x, y, d, rfl⟩ <;> rfl
  · rw [skipLoop_poisoned hr hpoison]
    rfl

end Sys2Proof.Machine

/-! PROOF. Ends of loop bodies and rejoining (O9). -/

namespace Sys2Proof.Machine

/-! ### The end of a loop body (R132) -/

section LoopEnd
variable (p : Path) (pc next : Pc)

theorem loopStep_nil (h : p.loops = []) : loopStep p pc next = { p with pc := next } := by
  unfold loopStep
  rw [h]
  rfl

variable {p pc next} {l : List Loop} {x : Loop}

theorem loopStep_inside (h : p.loops = l ++ [x]) (hend : x.start + x.endofs.setWidth 56 ≠ pc) :
    (loopStep p pc next).pc = next ∧ (loopStep p pc next).loops = p.loops := by
  unfold loopStep
  rw [h, List.getLast?_concat]
  dsimp only
  rw [if_neg hend]
  exact ⟨rfl, rfl⟩

theorem loopStep_again (h : p.loops = l ++ [x]) (hend : x.start + x.endofs.setWidth 56 = pc) (hcount : 1 < x.count.toNat) :
    (loopStep p pc next).pc = x.start ∧ (loopStep p pc next).loops = l ++ [{ x with count := x.count - 1 }] := by
  unfold loopStep
  rw [h, List.getLast?_concat]
  dsimp only
  rw [if_pos hend, if_pos hcount, List.dropLast_concat]
  exact ⟨rfl, rfl⟩

theorem loopStep_last (h : p.loops = l ++ [x]) (hend : x.start + x.endofs.setWidth 56 = pc) (hcount : x.count.toNat ≤ 1) :
    (loopStep p pc next).pc = next ∧ (loopStep p pc next).loops = l := by
  unfold loopStep
  rw [h, List.getLast?_concat]
  dsimp only
  rw [if_pos hend, if_neg (not_lt.2 hcount), List.dropLast_concat]
  exact ⟨rfl, rfl⟩

theorem loopStep_keeps : (loopStep p pc next).mask = p.mask ∧ (loopStep p pc next).fmt = p.fmt ∧ (loopStep p pc next).st = p.st := by
  rw [loopStep_frame]
  exact ⟨rfl, rfl, rfl⟩

end LoopEnd

/-! ### The arms of the instructions -/

section Arms
variable (k : BitVec 3) (o : Ops) (s : State)

theorem exec_jarm : exec (.jarm k o) s = execJarm k o s := rfl
theorem exec_join : exec (.join k o) s = execJoin k o s := rfl
theorem exec_jdrop : exec (.jdrop k o) s = execJdrop k o s := rfl

end Arms

/-! ### Rejoin registers (R37) -/

theorem rej_setRej (g : Group) (k : ℕ) (r : Rejoin) (i : ℕ) : (g.setRej k r).rej i = if i = k then r else g.rej i := by
  unfold Group.setRej Group.rej mgetD
  dsimp only
  split_ifs with hidle hi hi
  · rw [hi, mget?_merase_self, hidle]; rfl
  · rw [mget?_merase_ne _ hi]
  · rw [hi, mget?_mset_self]; rfl
  · rw [mget?_mset_ne _ _ hi]

theorem rej_setRej_self (g : Group) (k : ℕ) (r : Rejoin) : (g.setRej k r).rej k = r := (rej_setRej g k r k).trans (if_pos rfl)

theorem isParked_eq_true {st : PState} (h : st.isParked = true) : ∃ n, st = .parked n := by
  cases st with
  | parked n => exact ⟨n, rfl⟩
  | _ => cases h

/-- A path that is not parked keeps the others waiting (R136). -/
theorem lostCheck_of_unparked {s : State} {gk i : ℕ} {g : Group} {p : Path} (hg : mget? s.groups gk = some g) (hi : mget? g.paths i = some p)
    (hp : ∀ n, p.st ≠ .parked n) : s.lostCheck gk = s := by
  have hsome : (g.paths.all fun x => x.2.st.isParked) = false := by
    rw [List.all_eq_false]
    refine ⟨(i, p), mem_of_mget? hi, fun hparked => ?_⟩
    obtain ⟨n, hn⟩ := isParked_eq_true hparked
    exact hp n hn
  unfold State.lostCheck
  rw [hg]
  dsimp only
  rw [hsome, Bool.not_false, Bool.or_true, if_pos rfl]

section Rejoining
variable {s : State} {c e : Ctx} {o : Ops} {k : BitVec 3}

/-! ### JARM (R134) -/

theorem expected_of_ops (h : e.o = o) : e.expected = if o.a = Sel.zero then e.p.mask else BitVec.ofNat 64 (e.val o.a 2 0) := by
  unfold Ctx.expected Sel.isZero
  rw [h]
  simp only [beq_iff_eq]

theorem jarm_arms (h : Issues (.jarm k o) s c e) (hfree : ¬((e.g.rej k.toNat).armed = true ∧ (e.g.rej k.toNat).arrived ≠ 0)) (hsome : e.expected ≠ 0)
    (hlanes : e.expected &&& ~~~fullMask e.g.width = 0) :
    Jumps (.jarm k o) s e
      { group := fun g => g.setRej k.toNat { jpc := e.target, armed := true, lost := false, expected := e.expected, arrived := 0, fmt := e.p.fmt, stack := e.p.loops } }
      (e.p.pc + 12) := by
  obtain ⟨-, -, hp, ho, -, hg, -⟩ := captured_of_issues h
  have hval := val_a_of_issues h rfl (by rw [shape_a_of_row rfl rfl rfl rfl]; rfl) 2 0
  have hexpected : c.expected = e.expected := by rw [expected_of_ops (ops_of_issues h rfl).1, expected_of_ops (ops_of_issues h rfl).2, hval, hp]
  rw [hg] at hfree hlanes
  refine jumps_of_perform (exec_jarm k o s) h ?_ rfl ((wrote_group (issues_entered h) _ _ rfl
    ⟨fun _ _ _ _ => rfl, fun _ _ => rfl, fun _ _ _ _ => rfl, fun _ _ => rfl, fun _ _ _ _ => rfl⟩ rfl rfl).jump (issues_entered h) _)
  dsimp only
  rw [hexpected]
  refine if_neg ?_
  simp only [Bool.or_eq_true, Bool.and_eq_true, bne_iff_ne, decide_eq_true_iff, not_or]
  exact ⟨⟨hfree, hsome⟩, not_not.2 hlanes⟩

/-! ### JOIN (R135, R136) -/

theorem join_unarmed (h : Issues (.join k o) s c e) (hoff : (e.g.rej k.toNat).armed = false) : Jumps (.join k o) s e {} (e.p.pc + 8) := by
  have hg := (captured_of_issues h).g
  refine jumps_of_perform (exec_join k o s) h ?_ rfl ?_
  · rw [hg] at hoff
    exact if_neg (by rw [show (c.g.rej k.toNat).armed = false from hoff]; exact Bool.false_ne_true)
  · dsimp only
    rw [hoff, Bool.not_false, if_pos rfl]
    exact (wrote_nothing (issues_entered h)).jump (issues_entered h) _

theorem join_refused (h : Issues (.join k o) s c e) (hon : (e.g.rej k.toNat).armed = true)
    (hbad : e.p.pc ≠ (e.g.rej k.toNat).jpc ∨ e.p.mask &&& ~~~(e.g.rej k.toNat).expected ≠ 0) : exec (.join k o) s = .next (c.trap ⟨.ill, 10⟩) := by
  obtain ⟨-, -, hp, -, -, hg, -⟩ := captured_of_issues h
  rw [hg, hp] at hbad
  rw [hg] at hon
  refine (exec_join k o s).trans (perform_ill_of_issues _ _ h (if_pos ?_))
  simp only [Bool.and_eq_true, Bool.or_eq_true, bne_iff_ne]
  exact ⟨hon, hbad⟩

/-- The path parked at a JOIN, its register having heard of its lanes. -/
def Ctx.parkedGroup (e : Ctx) (k : ℕ) : Group :=
  (e.issuedGroup (e.issuedPath.leave e.now (.parked k))).setRej k { e.g.rej k with arrived := (e.g.rej k).arrived ||| e.p.mask }

/-- The state of the machine then. -/
def Ctx.parkedState (e : Ctx) (k : ℕ) : State :=
  (e.issued e.s).modGroup e.gk fun g =>
    (g.setRej k { e.g.rej k with arrived := (e.g.rej k).arrived ||| e.p.mask }).modPath e.pid fun p => p.leave e.now (.parked k)

theorem group_parkedState (he : Entered s e) (k : ℕ) : mget? (e.parkedState k).groups e.gk = some (e.parkedGroup k) := by
  unfold Ctx.parkedState
  rw [mget_modGroup, if_pos rfl, group_issued_entered he, Option.map_some]
  congr 1
  exact congrArg (fun g : Group => { e.parkedGroup k with paths := g.paths })
    (modPath_issuedGroup e e.issuedPath fun p => p.leave e.now (.parked k))

theorem join_parks (h : Issues (.join k o) s c e) (hon : (e.g.rej k.toNat).armed = true) (hpc : e.p.pc = (e.g.rej k.toNat).jpc)
    (hmask : e.p.mask &&& ~~~(e.g.rej k.toNat).expected = 0) :
    exec (.join k o) s = .next (if (e.g.rej k.toNat).arrived ||| e.p.mask = (e.g.rej k.toNat).expected then
      (e.parkedState k.toNat).mergeJoin e.gk e.pid k.toNat e.p.pc else (e.parkedState k.toNat).lostCheck e.gk) := by
  obtain ⟨-, -, hp, -, -, hg, -⟩ := captured_of_issues h
  have hch : e.o.hdr.ch = false := ch_of_issues h rfl (shape_noChain_of_row rfl rfl)
  refine (exec_of_perform (exec_join k o s) h ?_ rfl).trans (congrArg _ ?_)
  · rw [hg, hp] at hpc hmask
    refine if_neg ?_
    simp only [Bool.and_eq_true, Bool.or_eq_true, bne_iff_ne, not_and, not_or, not_not]
    exact fun _ => ⟨hpc, hmask⟩
  · dsimp only
    rw [if_neg (by rw [hon]; exact Bool.false_ne_true), interrupt_issued hch]
    rfl

theorem elsewhere_parkedState (he : Entered s e) (k : ℕ) : Elsewhere s e.gk (e.parkedState k) := elsewhere_issued_modGroup he _

/-- What is elsewhere as it was has also left the trace cores as they were. -/
theorem elsewhere_traces {s t : State} {gk : ℕ} (h : Elsewhere s gk t) : Elsewhere { s with traces := t.traces } gk t ∧ t.traces = s.traces := by
  have htraces : t.traces = s.traces := by rw [h.1]
  exact ⟨htraces ▸ h, htraces⟩

theorem mget_parkedGroup_self (e : Ctx) (k : ℕ) : mget? (e.parkedGroup k).paths e.pid = some (e.issuedPath.leave e.now (.parked k)) :=
  mget_issuedGroup_self _ _

theorem mget_parkedGroup_ne (e : Ctx) (k : ℕ) {i : ℕ} (hi : i ≠ e.pid) : mget? (e.parkedGroup k).paths i = mget? e.g.paths i := mget_issuedGroup_ne _ _ hi

theorem rej_parkedGroup (e : Ctx) (k : ℕ) : (e.parkedGroup k).rej k = { e.g.rej k with arrived := (e.g.rej k).arrived ||| e.p.mask } := rej_setRej_self _ _ _

theorem join_waits (h : Issues (.join k o) s c e) (hon : (e.g.rej k.toNat).armed = true) (hpc : e.p.pc = (e.g.rej k.toNat).jpc)
    (hmask : e.p.mask &&& ~~~(e.g.rej k.toNat).expected = 0) (hshort : (e.g.rej k.toNat).arrived ||| e.p.mask ≠ (e.g.rej k.toNat).expected)
    (hother : ∃ i p, i ≠ e.pid ∧ mget? e.g.paths i = some p ∧ ∀ n, p.st ≠ .parked n) :
    ∃ t g p, exec (.join k o) s = .next t ∧ Elsewhere { s with traces := t.traces } e.gk t ∧ (o.hdr.ch = false → t.traces = s.traces) ∧
      mget? t.groups e.gk = some g ∧ mget? g.paths e.pid = some p ∧ p.st = .parked k.toNat ∧ p.mask = e.p.mask ∧
      g.rej k.toNat = { e.g.rej k.toNat with arrived := (e.g.rej k.toNat).arrived ||| e.p.mask } ∧
      (∀ i, i ≠ e.pid → mget? g.paths i = mget? e.g.paths i) ∧ g.v = e.g.v ∧ g.s = e.g.s := by
  obtain ⟨i, p, hi, hp, hst⟩ := hother
  have he := issues_entered h
  have hgroup := group_parkedState he k.toNat
  have hexec := join_parks h hon hpc hmask
  rw [if_neg hshort, lostCheck_of_unparked hgroup ((mget_parkedGroup_ne e _ hi).trans hp) hst] at hexec
  obtain ⟨helse, htraces⟩ := elsewhere_traces (elsewhere_parkedState he k.toNat)
  exact ⟨_, _, _, hexec, helse, fun _ => htraces, hgroup, mget_parkedGroup_self e _, rfl, rfl, rej_parkedGroup e _, fun _ => mget_parkedGroup_ne e _, rfl, rfl⟩

/-- The path that goes on for all that were parked on register `k`: `p` is the one that arrives last. -/
def Group.merged (g : Group) (k now : ℕ) (pc : Pc) (p : Path) : Path :=
  { ({ p with hold := p.hold || (g.parkedOn k).any fun x => x.2.hold } : Path).wake now true with
    entry := ((g.parkedOn k).filterMap fun x => x.2.entry).min?, mask := (g.rej k).expected, pc := pc + 8, fmt := (g.rej k).fmt, loops := (g.rej k).stack,
    lastCh := false }

/-- The paths of the group after a merge on register `k`. -/
def Group.mergedPaths (g : Group) (k now pid : ℕ) (pc : Pc) (p : Path) : Map Path :=
  mset (g.paths.filter fun x => !(x.2.st == .parked k)) pid (g.merged k now pc p)

theorem mergeJoin_group {s : State} {gk pid : ℕ} {g : Group} {p : Path} (hg : mget? s.groups gk = some g) (hp : mget? g.paths pid = some p) (k : ℕ) (pc : Pc) :
    mget? (s.mergeJoin gk pid k pc).groups gk =
      some { g.setRej k { g.rej k with armed := false } with paths := g.mergedPaths k (s.coreCycle (coreOf gk)) pid pc p } := by
  unfold State.mergeJoin
  dsimp only
  rw [mget_modGroup, if_pos rfl, hg, Option.map_some, hp]
  rfl

theorem elsewhere_mergeJoin (s : State) (gk pid k : ℕ) (pc : Pc) : Elsewhere s gk (s.mergeJoin gk pid k pc) := elsewhere_modGroup _ _ _

/-- Apart from the merged path none is parked on the register any more. -/
theorem not_parked_of_merged {g : Group} {k now pid i : ℕ} {pc : Pc} {p q : Path} (hq : mget? (g.mergedPaths k now pid pc p) i = some q) (hi : i ≠ pid) :
    q.st ≠ .parked k := by
  have hrest := mem_of_mget? ((mget?_mset_ne _ _ hi).symm.trans hq)
  simpa using (List.mem_filter.1 hrest).2

/-- A merged path is held where it was itself to be held, or one of those parked was. -/
theorem merged_st (g : Group) (k now : ℕ) (pc : Pc) (p : Path) :
    (g.merged k now pc p).st = if p.hold || (g.parkedOn k).any fun x => x.2.hold then .held else .ready := rfl

theorem any_hold_of_parked {g : Group} {k i : ℕ} {q : Path} (hq : mget? g.paths i = some q) (hst : q.st = .parked k) (hhold : q.hold = true) :
    ((g.parkedOn k).any fun x => x.2.hold) = true :=
  List.any_eq_true.2 ⟨(i, q), List.mem_filter.2 ⟨mem_of_mget? hq, by rw [hst]; exact beq_self_eq_true _⟩, hhold⟩

theorem any_hold_eq_false {g : Group} {k : ℕ} (h : ∀ x ∈ g.paths, x.2.hold = false) : ((g.parkedOn k).any fun x => x.2.hold) = false :=
  List.any_eq_false.2 fun x hx => by rw [h x (List.mem_of_mem_filter hx)]; exact Bool.false_ne_true

theorem hold_parkedGroup (e : Ctx) (k : ℕ) (hall : ∀ x ∈ e.g.paths, x.2.hold = false) (hown : e.p.hold = false) : ∀ x ∈ (e.parkedGroup k).paths, x.2.hold = false := by
  intro x hx
  rcases mem_of_mem_mset hx with rfl | hx
  · exact hown
  · exact hall x hx

theorem join_merges (h : Issues (.join k o) s c e) (hon : (e.g.rej k.toNat).armed = true) (hpc : e.p.pc = (e.g.rej k.toNat).jpc)
    (hmask : e.p.mask &&& ~~~(e.g.rej k.toNat).expected = 0) (hlast : (e.g.rej k.toNat).arrived ||| e.p.mask = (e.g.rej k.toNat).expected) :
    ∃ t g p, exec (.join k o) s = .next t ∧ Elsewhere { s with traces := t.traces } e.gk t ∧ (o.hdr.ch = false → t.traces = s.traces) ∧
      mget? t.groups e.gk = some g ∧ mget? g.paths e.pid = some p ∧ p.mask = (e.g.rej k.toNat).expected ∧ p.pc = e.p.pc + 8 ∧
      p.fmt = (e.g.rej k.toNat).fmt ∧ p.loops = (e.g.rej k.toNat).stack ∧
      ((∀ x ∈ e.g.paths, x.2.hold = false) → e.p.hold = false → p.st = .ready) ∧ (e.p.hold = true → p.st = .held) ∧
      (∀ i q, i ≠ e.pid → mget? e.g.paths i = some q → q.st = .parked k.toNat → q.hold = true → p.st = .held) ∧
      g.rej k.toNat = { e.g.rej k.toNat with arrived := (e.g.rej k.toNat).arrived ||| e.p.mask, armed := false } ∧
      (∀ i q, mget? g.paths i = some q → i ≠ e.pid → q.st ≠ .parked k.toNat) ∧ g.v = e.g.v ∧ g.s = e.g.s := by
  have he := issues_entered h
  have hexec := join_parks h hon hpc hmask
  rw [if_pos hlast] at hexec
  have hrej := rej_parkedGroup e k.toNat
  have hgroup := mergeJoin_group (group_parkedState he k.toNat) (mget_parkedGroup_self e k.toNat) k.toNat e.p.pc
  obtain ⟨helse, htraces⟩ := elsewhere_traces (elsewhere_trans (elsewhere_parkedState he k.toNat) (elsewhere_mergeJoin _ e.gk e.pid k.toNat e.p.pc))
  refine ⟨_, _, _, hexec, helse, fun _ => htraces, hgroup, mget?_mset_self _ _ _, (congrArg Rejoin.expected hrej :), rfl, (congrArg Rejoin.fmt hrej :),
    (congrArg Rejoin.stack hrej :), fun hall hown => ?_, fun hown => ?_, fun i q hi hq hst hhold => ?_, ?_, fun i q hq hi => not_parked_of_merged hq hi, rfl, rfl⟩
  · rw [merged_st, any_hold_eq_false (hold_parkedGroup e k.toNat hall hown)]
    exact if_neg (by rw [Bool.or_false]; exact Bool.eq_false_iff.1 hown)
  · rw [merged_st]
    exact if_pos (Bool.or_eq_true_iff.2 (Or.inl hown))
  · rw [merged_st, any_hold_of_parked ((mget_parkedGroup_ne e _ hi).trans hq) hst hhold, Bool.or_true, if_pos rfl]
  · exact (rej_setRej_self _ _ _).trans (congrArg (fun r : Rejoin => { r with armed := false }) hrej)

/-! ### JDROP (R137) -/

theorem jdrop_unarmed (h : Issues (.jdrop k o) s c e) (hoff : (e.g.rej k.toNat).armed = false) : Jumps (.jdrop k o) s e {} (e.p.pc + 8) := by
  refine jumps_of_perform (exec_jdrop k o s) h rfl rfl ?_
  dsimp only
  rw [hoff, if_neg Bool.false_ne_true]
  exact (wrote_nothing (issues_entered h)).jump (issues_entered h) _

/-- A path where register `k` drops its paths: one parked there goes on after the JOIN. -/
def Rejoin.dropped (j : Rejoin) (k now : ℕ) (p : Path) : Path := if p.st == .parked k then { p.wake now true with pc := j.jpc + 8, lastCh := false } else p

theorem releaseJoin_group {s : State} {gk : ℕ} {g : Group} (hg : mget? s.groups gk = some g) (k : ℕ) (lost : Bool) :
    mget? (s.releaseJoin gk k lost).groups gk = some { g.setRej k { g.rej k with armed := false, lost := (g.rej k).lost || lost } with
      paths := g.paths.map fun x => (x.1, (g.rej k).dropped k (s.coreCycle (coreOf gk)) x.2) } := by
  unfold State.releaseJoin
  dsimp only
  rw [mget_modGroup, if_pos rfl, hg]
  rfl

theorem dropped_unparked (j : Rejoin) {k now : ℕ} {p : Path} (h : p.st ≠ .parked k) : j.dropped k now p = p := if_neg (by simpa using h)

theorem dropped_parked (j : Rejoin) {k now : ℕ} {p : Path} (h : p.st = .parked k) :
    j.dropped k now p = { p.wake now true with pc := j.jpc + 8, lastCh := false } := if_pos (by simpa using h)

theorem jdrop_drops (h : Issues (.jdrop k o) s c e) (hon : (e.g.rej k.toNat).armed = true) :
    ∃ t g p, exec (.jdrop k o) s = .next t ∧ Elsewhere s e.gk t ∧ mget? t.groups e.gk = some g ∧ (g.rej k.toNat).armed = false ∧
      mget? g.paths e.pid = some p ∧ (e.p.st = .ready → p.pc = e.p.pc + 8) ∧
      (∀ i q, i ≠ e.pid → mget? e.g.paths i = some q → q.st = .parked k.toNat → q.hold = false →
        ∃ q', mget? g.paths i = some q' ∧ q'.st = .ready ∧ q'.pc = (e.g.rej k.toNat).jpc + 8 ∧ q'.mask = q.mask) ∧ g.v = e.g.v ∧ g.s = e.g.s := by
  have he := issues_entered h
  have hjump := group_issued_modPath he fun p => { p with pc := e.p.pc + 8 }
  have hgroup := releaseJoin_group hjump k.toNat false
  refine ⟨_, _, _, (exec_of_perform (exec_jdrop k o s) h rfl rfl).trans (congrArg _ (if_pos hon)),
    elsewhere_trans (elsewhere_issued_modGroup he _) (elsewhere_modGroup _ _ _), hgroup, congrArg Rejoin.armed (rej_setRej_self _ _ _),
    (mget?_map_val _ (fun _ => Rejoin.dropped _ _ _) _).trans (congrArg _ (mget_issuedGroup_self _ _)), fun hready => ?_, fun i q hi hq hst hhold => ?_, rfl, rfl⟩
  · rw [dropped_unparked]
    show e.p.st ≠ _
    rw [hready]
    exact PState.noConfusion
  · refine ⟨_, (mget?_map_val _ (fun _ => Rejoin.dropped _ _ _) _).trans (congrArg _ ((mget_issuedGroup_ne e _ hi).trans hq)), ?_⟩
    rw [dropped_parked _ hst]
    exact ⟨if_neg (by rw [hhold]; exact Bool.false_ne_true), rfl, rfl⟩

end Rejoining

/-- Settles O9: the end of a body by the top entry, each instruction by the lemma on it. -/
theorem loopEndsAndRejoining : Obligations.LoopEndsAndRejoining := by
  unfold Obligations.LoopEndsAndRejoining
  refine ⟨fun p pc next => ⟨loopStep_nil p pc next, fun l x hl => ⟨loopStep_inside hl, loopStep_again hl, loopStep_last hl⟩, loopStep_keeps⟩, fun s c e o k => ?_⟩
  refine ⟨fun h hfree hsome hlanes => ?_, fun g r i => rej_setRej g k.toNat r i, join_unarmed, join_refused, join_waits, join_merges, jdrop_unarmed, jdrop_drops⟩
  have hops : e.o = o := (ops_of_issues h rfl).2
  have harms := jarm_arms h hfree
  rw [expected_of_ops hops, target_of_ops hops] at harms
  exact harms hsome hlanes

end Sys2Proof.Machine

/-! PROOF. Yielding, exits and software traps (O10). -/

namespace Sys2Proof.Machine

section Arms
variable (n : Byte) (o : Ops) (s : State)

theorem exec_yield : exec (.yield o) s = execYield o s := rfl
theorem exec_tileb : exec (.tileb o) s = execTileb o s := rfl
theorem exec_exit : exec (.exit o) s = execExit o s := rfl
theorem exec_trap : exec (.trap n o) s = execTrap n o s := rfl
theorem exec_bkpt : exec (.bkpt n o) s = execBkpt n o s := rfl

end Arms

section Exits
variable {s t : State} {c e : Ctx} {o : Ops} {n : Byte}

/-! ### YIELD and TILEB (R138, R354) -/

theorem core_of_elsewhere {gk : ℕ} (h : Elsewhere s gk t) (k : ℕ) : t.core k = s.core k := by rw [h.1]; rfl

/-- No pre-emption waits for the group's team. -/
def State.unasked (s : State) (gk : ℕ) : Prop := ∀ t, (s.core (coreOf gk)).team = some t → t.preempt = none

theorem honour_of_unasked {gk : ℕ} (h : s.unasked gk) : s.honour gk = s := by
  unfold State.honour
  split
  · next t ht => rw [h t ht, Option.isSome_none, if_neg Bool.false_ne_true]
  · rfl

theorem unasked_of_elsewhere {gk : ℕ} (hrest : Elsewhere s gk t) (h : s.unasked gk) : t.unasked gk := fun x hx => h x (core_of_elsewhere hrest _ ▸ hx)

/-- An instruction that writes nothing but its path and the watchdog's count. -/
theorem done_of_issuedGroup {p : Path} {f : Path → Path} {count : ℕ} (hrest : Elsewhere s e.gk t)
    (hgroup : mget? t.groups e.gk = some { e.issuedGroup p with watchdog := count }) (hquarter : t.quarter e.q = (e.issued e.s).quarter e.q)
    (hp : p = (f e.p).withIssue p) : Done s e { path := f } p.pc p.loops t := by
  have hframe : t.quarter e.q = { e.quarter with chain := (t.quarter e.q).chain } := by
    rw [hquarter, quarter_issued]
    exact quarter_issued_frame _ _ _ _ _
  refine ⟨hrest, _, p, hgroup, mget_issuedGroup_self _ _, rfl, ⟨fun _ _ _ _ => rfl, fun _ _ => rfl, fun _ _ _ _ => rfl, fun _ _ => rfl, fun _ _ _ _ => ?_⟩,
    fun _ => mget_issuedGroup_ne _ _, hp, rfl, rfl, ?_⟩
  · rw [hframe]; rfl
  · rw [hframe]

theorem yield_stamps (h : Issues (.yield o) s c e) (hidle : s.unasked e.gk) :
    ∃ t g, exec (.yield o) s = .next t ∧ Done s e { path := fun p => { p with stamp := e.now } } (e.p.pc + 8) e.p.loops t ∧
      mget? t.groups e.gk = some g ∧ g.watchdog = 0 := by
  have he := issues_entered h
  have hexec := exec_of_perform (exec_yield o s) h rfl rfl
  dsimp only at hexec
  have hstate : (e.jump e.s (e.p.pc + 8)).modPath e.gk e.pid (fun p => { p with stamp := e.now }) =
      (e.issued e.s).modPath e.gk e.pid fun p => { p with pc := e.p.pc + 8, stamp := e.now } := modPath_modPath _ _ _ _ _
  have hpath := group_issued_modPath he fun p => { p with pc := e.p.pc + 8, stamp := e.now }
  have hrest := elsewhere_trans (elsewhere_issued_modGroup he fun g => g.modPath e.pid fun p => { p with pc := e.p.pc + 8, stamp := e.now })
    (elsewhere_modGroup _ _ fun g => { g with watchdog := 0 })
  have hgroup := (mget_modGroup _ e.gk e.gk fun g => { g with watchdog := 0 }).trans ((if_pos rfl).trans (congrArg (Option.map _) hpath))
  rw [hstate] at hexec
  exact ⟨_, _, hexec.trans (congrArg _ (honour_of_unasked (unasked_of_elsewhere hrest hidle))), done_of_issuedGroup hrest hgroup rfl rfl, hgroup, rfl⟩

theorem tileb_passes (h : Issues (.tileb o) s c e) (hidle : s.unasked e.gk) : Jumps (.tileb o) s e {} (e.p.pc + 8) := by
  have he := issues_entered h
  have hkeep : (e.jump e.s (e.p.pc + 8)).honour e.gk = e.jump e.s (e.p.pc + 8) :=
    honour_of_unasked (unasked_of_elsewhere (elsewhere_issued_modGroup he _) hidle)
  refine jumps_of_perform (exec_tileb o s) h rfl rfl ?_
  rw [hkeep]
  exact (wrote_nothing he).jump he _

/-! ### EXIT (R139) -/

/-- The group after the exit of its issuing path. -/
def Ctx.exitedGroup (e : Ctx) : Group :=
  { e.issuedGroup e.issuedPath with paths := merase (e.issuedGroup e.issuedPath).paths e.pid, live := e.g.live &&& ~~~e.p.mask }

theorem mget_exitedGroup_ne (e : Ctx) {i : ℕ} (hi : i ≠ e.pid) : mget? e.exitedGroup.paths i = mget? e.g.paths i :=
  (mget?_merase_ne _ hi).trans (mget_issuedGroup_ne _ _ hi)

theorem exit_leaves_others (h : Issues (.exit o) s c e) (hother : ∃ i p, i ≠ e.pid ∧ mget? e.g.paths i = some p ∧ ∀ n, p.st ≠ .parked n) :
    ∃ t g, exec (.exit o) s = .next t ∧ Elsewhere s e.gk t ∧ mget? t.groups e.gk = some g ∧ mget? g.paths e.pid = none ∧
      g.live = e.g.live &&& ~~~e.p.mask ∧ (∀ i, i ≠ e.pid → mget? g.paths i = mget? e.g.paths i) ∧ g.v = e.g.v ∧ g.s = e.g.s ∧ g.p = e.g.p := by
  obtain ⟨i, p, hi, hp, hst⟩ := hother
  have he := issues_entered h
  have hleft : mget? e.exitedGroup.paths i = some p := (mget_exitedGroup_ne e hi).trans hp
  have hgroup : mget? ((e.issued e.s).modGroup e.gk fun g => { g with paths := merase g.paths e.pid, live := g.live &&& ~~~e.p.mask }).groups e.gk =
      some e.exitedGroup := by
    rw [mget_modGroup, if_pos rfl, group_issued_entered he]
    rfl
  have hsome : e.exitedGroup.paths.isEmpty = false := by
    rw [List.isEmpty_eq_false_iff_exists_mem]
    exact ⟨_, mem_of_mget? hleft⟩
  have hexec := exec_of_perform (exec_exit o s) h rfl rfl
  dsimp only at hexec
  rw [hgroup] at hexec
  dsimp only at hexec
  rw [hsome, if_neg Bool.false_ne_true, lostCheck_of_unparked hgroup hleft hst] at hexec
  exact ⟨_, _, hexec, elsewhere_issued_modGroup he _, hgroup, mget?_merase_self _ _, rfl, fun _ => mget_exitedGroup_ne e, rfl, rfl, rfl⟩

/-! ### TRAP and BKPT (R138, R359) -/

theorem trap_traps (h : Issues (.trap n o) s c e) :
    exec (.trap n o) s = .next ((e.issued e.s).trapAt e.gk e.pid ⟨.swtrap, n.toNat⟩ e.p.pc (e.p.pc + 8)) := exec_of_perform (exec_trap n o s) h rfl rfl

theorem pdie_of_entered (he : Entered s e) (p d : ℕ) : e.s.pdie p d = s.pdie p d := by rw [he.rest.1]; rfl

theorem bkpt_traps (h : Issues (.bkpt n o) s c e) (hoff : (s.pdie e.part e.die).bkhold = false) :
    exec (.bkpt n o) s = .next ((e.issued e.s).trapAt e.gk e.pid ⟨.bkpt, n.toNat⟩ e.p.pc e.p.pc) := by
  rw [← pdie_of_entered (issues_entered h)] at hoff
  exact (exec_of_perform (exec_bkpt n o s) h rfl rfl).trans (congrArg _ (if_neg (by rw [hoff]; exact Bool.false_ne_true)))

theorem elsewhere_endChain (s : State) (gk pid : ℕ) : Elsewhere s gk (s.endChain gk pid) := by
  unfold State.endChain
  dsimp only
  split
  · exact elsewhere_refl s gk
  · split_ifs
    · exact elsewhere_setQuarter s gk _
    · exact elsewhere_refl s gk

theorem bkpt_holds (h : Issues (.bkpt n o) s c e) (hon : (s.pdie e.part e.die).bkhold = true) :
    ∃ t g p, exec (.bkpt n o) s = .next t ∧ Elsewhere s e.gk t ∧ mget? t.groups e.gk = some g ∧ mget? g.paths e.pid = some p ∧ p.st = .held ∧
      p.pc = e.p.pc + 8 ∧ p.mask = e.p.mask ∧ g.v = e.g.v := by
  have he := issues_entered h
  rw [← pdie_of_entered he] at hon
  have hjump := group_issued_modPath he fun p => { p with pc := e.p.pc + 8 }
  rw [← (mayCut_endChain e.gk e.pid _).2] at hjump
  refine ⟨_, _, _, (exec_of_perform (exec_bkpt n o s) h rfl rfl).trans (congrArg _ (if_pos hon)),
    elsewhere_trans (elsewhere_issued_modGroup he _) (elsewhere_trans (elsewhere_endChain _ _ _) (elsewhere_modGroup _ _ _)),
    (mget_modGroup _ _ _ _).trans ((if_pos rfl).trans (congrArg _ hjump)),
    (mget_modPath _ _ _ _).trans ((if_pos rfl).trans (congrArg _ (mget_issuedGroup_self _ _))), rfl, rfl, rfl, rfl⟩

end Exits

/-- Settles O10: each instruction by the lemma on it. -/
theorem exitsAndSoftwareTraps : Obligations.ExitsAndSoftwareTraps := by
  unfold Obligations.ExitsAndSoftwareTraps
  exact ⟨fun s c e o => ⟨fun hidle => ⟨fun h => yield_stamps h hidle, fun h => tileb_passes h hidle⟩, exit_leaves_others⟩,
    fun s c e o n => ⟨trap_traps, bkpt_traps, bkpt_holds⟩⟩

end Sys2Proof.Machine

/-! PROOF. Taking a trap and returning from its handler (O11). -/

namespace Sys2Proof.Machine

/-! ### Translations change nothing else (R338) -/

/-- The second state is the first after some translations. -/
def Translated (s t : State) : Prop := t = s.translations t

namespace Translated
variable {s t u : State}

theorem refl (s : State) : Translated s s := rfl

theorem trans (h : Translated s t) (k : Translated t u) : Translated s u := by
  rw [Translated] at h k ⊢
  rw [k, h]
  rfl

theorem foldl {α : Type} {f : State → α → State} (h : ∀ s x, Translated s (f s x)) (l : List α) (s : State) : Translated s (l.foldl f s) :=
  List.foldlRecOn l f (refl s) fun _ ht x _ => ht.trans (h _ x)

theorem toRows (s : State) (loc n : ℕ) : Translated s (s.toRows loc n) := by
  unfold State.toRows
  split_ifs
  · exact foldl (fun t x => by split_ifs <;> rfl) _ s
  · rfl

theorem translate (s : State) (u p asid va : ℕ) : Translated s (s.translate u p asid va).2 := by
  unfold State.translate
  dsimp only
  split
  · rfl
  · generalize walkStart _ _ _ _ _ _ _ _ = w
    have hrows := foldl (f := fun s x => s.toRows (s.phys (pteAt va x.1 x.2)) 8) (fun t _ => toRows t _ _) (walkTables s va w.1 w.2) s
    split <;> exact hrows.trans rfl

theorem place (s : State) (u p asid : ℕ) (sys : Bool) (k : AccKind) (va : ℕ) : Translated s (s.place u p asid sys k va).2 := by
  have h := translate s u p asid va
  unfold State.place
  split_ifs
  · rfl
  · rfl
  · rfl
  · split
    · next heq =>
      rw [heq] at h
      exact h
    · next heq =>
      rw [heq] at h
      dsimp only
      cases State.rangeOf _ p _ <;> split_ifs <;> exact h

theorem spanPlaces (u p asid : ℕ) (sys : Bool) (k : AccKind) (l : List (ℕ × ℕ)) (s : State) : Translated s (s.spanPlaces u p asid sys k l).2 := by
  induction l generalizing s with
  | nil => rfl
  | cons x l ih => exact (place s u p asid sys k x.1).trans (ih _)

theorem rangeAll (s : State) (u p asid : ℕ) (sys : Bool) (k : AccKind) (va n : ℕ) : Translated s (s.rangeAll u p asid sys k va n).2 := by
  have h := spanPlaces u p asid sys k (spans (n / 65536 + 2) va n) s
  unfold State.rangeAll
  dsimp only
  split_ifs <;> exact h

theorem range (s : State) (u p asid : ℕ) (sys : Bool) (k : AccKind) (va n : ℕ) : Translated s (s.range u p asid sys k va n).2 := by
  have h := rangeAll s u p asid sys k va n
  unfold State.range
  revert h
  rcases s.rangeAll u p asid sys k va n with ⟨r, t⟩
  cases r <;> exact id

theorem groups (h : Translated s t) : t.groups = s.groups := by rw [h]; rfl
theorem tick (h : Translated s t) : t.tick = s.tick := by rw [h]; rfl
theorem phys (h : Translated s t) (pa : ℕ) : t.phys pa = s.phys pa := by rw [h]; rfl
theorem rangeOf (h : Translated s t) (p pa : ℕ) : t.rangeOf p pa = s.rangeOf p pa := by rw [h]; rfl

end Translated

/-! ### A frame written (R351) -/

theorem groups_writeLocs (ls : List Spot) (bs : List Byte) (s : State) : (s.writeLocs ls bs).groups = s.groups := by
  induction ls generalizing s bs with
  | nil => rfl
  | cons x ls ih => exact (ih _ _).trans (WriteKeeps.write s x.loc _).groups

theorem tick_write (s : State) (a : ℕ) (bs : List Byte) : (s.write a bs).tick = s.tick := by unfold State.write; split_ifs <;> rfl

theorem tick_writeLocs (ls : List Spot) (bs : List Byte) (s : State) : (s.writeLocs ls bs).tick = s.tick := by
  induction ls generalizing s bs with
  | nil => rfl
  | cons x ls ih => exact (ih _ _).trans (tick_write s x.loc _)

theorem length_frameImage (g : Group) (p : Path) (t : Trap) (fpc resume : Pc) : (frameImage g p t fpc resume).length = 896 := length_natLe _ _

section Entry
variable {s s' : State} {gk pid : ℕ} {g : Group} {p : Path} {ls : List Spot} {bs : List Byte}

theorem writeFrame_of_range
    (h : s.range (quarterOf gk) (s.launch g.launch).part (s.launch g.launch).asid true .store (s.saveBase (coreOf gk) + 0x1000 + 1024 * g.rank) bs.length = (.ok ls, s')) :
    s.writeFrame gk g bs = some (s'.writeLocs ls bs) := by
  unfold State.writeFrame
  dsimp only
  rw [h]

/-! ### No trace, no chain (R44, R420) -/

theorem pathEventAt_off (hoff : (s.trace (dieOf gk)).tctl.getLsbD 1 = false) (code payload addr pc : ℕ) : s.pathEventAt gk pid code payload addr pc = s := by
  unfold State.pathEventAt
  split
  · rfl
  · dsimp only
    rw [hoff, if_pos Bool.not_false]

theorem cutOthers_unchained (hchain : (s.quarter (quarterOf gk)).chain = none) : s.cutOthers gk pid = s := by
  unfold State.cutOthers
  rw [hchain]

theorem endChain_unchained (hchain : (s.quarter (quarterOf gk)).chain = none) : s.endChain gk pid = s := by
  unfold State.endChain
  dsimp only
  rw [hchain]

theorem restartOf_unchained (hg : mget? s.groups gk = some g) (hp : mget? g.paths pid = some p) (hchain : (s.quarter (quarterOf gk)).chain = none) :
    s.restartOf gk pid = p.back := by
  unfold State.restartOf
  dsimp only
  rw [hchain, hg, Option.bind_some, hp, Option.bind_some]

theorem cutChain_unchained (hg : mget? s.groups gk = some g) (hp : mget? g.paths pid = some p) (hchain : (s.quarter (quarterOf gk)).chain = none)
    (hback : p.back = none) : s.cutChain gk pid = s := by
  unfold State.cutChain
  dsimp only
  rw [restartOf_unchained hg hp hchain, hback]
  exact endChain_unchained hchain

/-! ### The trap (R351) -/

/-- The path at the handler's entry. -/
def Path.handled (p : Path) (now : ℕ) (l : Launch) : Path :=
  { p.struck now with pc := BitVec.ofNat 56 l.handler, fmt := l.fmt, loops := [], lastCh := false, back := none }

/-- The group in its handler. -/
def Group.handling (g : Group) (pid now : ℕ) (l : Launch) : Group :=
  { (g.halt now).modPath pid (fun p => p.handled now l) with handler := some { pid := pid, since := now, reported := false } }

/-- A path that no chain and no trace concerns. -/
structure Unchained (s : State) (gk pid : ℕ) (g : Group) (p : Path) : Prop where
  group : mget? s.groups gk = some g
  path : mget? g.paths pid = some p
  chain : (s.quarter (quarterOf gk)).chain = none
  back : p.back = none
  trace : (s.trace (dieOf gk)).tctl.getLsbD 1 = false

variable (x : Trap) (fpc next : Pc)

theorem trapCore_stops (h : Unchained s gk pid g p) (hno : (s.launch g.launch).handler = 0 ∨ g.handler.isSome = true) :
    ∃ kind, s.trapCore gk pid x fpc next = s.stopGroup gk pid kind 0 fpc x.addr := by
  obtain ⟨hg, hp, hchain, hback, htrace⟩ := h
  unfold State.trapCore
  dsimp only
  rw [hg]
  dsimp only
  rw [pathEventAt_off htrace, cutOthers_unchained hchain, cutChain_unchained hg hp hchain hback, hg]
  dsimp only
  rw [hp]
  dsimp only
  split_ifs with hin hnone
  · exact ⟨9, rfl⟩
  · exact ⟨10, rfl⟩
  · exact absurd hno (not_or.mpr ⟨hnone, hin⟩)

theorem trapCore_enters (h : Unchained s gk pid g p) (hyes : (s.launch g.launch).handler ≠ 0) (hfree : g.handler = none)
    (hrange : s.range (quarterOf gk) (s.launch g.launch).part (s.launch g.launch).asid true .store (s.saveBase (coreOf gk) + 0x1000 + 1024 * g.rank) 896 = (.ok ls, s')) :
    ∃ t, s.trapCore gk pid x fpc next = t ∧ t.mem = (s'.writeLocs ls (frameImage g p x fpc next)).mem ∧
      t.groups = mmodify s.groups gk fun g' => g'.handling pid (s.coreCycle (coreOf gk)) (s.launch g.launch) := by
  obtain ⟨hg, hp, hchain, hback, htrace⟩ := h
  have hframe := writeFrame_of_range (g := g) (bs := frameImage g p x fpc next) ((length_frameImage g p x fpc next).symm ▸ hrange)
  have htran := Translated.range s (quarterOf gk) (s.launch g.launch).part (s.launch g.launch).asid true .store
    (s.saveBase (coreOf gk) + 0x1000 + 1024 * g.rank) 896
  rw [hrange] at htran
  have hgroups := (groups_writeLocs ls (frameImage g p x fpc next) s').trans htran.groups
  have hcycle : (s'.writeLocs ls (frameImage g p x fpc next)).coreCycle (coreOf gk) = s.coreCycle (coreOf gk) :=
    congrArg (Config.unitCycle _) ((tick_writeLocs ls _ s').trans htran.tick)
  have hresume : s.resumePc gk pid next = next := by
    unfold State.resumePc
    rw [restartOf_unchained hg hp hchain, hback]
  refine ⟨_, rfl, ?_⟩
  unfold State.trapCore
  dsimp only
  rw [hg]
  dsimp only
  rw [pathEventAt_off htrace, cutOthers_unchained hchain, cutChain_unchained hg hp hchain hback, hg]
  dsimp only
  rw [hp, hresume]
  dsimp only
  rw [hframe, hfree, Option.isSome_none, if_neg Bool.false_ne_true, if_neg hyes]
  dsimp only
  rw [hcycle]
  have hhandling := congrArg (fun m => mmodify m gk fun g' => g'.handling pid (s.coreCycle (coreOf gk)) (s.launch g.launch)) hgroups
  split <;> exact ⟨rfl, (mmodify_mmodify _ _ _ _).trans hhandling⟩

theorem trapAt_of_alive {t : State} (hcore : s.trapCore gk pid x fpc next = t) (hg : mget? t.groups gk = some g) (halive : g.dead = false) :
    s.trapAt gk pid x fpc next = t := by
  unfold State.trapAt
  dsimp only
  rw [hcore, hg]
  dsimp only
  rw [halive, if_neg Bool.false_ne_true]

theorem Path.st_wake {p : Path} (h : p.hold = false) (now : ℕ) (fresh : Bool) : (p.wake now fresh).st = .ready := by
  unfold Path.wake
  rw [h]
  rfl

theorem Path.st_struck (p : Path) (now : ℕ) (hhold : p.hold = false) (hst : p.st ≠ .held) : (p.struck now).st = .ready := by
  unfold Path.struck
  split
  · next hready => exact hready
  · next hheld => exact absurd hheld hst
  · exact Path.st_wake hhold now false
  · exact Path.st_wake hhold now true

theorem Path.mask_struck (p : Path) (now : ℕ) : (p.struck now).mask = p.mask := by
  unfold Path.struck
  split <;> rfl

/-- A path of a group that stops. -/
def Group.halted (g : Group) (now k : ℕ) (p : Path) : Path := if p.st == .ready then { p with idle := g.readyFor k now p, since := now } else p

theorem mget_halt (g : Group) (now k : ℕ) : mget? (g.halt now).paths k = (mget? g.paths k).map (g.halted now k) := mget?_map_val g.paths (g.halted now) k

theorem mget_halt_of_path (hp : mget? g.paths pid = some p) (now : ℕ) :
    ∃ q, mget? (g.halt now).paths pid = some q ∧ q.mask = p.mask ∧ q.hold = p.hold ∧ q.st = p.st := by
  rw [mget_halt, hp]
  refine ⟨_, rfl, ?_⟩
  unfold Group.halted
  split_ifs <;> exact ⟨rfl, rfl, rfl⟩

theorem trap_enters_handler (h : Unchained s gk pid g p) (halive : g.dead = false) (hyes : (s.launch g.launch).handler ≠ 0) (hfree : g.handler = none)
    (hrange : s.range (quarterOf gk) (s.launch g.launch).part (s.launch g.launch).asid true .store (s.saveBase (coreOf gk) + 0x1000 + 1024 * g.rank) 896 = (.ok ls, s')) :
    ∃ t g' p', s.trapAt gk pid x fpc next = t ∧ t.mem = (s'.writeLocs ls (frameImage g p x fpc next)).mem ∧ mget? t.groups gk = some g' ∧
      mget? g'.paths pid = some p' ∧ p'.pc = BitVec.ofNat 56 (s.launch g.launch).handler ∧ p'.fmt = (s.launch g.launch).fmt ∧ p'.loops = [] ∧
      p'.mask = p.mask ∧ (p.hold = false → p.st ≠ .held → p'.st = .ready) ∧ g'.handler.isSome = true ∧ g'.dead = false ∧ g'.v = g.v ∧ g'.s = g.s ∧
      g'.a = g.a ∧ g'.p = g.p ∧ (∀ k, k ≠ pid → mget? g'.paths k = mget? (g.halt (s.coreCycle (coreOf gk))).paths k) ∧
      (∀ k, k ≠ gk → mget? t.groups k = mget? s.groups k) := by
  obtain ⟨t, hcore, hmem, hgroups⟩ := trapCore_enters x fpc next h hyes hfree hrange
  have hgroup : mget? t.groups gk = some (g.handling pid (s.coreCycle (coreOf gk)) (s.launch g.launch)) := by
    rw [hgroups, mget?_mmodify_self, h.group, Option.map_some]
  obtain ⟨q, hq, hmask, hhold, hst⟩ := mget_halt_of_path h.path (s.coreCycle (coreOf gk))
  have hpath : mget? (g.handling pid (s.coreCycle (coreOf gk)) (s.launch g.launch)).paths pid =
      some (q.handled (s.coreCycle (coreOf gk)) (s.launch g.launch)) :=
    (mget_modPath _ pid pid _).trans ((if_pos rfl).trans (congrArg _ hq))
  refine ⟨t, _, _, trapAt_of_alive x fpc next hcore hgroup halive, hmem, hgroup, hpath, rfl, rfl, rfl, (q.mask_struck _).trans hmask, fun hh hs => ?_, rfl, halive,
    rfl, rfl, rfl, rfl, fun k hk => (mget_modPath _ pid k _).trans (if_neg hk), fun k hk => ?_⟩
  · exact q.st_struck _ (hhold.trans hh) (hst ▸ hs)
  · rw [hgroups, mget?_mmodify_ne _ _ hk]

/-- A record that names a group is made under the next number. -/
theorem groupFault_record (hg : mget? s.groups gk = some g) (kind cause va : ℕ) (mask : Mask) (pc : Pc) :
    ∃ f : FRec, (s.groupFault gk kind cause mask pc va).2 = { s with nextId := s.nextId + 1, frecs := mset s.frecs s.nextId f } ∧
      f.kind = kind ∧ f.gk = some gk ∧ f.mask = mask ∧ f.pc = pc.toNat := by
  unfold State.groupFault
  rw [hg]
  exact ⟨_, rfl, rfl, rfl, rfl, rfl⟩

theorem stopGroup_stops (hg : mget? s.groups gk = some g) (kind cause va : ℕ) :
    ∃ g', mget? (s.stopGroup gk pid kind cause fpc va).groups gk = some g' ∧ g'.dead = true ∧ (s.stopGroup gk pid kind cause fpc va).mem = s.mem := by
  unfold State.stopGroup
  dsimp only
  rw [hg]
  dsimp only
  obtain ⟨f, hfault, -⟩ := groupFault_record hg kind cause va (((mget? g.paths pid).map fun p => p.mask).getD 0) fpc
  rw [hfault]
  have hdead : mget? ({ s with nextId := s.nextId + 1, frecs := mset s.frecs s.nextId f }.modGroup gk fun g => { g with dead := true, handler := none }).groups gk =
      some { g with dead := true, handler := none } := by
    rw [mget_modGroup, if_pos rfl, hg, Option.map_some]
  rw [hdead]
  exact ⟨_, hdead, rfl, rfl⟩

theorem trap_stops_group (h : Unchained s gk pid g p) (hno : (s.launch g.launch).handler = 0 ∨ g.handler.isSome = true) :
    ∃ g', mget? (s.trapCore gk pid x fpc next).groups gk = some g' ∧ g'.dead = true ∧ (s.trapCore gk pid x fpc next).mem = s.mem := by
  obtain ⟨kind, hcore⟩ := trapCore_stops x fpc next h hno
  rw [hcore]
  exact stopGroup_stops fpc h.group kind 0 x.addr

end Entry

/-! ### ERET (R140, R352) -/

section Return
variable {s s' : State} {c e : Ctx} {o : Ops} {ls : List Spot}

theorem exec_eret (o : Ops) (s : State) : exec (.eret o) s = execEret o s := rfl

theorem eret_outside_handler (h : Issues (.eret o) s c e) (hout : c.g.handler = none) : exec (.eret o) s = .next (c.trap ⟨.priv, 0⟩) :=
  (exec_eret o s).trans (perform_priv_of_issues _ h rfl (by rw [hout]; rfl))

theorem resume_restores (hg : mget? s'.groups e.gk = some e.g) {bs : List Byte} {p : Path} {rj : Map Rejoin} {dz : Bool}
    (hframe : frameOf e.g.width (leNat bs) e.p = some (p, rj, dz)) :
    ∃ g p', mget? (e.resume s' bs).groups e.gk = some g ∧ mget? g.paths e.pid = some p' ∧ p'.pc = p.pc ∧ p'.mask = p.mask ∧
      p'.fmt = p.fmt ∧ p'.loops = p.loops ∧ g.rejoin = rj ∧ g.dz = dz ∧ g.handler = none ∧ g.watchdog = 0 ∧ g.v = e.g.v ∧ g.s = e.g.s ∧
      (∀ a, (e.resume s' bs).byte a = s'.byte a) := by
  unfold Ctx.resume
  rw [hframe]
  dsimp only
  obtain ⟨-, hbytes, -⟩ := elsewhere_trans (elsewhere_issued e s') (elsewhere_modGroup (e.issued s') e.gk _)
  exact ⟨_, _, (mget_modGroup _ _ _ _).trans ((if_pos rfl).trans (congrArg _ (group_issued e s' hg))), mget?_mset_self _ _ _, rfl, rfl, rfl, rfl, rfl, rfl, rfl, rfl,
    rfl, rfl, hbytes⟩

theorem eret_restores (h : Issues (.eret o) s c e) (hin : c.g.handler.isSome = true)
    (hrange : e.s.range e.q e.part e.asid true .load (e.s.saveBase e.core + 0x1000 + 1024 * e.g.rank) 896 = (.ok ls, s')) (hclean : s'.poisonedLocs ls = false) :
    exec (.eret o) s = .next (e.resume s' (s'.readLocs ls)) := by
  have hpriv : c.g.handler.isNone = false := by rw [← Option.not_isSome, hin]; rfl
  refine (exec_of_perform (exec_eret o s) h rfl hpriv).trans (congrArg _ ?_)
  rw [hrange]
  dsimp only
  rw [hclean, if_neg Bool.false_ne_true]

end Return

/-- Settles O11: the two ends of a trap taken, and the two of an ERET. -/
theorem trapEntryAndReturn : Obligations.TrapEntryAndReturn := by
  unfold Obligations.TrapEntryAndReturn
  refine ⟨fun s gk pid x fpc next g p hg hp hchain hback halive htrace => ?_, fun s c e o h => ⟨eret_outside_handler h, fun hin ls s' hrange hclean p rj dz hframe hg => ?_⟩⟩
  · have h : Unchained s gk pid g p := ⟨hg, hp, hchain, hback, htrace⟩
    exact ⟨fun hyes hfree ls s' hrange => trap_enters_handler x fpc next h halive hyes hfree hrange, trap_stops_group x fpc next h⟩
  · obtain ⟨g, p', hrest⟩ := resume_restores hg hframe
    exact ⟨_, g, p', eret_restores h hin hrange hclean, hrest⟩

end Sys2Proof.Machine

/-! PROOF. FUSE and SPLIT (O12). -/

namespace Sys2Proof

section Files
variable {α : Type} {n : ℕ}

/-- Keys moved down by `w`. -/
theorem mget?_map_sub (m : Map α) {w : ℕ} (hm : ∀ x ∈ m, w ≤ x.1) (k : ℕ) : mget? (m.map fun x => (x.1 - w, x.2)) k = mget? m (k + w) := by
  induction m with
  | nil => rfl
  | cons x m ih =>
    have hx := hm x List.mem_cons_self
    rw [List.map_cons, mget?_cons, mget?_cons, ih fun y hy => hm y (List.mem_cons_of_mem _ hy)]
    exact if_congr (by omega) rfl rfl

theorem zget_foldl_range (f : ℕ → BitVec n) (k i : ℕ) :
    zget ((List.range k).foldl (fun m j => zset m j (f j)) []) i = if i < k then f i else 0 := by
  induction k with
  | zero => rfl
  | succ k ih =>
    rw [List.range_succ, List.foldl_append, List.foldl_cons, List.foldl_nil, zget_zset, ih]
    by_cases hi : i = k
    · rw [if_pos hi, if_pos (by omega), hi]
    · rw [if_neg hi]
      exact if_congr (by omega) rfl rfl

theorem getLsbD_fullMask (w l : ℕ) : (fullMask w).getLsbD l = (decide (l < 64) && decide (l < w)) := by
  rw [fullMask, BitVec.getLsbD_ofNat, Nat.testBit_two_pow_sub_one]

end Files

namespace Machine

/-! ### Lanes of the register files -/

section Lanes
variable {a b m : Map W32} {w l r : ℕ}

theorem zget_lowLanes (m : Map W32) (w k : ℕ) : zget (lowLanes m w) k = if k % 64 < w then zget m k else 0 := by
  rw [lowLanes, zget_filter_key m fun k => decide (k % 64 < w)]
  simp only [decide_eq_true_eq]

theorem zget_upperLanes (m : Map W32) (hl : l + w < 64) (r : ℕ) : zget (upperLanes m w) (r * 64 + l) = zget m (r * 64 + (l + w)) := by
  have hkeys : ∀ x ∈ m.filter fun x => decide (x.1 % 64 ≥ w), w ≤ x.1 := fun x hx => by
    have hlane := of_decide_eq_true (List.mem_filter.1 hx).2
    omega
  have hshift : zget (upperLanes m w) (r * 64 + l) = zget (m.filter fun x => decide (x.1 % 64 ≥ w)) (r * 64 + l + w) :=
    congrArg (·.getD 0) (mget?_map_sub _ hkeys _)
  have hlane : (r * 64 + (l + w)) % 64 ≥ w := by omega
  rw [hshift, zget_filter_key m fun k => decide (k % 64 ≥ w), Nat.add_assoc, decide_eq_true hlane, if_pos rfl]

theorem zget_eq_zero_of_notMem {n : ℕ} {m : Map (BitVec n)} {k : ℕ} (h : k ∉ m.map (·.1)) : zget m k = 0 := by
  unfold zget mgetD
  cases hget : mget? m k with
  | none => rfl
  | some v => exact absurd (List.mem_map.2 ⟨_, mem_of_mget? hget, rfl⟩) h

theorem zget_joinLanes (a b : Map W32) (w k : ℕ) : zget (joinLanes a b w) k =
    if w ≤ k ∧ k - w ∈ (lowLanes b w).map (·.1) then zget b (k - w) else zget (lowLanes a w) k := by
  have h := zget_foldl_zset ((lowLanes b w).map (·.1)) w (zget b) (lowLanes a w) k
  simp only [Nat.add_comm w] at h
  exact h

theorem zget_joinLanes_low (hw : w ≤ 32) (hl : l < w) (r : ℕ) : zget (joinLanes a b w) (r * 64 + l) = zget a (r * 64 + l) := by
  rw [zget_joinLanes, if_neg, zget_lowLanes, if_pos (by omega)]
  rintro ⟨hle, hmem⟩
  obtain ⟨x, hx, hkey⟩ := List.mem_map.1 hmem
  have hlane := of_decide_eq_true (List.mem_filter.1 hx).2
  omega

theorem zget_joinLanes_high (hw : w ≤ 32) (hlo : w ≤ l) (hhi : l < 2 * w) (r : ℕ) : zget (joinLanes a b w) (r * 64 + l) = zget b (r * 64 + (l - w)) := by
  have hkey : r * 64 + l - w = r * 64 + (l - w) := by omega
  rw [zget_joinLanes, hkey]
  split_ifs with hmem
  · rfl
  · have hnone := zget_eq_zero_of_notMem fun h => hmem ⟨by omega, h⟩
    rw [zget_lowLanes, if_pos (by omega)] at hnone
    rw [zget_lowLanes, if_neg (by omega), hnone]

/-- Predicate registers made one by one. -/
theorem pred_of_masks {g : Group} {f : ℕ → Mask} (hp : g.p = (List.range 7).foldl (fun m k => zset m k (f k)) []) {h : Group} {l i : ℕ}
    (hf : ∀ k, (f k).getLsbD l = (zget h.p k).getLsbD i) {k : ℕ} (hk : k < 8) : g.pred k l = h.pred k i := by
  unfold Group.pred
  by_cases h7 : k = 7
  · rw [h7]; rfl
  · rw [hp, zget_foldl_range, if_pos (by omega), hf]

end Lanes

/-! ### The fused group (R142) -/

section Fused
variable {g h a b : Group} {w l r k : ℕ}

theorem vec_fused_low (hw : a.width ≤ 32) (hl : l < a.width) (r : ℕ) : (fused a b).vec l r = a.vec l r := by
  unfold Group.vec fused
  rw [zget_joinLanes_low hw hl]

theorem vec_fused_high (hw : a.width ≤ 32) (hlo : a.width ≤ l) (hhi : l < 2 * a.width) (r : ℕ) : (fused a b).vec l r = b.vec (l - a.width) r := by
  unfold Group.vec fused
  rw [zget_joinLanes_high hw hlo hhi]

/-- A predicate register of the fused group. -/
def fusedMask (a b : Group) (k : ℕ) : Mask := (zget a.p k &&& fullMask a.width) ||| ((zget b.p k &&& fullMask a.width) <<< a.width)

theorem getLsbD_fusedMask (a b : Group) (k l : ℕ) : (fusedMask a b k).getLsbD l =
    ((zget a.p k).getLsbD l && (decide (l < 64) && decide (l < a.width)) || (decide (l < 64) && !decide (l < a.width) &&
      ((zget b.p k).getLsbD (l - a.width) && (decide (l - a.width < 64) && decide (l - a.width < a.width))))) := by
  simp only [fusedMask, BitVec.getLsbD_or, BitVec.getLsbD_and, BitVec.getLsbD_shiftLeft, getLsbD_fullMask]

theorem pred_fused_low (hw : a.width ≤ 32) (hl : l < a.width) (hk : k < 8) : (fused a b).pred k l = a.pred k l := by
  refine pred_of_masks (f := fusedMask a b) rfl (fun j => ?_) hk
  have hl64 : l < 64 := by omega
  rw [getLsbD_fusedMask]
  simp [hl, hl64]

theorem pred_fused_high (hw : a.width ≤ 32) (hlo : a.width ≤ l) (hhi : l < 2 * a.width) (hk : k < 8) : (fused a b).pred k l = b.pred k (l - a.width) := by
  refine pred_of_masks (f := fusedMask a b) rfl (fun j => ?_) hk
  have hl64 : l < 64 := by omega
  have hbelow : l - a.width < 64 := by omega
  have hhigh : l - a.width < a.width := by omega
  rw [getLsbD_fusedMask]
  simp [Nat.not_lt.2 hlo, hl64, hbelow, hhigh]

/-- The fused group, every lane at the instruction after the FUSE. -/
def fusedOn (a b : Group) (now : ℕ) : Group :=
  { fused a b with paths := (fused a b).paths.map fun x => (x.1, { x.2.wake now true with mask := fullMask (fused a b).width, pc := x.2.pc + 8 }) }

theorem mask_of_mem_fusedOn {now : ℕ} {p : ℕ × Path} (hp : p ∈ (fusedOn a b now).paths) : p.2.mask = fullMask (2 * a.width) := by
  obtain ⟨x, -, rfl⟩ := List.mem_map.1 hp
  rfl

variable {s : State} {i j : ℕ}

theorem doFuse_groups (hlo : mget? s.groups (min i j) = some a) (hhi : mget? s.groups (max i j) = some b) :
    (s.doFuse i j).groups = merase (mset s.groups (min i j) (fusedOn a b (s.coreCycle (coreOf (min i j))))) (max i j) := by
  unfold State.doFuse
  dsimp only
  rw [hlo, hhi]
  rfl

theorem doFuse_byte (hlo : mget? s.groups (min i j) = some a) (hhi : mget? s.groups (max i j) = some b) (x : ℕ) : (s.doFuse i j).byte x = s.byte x := by
  unfold State.doFuse
  dsimp only
  rw [hlo, hhi]
  rfl

theorem mget_doFuse (hij : i ≠ j) (hlo : mget? s.groups (min i j) = some a) (hhi : mget? s.groups (max i j) = some b) :
    mget? (s.doFuse i j).groups (min i j) = some (fusedOn a b (s.coreCycle (coreOf (min i j)))) ∧ mget? (s.doFuse i j).groups (max i j) = none := by
  rw [doFuse_groups hlo hhi]
  exact ⟨(mget?_merase_ne _ (by omega)).trans (mget?_mset_self _ _ _), mget?_merase_self _ _⟩

theorem doFuse_spec (hij : i ≠ j) (hlo : mget? s.groups (min i j) = some a) (hhi : mget? s.groups (max i j) = some b) (hw : a.width = w) (hmax : w ≤ 32)
    {u : State} (hbytes : ∀ x, s.byte x = u.byte x) :
    ∃ g, mget? (s.doFuse i j).groups (min j i) = some g ∧ mget? (s.doFuse i j).groups (max j i) = none ∧ g.width = 2 * w ∧ g.live = fullMask (2 * w) ∧
      (∀ p ∈ g.paths, p.2.mask = fullMask (2 * w)) ∧ g.blocks = a.blocks ∧ g.s = a.s ∧ g.a = a.a ∧ g.prio = a.prio ∧ g.key = a.key ∧ g.ctr = a.ctr ∧
      g.ofs = a.ofs ∧
      (∀ l < 64, ∀ r < 256, (l < w → g.vec l r = a.vec l r) ∧ (w ≤ l → l < 2 * w → g.vec l r = b.vec (l - w) r)) ∧
      (∀ n < 8, ∀ l < 64, (l < w → g.pred n l = a.pred n l) ∧ (w ≤ l → l < 2 * w → g.pred n l = b.pred n (l - w))) ∧
      (∀ x, (s.doFuse i j).byte x = u.byte x) := by
  obtain ⟨hsome, hnone⟩ := mget_doFuse hij hlo hhi
  subst hw
  rw [min_comm j, max_comm j]
  exact ⟨_, hsome, hnone, rfl, rfl, fun _ => mask_of_mem_fusedOn, rfl, rfl, rfl, rfl, rfl, rfl, rfl,
    fun l _ r _ => ⟨fun hl => vec_fused_low hmax hl r, fun hl hh => vec_fused_high hmax hl hh r⟩,
    fun n hn l _ => ⟨fun hl => pred_fused_low hmax hl hn, fun hl hh => pred_fused_high hmax hl hh hn⟩,
    fun x => (doFuse_byte hlo hhi x).trans (hbytes x)⟩

end Fused

/-! ### FUSE (R142) -/

section Fuse
variable {s : State} {c e : Ctx} {o : Ops} {h : Group} {k : ℕ}

theorem exec_fuse (o : Ops) (s : State) : exec (.fuse o) s = execFuse o s := rfl

theorem fuse_refused (hi : Issues (.fuse o) s c e) (hbad : c.fuseBad (c.val o.a 1 0) = true) : exec (.fuse o) s = .next (c.trap ⟨.ill, 10⟩) :=
  (exec_fuse o s).trans (perform_ill_of_issues _ _ hi (if_pos hbad))

/-- A FUSE that nothing forbids, its group's writes all done. -/
theorem fuse_goes (hi : Issues (.fuse o) s c e) (hok : c.fuseBad (c.val o.a 1 0) = false) (hidle : e.g.pending = [])
    (hother : mget? e.s.groups (e.q * 16 + e.val o.a 1 0) = some h) : exec (.fuse o) s = .next
      (if h.fusing = some (e.gk % 16) then (e.issued e.s).doFuse e.gk (e.q * 16 + e.val o.a 1 0) else e.block e.s (.fuse (e.val o.a 1 0))) := by
  refine (exec_of_perform (exec_fuse o s) hi (if_neg (by rw [hok]; exact Bool.false_ne_true)) rfl).trans (congrArg _ ?_)
  rw [hidle, List.isEmpty_nil, if_neg (by decide), hother]

/-- The group that a FUSE may name is another. -/
theorem other_of_fuseBad {n : ℕ} (hok : c.fuseBad n = false) : c.q * 16 + n ≠ c.gk := by
  unfold Ctx.fuseBad at hok
  simp only [Bool.or_eq_false_iff, beq_eq_false_iff_ne] at hok
  obtain ⟨⟨⟨⟨-, hne⟩, -⟩, -⟩, -⟩ := hok
  exact hne

theorem fuse_blocks (hi : Issues (.fuse o) s c e) (hok : c.fuseBad (c.val o.a 1 0) = false) (hidle : e.g.pending = [])
    (hother : mget? s.groups (e.q * 16 + e.val o.a 1 0) = some h) (hwait : h.fusing ≠ some (e.gk % 16)) : Blocks (.fuse o) s s e (.fuse (e.val o.a 1 0)) := by
  have he := issues_entered hi
  have hval : e.val o.a 1 0 = c.val o.a 1 0 := val_a_of_issues hi rfl (by rw [shape_a_of_row rfl rfl rfl rfl]; rfl) 1 0
  have hne : e.q * 16 + e.val o.a 1 0 ≠ e.gk := by
    rw [hval, Ctx.q, (captured_of_issues hi).gk]
    exact other_of_fuseBad hok
  have hexec := fuse_goes hi hok hidle ((he.rest.2.2.1 _ hne).trans hother)
  rw [if_neg hwait] at hexec
  exact ⟨_, hexec, blocked_of_block he.rest he.group he.path _⟩

theorem fuse_completes (hi : Issues (.fuse o) s c e) (hok : c.fuseBad (c.val o.a 1 0) = false) (hidle : e.g.pending = [])
    (hk : e.q * 16 + e.val o.a 1 0 = k) (hother : mget? s.groups k = some h) (hwaits : h.fusing = some (e.gk % 16)) (hne : k ≠ e.gk) :
    exec (.fuse o) s = .next ((e.issued e.s).doFuse e.gk k) ∧ mget? (e.issued e.s).groups e.gk = some (e.issuedGroup e.issuedPath) ∧
      mget? (e.issued e.s).groups k = some h ∧ ∀ x, (e.issued e.s).byte x = s.byte x := by
  have he := issues_entered hi
  obtain ⟨-, hbytes, hgroups, -⟩ := elsewhere_trans he.rest (elsewhere_issued e e.s)
  subst hk
  have hexec := fuse_goes hi hok hidle ((he.rest.2.2.1 _ hne).trans hother)
  rw [if_pos hwaits] at hexec
  exact ⟨hexec, group_issued_entered he, (hgroups _ hne).trans hother, hbytes⟩

end Fuse

/-! ### The halves of a split group (R143) -/

section Halves
variable {g : Group} {l k : ℕ}

theorem vec_lowerHalf (hl : l < g.width / 2) (hl64 : l < 64) (r : ℕ) : (lowerHalf g).vec l r = g.vec l r := by
  have hreg : zget (lowerHalf g).v (r * 64 + l) = zget g.v (r * 64 + l) := (zget_lowLanes _ _ _).trans (if_pos (by omega))
  unfold Group.vec
  rw [hreg]

theorem vec_upperHalf (hl : l + g.width / 2 < 64) (r : ℕ) : (upperHalf g).vec l r = g.vec (l + g.width / 2) r := by
  unfold Group.vec upperHalf
  rw [zget_upperLanes g.v hl]

theorem pred_lowerHalf (hl : l < g.width / 2) (hl64 : l < 64) (hk : k < 8) : (lowerHalf g).pred k l = g.pred k l := by
  refine pred_of_masks (f := fun j => zget g.p j &&& fullMask (g.width / 2)) rfl (fun j => ?_) hk
  rw [BitVec.getLsbD_and, getLsbD_fullMask, decide_eq_true hl, decide_eq_true hl64, Bool.and_true, Bool.and_true]

theorem pred_upperHalf (l : ℕ) (hk : k < 8) : (upperHalf g).pred k l = g.pred k (l + g.width / 2) := by
  refine pred_of_masks (f := fun j => zget g.p j >>> (g.width / 2)) rfl (fun j => ?_) hk
  rw [BitVec.getLsbD_ushiftRight, Nat.add_comm]

/-- The affine register that reads in lane `l` what this one reads in lane `l + w`. -/
def Affine.moved (a : Affine) (w : ℕ) : Affine := { a with base := BitVec.ofNat 64 (a.at w) }

theorem at_moved (a : Affine) (w l : ℕ) : (a.moved w).at l = a.at (l + w) := by
  rw [affine_at, affine_at, Affine.moved, affine_at, BitVec.ofNat_toNat, BitVec.setWidth_eq, BitVec.ofNat_add, BitVec.mul_add, BitVec.add_assoc,
    BitVec.add_comm (_ * BitVec.ofNat 64 w)]

/-- A register not listed reads zero in every lane. -/
theorem at_zero (l : ℕ) : ({ base := 0, stride := 0 } : Affine).at l = 0 := by simp [affine_at]

theorem aff_upperHalf (g : Group) (k l : ℕ) : ((upperHalf g).aff k).at l = (g.aff k).at (l + g.width / 2) := by
  have hreg : mget? (upperHalf g).a k = (mget? g.a k).map fun x => x.moved (g.width / 2) := mget?_map_val g.a (fun _ x => x.moved (g.width / 2)) k
  unfold Group.aff mgetD
  rw [hreg]
  cases mget? g.a k with
  | some a => exact at_moved a _ l
  | none => exact (at_zero l).trans (at_zero _).symm

/-- A half whose paths have all its lanes. -/
def Group.halfOn (g : Group) (w : ℕ) : Group := { g with paths := g.paths.map fun x => (x.1, { x.2 with mask := fullMask w }) }

/-- The upper half in its new slot: its path starts afresh. -/
def Group.newHalf (g : Group) (w now : ℕ) : Group :=
  { g.halfOn w with paths := (g.halfOn w).paths.map fun x => (x.1, { x.2.wake now true with lastCh := false, noCut := none, hold := false }) }

theorem mask_of_mem_halfOn {w : ℕ} {p : ℕ × Path} (hp : p ∈ (g.halfOn w).paths) : p.2.mask = fullMask w := by
  obtain ⟨x, -, rfl⟩ := List.mem_map.1 hp
  rfl

theorem mask_of_mem_newHalf {w now : ℕ} {p : ℕ × Path} (hp : p ∈ (g.newHalf w now).paths) : p.2.mask = fullMask w := by
  obtain ⟨x, hx, rfl⟩ := List.mem_map.1 hp
  exact (mask_of_mem_halfOn hx : x.2.mask = fullMask w)

end Halves

/-! ### SPLIT (R143) -/

section Split
variable {s t : State} {c e : Ctx} {o : Ops} {k : ℕ}

theorem exec_split (o : Ops) (s : State) : exec (.split o) s = execSplit o s := rfl

theorem split_refused (h : Issues (.split o) s c e) (hbad : c.g.width = 8 ∨ c.s.notWhole c.gk c.g = true ∨ c.s.freeSlot c.q = none) :
    exec (.split o) s = .next (c.trap ⟨.ill, 10⟩) := by
  refine (exec_split o s).trans (perform_ill_of_issues _ _ h (if_pos ?_))
  simpa [or_assoc] using hbad

/-- Slots are free as before where no group came or went and no load did. -/
theorem freeSlot_congr (hloads : t.loads = s.loads) (hgroups : ∀ j, (mget? t.groups j).isNone = (mget? s.groups j).isNone) (q : ℕ) :
    t.freeSlot q = s.freeSlot q := by
  unfold State.freeSlot State.slotFree
  simp only [hloads, hgroups]

theorem freeSlot_of_elsewhere {gk : ℕ} {g g' : Group} (hrest : Elsewhere s gk t) (hs : mget? s.groups gk = some g) (ht : mget? t.groups gk = some g') (q : ℕ) :
    t.freeSlot q = s.freeSlot q := by
  refine freeSlot_congr (by rw [hrest.1]) (fun j => ?_) q
  by_cases hj : j = gk
  · rw [hj, hs, ht, Option.isNone_some, Option.isNone_some]
  · rw [hrest.2.2.1 j hj]

theorem slotFree_of_freeSlot {q : ℕ} (h : s.freeSlot q = some k) : mget? s.groups (q * 16 + k) = none := by
  have hfree := List.find?_some h
  simp only [State.slotFree, Bool.and_eq_true, Option.isNone_iff_eq_none] at hfree
  exact hfree.1

/-- Before the capture too an instruction is one of its group's path. -/
theorem entered_before_capture {i : Instr} (h : Issues i s c e) : Entered s c ∧ ∃ g, mget? s.groups c.gk = some g := by
  obtain ⟨-, ⟨c0, h0, rfl⟩, -⟩ := h
  obtain ⟨hs, -, hg, hp, -, -⟩ := ctx_spec h0
  have hc0 : Entered s c0 := ⟨by rw [hs]; exact elsewhere_refl s _, by rw [hs]; exact hg, hp⟩
  exact ⟨entered_enter hc0, c0.g, by rw [enter_frame]; exact hg⟩

/-- The free slot that the checks found is free after the issue. -/
theorem freeSlot_of_issues {i : Instr} {g : Group} (h : Issues i s c e) (hrest : Elsewhere s e.gk t) (ht : mget? t.groups e.gk = some g) :
    t.freeSlot e.q = c.s.freeSlot c.q := by
  obtain ⟨hc, g0, hs⟩ := entered_before_capture h
  have hgk := (captured_of_issues h).gk
  rw [Ctx.q, hgk, ← Ctx.q, freeSlot_of_elsewhere hc.rest hs hc.group]
  rw [hgk] at hrest ht
  exact freeSlot_of_elsewhere hrest hs ht c.q

/-- The group at the instruction after the SPLIT. -/
def Ctx.passed (e : Ctx) : Group := e.issuedGroup { e.issuedPath with pc := e.p.pc + 8 }

/-- The state in which the upper half stands in slot `k`. -/
def Ctx.halved (e : Ctx) (k : ℕ) : State :=
  { e.jump e.s (e.p.pc + 8) with
    groups := mset (mset (e.jump e.s (e.p.pc + 8)).groups e.gk ((lowerHalf e.passed).halfOn (e.g.width / 2))) (e.q * 16 + k)
      ((upperHalf e.passed).newHalf (e.g.width / 2) e.now) }

theorem split_goes (h : Issues (.split o) s c e) (hwide : c.g.width ≠ 8) (hwhole : c.s.notWhole c.gk c.g = false) (hidle : e.g.pending = [])
    (hk : c.s.freeSlot c.q = some k) : exec (.split o) s = .next (e.halved k) ∧ e.q * 16 + k ≠ e.gk := by
  have he := issues_entered h
  have hown : ¬(decide (c.g.width = 8) || c.s.notWhole c.gk c.g || (c.s.freeSlot c.q).isNone) = true := by
    rw [hwhole, hk, decide_eq_false hwide]
    exact Bool.false_ne_true
  have hgroup : mget? (e.jump e.s (e.p.pc + 8)).groups e.gk = some e.passed := group_issued_modPath he fun p => { p with pc := e.p.pc + 8 }
  have hslot : (e.jump e.s (e.p.pc + 8)).freeSlot e.q = some k := (freeSlot_of_issues h (elsewhere_issued_modGroup he _) hgroup).trans hk
  refine ⟨(exec_of_perform (exec_split o s) h (if_neg hown) rfl).trans (congrArg _ ?_), fun hsame => ?_⟩
  · rw [hidle, List.isEmpty_nil, if_neg (by decide)]
    dsimp only
    rw [hgroup, hslot]
    rfl
  · have hnone := slotFree_of_freeSlot hslot
    rw [hsame, hgroup] at hnone
    cases hnone

theorem split_halves (h : Issues (.split o) s c e) (hwide : c.g.width ≠ 8) (hwhole : c.s.notWhole c.gk c.g = false) (hidle : e.g.pending = [])
    (hk : c.s.freeSlot c.q = some k) :
    ∃ t g h, exec (.split o) s = .next t ∧ mget? t.groups e.gk = some g ∧ mget? t.groups (e.q * 16 + k) = some h ∧ g.width = e.g.width / 2 ∧
      h.width = e.g.width / 2 ∧ g.blocks = e.g.blocks ∧ h.blocks = e.g.blocks ∧
      (∀ l < 64, ∀ r < 256, l < e.g.width / 2 → g.vec l r = e.g.vec l r) ∧
      (∀ l < 64, ∀ r < 256, l + e.g.width / 2 < 64 → h.vec l r = e.g.vec (l + e.g.width / 2) r) ∧ h.s = e.g.s ∧ g.s = e.g.s ∧ g.a = e.g.a ∧
      (∀ n < 8, ∀ l < 64, l < e.g.width / 2 → g.pred n l = e.g.pred n l) ∧
      (∀ n < 8, ∀ l < 64, l + e.g.width / 2 < 64 → h.pred n l = e.g.pred n (l + e.g.width / 2)) ∧ h.prio = e.g.prio ∧ h.key = e.g.key ∧
      h.ctr = e.g.ctr ∧ h.ofs = e.g.ofs + BitVec.ofNat 32 (e.g.width / 2) ∧ g.ofs = e.g.ofs ∧
      (∀ p ∈ g.paths, p.2.mask = fullMask (e.g.width / 2)) ∧ (∀ p ∈ h.paths, p.2.mask = fullMask (e.g.width / 2)) ∧
      (∀ x < 16, ∀ l, (h.aff x).at l = (e.g.aff x).at (l + e.g.width / 2)) ∧ (∀ a, t.byte a = s.byte a) := by
  obtain ⟨hexec, hne⟩ := split_goes h hwide hwhole hidle hk
  obtain ⟨-, hbytes, -⟩ := elsewhere_issued_modGroup (issues_entered h) fun g => g.modPath e.pid fun p => { p with pc := e.p.pc + 8 }
  exact ⟨_, _, _, hexec, (mget?_mset_ne _ _ hne.symm).trans (mget?_mset_self _ _ _), mget?_mset_self _ _ _, rfl, rfl, rfl, rfl,
    fun l hl r _ hlow => vec_lowerHalf (g := e.passed) hlow hl r, fun l _ r _ hhigh => vec_upperHalf (g := e.passed) hhigh r, rfl, rfl, rfl,
    fun n hn l hl hlow => pred_lowerHalf (g := e.passed) hlow hl hn, fun n hn l _ _ => pred_upperHalf (g := e.passed) l hn, rfl, rfl, rfl, rfl, rfl,
    fun _ => mask_of_mem_halfOn, fun _ => mask_of_mem_newHalf, fun x _ l => aff_upperHalf e.passed x l, hbytes⟩

end Split

/-- Settles O12: FUSE and SPLIT, each in its cases. -/
theorem fuseAndSplit : Obligations.FuseAndSplit := by
  unfold Obligations.FuseAndSplit
  refine ⟨fun s c e o => ⟨fuse_refused, fun hi hok hidle => ?_⟩, fun s c e o => ⟨fun h hwide hwhole hidle k => split_halves h hwide hwhole hidle, split_refused⟩⟩
  intro k h hother
  dsimp only
  refine ⟨fuse_blocks hi hok hidle hother, fun hwaits hsame hmax hne => ?_⟩
  obtain ⟨hexec, hmine, hothers, hbytes⟩ := fuse_completes hi hok hidle rfl hother hwaits hne
  rcases Nat.lt_or_gt_of_ne hne with hlt | hgt
  · rw [if_pos hlt, if_pos hlt]
    obtain ⟨g, hfused⟩ := doFuse_spec hne.symm ((congrArg _ (Nat.min_eq_right hlt.le)).trans hothers) ((congrArg _ (Nat.max_eq_left hlt.le)).trans hmine)
      hsame hmax hbytes
    exact ⟨_, g, hexec, hfused⟩
  · rw [if_neg hgt.not_gt, if_neg hgt.not_gt]
    obtain ⟨g, hfused⟩ := doFuse_spec hne.symm ((congrArg _ (Nat.min_eq_left hgt.le)).trans hmine) ((congrArg _ (Nat.max_eq_right hgt.le)).trans hothers)
      rfl hmax hbytes
    exact ⟨_, g, hexec, hfused⟩

end Machine
end Sys2Proof

/-! PROOF. What a quarter does of itself (O47). -/

namespace Sys2Proof.Machine

section Quarter
variable {s : State} {gk pid : ℕ} {g : Group} {p : Path}

theorem exec_pathFill (gk : Key) (s : State) : exec (.pathFill gk) s = execPathFill gk s := rfl
theorem exec_growGrant (q : Key) (s : State) : exec (.growGrant q) s = execGrowGrant q s := rfl
theorem exec_pathBoost (gk pid : Key) (s : State) : exec (.pathBoost gk pid) s = execPathBoost gk pid s := rfl
theorem exec_chainInterrupt (q : Key) (s : State) : exec (.chainInterrupt q) s = execChainInterrupt q s := rfl
theorem exec_watchdog (gk : Key) (s : State) : exec (.watchdog gk) s = execWatchdog gk s := rfl
theorem exec_longHandler (gk : Key) (s : State) : exec (.longHandler gk) s = execLongHandler gk s := rfl

/-- A path of a group changed. -/
theorem modPath_of_mget (hg : mget? s.groups gk = some g) (hp : mget? g.paths pid = some p) (f : Path → Path) :
    s.modPath gk pid f = { s with groups := mset s.groups gk { g with paths := mset g.paths pid (f p) } } := by
  unfold State.modPath State.modGroup Group.modPath
  rw [mmodify_of_mget? hg, mmodify_of_mget? hp]

theorem mget_modPath_group (hg : mget? s.groups gk = some g) (f : Path → Path) : mget? (s.modPath gk pid f).groups gk = some (g.modPath pid f) := by
  rw [State.modPath, mget_modGroup, if_pos rfl, hg, Option.map_some]

theorem mget_modPath_self (hp : mget? g.paths pid = some p) (f : Path → Path) : mget? (g.modPath pid f).paths pid = some (f p) := by
  rw [mget_modPath, if_pos rfl, hp, Option.map_some]

/-! ### Fills (R256) -/

section Fill
variable {i v : ℕ} {x : Path}

theorem fill_nothing (hg : mget? s.groups gk = some g) (h : g.oldestSpilled = none ∨ g.fillEntry = none) : exec (.pathFill gk) s = .next s := by
  rw [exec_pathFill, execPathFill, hg]
  dsimp only
  rcases h with h | h
  · rw [h]
  · rw [h]
    cases g.oldestSpilled <;> rfl

theorem fill_free (hg : mget? s.groups gk = some g) (hp : mget? g.paths pid = some p) (hold : g.oldestSpilled = some (pid, p))
    (hfree : g.fillEntry = some (i, none)) :
    exec (.pathFill gk) s = .next { s with groups := mset s.groups gk { g with paths := mset g.paths pid { p with entry := some i } } } := by
  rw [exec_pathFill, execPathFill, hg]
  dsimp only
  rw [hold, hfree]
  exact congrArg _ (modPath_of_mget hg hp _)

theorem fill_exchanges (hg : mget? s.groups gk = some g) (hp : mget? g.paths pid = some p) (hold : g.oldestSpilled = some (pid, p))
    (hfull : g.fillEntry = some (i, some v)) (hv : mget? g.paths v = some x) (hne : v ≠ pid) :
    ∃ t g', exec (.pathFill gk) s = .next t ∧ mget? t.groups gk = some g' ∧ mget? g'.paths pid = some { p with entry := some i } ∧
      mget? g'.paths v = some { x with entry := none } ∧ t.mem = s.mem := by
  obtain ⟨traces, htraces⟩ := pathEvent_frame s gk v 0x8003 i 0
  have hout : mget? (({ s with traces := traces } : State).modPath gk v fun p => { p with entry := none }).groups gk =
      some (g.modPath v fun p => { p with entry := none }) := mget_modPath_group hg _
  have hin : mget? (g.modPath v fun p => { p with entry := none }).paths pid = some p := (mget_modPath _ _ _ _).trans ((if_neg hne.symm).trans hp)
  refine ⟨_, _, ?_, mget_modPath_group hout fun p => { p with entry := some i }, mget_modPath_self hin _,
    (mget_modPath _ _ _ _).trans ((if_neg hne).trans (mget_modPath_self hv _)), rfl⟩
  rw [exec_pathFill, execPathFill, hg]
  dsimp only
  rw [hold, hfull]
  dsimp only
  rw [htraces]

end Fill

/-! ### Grants (R144) -/

section Grant
variable {r : GrowReq} {l : List GrowReq}

theorem grant_waits (hg : mget? s.groups gk = some g) (hq : (s.quarter (quarterOf gk)).growq = r :: l) (hgk : r.gk = gk) (hmax : g.blocks + r.n ≤ 32)
    (hroom : s.freeBlocks (quarterOf gk) < g.width * r.n) : exec (.growGrant (quarterOf gk)) s = .next s := by
  rw [exec_growGrant, execGrowGrant]
  dsimp only
  rw [hq]
  dsimp only
  rw [hgk, hg]
  dsimp only
  rw [if_neg (by omega), if_neg (by omega)]

theorem Path.pass_keeps (p : Path) : p.pass.mask = p.mask ∧ p.pass.hold = p.hold := by
  unfold Path.pass
  split_ifs
  · exact ⟨rfl, rfl⟩
  · rw [loopStep_frame]
    exact ⟨rfl, rfl⟩

theorem grant_fits (hg : mget? s.groups gk = some g) (hp : mget? g.paths pid = some p) (hq : (s.quarter (quarterOf gk)).growq = r :: l) (hgk : r.gk = gk)
    (hpid : r.pid = pid) (hmax : g.blocks + r.n ≤ 32) (hroom : g.width * r.n ≤ s.freeBlocks (quarterOf gk)) :
    ∃ t g' x, exec (.growGrant (quarterOf gk)) s = .next t ∧ (t.quarter (quarterOf gk)).growq = l ∧ mget? t.groups gk = some g' ∧ g'.blocks = g.blocks + r.n ∧
      g'.v = g.v ∧ mget? g'.paths pid = some x ∧ x.mask = p.mask ∧ (p.hold = false → x.st = .ready) := by
  obtain ⟨hmask, hhold⟩ := p.pass_keeps
  have hout : mget? ((s.setQuarter (quarterOf gk) { s.quarter (quarterOf gk) with growq := l }).modGroup gk fun g => g.grow r.n).groups gk = some (g.grow r.n) := by
    rw [mget_modGroup, if_pos rfl, groups_setQuarter, hg, Option.map_some]
  have hexec : exec (.growGrant (quarterOf gk)) s = .next
      (((s.setQuarter (quarterOf gk) { s.quarter (quarterOf gk) with growq := l }).modGroup gk fun g => g.grow r.n).release gk pid) := by
    rw [exec_growGrant, execGrowGrant]
    dsimp only
    rw [hq]
    dsimp only
    rw [hgk, hpid, hg]
    dsimp only
    rw [if_neg (by omega), if_pos hroom]
  exact ⟨_, _, _, hexec, congrArg Quarter.growq (quarter_setQuarter_self s (quarterOf gk) { s.quarter (quarterOf gk) with growq := l }),
    mget_modPath_group hout _, rfl, rfl, mget_modPath_self hp _, hmask, fun h => Path.st_wake (hhold.trans h) _ _⟩

end Grant

/-! ### Boosts (R260) -/

theorem boost (hg : mget? s.groups gk = some g) (hp : mget? g.paths pid = some p) : exec (.pathBoost gk pid) s = .next
    (if p.st = .ready ∧ 4096 ≤ p.idle + (if g.runs pid then s.coreCycle (coreOf gk) - p.since else 0) then
      { s with groups := mset s.groups gk { g with paths := mset g.paths pid { p with boosted := true } } } else s) := by
  rw [exec_pathBoost, execPathBoost, hg]
  dsimp only
  rw [hp]
  dsimp only
  rw [modPath_of_mget hg hp]
  congr 1
  exact if_congr (by rw [Bool.and_eq_true, decide_eq_true_eq, decide_eq_true_eq]; rfl) rfl rfl

/-! ### Chains interrupted (R261) -/

/-- The state with other requests of sends under way and other traces. -/
def State.unheard (s : State) (sends : Map SendReq) (traces : Map TraceCore) : State := { s with sends := sends, traces := traces }

section Unheard
variable (sends : Map SendReq) (traces : Map TraceCore)

theorem walk_unheard (s : State) (va lvl table : ℕ) : walk (s.unheard sends traces) va lvl table = walk s va lvl table := by
  induction lvl generalizing table with
  | zero => rfl
  | succ lvl ih =>
    rw [walk, walk, ih]
    rfl

/-- A translation finds the same leaf. -/
theorem translate_unheard (s : State) (u p asid va : ℕ) : ((s.unheard sends traces).translate u p asid va).1 = (s.translate u p asid va).1 := by
  have htlbs : (s.unheard sends traces).tlbs = s.tlbs := rfl
  have hwalks : (s.unheard sends traces).walks = s.walks := rfl
  have htick : (s.unheard sends traces).tick = s.tick := rfl
  have hasid : (s.unheard sends traces).asidRec p asid = s.asidRec p asid := rfl
  unfold State.translate
  dsimp only
  rw [htlbs, hwalks, htick, hasid]
  split
  · rfl
  · rw [walk_unheard]
    split <;> rfl

theorem place_unheard (s : State) (u p asid : ℕ) (sys : Bool) (k : AccKind) (va : ℕ) :
    ((s.unheard sends traces).place u p asid sys k va).1 = (s.place u p asid sys k va).1 := by
  have hleaf := translate_unheard sends traces s u p asid va
  have hs := Translated.translate s u p asid va
  have ht := Translated.translate (s.unheard sends traces) u p asid va
  unfold State.place
  split_ifs
  · rfl
  · rfl
  · rfl
  · revert hleaf hs ht
    rcases s.translate u p asid va with ⟨r, s'⟩
    rcases (s.unheard sends traces).translate u p asid va with ⟨r', t'⟩
    rintro ⟨⟩ hs ht
    cases r with
    | error c => rfl
    | ok x =>
      have hrange : ∀ pa, t'.rangeOf p pa = s'.rangeOf p pa := fun pa => (ht.rangeOf p pa).trans (hs.rangeOf p pa).symm
      have hphys : ∀ pa, t'.phys pa = s'.phys pa := fun pa => (ht.phys pa).trans (hs.phys pa).symm
      dsimp only
      rw [hrange, hphys]
      cases s'.rangeOf p _ <;> split_ifs <;> rfl

theorem chAt_unheard (s : State) (gk : ℕ) (g : Group) (pc : Pc) : (s.unheard sends traces).chAt gk g pc = s.chAt gk g pc := by
  have hplace := place_unheard sends traces s (quarterOf gk) (s.launch g.launch).part (s.launch g.launch).asid (s.isSys g) .fetch pc.toNat
  have hlaunch : (s.unheard sends traces).launch g.launch = s.launch g.launch := rfl
  have hsys : (s.unheard sends traces).isSys g = s.isSys g := rfl
  unfold State.chAt
  dsimp only
  rw [hlaunch, hsys]
  revert hplace
  rcases s.place _ _ _ _ _ _ with ⟨x, s'⟩
  rcases (s.unheard sends traces).place _ _ _ _ _ _ with ⟨x', t'⟩
  rintro ⟨⟩
  cases x <;> rfl

theorem inside_unheard (s : State) (k : Chain) (gk pid : ℕ) : (s.unheard sends traces).inside k gk pid = s.inside k gk pid := by
  have hgroups : (s.unheard sends traces).groups = s.groups := rfl
  unfold State.inside
  simp only [hgroups, chAt_unheard]

end Unheard

section Cut
variable {k : Chain}

theorem isOf_of_inside (h : s.inside k gk pid = true) : k.isOf gk pid = true := (Bool.and_eq_true_iff.1 h).1

/-- The path back at the head of its chain. -/
def Path.rewound (p : Path) (k : Chain) : Path := { p with pc := k.head, lastCh := false, ilen := 0, back := none }

/-- A chain in progress cut: its path is at the head, with the stream counter of then, and the quarter is rid of the chain and its latches (R44, R68). -/
theorem cutChain_inside (hchain : (s.quarter (quarterOf gk)).chain = some k) (hin : s.inside k gk pid = true) : s.cutChain gk pid =
    ((s.setQuarter (quarterOf gk) { s.quarter (quarterOf gk) with chain := none, latch := [] }).modGroup gk fun g => { g with ctr := k.ctr }).modPath gk pid
      fun p => p.rewound k := by
  have hrestart : s.restartOf gk pid = some { head := k.head, ctr := k.ctr } := by
    unfold State.restartOf
    dsimp only
    rw [hchain]
    dsimp only
    rw [if_pos hin]
  have hend : s.endChain gk pid = s.setQuarter (quarterOf gk) { s.quarter (quarterOf gk) with chain := none, latch := [] } := by
    unfold State.endChain
    dsimp only
    rw [hchain]
    dsimp only
    rw [if_pos (isOf_of_inside hin)]
  unfold State.cutChain
  dsimp only
  rw [hrestart, hend]
  rfl

theorem interrupt_inside (hchain : (s.quarter (quarterOf gk)).chain = some k) (hin : s.inside k gk pid = true) (sends : Map SendReq) :
    ∃ traces, (s.unheard sends s.traces).interrupt gk pid = (s.unheard sends traces).cutChain gk pid := by
  obtain ⟨traces, htraces⟩ := pathEvent_frame (s.unheard sends s.traces) gk pid 0x8002 0 0
  have hquarter : ((s.unheard sends s.traces).quarter (quarterOf gk)).chain = some k := hchain
  refine ⟨traces, ?_⟩
  unfold State.interrupt
  rw [hquarter]
  dsimp only
  rw [inside_unheard, if_pos hin, htraces]
  rfl

/-- An interrupted chain, and then its path changed by `f`. -/
theorem interrupt_path (hg : mget? s.groups gk = some g) (hp : mget? g.paths pid = some p) (hchain : (s.quarter (quarterOf gk)).chain = some k)
    (hin : s.inside k gk pid = true) (sends : Map SendReq) (f : Path → Path) :
    ∃ g', let t := ((s.unheard sends s.traces).interrupt gk pid).modPath gk pid f
      (t.quarter (quarterOf gk)).chain = none ∧ (t.quarter (quarterOf gk)).latch = [] ∧ mget? t.groups gk = some g' ∧ g'.ctr = k.ctr ∧ g'.v = g.v ∧
        mget? g'.paths pid = some (f (p.rewound k)) := by
  obtain ⟨traces, hcut⟩ := interrupt_inside hchain hin sends
  have hquarter : ((s.unheard sends traces).quarter (quarterOf gk)).chain = some k := hchain
  have hgroup : mget? (((s.unheard sends traces).setQuarter (quarterOf gk) { s.quarter (quarterOf gk) with chain := none, latch := [] }).modGroup gk
      fun g => { g with ctr := k.ctr }).groups gk = some { g with ctr := k.ctr } := by
    rw [mget_modGroup, if_pos rfl, groups_setQuarter]
    exact congrArg _ hg
  have hidle := quarter_setQuarter_self (s.unheard sends traces) (quarterOf gk) { s.quarter (quarterOf gk) with chain := none, latch := [] }
  rw [hcut, cutChain_inside hquarter ((inside_unheard sends traces s k gk pid).trans hin)]
  exact ⟨_, congrArg Quarter.chain hidle, congrArg Quarter.latch hidle, mget_modPath_group (mget_modPath_group hgroup _) _, rfl, rfl,
    mget_modPath_self (mget_modPath_self hp _) _⟩

/-- A path whose chain has been interrupted waits no longer, and this chain is not interrupted again. -/
def Path.resumed (p : Path) (now : ℕ) (head : Pc) : Path :=
  { (match p.st with | .waiting _ => p.wake now false | _ => p) with noCut := some head }

theorem Path.resumed_keeps (p : Path) (now : ℕ) (head : Pc) : (p.resumed now head).pc = p.pc ∧ (p.resumed now head).mask = p.mask := by
  unfold Path.resumed
  split <;> exact ⟨rfl, rfl⟩

theorem Path.st_resumed_of_waiting {w : WaitFor} (hw : p.st = .waiting w) (hhold : p.hold = false) (now : ℕ) (head : Pc) :
    (p.resumed now head).st = .ready := by
  unfold Path.resumed
  rw [hw]
  exact Path.st_wake hhold now false

theorem Path.st_resumed (hw : ∀ w, p.st ≠ .waiting w) (now : ℕ) (head : Pc) : (p.resumed now head).st = p.st := by
  unfold Path.resumed
  split
  · next w h => exact absurd h (hw w)
  · rfl

theorem interrupt_resumes (hg : mget? s.groups gk = some g) (hp : mget? g.paths pid = some p) (hchain : (s.quarter (quarterOf gk)).chain = some k)
    (hin : s.inside k gk pid = true) (sends : Map SendReq) :
    ∃ t g' x, (.next (((s.unheard sends s.traces).interrupt gk pid).modPath gk pid fun p => p.resumed (s.coreCycle (coreOf gk)) k.head) :
        Host.Outcome State Fault Refusal) = .next t ∧
      (t.quarter (quarterOf gk)).chain = none ∧ (t.quarter (quarterOf gk)).latch = [] ∧
      mget? t.groups gk = some g' ∧ g'.ctr = k.ctr ∧ g'.v = g.v ∧ mget? g'.paths pid = some x ∧ x.pc = k.head ∧ x.mask = p.mask ∧
      (∀ w, p.st = .waiting w → p.hold = false → x.st = .ready) ∧ ((∀ w, p.st ≠ .waiting w) → x.st = p.st) := by
  obtain ⟨g', hidle, hlatch, hgroup, hctr, hv, hpath⟩ := interrupt_path hg hp hchain hin sends fun p => p.resumed (s.coreCycle (coreOf gk)) k.head
  obtain ⟨hpc, hmask⟩ := (p.rewound k).resumed_keeps (s.coreCycle (coreOf gk)) k.head
  exact ⟨_, g', _, rfl, hidle, hlatch, hgroup, hctr, hv, hpath, hpc, hmask,
    fun w hw hhold => Path.st_resumed_of_waiting (p := p.rewound k) hw hhold _ _, fun hw => Path.st_resumed (p := p.rewound k) hw _ _⟩

theorem chain_goes_on (hg : mget? s.groups gk = some g) (hp : mget? g.paths pid = some p) (hchain : (s.quarter (quarterOf gk)).chain = some k)
    (hgk : k.gk = gk) (hpid : k.pid = pid) (hsoon : s.coreCycle (coreOf gk) - k.since < 4096) : exec (.chainInterrupt (quarterOf gk)) s = .next s := by
  rw [exec_chainInterrupt, execChainInterrupt, hchain]
  dsimp only
  rw [hgk, hpid, hg]
  dsimp only
  rw [hp]
  dsimp only
  rw [if_neg]
  simp only [Bool.and_eq_true, decide_eq_true_eq]
  rintro ⟨-, hlate⟩
  omega

theorem chain_interrupted (hg : mget? s.groups gk = some g) (hp : mget? g.paths pid = some p) (hchain : (s.quarter (quarterOf gk)).chain = some k)
    (hgk : k.gk = gk) (hpid : k.pid = pid) (hin : s.inside k gk pid = true) (hst : p.st ≠ .ready) (hcut : p.noCut ≠ some k.head)
    (hlate : 4096 ≤ s.coreCycle (coreOf gk) - k.since) :
    ∃ t g' x, exec (.chainInterrupt (quarterOf gk)) s = .next t ∧ (t.quarter (quarterOf gk)).chain = none ∧ (t.quarter (quarterOf gk)).latch = [] ∧
      mget? t.groups gk = some g' ∧ g'.ctr = k.ctr ∧ g'.v = g.v ∧ mget? g'.paths pid = some x ∧ x.pc = k.head ∧ x.mask = p.mask ∧
      (∀ w, p.st = .waiting w → p.hold = false → x.st = .ready) ∧ ((∀ w, p.st ≠ .waiting w) → x.st = p.st) := by
  have hdue : (s.inside k gk pid && p.st != .ready && p.noCut != some k.head && decide (s.coreCycle (coreOf gk) - k.since ≥ 4096)) = true := by
    rw [hin, decide_eq_true (show s.coreCycle (coreOf gk) - k.since ≥ 4096 from hlate), Bool.true_and, Bool.and_true, Bool.and_eq_true]
    exact ⟨bne_iff_ne.2 hst, bne_iff_ne.2 hcut⟩
  rw [exec_chainInterrupt, execChainInterrupt, hchain]
  dsimp only
  rw [hgk, hpid, hg]
  dsimp only
  rw [hp]
  dsimp only
  rw [if_pos hdue]
  split
  · next id _ => exact interrupt_resumes hg hp hchain hin (merase s.sends id)
  · exact interrupt_resumes hg hp hchain hin s.sends

end Cut

theorem pcOf_of_mget (hg : mget? s.groups gk = some g) (hp : mget? g.paths pid = some p) : s.pcOf gk pid = p.pc := by
  unfold State.pcOf
  rw [hg]
  dsimp only
  rw [hp]

/-! ### The watchdog (R263) -/

theorem watchdog_rests (hg : mget? s.groups gk = some g)
    (h : g.watchdog < 2 ^ 20 ∨ g.watchdog % 2 ^ 16 ≠ 0 ∨ g.handler.isSome = true ∨ s.starves gk = false) : exec (.watchdog gk) s = .next s := by
  rw [exec_watchdog, execWatchdog, hg]
  dsimp only
  rw [if_neg]
  simp only [Bool.and_eq_true, decide_eq_true_eq, Option.isNone_iff_eq_none]
  rintro ⟨⟨⟨⟨⟨hcount, hmultiple⟩, hhandler⟩, -⟩, -⟩, hstarves⟩
  rcases h with h | h | h | h
  · omega
  · exact h hmultiple
  · rw [hhandler] at h
    cases h
  · rw [h] at hstarves
    cases hstarves

section Watchdog
variable (hg : mget? s.groups gk = some g) (hcount : 2 ^ 20 ≤ g.watchdog) (hmultiple : g.watchdog % 2 ^ 16 = 0) (hhandler : g.handler = none)
  (halive : g.dead = false) (hruns : g.stopped = false) (hstarves : s.starves gk = true)
include hcount hmultiple hhandler halive hruns hstarves

theorem watchdog_due : (g.watchdog ≥ 2 ^ 20 && g.watchdog % 2 ^ 16 = 0 && g.handler.isNone && !g.dead && !g.stopped && s.starves gk) = true := by
  rw [hhandler, halive, hruns, hstarves, decide_eq_true hmultiple, decide_eq_true (show g.watchdog ≥ 2 ^ 20 from hcount)]
  rfl

include hg

theorem watchdog_strikes (hp : mget? g.paths pid = some p) (hpark : g.park = none) (hstruck : g.struck = some pid) :
    exec (.watchdog gk) s = .next (s.trapAt gk pid ⟨.watchdog, g.watchdog⟩ g.lastPc p.pc) := by
  rw [exec_watchdog, execWatchdog, hg]
  dsimp only
  rw [if_pos (watchdog_due hcount hmultiple hhandler halive hruns hstarves), hpark, hstruck, Option.isSome_none, if_neg Bool.false_ne_true]
  dsimp only
  rw [pcOf_of_mget hg hp]

theorem watchdog_waits (hnone : g.park.isSome = true ∨ g.struck = none) :
    exec (.watchdog gk) s = .next (s.modGroup gk fun g => { g with wdDue := true }) := by
  have hstruck : (if g.park.isSome then none else g.struck) = none := by
    rcases hnone with h | h
    · rw [if_pos h]
    · rw [h, ite_self]
  rw [exec_watchdog, execWatchdog, hg]
  dsimp only
  rw [if_pos (watchdog_due hcount hmultiple hhandler halive hruns hstarves), hstruck]

end Watchdog

/-! ### Long handlers (R351) -/

section Long
variable {h : Handler}

theorem handler_unreported (hg : mget? s.groups gk = some g) (hh : g.handler = some h)
    (hno : h.reported = true ∨ s.coreCycle (coreOf gk) - h.since ≤ 1000000) : exec (.longHandler gk) s = .next s := by
  rw [exec_longHandler, execLongHandler, hg]
  dsimp only
  rw [hh]
  dsimp only
  rw [if_neg]
  simp only [Bool.and_eq_true, decide_eq_true_eq, Bool.not_eq_true']
  rintro ⟨hfresh, hlong⟩
  rcases hno with hno | hno
  · rw [hno] at hfresh
    cases hfresh
  · omega

theorem handler_reported (hg : mget? s.groups gk = some g) (hp : mget? g.paths pid = some p) (hh : g.handler = some h) (hfresh : h.reported = false)
    (hpid : h.pid = pid) (hlong : 1000000 < s.coreCycle (coreOf gk) - h.since) :
    ∃ t f, exec (.longHandler gk) s = .next t ∧ mget? t.frecs s.nextId = some f ∧ f.kind = 11 ∧ f.gk = some gk ∧ f.mask = p.mask ∧ f.pc = p.pc.toNat ∧
      mget? t.groups gk = some { g with handler := some { h with reported := true } } ∧ t.mem = s.mem := by
  obtain ⟨f, hfault, hrec⟩ := groupFault_record hg 11 0 0 p.mask p.pc
  have hexec : exec (.longHandler gk) s = .next
      ((s.groupFault gk 11 0 p.mask p.pc 0).2.modGroup gk fun g => { g with handler := some { h with reported := true } }) := by
    rw [exec_longHandler, execLongHandler, hg]
    dsimp only
    rw [hh]
    dsimp only
    rw [if_pos (by rw [hfresh, decide_eq_true hlong]; rfl), hpid, hp, pcOf_of_mget hg hp]
    rfl
  rw [hfault] at hexec
  obtain ⟨hkind, hgk, hmask, hpc⟩ := hrec
  exact ⟨_, f, hexec, mget?_mset_self _ _ _, hkind, hgk, hmask, hpc, (mget_modGroup _ gk gk _).trans ((if_pos rfl).trans (congrArg _ hg)), rfl⟩

end Long

end Quarter

/-- Settles O47: each event by the lemmas on it. -/
theorem quarterEvents : Obligations.QuarterEvents := by
  unfold Obligations.QuarterEvents
  intro s gk pid g p hg hp
  exact ⟨fill_nothing hg, fun i => fill_free hg hp, fun i v x hold hfull hv hne => fill_exchanges hg hp hold hfull hv hne,
    fun r l hq hgk hpid hmax => ⟨grant_waits hg hq hgk hmax, grant_fits hg hp hq hgk hpid hmax⟩, boost hg hp,
    fun k hchain hgk hpid hin hst => ⟨chain_goes_on hg hp hchain hgk hpid, chain_interrupted hg hp hchain hgk hpid hin hst⟩,
    watchdog_rests hg,
    fun hcount hmultiple hhandler halive hruns hstarves => ⟨watchdog_strikes hg hcount hmultiple hhandler halive hruns hstarves hp,
      watchdog_waits hg hcount hmultiple hhandler halive hruns hstarves⟩,
    fun h hh hfresh hpid hlong => handler_reported hg hp hh hfresh hpid hlong, fun h hh hno => handler_unreported hg hh hno⟩

end Sys2Proof.Machine

/-! PROOF. Floating-point arithmetic and conversions (O16, O17). -/

namespace Sys2Proof

/-! ### Comparison of exact numbers (R54, R160) -/

theorem Q.lt_asymm {a b : Q} (h : a.lt b = true) : b.lt a = false := by
  unfold Q.lt at *
  rw [min_comm b.e a.e]
  exact decide_eq_false (not_lt.2 (of_decide_eq_true h).le)

theorem Num.eq_comm (a b : Num) : a.eq b = b.eq a := by
  unfold Num.eq
  cases a with
  | nan => cases b <;> rfl
  | inf p =>
    cases b with
    | inf n => exact Bool.beq_comm
    | _ => rfl
  | fin x =>
    cases b with
    | fin y => exact Bool.and_comm _ _
    | _ => rfl

/-- Numbers that are not NaN are ordered: one is less than or equal to another where it is not greater. -/
theorem Num.lt_or_eq {a b : Num} (ha : a.isNaN = false) (hb : b.isNaN = false) : (a.lt b || a.eq b) = !b.lt a := by
  cases a with
  | nan => cases ha
  | inf p =>
    cases b with
    | nan => cases hb
    | inf n => cases p <;> cases n <;> rfl
    | fin y => cases p <;> rfl
  | fin x =>
    cases b with
    | nan => cases hb
    | inf n => cases n <;> rfl
    | fin y =>
      unfold Num.lt Num.eq
      dsimp only
      cases hlt : x.lt y with
      | true => rw [Q.lt_asymm hlt]; rfl
      | false => rfl

/-! ### Roles of field B (R118) -/

theorem roleOk_b_of_fieldReject {x : Enc} (h : fieldReject x = none) : roleOk x.uni x.shape.b x.o.b = true := by
  unfold fieldReject at h
  dsimp only at h
  split_ifs at h with hsel
  simp only [Bool.or_eq_true, Bool.not_eq_true', not_or, Bool.not_eq_false, Bool.and_eq_true] at hsel
  obtain ⟨-, ⟨⟨⟨-, hb⟩, -⟩, -⟩, -⟩ := hsel
  exact hb

theorem shape_b_of_row {x : Enc} {r : OpRow} {ro : Role} (hr : opRow x.op = some r) (himc : r.imc = false)
    (hlast : (r.shape x.m (immLen x.o.imm)).lastImm = false) (hb : (r.shape x.m (immLen x.o.imm)).b = ro) : x.shape.b = ro := by
  rw [← hb]
  simp only [Enc.shape, hr, formShape, himc, hlast, Bool.and_false, Bool.false_eq_true, if_false]

end Sys2Proof

namespace Sys2Proof.Machine

/-! ### The arms of the instructions -/

section Arms
variable (o : Ops) (s : State)

theorem exec_fadd : exec (.fadd o) s = execFadd o s := rfl
theorem exec_fsub : exec (.fsub o) s = execFsub o s := rfl
theorem exec_fmul : exec (.fmul o) s = execFmul o s := rfl
theorem exec_fdiv : exec (.fdiv o) s = execFdiv o s := rfl
theorem exec_ffma : exec (.ffma o) s = execFfma o s := rfl
theorem exec_frcp : exec (.frcp o) s = execFrcp o s := rfl
theorem exec_frsq : exec (.frsq o) s = execFrsq o s := rfl
theorem exec_fsqrt : exec (.fsqrt o) s = execFsqrt o s := rfl
theorem exec_fexp2 : exec (.fexp2 o) s = execFexp2 o s := rfl
theorem exec_flog2 : exec (.flog2 o) s = execFlog2 o s := rfl
theorem exec_fsin : exec (.fsin o) s = execFsin o s := rfl
theorem exec_fcos : exec (.fcos o) s = execFcos o s := rfl
theorem exec_ftanh : exec (.ftanh o) s = execFtanh o s := rfl
theorem exec_fsigm : exec (.fsigm o) s = execFsigm o s := rfl
theorem exec_fscl : exec (.fscl o) s = execFscl o s := rfl
theorem exec_fmin : exec (.fmin o) s = execFmin o s := rfl
theorem exec_fmax : exec (.fmax o) s = execFmax o s := rfl
theorem exec_fabs : exec (.fabs o) s = execFabs o s := rfl
theorem exec_fneg : exec (.fneg o) s = execFneg o s := rfl
theorem exec_fcmp (r : FCmp) : exec (.fcmp r o) s = execFcmp r o s := rfl
theorem exec_fclass : exec (.fclass o) s = execFclass o s := rfl
theorem exec_frnd (r : FRMode) : exec (.frnd r o) s = execFrnd r o s := rfl
theorem exec_cvt (src dst : VFmt) : exec (.cvt src dst o) s = execCvt src dst o s := rfl
theorem exec_cvtb (dst : B8) : exec (.cvtb dst o) s = execCvtb dst o s := rfl
theorem exec_cvtn : exec (.cvtn o) s = execCvtn o s := rfl
theorem exec_cvtx (src : XFmt) : exec (.cvtx src o) s = execCvtx src o s := rfl

end Arms

/-! ### Rounding instructions (R155, R157, R158, R162 to R165) -/

section Rounding
variable {i : Instr} {s : State} {c e : Ctx} {o : Ops} {op m n : ℕ}

/-- An instruction whose effect is a rounded result completes with it. -/
theorem rounded_completes {x : Enc} {wd : ℕ} {f : Ctx → ℕ → ℕ} (hexec : exec i s = perform i noDetail noPriv (fun c => c.rounded wd (f c)) s)
    (h : Issues i s c e) (hx : i.enc = some x) (hd : x.shape.d = .dst n) : Completes i s e (Writes.rounded e wd (f e)) :=
  completes_of_perform hexec h rfl rfl (rounded_done (issues_entered h) (dstFits_of_issues h hx hd) wd (f e))

theorem fuse1_completes (f : Sys2Proof.Num → Sys2Proof.Num) (hexec : exec i s = fuse1 i f s) (h : Issues i s c e) (hx : i.enc = some ⟨op, m, o⟩)
    (hd : (Enc.shape ⟨op, m, o⟩).d = .dst 1) : Completes i s e (Writes.rounded e 1 fun l => e.rnd32 l (f (e.fop o.a true l))) := by
  have hops : e.o = o := (ops_of_issues h hx).2
  rw [← hops]
  exact rounded_completes (f := fun c l => c.rnd32 l (f (c.fop c.o.a true l))) hexec h hx hd

theorem fuse2_completes (f : Bool → Sys2Proof.Num → Sys2Proof.Num → Sys2Proof.Num) (hexec : exec i s = fuse2 i f s) (h : Issues i s c e)
    (hx : i.enc = some ⟨op, m, o⟩) (hd : (Enc.shape ⟨op, m, o⟩).d = .dst 1) :
    Completes i s e (Writes.rounded e 1 fun l => e.rnd32 l (f (e.rnd == .rdn) (e.fop o.a false l) (e.fop o.b true l))) := by
  have hops : e.o = o := (ops_of_issues h hx).2
  rw [← hops]
  exact rounded_completes (f := fun c l => c.rnd32 l (f (c.rnd == .rdn) (c.fop c.o.a false l) (c.fop c.o.b true l))) hexec h hx hd

theorem ffma_completes (h : Issues (.ffma o) s c e) :
    Completes (.ffma o) s e (Writes.rounded e 1 fun l =>
      e.rnd32 l (Num.add (e.rnd == .rdn) ((e.fop o.a false l).mul (e.fop o.b false l)) (e.fop o.c.asSel true l))) := by
  have hops : e.o = o := (ops_of_issues h rfl).2
  have hsel : e.cSel = o.c.asSel := by rw [Ctx.cSel, hops]
  rw [← hsel]
  exact rounded_completes (f := fun c l => c.rnd32 l (Num.add (c.rnd == .rdn) ((c.fop o.a false l).mul (c.fop o.b false l)) (c.fop c.cSel true l)))
    (exec_ffma o s) h rfl (shape_d_of_row (ro := .dst 1) rfl rfl)

theorem fscl_completes (h : Issues (.fscl o) s c e) :
    Completes (.fscl o) s e (Writes.rounded e 1 fun l => e.rnd32 l ((e.fop o.a false l).scale (clampExp (e.opd o.b true true 1 l).toInt))) := by
  have hdone := rounded_completes (f := fun c l => c.rnd32 l ((c.fop o.a false l).scale (clampExp (sext (c.src o.b true true 1 l) 32)))) (exec_fscl o s) h rfl
    (shape_d_of_row (ro := .dst 1) rfl rfl)
  simpa only [← toNat_opd e _ _ _ one_pos, sext_toNat_of_pos (n := 32 * 1) (by decide)] using hdone

end Rounding

/-! ### Selection, sign and comparison (R159, R160) -/

section Selection
variable {i : Instr} {s : State} {c e : Ctx} {o : Ops} {op m : ℕ}

theorem fsel_completes (wantMax : Bool) (hexec : exec i s = fsel i wantMax s) (h : Issues i s c e) (hx : i.enc = some ⟨op, m, o⟩)
    (hd : (Enc.shape ⟨op, m, o⟩).d = .dst 1) :
    Completes i s e (Writes.result e 1 fun l =>
      (fMinMax e.ftz wantMax (BitVec.ofNat 32 (e.src o.a false false 1 l)) (BitVec.ofNat 32 (e.src o.b true false 1 l))).toNat) := by
  have hops : e.o = o := (ops_of_issues h hx).2
  rw [← hops]
  exact result_completes (f := fun c l =>
    (fMinMax c.ftz wantMax (BitVec.ofNat 32 (c.src c.o.a false false 1 l)) (BitVec.ofNat 32 (c.src c.o.b true false 1 l))).toNat) hexec h hx hd

/-- FABS and FNEG: `f` of the word, flushed first, or the canonical NaN. -/
theorem fsign_completes (f : W32 → W32) (hexec : exec i s = perform i noDetail noPriv (fun c => c.result 1 fun l => fsign c.ftz f (c.src o.a true false 1 l)) s)
    (h : Issues i s c e) (hx : i.enc = some ⟨op, m, o⟩) (hd : (Enc.shape ⟨op, m, o⟩).d = .dst 1) :
    Completes i s e (Writes.result e 1 fun l =>
      if (f32 (BitVec.ofNat 32 (e.src o.a true false 1 l))).isNaN then 0x7FC00000 else (f (flush32 e.ftz (BitVec.ofNat 32 (e.src o.a true false 1 l)))).toNat) :=
  result_completes (f := fun c l => fsign c.ftz f (c.src o.a true false 1 l)) hexec h hx hd

theorem fcmpHolds_le (a b : Sys2Proof.Num) : fcmpHolds .le a b = (!(a.isNaN || b.isNaN) && !b.lt a) := by
  unfold fcmpHolds
  dsimp only
  cases hun : a.isNaN || b.isNaN with
  | true => rfl
  | false =>
    obtain ⟨ha, hb⟩ := Bool.or_eq_false_iff.1 hun
    rw [Num.lt_or_eq ha hb]

theorem fcmpHolds_ge (a b : Sys2Proof.Num) : fcmpHolds .ge a b = (!(a.isNaN || b.isNaN) && !a.lt b) := by
  rw [Bool.or_comm a.isNaN, ← fcmpHolds_le]
  simp only [fcmpHolds, Bool.or_comm a.isNaN, Num.eq_comm a]

theorem fcmp_completes (r : FCmp) (h : Issues (.fcmp r o) s c e) :
    Completes (.fcmp r o) s e (Writes.predicate e e.acts fun l => fcmpHolds r (e.fop o.a false l) (e.fop o.b true l)) :=
  predicate_completes Ctx.acts (fun c l => fcmpHolds r (c.fop o.a false l) (c.fop o.b true l)) (exec_fcmp o s r) h rfl

section Fields
variable (w : W32)

theorem f32_eq_decode : FF.f32.val w.toNat = FF.f32.decode (w.getLsbD 31) (w.extractLsb' 23 8).toNat (w.extractLsb' 0 23).toNat := by
  rw [FF.val_eq_decode, getLsbD_eq_bit, BitVec.extractLsb'_toNat, BitVec.extractLsb'_toNat, Nat.shiftRight_eq_div_pow]
  rfl

theorem isSub_toNat : FF.f32.isSub w.toNat = ((w.extractLsb' 23 8).toNat == 0 && (w.extractLsb' 0 23).toNat != 0) := by
  rw [FF.isSub, BitVec.extractLsb'_toNat, BitVec.extractLsb'_toNat, Nat.shiftRight_eq_div_pow]
  rfl

/-- The class of a word by its value is that by its fields. -/
theorem fclass_toNat : fclass w.toNat = classOf32 w := by
  unfold fclass classOf32
  rw [f32_eq_decode, isSub_toNat]
  generalize (w.extractLsb' 23 8).toNat = x, (w.extractLsb' 0 23).toNat = m, w.getLsbD 31 = neg
  unfold FF.decode
  by_cases htop : x = 255
  · by_cases hm : m = 0 <;> simp [FF.expo, htop, hm]
  · by_cases hx : x = 0
    · by_cases hm : m = 0 <;> simp [FF.expo, hx, hm]
    · simp [FF.expo, htop, hx]

end Fields

theorem fclass_completes (h : Issues (.fclass o) s c e) :
    Completes (.fclass o) s e (Writes.result e 1 fun l => classOf32 (BitVec.ofNat 32 (e.src o.a true false 1 l))) := by
  have hdone := result_completes (f := fun c l => fclass (c.src o.a true false 1 l)) (exec_fclass o s) h rfl (shape_d_of_row (ro := .dst 1) rfl rfl)
  simp only [← toNat_opd_one, fclass_toNat] at hdone
  exact hdone

/-! ### FRND (R161) -/

theorem frnd_fmt_completes (h : Issues (.frnd .fmt o) s c e) :
    Completes (.frnd .fmt o) s e (Writes.rounded e 1 fun l => frnd (e.rctx l) (e.src o.a true false 1 l)) :=
  rounded_completes (f := fun c l => frnd (c.rctx l) (c.src o.a true false 1 l)) (exec_frnd o s .fmt) h rfl (shape_d_of_row (ro := .dst 1) rfl rfl)

theorem frnd_mode_completes {r : FRMode} {md : RMode} (hr : frndMode r = some md) (h : Issues (.frnd r o) s c e) :
    Completes (.frnd r o) s e (Writes.result e 1 fun l => frnd { mode := md, sat := false, ftz := e.ftz, dither := 0 } (e.src o.a true false 1 l)) :=
  result_completes (f := fun c l => frnd { mode := md, sat := false, ftz := c.ftz, dither := 0 } (c.src o.a true false 1 l))
    (by simp only [exec_frnd, execFrnd, hr]) h rfl (shape_d_of_row (ro := .dst 1) rfl rfl)

end Selection

/-- Settles O16: the rounding instructions as those of one or two sources, FFMA and FSCL by themselves; selection, comparison, class and
FRND by the lemma on each. -/
theorem floatArithmetic : Obligations.FloatArithmetic := by
  refine ⟨fun s c e o => ?_, fun s c e o => ?_, fun s c e o => ?_⟩
  · exact ⟨fun h => fuse2_completes Num.add (exec_fadd o s) h rfl (shape_d_of_row rfl rfl),
      fun h => fuse2_completes Num.sub (exec_fsub o s) h rfl (shape_d_of_row rfl rfl),
      fun h => fuse2_completes (fun _ => Num.mul) (exec_fmul o s) h rfl (shape_d_of_row rfl rfl),
      fun h => fuse2_completes (fun _ => Num.div) (exec_fdiv o s) h rfl (shape_d_of_row rfl rfl),
      ffma_completes,
      fun h => fuse1_completes (fun x => one.div x) (exec_frcp o s) h rfl (shape_d_of_row rfl rfl),
      fun h => fuse1_completes (fun x => one.div x.sqrt) (exec_frsq o s) h rfl (shape_d_of_row rfl rfl),
      fun h => fuse1_completes Num.sqrt (exec_fsqrt o s) h rfl (shape_d_of_row rfl rfl)⟩
  · exact ⟨fun h => fuse1_completes exp2Exact (exec_fexp2 o s) h rfl (shape_d_of_row rfl rfl),
      fun h => fuse1_completes log2Exact (exec_flog2 o s) h rfl (shape_d_of_row rfl rfl),
      fun h => fuse1_completes sinExact (exec_fsin o s) h rfl (shape_d_of_row rfl rfl),
      fun h => fuse1_completes cosExact (exec_fcos o s) h rfl (shape_d_of_row rfl rfl),
      fun h => fuse1_completes tanhExact (exec_ftanh o s) h rfl (shape_d_of_row rfl rfl),
      fun h => fuse1_completes sigmExact (exec_fsigm o s) h rfl (shape_d_of_row rfl rfl),
      fscl_completes⟩
  · refine ⟨fun m h => ?_, fun h => ?_, fun h => ?_, fun r h => ?_, fclass_completes, frnd_fmt_completes, fun r m hr h => frnd_mode_completes hr h⟩
    · cases m with
      | false => exact fsel_completes false (exec_fmin o s) h rfl (shape_d_of_row rfl rfl)
      | true => exact fsel_completes true (exec_fmax o s) h rfl (shape_d_of_row rfl rfl)
    · exact fsign_completes (fun x => x &&& 0x7FFFFFFF) (exec_fabs o s) h rfl (shape_d_of_row rfl rfl)
    · exact fsign_completes (fun x => x ^^^ 0x80000000) (exec_fneg o s) h rfl (shape_d_of_row rfl rfl)
    · have hdone := fcmp_completes r h
      cases r with
      | le => simpa only [fcmpHolds_le] using hdone
      | ge => simpa only [fcmpHolds_ge] using hdone
      | _ => exact hdone

/-! ### Blocks and their scales (R168 to R170) -/

section Uniform
variable {s : State} {e : Ctx} {x : Sel}

theorem setSel_uniform (hx : ∀ n, x = .v n → n = 255) (g : Group) (w v : ℕ) :
    ∃ u, g.setSel x 0 v w = { g with s := u } ∧ ∀ r, (g.setSel x 0 v w).uni r = (uniWrites x true w v r).getD (g.uni r) := by
  cases x with
  | s n =>
    obtain ⟨u, hu⟩ := setUni_frame w g n.toNat v
    refine ⟨u, hu, fun r => ?_⟩
    rw [show g.setSel (.s n) 0 v w = g.setUni n.toNat v w from rfl, uni_setUni]
    by_cases hr : n.toNat ≤ r ∧ r < n.toNat + w
    · simp [uniWrites, hr]
    · rw [if_neg hr, uniWrites, if_neg (by simpa using hr), Option.getD_none]
  | v n =>
    obtain rfl := hx n rfl
    have hsame : g.setSel (.v 255) 0 v w = g := by cases w <;> rfl
    rw [hsame]
    exact ⟨g.s, rfl, fun _ => rfl⟩
  | _ => exact ⟨g.s, rfl, fun _ => rfl⟩

/-- Uniform registers written after other writes, which wrote none. -/
theorem Wrote.uniform {w : Writes} {t : State} (h : Wrote e w t) (hw : w.uni = fun _ => none) (hx : ∀ n, x = .v n → n = 255) (k v : ℕ) :
    Wrote e { w with uni := uniWrites x true k v } (t.setUniform e.gk x k v) := by
  obtain ⟨hrest, ⟨g, hg, hframe, hp, hps, hvec, huni, hpred, haff, hlatch⟩, hq⟩ := h
  obtain ⟨u, hu, hread⟩ := setSel_uniform hx g k v
  refine ⟨elsewhere_trans hrest (elsewhere_modGroup _ _ _), ⟨g.setSel x 0 v k, ?_, ?_, ?_, ?_, ?_, fun r hr => ?_, ?_, ?_, hlatch⟩, hq⟩
  · rw [State.setUniform, mget_modGroup, if_pos rfl, hg]; rfl
  · rw [hu, hframe]
  · rw [hu]; exact hp
  · rw [hu]; exact hps
  · rw [hu]; exact hvec
  · rw [hread, huni r hr, hw]; rfl
  · rw [hu]; exact hpred
  · rw [hu]; exact haff

/-- What CVTB and CVTN write: rounded words of the blocks' elements under their scales, and the scales in the uniform register `y`. -/
def Writes.quantised (e : Ctx) (y : Sel) (perm : ℕ → ℕ) (maxf : ℕ) (f : List Sys2Proof.Num → Option ℕ → ℕ → ℕ) : Writes :=
  let xs := (List.range e.blocks).map (e.elements perm)
  let es := xs.map (blockScale maxf)
  { Writes.rounded e 1 (fun l => f (listGet [] xs (l / 32)) (listGet none es (l / 32)) l) with uni := uniWrites y true 1 (scaleWord es) }

theorem uni_result_of_not_u (hu : e.o.hdr.u = false) (w : ℕ) (f : ℕ → ℕ) : (Writes.result e w f).uni = fun _ => none := by
  simp only [Writes.result, hu, Bool.false_and, uniWrites_off]

theorem quantise_done (he : Entered s e) (hd : e.dstFits) (hu : e.o.hdr.u = false) (hb : ∀ n, e.o.b = .v n → n = 255) (perm : ℕ → ℕ) (maxf : ℕ)
    (f : List Sys2Proof.Num → Option ℕ → ℕ → ℕ) : DoneNext s e (Writes.quantised e e.o.b perm maxf f) (e.quantise perm maxf f) :=
  ((wrote_result he hd 1 _).draw.uniform (uni_result_of_not_u hu 1 _) hb 1 _).advance he

end Uniform

section Blocks
variable {i : Instr} {s : State} {c e : Ctx} {x : Enc} {o : Ops} {n : ℕ}

/-- Operand B as a uniform register, or the register that discards. -/
theorem uniformB_of_issues (h : Issues i s c e) (hx : i.enc = some x) (hb : x.shape.b = .sdst n) (k : BitVec 8) (hk : e.o.b = .v k) : k = 255 := by
  have hrole := roleOk_b_of_fieldReject (fieldReject_of_issues h hx)
  rw [hb, ← (ops_of_issues h hx).2, hk] at hrole
  simp only [roleOk, sdstOk, Bool.and_eq_true, beq_iff_eq] at hrole
  exact hrole.1

theorem quantise_completes {own : Ctx → Option ℕ} {perm : Ctx → ℕ → ℕ} {maxf : ℕ} {f : Ctx → List Sys2Proof.Num → Option ℕ → ℕ → ℕ}
    (hexec : exec i s = perform i own noPriv (fun c => c.quantise (perm c) maxf (f c)) s) (h : Issues i s c e) (hx : i.enc = some x) (ho : own c = none)
    (hd : x.shape.d = .dst 1) (hb : x.shape.b = .sdst 1) (hu : x.shape.uOk = false) : Completes i s e (Writes.quantised e x.o.b (perm e) maxf (f e)) := by
  rw [← (ops_of_issues h hx).2]
  exact completes_of_perform hexec h ho rfl
    (quantise_done (issues_entered h) (dstFits_of_issues h hx hd) (u_of_issues h hx hu) (uniformB_of_issues h hx hb) (perm e) maxf (f e))

/-- The permutation of CVTB: its mould slot's, or none (R169). -/
def Ctx.cvtbPerm (c : Ctx) : ℕ → ℕ := match c.cvtbSlot with | some m => (c.quarter.slot m).entry | none => fun i => i

/-- A lane's word of CVTB: its element over the block's scale, or NaN where the block has none (R169). -/
def Ctx.cvtbWord (c : Ctx) (dst : B8) (xs : List Sys2Proof.Num) (k : Option ℕ) (l : ℕ) : ℕ :=
  match k with
  | none => (b8FF dst).nan
  | some k => ((b8FF dst).round (c.rctx l) ((listGet (.zero false) xs (l % 32)).scale (127 - (k : Int)))).1

theorem cvtb_completes (dst : B8) (h : Issues (.cvtb dst o) s c e) (hvalid : ∀ m, c.cvtbSlot = some m → (c.quarter.slot m).valid = true) :
    Completes (.cvtb dst o) s e (Writes.quantised e o.b e.cvtbPerm (b8Max dst) (e.cvtbWord dst)) := by
  refine quantise_completes (perm := Ctx.cvtbPerm) (f := fun c => c.cvtbWord dst) (exec_cvtb o s dst) h rfl ?_ (shape_d_of_row rfl rfl)
    (shape_b_of_row rfl rfl rfl rfl) (shape_uOk_of_row rfl rfl)
  cases hslot : c.cvtbSlot with
  | none => rfl
  | some m => exact if_pos (hvalid m hslot)

theorem cvtb_invalid (dst : B8) (h : Issues (.cvtb dst o) s c e) {m : ℕ} (hslot : c.cvtbSlot = some m) (hinvalid : (c.quarter.slot m).valid = false) :
    exec (.cvtb dst o) s = .next (c.trap ⟨.ill, 9⟩) := by
  refine (exec_cvtb o s dst).trans (perform_ill_of_issues _ _ h ?_)
  rw [hslot]
  exact if_neg (by rw [hinvalid]; decide)

theorem cvtn_completes (h : Issues (.cvtn o) s c e) :
    Completes (.cvtn o) s e (Writes.quantised e o.b (fun i => i) 127 fun xs k l => planeWord (e.nested (l / 32) xs k) (l % 32)) :=
  quantise_completes (perm := fun _ i => i) (f := fun c xs k l => planeWord (c.nested (l / 32) xs k) (l % 32)) (exec_cvtn o s) h rfl rfl
    (shape_d_of_row rfl rfl) (shape_b_of_row rfl rfl rfl rfl) (shape_uOk_of_row rfl rfl)

end Blocks

/-! ### CVT and CVTX (R166, R167, R171) -/

section Conversions
variable {s : State} {c e : Ctx} {o : Ops}

/-- A lane's words of CVT: the source's value in the target's format. -/
def Ctx.cvtWords (c : Ctx) (src dst : VFmt) (x : Sel) (l : ℕ) : ℕ := cvtWrite (c.rctx l) dst (cvtRead c.ftz src (c.src x true false src.words l))

theorem cvt_completes (src dst : VFmt) (h : Issues (.cvt src dst o) s c e) :
    Completes (.cvt src dst o) s e
      (if cvtExact src dst then Writes.result e dst.words (e.cvtWords src dst o.a) else Writes.rounded e dst.words (e.cvtWords src dst o.a)) := by
  have hd : (Enc.shape ⟨0x70, 16 * src.code + dst.code, o⟩).d = .dst (vfmtWords ((16 * src.code + dst.code) % 16)) := shape_d_of_row rfl rfl
  have hexec := exec_cvt o s src dst
  unfold execCvt at hexec
  dsimp only at hexec
  cases hexact : cvtExact src dst with
  | true =>
    simp only [hexact, if_true] at hexec ⊢
    exact result_completes (f := fun c => c.cvtWords src dst o.a) hexec h rfl hd
  | false =>
    simp only [hexact, Bool.false_eq_true, if_false] at hexec ⊢
    exact rounded_completes (f := fun c => c.cvtWords src dst o.a) hexec h rfl hd

/-- A lane's element under CVTX, before its block's scale. -/
def Ctx.cvtxElem (c : Ctx) (src : XFmt) (x : Sel) (l : ℕ) : Sys2Proof.Num :=
  match src with
  | .e4m3 => FF.e4m3.val (c.val x 1 l % 256)
  | .e5m2 => FF.e5m2.val (c.val x 1 l % 256)
  | .ni => .ofInt (c.nestedElem l)

theorem cvtx_completes (src : XFmt) (h : Issues (.cvtx src o) s c e) :
    Completes (.cvtx src o) s e (Writes.result e 1 fun l =>
      (FF.f32.round { RCtx.rne with ftz := e.ftz } ((e.cvtxElem src o.a l).mul (e8m0 (bits (e.val o.b 1 l) (8 * (l / 32)) 8)))).1) :=
  result_completes (f := fun c l =>
      (FF.f32.round { RCtx.rne with ftz := c.ftz } ((c.cvtxElem src o.a l).mul (e8m0 (bits (c.val o.b 1 l) (8 * (l / 32)) 8)))).1)
    (exec_cvtx o s src) h rfl (shape_d_of_row (ro := .dst 1) rfl rfl)

end Conversions

/-- Settles O17: each conversion by the lemma on it. That CVTB and CVTN write the scales where no lane acts is the model's own choice (log 36). -/
theorem conversions : Obligations.Conversions := by
  intro s c e o
  exact ⟨fun src dst h => cvt_completes src dst h, fun dst h hvalid => cvtb_completes dst h hvalid,
    fun dst h m hslot hinvalid => cvtb_invalid dst h hslot hinvalid, cvtn_completes, fun src h => cvtx_completes src h⟩

end Sys2Proof.Machine
